-- ==== Sys2Proof/Word.lean ====
section
/-! DEFINITION. The word types every other file uses, and the shape of a sparse table. -/

namespace Sys2Proof

/-- One byte. -/
abbrev Byte := BitVec 8

/-- One 64-bit word: a hod word, a mason register, a user-cycle number (R6). -/
abbrev Word := BitVec 64

/-- One brick row: 512 configuration bits (R28). -/
abbrev Row := BitVec 512

/-- One 128-byte line of design memory (R165). -/
abbrev Line := BitVec 1024

/-- A sparse table: (key, value) pairs, keys strictly rising. Each table has ONE value that an
unlisted key reads as, and never lists it (`mapGet`, `mapPut` in Machine/Ops.lean). -/
abbrev SMap (α : Type) := List (Nat × α)

end Sys2Proof
end

