-- ==== Sys2Proof/Config.lean ====
section
/-! DEFINITION. What the spec leaves open: constants without a body, so that nothing proved can rest on a
value of them. -/

namespace Sys2Proof

/-- DESIGN CHOICE (log 1): a value the spec leaves open, `w` bits wide. The step applies it to the
counter `State.freeCtr` and advances the counter, so that each use is a value of its own. -/
opaque Config.freeBits (w : Nat) (n : Nat) : BitVec w

/-- The n-th draw of the true random number generator (R198, R341): no rule gives its value.
Bits [511:0] serve as the two XTS keys, bits [767:512] as the MAC key (log 2). -/
opaque Config.trng (n : Nat) : BitVec 768

/-- Symbol n of the SSPRQ test pattern of IEEE 802.3, which the spec names and does not print (log 132). -/
opaque Config.ssprq (n : Nat) : BitVec 2

end Sys2Proof
end

