-- ==== Sys2Proof/Types.lean ====
section
/-! DEFINITION. The records and alternatives that operands and state are made of, one per table or
structure of the spec. -/

namespace Sys2Proof

/-! ## Commands from the host -/

/-- What a mailbox request carries beside its payload (Table 15-5): the issuing function (0 PF0,
1–8 VFn), its mailbox, the tag and the job byte. -/
structure Hdr where
  fn  : Nat := 0
  mbx : Nat := 0
  tag : BitVec 16 := 0
  job : Nat := 0xFF
  deriving DecidableEq, Repr

/-- The host buffers of a bulk command (R456): the lengths the list gives, what a device read of
them returns, and the index of a buffer whose host access fails, if one does. -/
structure Bulk where
  lens : List Nat := []
  data : List Byte := []
  bad  : Option Nat := none
  deriving DecidableEq, Repr

/-- Status codes (Table 15-10). -/
inductive St where
  | ok | accepted | badOpcode | badLength | badParam | badJob | noRights | busy | wrongState
  | noResource | imageWrongPart | imageTruncated | imageCrc | imageContention | imageTooLarge
  | hwFault | timeout
  deriving DecidableEq, Repr

/-- Which functions a command is open to (Table 15-9). -/
inductive From where
  | any | pf0 | both
  deriving DecidableEq, Repr

/-! ## Upsets -/

/-- Bits that the environment has changed in a memory since it was last looked at. Rows whose work
is to find such errors take them as operands (log 5). -/
inductive Upset where
  /-- active register row: tile, brick, row -/
  | active  (t b r : Nat) (m : Row)
  /-- shadow register row -/
  | shadow  (t b r : Nat) (m : Row)
  /-- course-plane row: tile, course, brick, row -/
  | plane   (t c b r : Nat) (m : Row)
  /-- signature store entry: tile, brick, entry -/
  | store   (t b e : Nat) (m : BitVec 39)
  /-- one copy (0–2) of a trowel controller register -/
  | trowel  (t copy : Nat) (m : BitVec 32)
  /-- slab row: tile, slab, row -/
  | slab    (t s r : Nat) (m : BitVec 72)
  /-- bed-memory word of a near frame, by word number -/
  | near    (w : Nat) (m : BitVec 72)
  /-- far line: byte positions 0–127 ciphertext, 128–131 tag, 132–135 check (R196) -/
  | far     (line : Nat) (errs : List (Nat × Byte))
  /-- stored word `i` of the item that hod `h` delivers next -/
  | hodWord (h i : Nat) (m : BitVec 71)
  /-- Page Placement Table entry -/
  | ppt     (page : Nat) (m : BitVec 72)
  /-- mason scratch word, by local byte address / 8 -/
  | scratch (m w : Nat) (x : BitVec 72)
  /-- counter root -/
  | root    (i : Nat) (m : BitVec 55)
  /-- page node -/
  | pageNode (p : Nat) (m : BitVec 22)
  /-- joint forwarding entry: 32 data and 7 check bits (R343, R538) -/
  | fwd (stream : Nat) (m : BitVec 39)
  /-- routing entry of a router and bank: 3 data and 4 check bits (R392, R538) -/
  | route (router bank entry : Nat) (m : BitVec 7)
  deriving DecidableEq, Repr

/-! ## Fabric -/

/-- Table 3-4, STATE. -/
inductive JobState where
  | empty | loading | releasing | running | heldCmd | heldFault | stopped
  deriving DecidableEq, Repr

/-- The sequencer descriptor (Table 3-3). -/
structure Desc where
  courseCount : Nat := 0
  static      : Bool := false
  patLen      : Nat := 0
  minPeriod   : Nat := 0
  fabMax      : Nat := 0
  intraMask   : BitVec 32 := 0
  depth       : List Nat := []
  budget      : List Nat := []
  pattern     : List (BitVec 16) := []
  deriving DecidableEq, Repr

/-- One outbound tile link of a virtual tile (Table 4-4). -/
structure Link where
  srcBrick : Nat
  srcSeg   : Nat
  dstVt    : Nat
  dstBrick : Nat
  dstSeg   : Nat
  deriving DecidableEq, Repr

/-- What a memory port presents to the fabric (Table 2-9). -/
structure MemPres where
  data   : BitVec 512 := 0
  valid  : Bool := false
  poison : Bool := false
  deriving DecidableEq, Repr

/-- One hod word as a consumer receives it: data, marks, poison and priority. -/
structure PortWord where
  data   : Word := 0
  start  : Bool := false
  last   : Bool := false
  poison : Bool := false
  prio   : Nat := 0
  deriving DecidableEq, Repr

/-- What a hod port presents to the fabric (Table 2-9); unbound ports show empty 1, full 0
(R261). -/
structure HodPres where
  word  : Option PortWord := none
  empty : Bool := true
  full  : Bool := false
  deriving DecidableEq, Repr

/-- What the sequencer's sample fixes for a hod port (R92). -/
structure SetAside where
  word  : Option PortWord := none
  empty : Bool := true
  full  : Bool := false
  deriving DecidableEq, Repr

/-- A physical tile: the face-die and course-die memories of its 512 bricks, its slabs, ports and
trowel. -/
structure Tile where
  /-- course planes: key (course × 512 + brick) × 16 + row; unlisted rows are zero -/
  planes    : SMap Row := []
  /-- the gain cells have lost their charge (R417): rows read as no stated value -/
  planesLost : Bool := false
  /-- shadow register, key brick × 16 + row (R75) -/
  shadow    : SMap Row := []
  /-- active register, key brick × 16 + row (R28) -/
  active    : SMap Row := []
  /-- configuration that the active register held at the end of each course of this user cycle, key as
  for `planes`: what the commit uses (R33, R66; log 16) -/
  ran       : SMap Row := []
  /-- the course-die bank's gw_claim bits, brick × 32 + cell: those taken from the rows on preload, and
  those applied at the swap (R41) -/
  gwNext    : List Nat := []
  gwNow     : List Nat := []
  /-- the trowel's last verdict left swap enables set, but for the bricks listed -/
  swapOn    : Bool := false
  swapClear : List Nat := []
  /-- signature store, key brick × 320 + entry (Table 5-1); unlisted: sig 0, valid check bits -/
  store     : SMap (BitVec 39) := []
  /-- corrected entries waiting to be written back (R156) -/
  storeWb   : List (Nat × BitVec 39) := []
  /-- next entry of the store sweep (R158) -/
  sweepPos  : Nat := 0
  /-- state file, key (brick × 32 + cell) × 32 + course; bit 0 ff0, bit 1 ff1, bit 2 hold (R30) -/
  ff        : SMap (BitVec 3) := []
  /-- slab rows, key slab × 512 + row -/
  slabs     : SMap (BitVec 72) := []
  /-- slab settings: [1:0] width_a, [3:2] width_b, [4] ecc (Table 4-6) -/
  slabCfg   : SMap (BitVec 5) := []
  /-- slab read outputs as the next evaluation sees them, key slab × 2 + port -/
  slabOut   : SMap (BitVec 72) := []
  memOut    : SMap MemPres := []
  hodOut    : SMap HodPres := []
  aside     : SMap SetAside := []
  /-- inbound joint bits (Table 2-9) -/
  jointIn   : BitVec 192 := 0
  /-- FAB_TILE_FAULT (Table 2-12) -/
  fault     : BitVec 32 := 0
  /-- TRW_CTL, three voted copies, and Belic firmware's record of it (Table 5-3, R159) -/
  trw0      : BitVec 32 := 0
  trw1      : BitVec 32 := 0
  trw2      : BitVec 32 := 0
  trwRecord : BitVec 32 := 0
  /-- TRW_STATUS (Table 5-4) -/
  trwStatus : BitVec 32 := 0
  /-- time of the trowel's last stop, and whether that stop repeated one within 1 s (R161) -/
  lastStop  : Option Nat := none
  stopAgain : Bool := false
  /-- user cycle in which EV_SIG_MISMATCH, EV_FRAME_FAULT was last raised (R145, R63) -/
  sigEvCyc  : Option Word := none
  frameEvCyc : Option Word := none
  /-- frame faults: brick and time in µs (R488) -/
  frameLog  : List (Nat × Nat) := []
  links     : List Link := []
  reserved  : Bool := false
  retired   : Bool := false
  underTest : Bool := false
  /-- a test aborted: the tile waits for clearing (R496) -/
  mustClear : Bool := false
  /-- rows are written and the tile runs holding sweeps; when their timer last started (R97) -/
  holding   : Bool := false
  holdUs    : Nat := 0
  deriving DecidableEq, Repr

/-- A Tile Map entry (Table 1-4) with the job's virtual tile it binds (log 12); 384 for none. -/
structure TmEntry where
  phys   : Nat := 0
  valid  : Bool := false
  job    : Nat := 0
  moving : Bool := false
  vt     : Nat := 384
  deriving DecidableEq, Repr

/-! ## Design memory -/

/-- The RSP status that a design-memory access ends with (Table 12-3). -/
inductive AccStatus where
  | ok | noRights | unmapped | lost | quarantined | tagFailed | uncorrectable | listed | fenced
  deriving DecidableEq, Repr

/-- A request sampled by a tile memory port (R172). -/
structure MemReq where
  vt      : Nat
  port    : Nat
  /-- number of the course end that sampled it, and the swap its budget names (R90) -/
  sampled : Nat
  nominal : Nat
  write   : Bool
  /-- 64-byte unit: design address bits [36:6] -/
  unit    : Nat
  data    : BitVec 512
  be      : BitVec 64
  /-- the memory has acted on it: status and read data -/
  result  : Option (AccStatus × BitVec 512) := none
  /-- the reply has reached the port -/
  arrived : Bool := false
  deriving DecidableEq, Repr

/-- Table 6-4. -/
inductive PageState where
  | unbacked | far | near | migrating | lost | quarantined
  deriving DecidableEq, Repr

/-- A Page Placement Table entry (Table 6-3). -/
structure Ppt where
  state     : PageState := .unbacked
  job       : Nat := 0
  pin       : Bool := false
  exclude   : Bool := false
  /-- 0 promotion, 1 demotion -/
  dir       : Bool := false
  frozen    : Bool := false
  dirty     : Bool := false
  farFrame  : Nat := 0
  nearFrame : Nat := 0
  heat      : Nat := 0
  qlines    : Nat := 0
  deriving DecidableEq, Repr

/-- Belic firmware's mirror of a mapped page (R178). -/
structure Mirror where
  job      : Nat := 0
  pin      : Bool := false
  exclude  : Bool := false
  farFrame : Nat := 0
  lost     : Bool := false
  quar     : Bool := false
  deriving DecidableEq, Repr

/-- A far line as stored: what was last encrypted there, under which key draw, and every byte in
which the stored 136 bytes differ from that encoding (log 4). -/
structure FarLine where
  plain : Line := 0
  key   : Nat := 0
  errs  : List (Nat × Byte) := []
  deriving DecidableEq, Repr

/-- Why a line is on the quarantine list (R207). -/
inductive QReason where
  | tag | farUncorrectable | nearUncorrectable
  deriving DecidableEq, Repr

structure QEntry where
  line   : Nat
  job    : Nat
  reason : QReason
  cycle  : Word
  deriving DecidableEq, Repr

/-- Placement knobs (Table 6-5). -/
structure Knobs where
  enable     : Nat := 1
  decay      : Nat := 3
  promoteMin : Nat := 64
  hysteresis : Nat := 32
  maxMoves   : Nat := 16
  quota      : List Nat := [992, 992, 992, 992, 992, 992, 992, 992]
  pinLimit   : Nat := 512
  deriving DecidableEq, Repr

/-- LP5X system regions in MiB (Table 6-6). -/
structure Regions where
  golden  : Nat := 4096
  slotA   : Nat := 512
  slotB   : Nat := 512
  journal : Nat := 8192
  undo    : Nat := 8192
  capture : Nat := 4096
  scratch : Nat := 256
  deriving DecidableEq, Repr

/-- A DMA descriptor (Table 6-7), the host bytes it moves when dir is 0, and whether its host
access succeeds. -/
structure DmaDesc where
  host   : BitVec 64 := 0
  addr   : Nat := 0
  len    : Nat := 0
  toHost : Bool := false
  irq    : Bool := false
  data   : List Byte := []
  deriving DecidableEq, Repr

/-- A BAR4 access that waits for a channel to finish its training (R223). -/
inductive HostAcc where
  | read (fn addr len : Nat)
  | write (fn addr : Nat) (data : List Byte)
  deriving DecidableEq, Repr

/-- A host DMA channel (Table 15-8). -/
structure DmaChan where
  fn       : Option Nat := none
  base     : BitVec 64 := 0
  log2     : Nat := 4
  doorbell : Nat := 0
  next     : Nat := 0
  stopped  : Bool := false
  /-- descriptor taken, its status so far, MSI-X wanted -/
  cur      : Option (Nat × Bool) := none
  deriving DecidableEq, Repr

/-! ## Hods, pallets, masons -/

/-- A producer or a consumer of a hod (R248, R255). -/
inductive Agent where
  | tile (job vt port : Nat)
  | host (fn : Nat)
  | mason (m : Nat)
  | remote (ordinal : Nat)
  | belic
  deriving DecidableEq, Repr

/-- A complete item; its words as stored (Table 8-1). -/
structure Item where
  prio   : Nat := 0
  words  : List (BitVec 71) := []
  by_    : Agent := .belic
  /-- SCHED cycle at which it became complete (R279) -/
  doneAt : Nat := 0
  /-- words in the whole item -/
  total  : Nat := 0
  /-- place among the items that became complete on the device (R267) -/
  order  : Nat := 0
  deriving DecidableEq, Repr

structure OpenItem where
  by_   : Agent
  prio  : Nat
  words : List (BitVec 71)
  deriving DecidableEq, Repr

/-- The fields of CMD_HOD_CREATE (Table 8-2 less valid, job and base). -/
structure HodParams where
  sizeLog2  : Nat := 4
  prodKind  : Nat := 0
  consKind  : Nat := 0
  palletSrc : Bool := false
  blocking  : Bool := false
  prodEp    : Nat := 0
  consEp    : Nat := 0
  highWm    : Nat := 1
  lowWm     : Nat := 0
  msix      : Nat := 0
  deriving DecidableEq, Repr

/-- A hod: descriptor (Table 8-2), contents, flags (Table 8-8), window registers and statistics
(R279). -/
structure Hod where
  valid   : Bool := false
  job     : Nat := 0
  p       : HodParams := {}
  base    : Nat := 0
  /-- complete items that no consumer holds, in the order they became complete -/
  items   : List Item := []
  /-- items partly read, with the consumer that reads each -/
  part    : List (Agent × Item) := []
  openIt  : List OpenItem := []
  /-- producers whose words are ignored up to the next end mark (R249) -/
  ignoring : List Agent := []
  overrun : Bool := false
  flushed : Bool := false
  poisonSeen : Bool := false
  lastResult : Nat := 0
  pushPrio : Nat := 0
  popTag   : BitVec 7 := 0
  maxDepth : Nat := 0
  itemCount : Nat := 0
  sumWait  : Nat := 0
  maxWait  : Nat := 0
  discards : Nat := 0
  poisons  : Nat := 0
  /-- place in `items` of the item whose start word is set aside for a tile port (R92) -/
  aside     : Option Nat := none
  /-- items stored since the journal epoch began, from any producer (R371) and from tile ports and
  masons (R377) -/
  arrivals : Nat := 0
  ownItems : Nat := 0
  deriving DecidableEq, Repr

/-- A pallet (Table 8-10) with the handler offset of R266. -/
structure Slot where
  w0 : Word
  w1 : Word
  w2 : Word
  w3 : Word
  handler : Nat
  deriving DecidableEq, Repr

structure Flow where
  next     : Nat := 0
  inflight : List Nat := []
  deriving DecidableEq, Repr

/-- A release-buffer entry (R276): one ordered output item with its hod, or one completion. -/
inductive RbKind where
  | item (hod prio mason : Nat) (words : List Word) (complete : Bool)
  | done
  deriving DecidableEq, Repr

structure RbEntry where
  job  : Nat
  flow : Nat
  seq  : Nat
  kind : RbKind
  deriving DecidableEq, Repr

/-- Table 9-7, STATE. -/
inductive MState where
  | off | reset | running | waiting | paused | halted | failed
  deriving DecidableEq, Repr

/-- A logical mason: assignment, RV64 registers and CSRs, hod and pallet state, scratch. -/
structure Mason where
  st       : MState := .off
  job      : Option Nat := none
  safe     : Bool := false
  entry    : Nat := 0
  loaded   : Bool := false
  /-- x1–x31; x0 reads zero -/
  regs     : SMap Word := []
  pc       : Word := 0
  mtvec    : Word := 0
  mepc     : Word := 0
  mcause   : Word := 0
  mtval    : Word := 0
  mscratch : Word := 0
  /-- mstatus.MIE and MPIE -/
  mie      : Bool := false
  mpie     : Bool := false
  trapped  : Bool := false
  reason   : Nat := 0
  /-- last-pop tag (Table 9-6, [28:22]) -/
  popTag   : BitVec 7 := 0
  cur      : Option Slot := none
  slots    : List Slot := []
  /-- halted in hod.wait: rd and the four watch fields -/
  wait     : Option (Nat × Word) := none
  /-- a watermark signal for a watched hod has come (bit 5 of hod.wait) -/
  wmSignal : Bool := false
  pausePending : Bool := false
  /-- state to return to on resume from STATE 4 -/
  resumeTo : MState := .running
  /-- a pal.pusho that waits for a release-buffer entry: hod, prio, data, end mark, rd -/
  pusho    : Option (Nat × Nat × Word × Bool × Nat) := none
  /-- scratch words with check bits, key local address / 8 -/
  scratch  : SMap (BitVec 72) := []
  /-- reservation of LR, a local byte address -/
  resv     : Option Nat := none
  /-- physical core bound to this position -/
  phys     : Nat := 0
  deriving DecidableEq, Repr

/-- A mason group (R282–R285). -/
structure MGroup where
  on        : Bool := false
  clearing  : Bool := false
  /-- core 0–16 that no logical position uses, or none -/
  spare     : Option Nat := some 16
  /-- ramp divider exponent: 0, 1, 2 for 2,000, 1,000, 500 MHz, and the target of a ramp -/
  div       : Nat := 0
  target    : Nat := 0
  deriving DecidableEq, Repr

/-- A mason memory instruction. `f3` is the funct3 of the base set: 0–3 signed, 4–6 unsigned; `c` marks
a 2-byte encoding. -/
inductive MemOp where
  | fetch
  | load  (f3 rd rs1 : Nat) (imm : BitVec 12) (c : Bool)
  | store (f3 rs2 rs1 : Nat) (imm : BitVec 12) (c : Bool)
  | lr    (dbl : Bool) (rd rs1 : Nat)
  | sc    (dbl : Bool) (rd rs1 rs2 : Nat)
  /-- the atomic memory operations by funct5: 1 swap, 0 add, 4 xor, 12 and, 8 or, 16 min, 20 max,
  24 minu, 28 maxu -/
  | amo   (dbl : Bool) (f5 rd rs1 rs2 : Nat)
  deriving DecidableEq, Repr

/-! ## Larey and arrays -/

/-- Table 10-3, STATE. -/
inductive PState where
  | disabled | training | locking | init | up | retrain | down | test | chain
  deriving DecidableEq, Repr

/-- A 64-byte flit with the sequence number it was sent under, and how often it has been resent without
acknowledgement (R338). -/
structure Flit where
  seq : Nat
  cls : Nat
  bytes : List Byte
  resends : Nat := 0
  deriving DecidableEq, Repr

/-- Joint forwarding entry (Table 10-10). -/
structure Fwd where
  valid : Bool := false
  out   : BitVec 12 := 0
  loc   : Bool := false
  job   : Nat := 0
  deriving DecidableEq, Repr

/-- A message that the link layer has delivered: class, kind, body with its envelope, the flits it occupies in
the receive buffer (R333), and for class 0 the forwarding entry as it stood when its first flit arrived
(R345). -/
structure RxMsg where
  cls   : Nat
  kind  : Nat
  body  : List Byte
  flits : Nat
  fwd   : Fwd := {}
  deriving DecidableEq, Repr

/-- A coefficient request (R319). -/
inductive TapReq where
  | increment | decrement | hold | preset
  deriving DecidableEq, Repr

/-- Power of one lane direction (R320). -/
inductive LPower where
  | active | quiet | off
  deriving DecidableEq, Repr

/-- A physical Larey lane: taps, test block, power (Tables 10-4 and 10-6). -/
structure Lane where
  taps    : BitVec 32 := 0x8000
  test    : BitVec 32 := 0x01400100
  word    : BitVec 128 := 0
  rxword  : BitVec 128 := 0
  /-- symbols by which SLIP has moved the word boundary -/
  slips   : Nat := 0
  txPower : LPower := .active
  rxPower : LPower := .active
  signal  : Bool := false
  ready   : Bool := false
  locked  : Bool := false
  /-- the receive pair is inverted, as training has found; the receiver corrects it (R314) -/
  inverted : Bool := false
  /-- level last sent and last received: the memory of the precoder and its decoder (R317) -/
  txLast  : BitVec 2 := 0
  rxLast  : BitVec 2 := 0
  /-- symbols received since the last whole receive word (R326) -/
  rxAcc   : List (BitVec 2) := []
  /-- pattern generator: latest bits, and place in the FIXED word -/
  genBits : BitVec 31 := 0x7FFFFFFF
  genPos  : Nat := 0
  /-- checker: latest bits, place in the FIXED word, consecutive good symbols (R325) -/
  chkBits : BitVec 31 := 0
  chkPos  : Nat := 0
  chkRun  : Nat := 0
  /-- symbols of a burst still to be inverted, and symbols sent since mode 3 last inverted one -/
  injLeft : Nat := 0
  injGap  : Nat := 0
  injOn   : Bool := false
  /-- INJ_GO or SLIP has been written and not yet carried out (R325, R326) -/
  injDue  : Bool := false
  slipDue : Bool := false
  /-- times (µs) at which the lane triggered a retrain by itself (R340) -/
  trig    : List Nat := []
  deriving DecidableEq, Repr

/-- The codeword that a lane received last: its number, and what the decoder left of its symbol errors; none when
it could not be corrected (R329). -/
structure RxCode where
  num  : Nat
  left : Option (List (Nat × BitVec 10))
  deriving DecidableEq, Repr

/-- A Larey port: configuration (Table 10-2), status (Table 10-3), flow control and retry. -/
structure Port where
  width    : Nat := 8
  minWidth : Nat := 1
  spareEn  : Bool := true
  enable   : Bool := true
  txQuiet  : Bool := false
  quietIdle : Nat := 10
  precode  : Bool := true
  st       : PState := .disabled
  actWidth : Nat := 0
  laneMask : BitVec 9 := 0
  failed   : BitVec 9 := 0
  peerOrd  : Nat := 0
  peerOrdV : Bool := false
  peerPort : Nat := 0
  peerGen  : BitVec 16 := 0
  /-- the peer's ordinal, its validity and generation have been held before (R341) -/
  peerHeld : Bool := false
  gen      : BitVec 16 := 0
  /-- the first INIT after the port's own reset has not come yet -/
  fresh    : Bool := true
  txSeq    : Nat := 0
  replay   : List Flit := []
  /-- the port has left UP and not come back, for LINK_TIMEOUT (R342) -/
  leftUp   : Bool := false
  /-- next flit slot, and by logical lane the slots of the codeword being filled, with their block flags
  (R327, R328) -/
  txSlot   : Nat := 0
  fill     : SMap (List (Bool × List Byte)) := []
  /-- by logical lane, the codeword received last -/
  rxCode   : SMap (Option RxCode) := []
  /-- queued flits by class 0–2, with class -/
  queue    : List (Nat × List Byte) := []
  credit0  : Nat := 512
  credit1  : Nat := 512
  credit2  : Nat := 256
  /-- freed counts last seen from the peer, per class -/
  seen0    : Nat := 0
  seen1    : Nat := 0
  seen2    : Nat := 0
  /-- flits freed here, per class: what this end returns in ACK and NAK -/
  freed0   : Nat := 0
  freed1   : Nat := 0
  freed2   : Nat := 0
  /-- slots that class 1 and class 2 have been ready and passed over (R334) -/
  passed1  : Nat := 0
  passed2  : Nat := 0
  rxNext   : Nat := 0
  /-- time (µs) of the NAK that is outstanding (R337) -/
  nakAt    : Option Nat := none
  sinceAck : Nat := 0
  txAsleep : Bool := false
  rxAsleep : Bool := false
  /-- bodies of messages being received, per class -/
  asm0     : List Byte := []
  asm1     : List Byte := []
  asm2     : List Byte := []
  /-- flits of those bodies, per class, and the forwarding entry latched for the class 0 message -/
  asmFlits : List Nat := [0, 0, 0]
  asmFwd   : Fwd := {}
  /-- messages the link layer has delivered, in its receive buffers until they are taken (R333) -/
  inbox    : List RxMsg := []
  deriving DecidableEq, Repr

/-- INIT body (Table 10-9). -/
structure InitBody where
  ordinal : Nat := 0
  ordValid : Bool := false
  port    : Nat := 0
  width   : Nat := 8
  minWidth : Nat := 1
  spareEn : Bool := true
  precode : Bool := true
  chain   : Bool := false
  gen     : BitVec 16 := 0
  nextExp : Nat := 0
  deriving DecidableEq, Repr

/-- Envelope of a class 1 or 2 message (R331). -/
structure Env where
  dst  : Nat := 0
  hops : Nat := 1
  src  : Nat := 0
  deriving DecidableEq, Repr

/-- A joint frame (Table 11-3) with its envelope. -/
structure Frame where
  stream  : Nat := 0
  hops    : Nat := 1
  src     : Nat := 0
  cycleLo : BitVec 32 := 0
  intra   : Bool := false
  epoch   : BitVec 4 := 0
  slices  : List (BitVec 192) := []
  deriving DecidableEq, Repr

/-- Stream source entry (Table 11-1) and consumer entry (Table 11-2). -/
structure SrcEntry where
  valid     : Bool := false
  job       : Nat := 0
  intra     : Bool := false
  sendCourse : Nat := 0
  consumers : Nat := 1
  vts       : List Nat := []
  deriving DecidableEq, Repr

structure ConsEntry where
  valid : Bool := false
  recvCourse : Nat := 0
  mask  : BitVec 8 := 0
  vts   : List Nat := []
  deriving DecidableEq, Repr

inductive StreamEntry where
  | source (e : SrcEntry)
  | consumer (e : ConsEntry)
  deriving DecidableEq, Repr

/-- A frame waiting for its swap: extended cycle and slices (R361). -/
structure RxFrame where
  cycle  : Word
  slices : List (BitVec 192)
  deriving DecidableEq, Repr

/-- Run state of an originated stream and of a consumed stream. -/
structure SrcRun where
  sent   : Option Word := none
  tokens : List (Nat × Word) := []
  deriving DecidableEq, Repr

structure ConsRun where
  buf       : List RxFrame := []
  presented : Option Word := none
  tokened   : Option Word := none
  src       : Nat := 0
  deriving DecidableEq, Repr

/-! ## Checkpoints and the journal -/

/-- Journal record payloads (Table 11-8). -/
inductive JRec where
  | jntRx (stream : Nat) (intra : Bool) (epoch : BitVec 4) (slices : List (BitVec 192))
  | jntTx (stream : Nat) (intra : Bool) (epoch : BitVec 4) (slices : List (BitVec 192))
  | hodDeliver (vt port course hod : Nat) (w : PortWord)
  | hodFlags (vt port course : Nat) (empty full : Bool)
  | hodArrival (hod : Nat) (by_ : Agent) (prio : Nat) (words : List Word) (poison : BitVec 16)
      (index : Nat)
  | trig (v : BitVec 16)
  | reset (v : BitVec 7)
  | hostWrite (addr : Nat) (data : List Byte)
  | epochStart (k : Word)
  deriving DecidableEq, Repr

/-- A journal record: job, checkpoint cycle of its journal epoch, cycle and payload. -/
structure JEntry where
  job   : Nat
  epoch : Word
  cycle : Word
  body  : JRec
  deriving DecidableEq, Repr

/-- Undo record (Table 11-9): the 32 lines of a 4 KiB block as they stood at the cut. -/
structure Undo where
  block : Nat
  job   : Nat
  epoch : Word
  lines : List Line
  /-- byte of the undo-log region at which the record starts -/
  pos   : Nat := 0
  deriving DecidableEq, Repr

/-- Inputs that wait for a capture or a rollback to end (R366, Table 11-10 step 2). -/
inductive QInput where
  | item (hod : Nat) (by_ : Agent) (prio : Nat) (words : List Word) (poison : BitVec 16)
  | write (addr : Nat) (data : List Byte)
  deriving DecidableEq, Repr

/-- The tile part of a checkpoint (Table 11-4). -/
structure TileSnap where
  vt      : Nat
  ff      : SMap (BitVec 3)
  slabs   : SMap (BitVec 72)
  slabCfg : SMap (BitVec 5)
  slabOut : SMap (BitVec 72)
  memOut  : SMap MemPres
  hodOut  : SMap HodPres
  jointIn : BitVec 192
  deriving DecidableEq, Repr

/-- A checkpoint of one job (Table 11-4) with its area header (Table 11-5, step 6). -/
structure Ckpt where
  k        : Word
  imageCrc : BitVec 32
  tiles    : List TileSnap
  memReqs  : List MemReq
  release  : Nat
  resets   : BitVec 7
  resetAt  : List (Word × BitVec 7)
  trig     : BitVec 16
  outHold  : Bool
  weHold   : Bool
  hods     : List (Nat × Hod)
  masons   : List (Nat × Mason)
  flows    : List (Nat × Flow)
  rb       : List RbEntry
  /-- the whole Page Placement Table (R187) -/
  ppt      : SMap Ppt
  srcRuns  : List (Nat × SrcRun)
  consRuns : List (Nat × ConsRun)
  deriving DecidableEq, Repr

/-- An exported checkpoint with the job's pages in plaintext (R382). -/
structure Export where
  ckpt  : Ckpt
  pages : List Nat
  lines : SMap Line
  deriving DecidableEq, Repr

/-! ## Capture -/

/-- Tap entry (Table 17-3). -/
structure Tap where
  vt : Nat
  brick : Nat
  cell : Nat
  course : Nat
  bit : Nat
  deriving DecidableEq, Repr

structure Cmp where
  window : Nat
  value  : Word
  mask   : Word
  deriving DecidableEq, Repr

/-- CMD_CAPTURE_CFG parameters (R517). -/
structure CapCfg where
  taps     : List Tap := []
  ringBytes : Nat := 0
  pre      : Nat := 0
  post     : Nat := 0
  every    : Nat := 1
  n        : Nat := 1
  cmps     : List Cmp := []
  trigMask : BitVec 16 := 0
  cmdTrig  : Bool := false
  deriving DecidableEq, Repr

inductive CapState where
  | idle | armed | triggered | done
  deriving DecidableEq, Repr

/-- Capture record (Table 17-4). -/
structure CapRec where
  trigger : Bool
  replay  : Bool
  gap     : Bool
  cycle   : Word
  dropped : Nat
  src     : BitVec 6
  taps    : List Bool
  deriving DecidableEq, Repr

structure Capture where
  st      : CapState := .idle
  cfg     : CapCfg := {}
  matches_ : Nat := 0
  cmdAt   : Option Word := none
  left    : Nat := 0
  records : List CapRec := []
  dropped : Nat := 0
  /-- records written to the job's share of the ring since it was armed -/
  written : Nat := 0
  deriving DecidableEq, Repr

/-! ## Spares and firmware -/

/-- Soft repair map entry (Table 16-2). -/
structure Repair where
  kind  : Nat := 0
  loc   : Nat := 0
  spare : Nat := 0
  /-- 0 soft, 1 fused, 2 released -/
  state : Nat := 0
  det   : Nat := 0
  first : Nat := 0
  last  : Nat := 0
  /-- one more than the session whose first sweep it last passed with no detection since; 0 for none
  (R485) -/
  passed : Nat := 0
  deriving DecidableEq, Repr

/-- A region that tests run on (Table 16-6). -/
inductive Region where
  | tile (t : Nat) | group (g : Nat) | router (r : Nat)
  deriving DecidableEq, Repr

/-- What the tests of a region find (Table 16-6, R489). -/
inductive TestFail where
  | rowBond (brick bond : Nat) | expressBond (brick bond : Nat) | via (v : Nat)
  | courseRow (brick row : Nat) | slabRow (slab row : Nat) | slabCol (slab col : Nat)
  | logic | masonCore (core : Nat) | routerBad
  deriving DecidableEq, Repr

/-- A firmware image (Table 15-14). -/
structure FwImage where
  magic    : BitVec 32 := 0
  version  : BitVec 32 := 0
  secVer   : Nat := 0
  minStep  : Nat := 0
  bodyLen  : Nat := 0
  key      : List Byte := []
  sig      : List Byte := []
  signed   : List Byte := []
  deriving DecidableEq, Repr

/-- An event record (Table 15-11), whole: its payload of up to 64 bytes. -/
structure Ev where
  code    : Nat
  job     : Nat
  seq     : Nat
  timeUs  : Nat
  payload : List Byte
  deriving DecidableEq, Repr

/-- What the device drives outward: host memory, MSI-X, completions, links, SMBus, JTAG. -/
inductive Out where
  | msix (fn vector : Nat)
  | ring (fn index : Nat) (record : List Byte)
  /-- a PCIe completion: 0 SC, 1 UR, 2 CA -/
  | cpl (status : Nat) (data : List Byte)
  /-- bytes written to host buffers for a function -/
  | host (fn : Nat) (data : List Byte)
  /-- bytes that a DMA channel writes at a host address (R192) -/
  | dma (fn addr : Nat) (data : List Byte)
  /-- a posted write that failed, reported as PCIe prescribes: 1 unsupported, 2 aborted (R191) -/
  | posted (fn status : Nat)
  /-- an exported checkpoint written to host buffers -/
  | export_ (fn : Nat) (e : Export)
  /-- trace, capture and other records copied out -/
  | records (fn : Nat) (r : List (List Byte))
  /-- a flit of any class in a flit slot of a port (R328, R330) -/
  | flit (port slot : Nat) (bytes : List Byte)
  /-- a lane marker in a flit slot (R328) -/
  | marker (port slot : Nat) (bytes : List Byte)
  /-- levels that a lane sends (R317) -/
  | line (lane : Nat) (levels : List (BitVec 2))
  /-- answer to a tap request: lane, tap, whether it was at its limit (R319) -/
  | tapStatus (lane tap : Nat) (atLimit : Bool)
  /-- a coefficient request of this device's receiver to the remote transmitter (R319) -/
  | tapReq (lane tap : Nat) (r : TapReq)
  | chainOut (data : List Byte)
  | smbus (data : List Byte)
  | smbusNack
  | jtag (w : BitVec 128)
  | wake (port : Nat)
  deriving DecidableEq, Repr

end Sys2Proof
end

