-- ==== Sys2Proof/Syntax.lean ====
section
/-! DEFINITION. The commands and events the block takes: one constructor per row of
spec/opcode_table.json, in the table's order. The table gives no operands; those here are what the
row's rules read from outside the state (log 6). -/

namespace Sys2Proof

inductive Instr where
  -- Courses and user cycles
  /-- SEQUENCER_SAMPLE (R81); `cycles`: fabric cycles the user cycle will have lasted at the boundary
  (R93) -/
  | sequencerSample (job cycles : Nat) (ups : List Upset)
  /-- BOUNDARY_CONDITIONS_MET (R81); `waited`: fabric cycles of stretch since the last sample (R89) -/
  | boundaryConditionsMet (job cycles waited : Nat) (ups : List Upset)
  /-- COURSE_END (R67); `trig`: levels of the TRIG pins (R58) -/
  | courseEnd (job : Nat) (trig : BitVec 16) (ups : List Upset)
  /-- TROWEL_VERDICT (R141) -/
  | trowelVerdict (job : Nat) (ups : List Upset)
  /-- STORE_WRITEBACK (R156) -/
  | storeWriteback (tile brick : Nat)
  /-- STATIC_PRELOAD (R79) -/
  | staticPreload (job : Nat) (ups : List Upset)
  /-- REFRESH_TIMER_EXPIRY (R94) -/
  | refreshTimerExpiry (job : Nat)
  /-- REFRESH_SWEEP (R95) -/
  | refreshSweep (job : Nat) (ups : List Upset)
  /-- REFRESH_SWEEP_END (R95) -/
  | refreshSweepEnd (job : Nat)
  /-- HOLDING_SWEEP (R97) -/
  | holdingSweep (tile : Nat)
  /-- FAULT_HOLD_HANDLING (R146) -/
  | faultHoldHandling (job : Nat) (goldenBad : Bool)
  /-- MISMATCH_LIST_EXPIRY (R153) -/
  | mismatchListExpiry
  /-- STORE_SWEEP_READ (R158) -/
  | storeSweepRead (tile : Nat) (ups : List Upset)
  /-- TRW_REGISTER_AUDIT (R159) -/
  | trwRegisterAudit (ups : List Upset)
  /-- VOTE_FIX (R159) -/
  | voteFix (tile : Nat) (ups : List Upset)
  /-- TROWEL_STOP (R160) -/
  | trowelStop (tile : Nat) (ups : List Upset)
  -- Images
  /-- CMD_IMAGE_LOAD (R118) -/
  | cmdImageLoad (h : Hdr) (noRelease : Bool) (b : Bulk)
  /-- IMAGE_HEADER (R114) -/
  | imageHeader (bytes : List Byte)
  /-- IMAGE_DESCRIPTOR (R83) -/
  | imageDescriptor (bytes : List Byte)
  /-- IMAGE_TILE_BLOCK (R107) -/
  | imageTileBlock (bytes : List Byte)
  /-- IMAGE_SLAB_BLOCK (R108) -/
  | imageSlabBlock (bytes : List Byte)
  /-- IMAGE_SIGNATURE_TABLE (R111) -/
  | imageSignatureTable (bytes : List Byte)
  /-- IMAGE_END_RECORD (R112) -/
  | imageEndRecord (bytes : List Byte)
  /-- TILE_REBIND (R117) -/
  | tileRebind (vt : Nat)
  /-- LOAD_SILENCE_TIMEOUT (R121) -/
  | loadSilenceTimeout
  /-- CMD_IMAGE_ABORT (R121) -/
  | cmdImageAbort (h : Hdr)
  /-- CMD_IMAGE_READBACK_GOLDEN (R135) -/
  | cmdImageReadbackGolden (h : Hdr) (vfirst vcount cfirst ccount : Nat) (b : Bulk)
  /-- CMD_IMAGE_READBACK_PLANES (R136) -/
  | cmdImageReadbackPlanes (h : Hdr) (vfirst vcount cfirst ccount : Nat) (b : Bulk)
  /-- CMD_CHAIN_ARM (R122) -/
  | cmdChainArm (h : Hdr)
  /-- CMD_CHAIN_DISARM (R122) -/
  | cmdChainDisarm (h : Hdr)
  /-- CHAIN_DATA (R123): the message that port 0 has delivered -/
  | chainData
  /-- CHAIN_SESSION_SILENCE (R126) -/
  | chainSessionSilence
  /-- CHAIN_ABORT (R126) -/
  | chainAbort
  /-- CHAIN_PORTS_RESTORE (R351) -/
  | chainPortsRestore
  -- Design memory
  /-- CMD_MEM_MAP (R169) -/
  | cmdMemMap (h : Hdr) (first count : Nat)
  /-- MEM_MAP_DONE (R169) -/
  | memMapDone
  /-- CMD_MEM_UNMAP (R171) -/
  | cmdMemUnmap (h : Hdr) (first count : Nat)
  /-- DESIGN_MEMORY_ACCESS (R176) -/
  | designMemoryAccess (job : Nat) (ups : List Upset)
  /-- FAR_LINE_READ (R197) -/
  | farLineRead (master line : Nat) (ups : List Upset)
  /-- FAR_LINE_WRITE (R195) -/
  | farLineWrite (master addr : Nat) (data : List Byte)
  /-- TILE_MEMORY_REPLY (R173) -/
  | tileMemoryReply (job vt port : Nat)
  /-- PLC_ENTRY_REBUILD (R179) -/
  | plcEntryRebuild (page : Nat)
  /-- PLACEMENT_EPOCH_END (R180) -/
  | placementEpochEnd
  /-- PAGE_MIGRATION_DONE (R183) -/
  | pageMigrationDone (page : Nat) (ups : List Upset)
  /-- CMD_PLC_POLICY (R181) -/
  | cmdPlcPolicy (h : Hdr) (k : Knobs)
  /-- CMD_PLC_QUERY (R176) -/
  | cmdPlcQuery (h : Hdr) (first count : Nat)
  /-- CMD_MEM_PIN_PIN (R182) -/
  | cmdMemPinPin (h : Hdr) (first count : Nat) (alsoExclude : Bool)
  /-- CMD_MEM_PIN_EXCLUDE (R182) -/
  | cmdMemPinExclude (h : Hdr) (first count : Nat)
  /-- CMD_MEM_PIN_CLEAR (R182) -/
  | cmdMemPinClear (h : Hdr) (first count : Nat)
  /-- CMD_MEM_PAGE_RESET (R177) -/
  | cmdMemPageReset (h : Hdr) (page : Nat)
  /-- PAGE_RESET_DONE (R177) -/
  | pageResetDone
  /-- CMD_MEM_REGIONS (R189) -/
  | cmdMemRegions (h : Hdr) (r : Regions)
  /-- CMD_MEM_RIGHTS (R202) -/
  | cmdMemRights (h : Hdr) (master : Nat) (rights : BitVec 16)
  /-- CMD_MEM_DMA_ASSIGN (R192) -/
  | cmdMemDmaAssign (h : Hdr) (channel fn : Nat)
  /-- CMD_MEM_QUARANTINE_READ (R210) -/
  | cmdMemQuarantineRead (h : Hdr) (first : Nat)
  /-- CMD_MEM_QUARANTINE_REMOVE (R210) -/
  | cmdMemQuarantineRemove (h : Hdr) (page : Nat)
  /-- BAR4_READ (R190) -/
  | bar4Read (fn addr len : Nat) (ups : List Upset)
  /-- BAR4_WRITE (R191) -/
  | bar4Write (fn addr : Nat) (data : List Byte) (ups : List Upset)
  /-- MBX_DMA_DOORBELL (R192) -/
  | mbxDmaDoorbell (fn channel : Nat) (value : BitVec 16)
  /-- DMA_DESCRIPTOR (R193) -/
  | dmaDescriptor (channel : Nat) (desc data : List Byte) (ups : List Upset)
  /-- DMA_DESCRIPTOR_COMPLETE (R193) -/
  | dmaDescriptorComplete (channel : Nat)
  /-- MBX_DMA_RESTART (R468) -/
  | mbxDmaRestart (fn channel : Nat)
  -- LP5X
  /-- LP5X_REFRESH (R218) -/
  | lp5xRefresh (channel : Nat)
  /-- MR4_READ (R219) -/
  | mr4Read (channel : Nat) (code : BitVec 5) (degC : Option Nat)
  /-- DQS_OSC_MEASURE (R220) -/
  | dqsOscMeasure (channel osc : Nat)
  /-- DQ_RETRAIN_PAUSE (R221) -/
  | dqRetrainPause (channel : Nat) (inWindow : Bool)
  /-- CHANNEL_TRAINING_DONE (R223) -/
  | channelTrainingDone (channel : Nat) (ok : Bool) (osc : Nat)
  /-- FULL_TRAINING (R216) -/
  | fullTraining
  /-- FULL_TRAINING_DONE (R217) -/
  | fullTrainingDone (failed oscs : List Nat)
  /-- PPR_SOFT_REPAIR (R232) -/
  | pprSoftRepair (line : Nat) (resource : Bool)
  /-- CMD_MEM_SCRUB (R236) -/
  | cmdMemScrub (h : Hdr) (first bytes share : Nat) (b : Bulk)
  /-- CMD_MEM_SCRUB_ABORT (R239) -/
  | cmdMemScrubAbort (h : Hdr)
  /-- SCRUB_LINE (R237) -/
  | scrubLine (ups : List Upset)
  /-- CMD_MEM_ECC_DIAG_WRITE_FAR (R240) -/
  | cmdMemEccDiagWriteFar (h : Hdr) (addr : Nat) (cipher : Line) (tag check : BitVec 32)
  /-- CMD_MEM_ECC_DIAG_READ_FAR (R240) -/
  | cmdMemEccDiagReadFar (h : Hdr) (addr : Nat)
  /-- CMD_MEM_ECC_DIAG_WRITE_CHIP (R240) -/
  | cmdMemEccDiagWriteChip (h : Hdr) (target addr : Nat) (data : BitVec 64) (check : BitVec 8)
  /-- CMD_MEM_ECC_DIAG_READ_CHIP (R240) -/
  | cmdMemEccDiagReadChip (h : Hdr) (target addr : Nat)
  /-- CMD_MEM_REPAIR_LIST (R231) -/
  | cmdMemRepairList (h : Hdr)
  /-- CMD_MEM_REPAIR_REQUEST (R232) -/
  | cmdMemRepairRequest (h : Hdr) (addr : Nat)
  /-- CMD_MEM_RETAIN (R226) -/
  | cmdMemRetain (h : Hdr) (retain : Bool)
  /-- CMD_MEM_CH_STATUS (R223) -/
  | cmdMemChStatus (h : Hdr) (first count : Nat)
  -- Hods and pallets
  /-- CMD_HOD_CREATE (R245) -/
  | cmdHodCreate (h : Hdr) (p : HodParams)
  /-- CMD_HOD_DESTROY (R247) -/
  | cmdHodDestroy (h : Hdr) (hod : Nat)
  /-- CMD_HOD_FLUSH (R252) -/
  | cmdHodFlush (h : Hdr) (hod : Nat)
  /-- CMD_HOD_QUERY (R279) -/
  | cmdHodQuery (h : Hdr) (hod : Nat)
  /-- CMD_HOD_QUERY_CLEAR (R279) -/
  | cmdHodQueryClear (h : Hdr) (hod : Nat)
  /-- HOD_PUSH_WORD (R248) -/
  | hodPushWord (src : Agent) (hod : Nat) (start last : Bool) (prio : Nat) (data : Word) (poison : Bool)
  /-- HOD_PUSH_MID (R264) -/
  | hodPushMid (fn hod size : Nat) (value : Word)
  /-- HOD_PUSH_FIRST (R264) -/
  | hodPushFirst (fn hod size : Nat) (value : Word)
  /-- HOD_PUSH_LAST (R264) -/
  | hodPushLast (fn hod size : Nat) (value : Word)
  /-- HOD_PUSH_ONLY (R264) -/
  | hodPushOnly (fn hod size : Nat) (value : Word)
  /-- HOD_POP (R263) -/
  | hodPop (fn hod : Nat) (ups : List Upset)
  /-- HOD_CTL_FLUSH (R252) -/
  | hodCtlFlush (fn hod : Nat)
  /-- CMD_PAL_HANDLERS (R266) -/
  | cmdPalHandlers (h : Hdr) (first : Nat) (entries : List (Bool × BitVec 16))
  /-- CMD_PAL_FLOW_READ (R273) -/
  | cmdPalFlowRead (h : Hdr) (flow : Nat)
  /-- CMD_PAL_FLOW_RESET (R272) -/
  | cmdPalFlowReset (h : Hdr) (flow : Nat)
  /-- CMD_PAL_POLICY (R269) -/
  | cmdPalPolicy (h : Hdr) (band : Nat)
  /-- CMD_PAL_STATS (R280) -/
  | cmdPalStats (h : Hdr) (flows : List Nat) (first : Nat)
  /-- PALLET_DISPATCH (R269) -/
  | palletDispatch (job : Nat)
  /-- RELEASE_BUFFER_DRAIN (R278) -/
  | releaseBufferDrain
  -- Masons
  /-- CMD_MSN_ASSIGN (R283) -/
  | cmdMsnAssign (h : Hdr) (masons : List Nat)
  /-- CMD_MSN_UNASSIGN (R283) -/
  | cmdMsnUnassign (h : Hdr) (masons : List Nat)
  /-- CMD_MSN_CONTROL_START (R304) -/
  | cmdMsnControlStart (h : Hdr) (masons : List Nat)
  /-- CMD_MSN_CONTROL_RESET (R304) -/
  | cmdMsnControlReset (h : Hdr) (group : Option Nat) (masons : List Nat)
  /-- CMD_MSN_CONTROL_CLOCK (R285) -/
  | cmdMsnControlClock (h : Hdr) (group mhz : Nat)
  /-- CMD_MSN_CONTROL_PAUSE_TIMEOUT (R310) -/
  | cmdMsnControlPauseTimeout (h : Hdr) (us : Nat)
  /-- CMD_MSN_LOAD (R305) -/
  | cmdMsnLoad (h : Hdr) (masons : List Nat) (b : Bulk)
  /-- MSN_LOAD_DONE (R305) -/
  | msnLoadDone
  /-- CMD_MSN_STATUS (R308) -/
  | cmdMsnStatus (h : Hdr) (masons : List Nat)
  /-- HOD_PUSH (R293) -/
  | hodPush (m : Nat) (funct7 : BitVec 7) (rs2 rs1 rd : Nat)
  /-- HOD_PUSHL (R293) -/
  | hodPushl (m : Nat) (funct7 : BitVec 7) (rs2 rs1 rd : Nat)
  /-- HOD_POP_INSTRUCTION (R294) -/
  | hodPopInstruction (m : Nat) (funct7 : BitVec 7) (rs1 rd : Nat) (ups : List Upset)
  /-- HOD_STAT (R294) -/
  | hodStat (m : Nat) (funct7 : BitVec 7) (rs1 rd : Nat)
  /-- HOD_WAIT (R295) -/
  | hodWait (m : Nat) (funct7 : BitVec 7) (rs1 rd : Nat)
  /-- HOD_WAIT_WAKE (R295) -/
  | hodWaitWake (m : Nat)
  /-- WFI (R295) -/
  | wfi (m : Nat)
  /-- PAL_GET (R296) -/
  | palGet (m : Nat) (funct7 : BitVec 7) (rs1 rd : Nat)
  /-- PAL_DONE (R297) -/
  | palDone (m : Nat) (funct7 : BitVec 7) (rd : Nat)
  /-- PAL_PUSHO (R298) -/
  | palPusho (m : Nat) (funct7 : BitVec 7) (rs2 rs1 rd : Nat)
  /-- PAL_PUSHO_ENTRY_FREE (R277) -/
  | palPushoEntryFree (m : Nat)
  /-- MASON_DESIGN_LOAD (R300) -/
  | masonDesignLoad (m : Nat) (op : MemOp) (ups : List Upset)
  /-- MASON_DESIGN_STORE (R300) -/
  | masonDesignStore (m : Nat) (op : MemOp) (ups : List Upset)
  /-- PEER_WINDOW_ACCESS (R291) -/
  | peerWindowAccess (m : Nat) (op : MemOp)
  /-- COUNTER_CSR_READ (R307) -/
  | counterCsrRead (m csr rd : Nat)
  /-- MRET (R302) -/
  | mret (m : Nat)
  /-- MASON_PAUSED (R309) -/
  | masonPaused (m : Nat)
  /-- MASON_PAUSE_TIMEOUT (R310) -/
  | masonPauseTimeout (job : Nat)
  /-- MASON_SUBSTITUTION (R311) -/
  | masonSubstitution (m : Nat)
  -- Larey
  /-- LANE_TRAINING (R319) -/
  | laneTraining (port : Nat) (signal inverted : BitVec 9) (reqs asks : List (Nat × Nat × TapReq))
  /-- LANE_TRAINING_DONE (R315) -/
  | laneTrainingDone (port : Nat) (ready : BitVec 9) (marks : List (Option (Nat × Nat × Nat)))
  /-- PORT_BRINGUP_TIMEOUT (R315) -/
  | portBringupTimeout (port : Nat)
  /-- INIT (R341) -/
  | init (port : Nat) (b : InitBody)
  /-- SEQUENCED_FLIT (R336) -/
  | sequencedFlit (port slot : Nat) (bytes : List Byte) (errs : List (Nat × BitVec 10))
  /-- ACK (R338) -/
  | ack (port last freed0 freed1 freed2 : Nat)
  /-- NAK (R338) -/
  | nak (port expected freed0 freed1 freed2 : Nat)
  /-- ACK_SEND (R336) -/
  | ackSend (port : Nat)
  /-- ACK_TIMEOUT (R338) -/
  | ackTimeout (port : Nat)
  /-- QUIET_ENTER (R323) -/
  | quietEnter (port : Nat)
  /-- QUIET_IDLE_EXPIRY (R323) -/
  | quietIdleExpiry (port : Nat)
  /-- QUIET_WAKE (R323) -/
  | quietWake (port : Nat)
  /-- RETRAIN_REQ (R339) -/
  | retrainReq (port : Nat)
  /-- LANE_LOCK_LOSS (R339) -/
  | laneLockLoss (lane : Nat)
  /-- CODEWORD_BURST (R339) -/
  | codewordBurst (lane : Nat)
  /-- LANE_ERROR_WINDOW (R340) -/
  | laneErrorWindow (lane : Nat)
  /-- LINK_TIMEOUT_EXPIRY (R342) -/
  | linkTimeoutExpiry (port : Nat)
  /-- REMOTE_HOD_ITEM (R348) -/
  | remoteHodItem (port : Nat)
  /-- REMOTE_HOD_CREDIT_GRANT (R348) -/
  | remoteHodCreditGrant (port : Nat)
  /-- REMOTE_HOD_SEND (R348) -/
  | remoteHodSend (hod : Nat) (ups : List Upset)
  /-- MANAGEMENT_MESSAGE (R346) -/
  | managementMessage (port : Nat)
  /-- CMD_LRY_PORT_CFG (R316) -/
  | cmdLryPortCfg (h : Hdr) (port : Nat) (cfg : BitVec 32) (linkTimeoutUs ackTimeoutUs : Option Nat)
  /-- CMD_LRY_PORT_STATUS (R316) -/
  | cmdLryPortStatus (h : Hdr) (first count : Nat)
  /-- CMD_LRY_LANE_TAPS (R319) -/
  | cmdLryLaneTaps (h : Hdr) (lane : Nat) (w : Option (BitVec 32))
  /-- CMD_LRY_LANE_POWER (R322) -/
  | cmdLryLanePower (h : Hdr) (lane : Nat) (tx : Bool) (power : LPower)
  /-- CMD_LRY_LANE_TEST (R324) -/
  | cmdLryLaneTest (h : Hdr) (lane : Nat) (w : BitVec 32)
  /-- CMD_LRY_LANE_WORDS (R326) -/
  | cmdLryLaneWords (h : Hdr) (lane : Nat) (w : Option (BitVec 128))
  /-- INJ_GO (R325) -/
  | injGo (lane symbols : Nat)
  /-- SLIP (R326) -/
  | slip (lane : Nat) (levels : List (BitVec 2))
  /-- CMD_LRY_FWD_WRITE (R343) -/
  | cmdLryFwdWrite (h : Hdr) (entries : List (Nat × Fwd))
  /-- CMD_LRY_FWD_READ (R343) -/
  | cmdLryFwdRead (h : Hdr) (streams : List Nat)
  /-- CMD_LRY_ROUTE_WRITE (R346) -/
  | cmdLryRouteWrite (h : Hdr) (entries : List (Nat × Nat))
  /-- CMD_LRY_ROUTE_READ (R346) -/
  | cmdLryRouteRead (h : Hdr) (ordinals : List Nat)
  /-- CMD_LRY_PORT_RESET_RETRAIN (R339) -/
  | cmdLryPortResetRetrain (h : Hdr) (port : Nat)
  /-- CMD_LRY_PORT_RESET_RESET (R341) -/
  | cmdLryPortResetReset (h : Hdr) (port : Nat)
  /-- CMD_LRY_PORT_RESET_CLEAR_MARKS (R340) -/
  | cmdLryPortResetClearMarks (h : Hdr) (port : Nat)
  -- Arrays
  /-- CMD_ARR_ORDINAL (R352) -/
  | cmdArrOrdinal (h : Hdr) (ordinal : Nat)
  /-- CMD_ARR_STREAM (R355) -/
  | cmdArrStream (h : Hdr) (stream : Nat) (e : StreamEntry)
  /-- CMD_ARR_CKPT_POLICY (R364) -/
  | cmdArrCkptPolicy (h : Hdr) (interval : Nat)
  /-- CMD_ARR_ROLLBACK_LOCAL (R375) -/
  | cmdArrRollbackLocal (h : Hdr)
  /-- CMD_ARR_ROLLBACK_GLOBAL (R380) -/
  | cmdArrRollbackGlobal (h : Hdr) (k : Word) (epoch : BitVec 4)
  /-- CMD_ARR_CKPT_EXPORT (R382) -/
  | cmdArrCkptExport (h : Hdr) (b : Bulk)
  /-- CMD_ARR_CKPT_IMPORT (R382) -/
  | cmdArrCkptImport (h : Hdr) (e : Export) (b : Bulk)
  /-- CMD_ARR_STATUS (R369) -/
  | cmdArrStatus (h : Hdr)
  /-- JOINT_FRAME (R361) -/
  | jointFrame (port : Nat)
  /-- BARRIER_TOKEN (R359) -/
  | barrierToken (port : Nat)
  /-- CHECKPOINT_CUT (R366) -/
  | checkpointCut (job : Nat)
  /-- CKPT_DONE (R366) -/
  | ckptDone (job : Nat) (failed : Bool)
  /-- CHECKPOINT_MARKER (R365) -/
  | checkpointMarker (port : Nat)
  /-- SHADOW_POP (R378) -/
  | shadowPop (job vt port : Nat)
  /-- REPLAY_DONE (R376) -/
  | replayDone (job : Nat)
  /-- RESEND_REQUEST (R383) -/
  | resendRequest (port : Nat)
  -- Spine
  /-- SPINE_PACKET (R388); `busy`: for each router output the packet takes, cycle by cycle, the other virtual
  networks that hold a packet and a credit there (R391) -/
  | spinePacket (header : BitVec 128) (busy : List (List (BitVec 5))) (ups : List Upset)
  /-- EPOCH_CHANGE (R394) -/
  | epochChange (routes : List (Nat × Nat × Nat)) (fences : List (Nat × BitVec 6))
  /-- OLD_COUNT_ZERO (R394) -/
  | oldCountZero
  /-- DOMAIN_POWER_DOWN (R397) -/
  | domainPowerDown (group : Nat)
  /-- DRAIN_DONE (R397) -/
  | drainDone
  /-- DRAIN_TIMEOUT (R397) -/
  | drainTimeout
  /-- TRACE_RECORD_WRITE (R401) -/
  | traceRecordWrite
  /-- CMD_SPN_PROBE (R400) -/
  | cmdSpnProbe (h : Hdr) (probe : Nat) (cfg mtch mask : BitVec 64)
  /-- CMD_SPN_TRACE_CONTROL (R401) -/
  | cmdSpnTraceControl (h : Hdr) (w : BitVec 64)
  /-- CMD_SPN_TRACE_COPY (R402) -/
  | cmdSpnTraceCopy (h : Hdr) (first count : Nat) (b : Bulk)
  /-- CMD_SPN_STATUS (R394) -/
  | cmdSpnStatus (h : Hdr)
  -- Clocks and resets
  /-- SAFE_WINDOW (R407) -/
  | safeWindow (count : Nat)
  /-- SAFE_TIMEOUT (R408) -/
  | safeTimeout
  /-- REF_WINDOW (R409) -/
  | refWindow (count : Nat)
  /-- REF_MISSING_EDGE (R417) -/
  | refMissingEdge
  /-- REF_HOLDOVER_END (R417) -/
  | refHoldoverEnd
  /-- REF_RESTORE (R418) -/
  | refRestore
  /-- PLL_ENABLE (R406) -/
  | pllEnable (pll mhz : Nat)
  /-- PLL_STABLE (R406) -/
  | pllStable (pll : Nat)
  /-- DIVIDER_STEP (R411) -/
  | dividerStep (domain : Nat)
  /-- FAB_RAMP_START (R412) -/
  | fabRampStart
  /-- SOURCE_SWITCH (R414) -/
  | sourceSwitch (domain : Nat)
  /-- FORCED_SWITCH (R415) -/
  | forcedSwitch (domain : Nat)
  /-- CMD_CLK_FAB (R420) -/
  | cmdClkFab (h : Hdr) (mhz : Nat)
  /-- CMD_CLK_STATUS (R421) -/
  | cmdClkStatus (h : Hdr) (clkMask rstMask : BitVec 32)
  /-- RESET_N_LOW (R422) -/
  | resetNLow (cycles : Nat)
  /-- PERST_N_LOW (R424) -/
  | perstNLow
  /-- PERST_N_RISE (R527) -/
  | perstNRise
  /-- CMD_RST_DIE_COURSE (R425) -/
  | cmdRstDieCourse (h : Hdr)
  /-- CMD_RST_DIE_FACE (R426) -/
  | cmdRstDieFace (h : Hdr)
  /-- VIAS_EMPTY (R425) -/
  | viasEmpty
  /-- COURSE_DIE_CLEARED (R425) -/
  | courseDieCleared (goldenBad : List Nat)
  /-- CMD_JOB_RESET (R427) -/
  | cmdJobReset (h : Hdr)
  -- Power
  /-- VIN48_APPLY (R430) -/
  | vin48Apply
  /-- VIN48_QUALIFIED (R11) -/
  | vin48Qualified
  /-- RAIL_IN_RANGE (R430) -/
  | railInRange (rail : Nat)
  /-- VIN48_FAIL (R432) -/
  | vin48Fail
  /-- PWR_EN_RISE (R430) -/
  | pwrEnRise (lowUs : Nat)
  /-- PWR_EN_FALL (R431) -/
  | pwrEnFall
  /-- DOMAIN_CLEAR_DONE (R436) -/
  | domainClearDone (group : Nat)
  /-- BOOT_ROM_START (R473) -/
  | bootRomStart
  /-- POWER_LINK_LOSS (R429) -/
  | powerLinkLoss
  /-- POWER_TELEMETRY (R429) -/
  | powerTelemetry (rails : List (Nat × Nat))
  /-- INPUT_POWER_MEASURE (R433) -/
  | inputPowerMeasure (vinMv iinMa avgW instW : Nat) (over1050ms10 over1300us20 : Bool)
  /-- RAIL_WARN (R439) -/
  | railWarn (rail : Nat)
  /-- SUPPLY_GLITCH (R439) -/
  | supplyGlitch (source : Nat)
  /-- KILN_CONVERSION (R441) -/
  | kilnConversion (face course bed : Option Int)
  /-- KILN_CLEAR (R442) -/
  | kilnClear
  /-- KILL_ASSERT (R443) -/
  | killAssert
  /-- THERM_TRIP_EVENT (R443) -/
  | thermTripEvent
  /-- COOLING_WAIT_END (R444) -/
  | coolingWaitEnd (goldenBad : List Nat)
  /-- CMD_PWR_STATE_ENTER (R437) -/
  | cmdPwrStateEnter (h : Hdr)
  /-- DEEP_HOLD_DEMOTION_DONE (R437) -/
  | deepHoldDemotionDone
  /-- CMD_PWR_STATE_WAKE (R437) -/
  | cmdPwrStateWake (h : Hdr)
  /-- WAKE_RESTORE (R438) -/
  | wakeRestore (goldenBad : List Nat)
  /-- CMD_PWR_STATUS (R434) -/
  | cmdPwrStatus (h : Hdr)
  /-- CMD_KLN_STATUS (R442) -/
  | cmdKlnStatus (h : Hdr)
  -- Host
  /-- MBX_DOORBELL (R452) -/
  | mbxDoorbell (fn mbx : Nat) (value : BitVec 32)
  /-- MBX_DONE_CLEAR (R452) -/
  | mbxDoneClear (fn mbx : Nat)
  /-- COMMAND_TAKEN (R454) -/
  | commandTaken
  /-- MBX_TIMEOUT (R455) -/
  | mbxTimeout (fn mbx : Nat)
  /-- MBX_EVR_ENABLE (R465) -/
  | mbxEvrEnable (fn : Nat)
  /-- MBX_EVR_TAIL (R466) -/
  | mbxEvrTail (fn : Nat) (value : BitVec 16)
  /-- FLR_VF (R449) -/
  | flrVf (fn : Nat)
  /-- FLR_PF0 (R449) -/
  | flrPf0
  /-- CMD_IDENTIFY (R457) -/
  | cmdIdentify (h : Hdr)
  /-- CMD_DEV_STATUS (R457) -/
  | cmdDevStatus (h : Hdr)
  /-- CMD_DEV_STATUS_CLEAR_ALERT (R472) -/
  | cmdDevStatusClearAlert (h : Hdr) (integrityNow : Bool)
  /-- CMD_TILE_STATUS (R19) -/
  | cmdTileStatus (h : Hdr) (first count : Nat) (faultMask trwMask : BitVec 32)
  /-- CMD_JOB_STATUS (R84) -/
  | cmdJobStatus (h : Hdr)
  /-- CMD_EVENT_LOG (R467) -/
  | cmdEventLog (h : Hdr) (b : Bulk)
  /-- BULK_TRANSFER_DONE (R456) -/
  | bulkTransferDone (opcode : Nat) (bad : Option Nat)
  /-- CMD_FW_UPDATE (R475) -/
  | cmdFwUpdate (h : Hdr) (bytes : List Byte) (b : Bulk)
  /-- FW_UPDATE_DONE (R475) -/
  | fwUpdateDone
  /-- CMD_FW_ACTIVATE (R476) -/
  | cmdFwActivate (h : Hdr)
  /-- CMD_FW_ACTIVATE_RESET_NOW (R476) -/
  | cmdFwActivateResetNow (h : Hdr)
  /-- TRIAL_TIMEOUT (R477) -/
  | trialTimeout
  /-- CMD_RUN_HOLD (R458) -/
  | cmdRunHold (h : Hdr) (atCycle : Word)
  /-- CMD_RUN_RESUME (R459) -/
  | cmdRunResume (h : Hdr) (stopCycle : Word) (noRollback : Bool)
  /-- CMD_RUN_RESETS (R460) -/
  | cmdRunResets (h : Hdr) (atCycle : Word) (resets : BitVec 7)
  /-- CMD_TRIG_GRANT (R461) -/
  | cmdTrigGrant (h : Hdr) (pins : BitVec 16)
  /-- CMD_TRIG_RELEASE (R461) -/
  | cmdTrigRelease (h : Hdr) (pins : BitVec 16)
  /-- CMD_JOB_CREATE (R469) -/
  | cmdJobCreate (h : Hdr)
  /-- CMD_JOB_DESTROY (R470) -/
  | cmdJobDestroy (h : Hdr)
  /-- CMD_SPARE_STATUS (R478) -/
  | cmdSpareStatus (h : Hdr)
  /-- CMD_BIST_RUN (R500) -/
  | cmdBistRun (h : Hdr) (r : Region)
  /-- BIST_DONE (R500) -/
  | bistDone (fails : List TestFail)
  /-- CMD_SWEEP_POLICY (R497) -/
  | cmdSweepPolicy (h : Hdr) (hours : Nat) (tiles groups : Bool)
  /-- CMD_REPAIR_MAP (R479) -/
  | cmdRepairMap (h : Hdr) (b : Bulk)
  /-- SWEEP_SLOT (R497) -/
  | sweepSlot
  /-- SWEEP_TESTS_DONE (R498) -/
  | sweepTestsDone (fails : List TestFail)
  /-- RELOCATION_COPY (R490) -/
  | relocationCopy (job : Nat) (goldenBad readFail : Bool)
  /-- SPARE_SWITCH (R486) -/
  | spareSwitch (job : Nat)
  /-- BED_ROW_SPARE (R487) -/
  | bedRowSpare (hodStore : Bool) (bank row : Nat)
  /-- EFUSE_BURN (R482) -/
  | efuseBurn (index : Nat) (readBackOk : Bool)
  /-- ROLL_LEAF (R502) -/
  | rollLeaf (ups : List Upset)
  /-- EARLY_ROLL (R503) -/
  | earlyRoll (root : Nat)
  /-- CMD_TEL_READ (R514) -/
  | cmdTelRead (h : Hdr) (first count : Nat) (b : Bulk)
  /-- CMD_TEL_CLEAR (R508) -/
  | cmdTelClear (h : Hdr) (first count : Nat)
  /-- CMD_CAPTURE_CFG (R517) -/
  | cmdCaptureCfg (h : Hdr) (c : CapCfg)
  /-- CMD_CAPTURE_CTL_ARM (R519) -/
  | cmdCaptureCtlArm (h : Hdr)
  /-- CMD_CAPTURE_CTL_TRIGGER (R518) -/
  | cmdCaptureCtlTrigger (h : Hdr) (atCycle : Word)
  /-- CMD_CAPTURE_CTL_STOP (R519) -/
  | cmdCaptureCtlStop (h : Hdr)
  /-- CMD_CAPTURE_CTL_DISARM (R519) -/
  | cmdCaptureCtlDisarm (h : Hdr)
  /-- CMD_CAPTURE_READ (R522) -/
  | cmdCaptureRead (h : Hdr) (b : Bulk)
  -- Pins, PMBus, JTAG
  /-- PCIE_LINK_TRAINING (R527) -/
  | pcieLinkTraining
  /-- PMBUS_READING_REFRESH (R531) -/
  | pmbusReadingRefresh
  /-- PAGE (R531) -/
  | page (value : Option (BitVec 8))
  /-- CLEAR_FAULTS (R532) -/
  | clearFaults
  /-- CAPABILITY (R531) -/
  | capability
  /-- VOUT_MODE (R531) -/
  | voutMode
  /-- STATUS_BYTE (R531) -/
  | statusByte
  /-- STATUS_WORD (R531) -/
  | statusWord
  /-- STATUS_VOUT (R531) -/
  | statusVout
  /-- STATUS_INPUT (R531) -/
  | statusInput
  /-- STATUS_TEMPERATURE (R531) -/
  | statusTemperature
  /-- STATUS_MFR_SPECIFIC (R531) -/
  | statusMfrSpecific
  /-- READ_VIN (R532) -/
  | readVin
  /-- READ_IIN (R532) -/
  | readIin
  /-- READ_VOUT (R531) -/
  | readVout
  /-- READ_IOUT (R532) -/
  | readIout
  /-- READ_TEMPERATURE_1 (R532) -/
  | readTemperature1
  /-- READ_PIN (R532) -/
  | readPin
  /-- PMBUS_REVISION (R531) -/
  | pmbusRevision
  /-- MFR_ID (R531) -/
  | mfrId
  /-- MFR_MODEL (R531) -/
  | mfrModel
  /-- MFR_REVISION (R531) -/
  | mfrRevision
  /-- MFR_KLN_STATUS (R531) -/
  | mfrKlnStatus
  /-- MFR_EVENT (R531) -/
  | mfrEvent
  /-- PMBUS_UNSUPPORTED (R531) -/
  | pmbusUnsupported (code : BitVec 8)
  /-- TRST_N_LOW (R524) -/
  | trstNLow
  /-- EXTEST (R533) -/
  | extest
  /-- SAMPLE_PRELOAD (R533) -/
  | samplePreload
  /-- IDCODE (R534) -/
  | idcode
  /-- CLAMP (R533) -/
  | clamp
  /-- HIGHZ (R533) -/
  | highz
  /-- BYPASS (R533) -/
  | bypass
  /-- DBG_ACCESS (R535) -/
  | dbgAccess (dr : BitVec 128) (ups : List Upset)
  -- Added rows
  /-- REGISTER_WRITE (R7): BAR0 offsets as they are, BAR2 offset x as 0x200000 + x -/
  | registerWrite (fn offset size : Nat) (value : BitVec 64)
  /-- SCRATCH_ACCESS (R286) -/
  | scratchAccess (m : Nat) (op : MemOp) (ups : List Upset)
  /-- PATTERN_CHECKER_LOCK (R325) -/
  | patternCheckerLock (lane : Nat) (levels : List (BitVec 2)) (lost : Bool)
  /-- WAKE_SEQUENCE (R323) -/
  | wakeSequence (port : Nat)
  /-- RESET_N_RISE (R422) -/
  | resetNRise
  /-- MBX_EVR_COALESCE_EXPIRY (R464) -/
  | mbxEvrCoalesceExpiry (fn : Nat)
  deriving DecidableEq, Repr

end Sys2Proof
end

