-- ==== Sys2Proof/WellFormed.lean ====
section
/-! DEFINITION. Which commands name only units that the device has. -/

namespace Sys2Proof

/-- Mailboxes of a function: four for PF0, two for each VF (R452). -/
def mbxCount (fn : Nat) : Nat := if fn = 0 then 4 else 2

/-- The issuing function and mailbox of a command exist, and the job byte is one (Table 15-5). -/
def hdrOk (h : Hdr) : Bool :=
  decide (h.fn ≤ 8) && decide (h.mbx < mbxCount h.fn) && decide (h.job < 256)

/-- Access sizes of a BAR0 register (R451). -/
def sizeOk (n : Nat) : Bool := n == 1 || n == 2 || n == 4 || n == 8

/-- Every unit number of the command is one the device has: tiles, bricks, jobs, ports, lanes,
channels, masons, groups, hods, functions and mailboxes. -/
def Instr.wf : Instr → Bool
  | .sequencerSample job _ _ => decide (job < 8)
  | .boundaryConditionsMet job _ _ _ => decide (job < 8)
  | .courseEnd job _ _ => decide (job < 8)
  | .trowelVerdict job _ => decide (job < 8)
  | .storeWriteback tile brick => decide (tile < 400) && decide (brick < 512)
  | .staticPreload job _ => decide (job < 8)
  | .refreshTimerExpiry job => decide (job < 8)
  | .refreshSweep job _ => decide (job < 8)
  | .refreshSweepEnd job => decide (job < 8)
  | .holdingSweep tile => decide (tile < 400)
  | .faultHoldHandling job _ => decide (job < 8)
  | .mismatchListExpiry => true
  | .storeSweepRead tile _ => decide (tile < 400)
  | .trwRegisterAudit _ => true
  | .voteFix tile _ => decide (tile < 400)
  | .trowelStop tile _ => decide (tile < 400)
  | .cmdImageLoad h _ _ => hdrOk h
  | .imageHeader _ => true
  | .imageDescriptor _ => true
  | .imageTileBlock _ => true
  | .imageSlabBlock _ => true
  | .imageSignatureTable _ => true
  | .imageEndRecord _ => true
  | .tileRebind vt => decide (vt < 384)
  | .loadSilenceTimeout => true
  | .cmdImageAbort h => hdrOk h
  | .cmdImageReadbackGolden h _ _ _ _ _ => hdrOk h
  | .cmdImageReadbackPlanes h _ _ _ _ _ => hdrOk h
  | .cmdChainArm h => hdrOk h
  | .cmdChainDisarm h => hdrOk h
  | .chainData => true
  | .chainSessionSilence => true
  | .chainAbort => true
  | .chainPortsRestore => true
  | .cmdMemMap h _ _ => hdrOk h
  | .memMapDone => true
  | .cmdMemUnmap h _ _ => hdrOk h
  | .designMemoryAccess job _ => decide (job < 8)
  | .farLineRead _ _ _ => true
  | .farLineWrite _ _ _ => true
  | .tileMemoryReply job vt port => decide (job < 8) && decide (vt < 384) && decide (port < 2)
  | .plcEntryRebuild _ => true
  | .placementEpochEnd => true
  | .pageMigrationDone _ _ => true
  | .cmdPlcPolicy h _ => hdrOk h
  | .cmdPlcQuery h _ _ => hdrOk h
  | .cmdMemPinPin h _ _ _ => hdrOk h
  | .cmdMemPinExclude h _ _ => hdrOk h
  | .cmdMemPinClear h _ _ => hdrOk h
  | .cmdMemPageReset h _ => hdrOk h
  | .pageResetDone => true
  | .cmdMemRegions h _ => hdrOk h
  | .cmdMemRights h _ _ => hdrOk h
  | .cmdMemDmaAssign h _ _ => hdrOk h
  | .cmdMemQuarantineRead h first => hdrOk h && decide (first < 64)
  | .cmdMemQuarantineRemove h _ => hdrOk h
  | .bar4Read fn _ _ _ => decide (fn ≤ 8)
  | .bar4Write fn _ _ _ => decide (fn ≤ 8)
  | .mbxDmaDoorbell fn channel _ => decide (fn ≤ 8) && decide (channel < 8)
  | .dmaDescriptor channel _ _ _ => decide (channel < 8)
  | .dmaDescriptorComplete channel => decide (channel < 8)
  | .mbxDmaRestart fn channel => decide (fn ≤ 8) && decide (channel < 8)
  | .lp5xRefresh channel => decide (channel < 32)
  | .mr4Read channel _ _ => decide (channel < 32)
  | .dqsOscMeasure channel _ => decide (channel < 32)
  | .dqRetrainPause channel _ => decide (channel < 32)
  | .channelTrainingDone channel _ _ => decide (channel < 32)
  | .fullTraining => true
  | .fullTrainingDone _ _ => true
  | .pprSoftRepair _ _ => true
  | .cmdMemScrub h _ _ _ _ => hdrOk h
  | .cmdMemScrubAbort h => hdrOk h
  | .scrubLine _ => true
  | .cmdMemEccDiagWriteFar h _ _ _ _ => hdrOk h
  | .cmdMemEccDiagReadFar h _ => hdrOk h
  | .cmdMemEccDiagWriteChip h _ _ _ _ => hdrOk h
  | .cmdMemEccDiagReadChip h _ _ => hdrOk h
  | .cmdMemRepairList h => hdrOk h
  | .cmdMemRepairRequest h _ => hdrOk h
  | .cmdMemRetain h _ => hdrOk h
  | .cmdMemChStatus h _ _ => hdrOk h
  | .cmdHodCreate h _ => hdrOk h
  | .cmdHodDestroy h _ => hdrOk h
  | .cmdHodFlush h _ => hdrOk h
  | .cmdHodQuery h _ => hdrOk h
  | .cmdHodQueryClear h _ => hdrOk h
  | .hodPushWord _ hod _ _ _ _ _ => decide (hod < 32768)
  | .hodPushMid fn hod size _ => decide (fn ≤ 8) && decide (hod < 32768) && sizeOk size
  | .hodPushFirst fn hod size _ => decide (fn ≤ 8) && decide (hod < 32768) && sizeOk size
  | .hodPushLast fn hod size _ => decide (fn ≤ 8) && decide (hod < 32768) && sizeOk size
  | .hodPushOnly fn hod size _ => decide (fn ≤ 8) && decide (hod < 32768) && sizeOk size
  | .hodPop fn hod _ => decide (fn ≤ 8) && decide (hod < 32768)
  | .hodCtlFlush fn hod => decide (fn ≤ 8) && decide (hod < 32768)
  | .cmdPalHandlers h _ _ => hdrOk h
  | .cmdPalFlowRead h _ => hdrOk h
  | .cmdPalFlowReset h _ => hdrOk h
  | .cmdPalPolicy h _ => hdrOk h
  | .cmdPalStats h _ _ => hdrOk h
  | .palletDispatch job => decide (job < 8)
  | .releaseBufferDrain => true
  | .cmdMsnAssign h _ => hdrOk h
  | .cmdMsnUnassign h _ => hdrOk h
  | .cmdMsnControlStart h _ => hdrOk h
  | .cmdMsnControlReset h _ _ => hdrOk h
  | .cmdMsnControlClock h _ _ => hdrOk h
  | .cmdMsnControlPauseTimeout h _ => hdrOk h
  | .cmdMsnLoad h _ _ => hdrOk h
  | .msnLoadDone => true
  | .cmdMsnStatus h _ => hdrOk h
  | .hodPush m _ rs2 rs1 rd =>
    decide (m < 192) && decide (rs2 < 32) && decide (rs1 < 32) && decide (rd < 32)
  | .hodPushl m _ rs2 rs1 rd =>
    decide (m < 192) && decide (rs2 < 32) && decide (rs1 < 32) && decide (rd < 32)
  | .hodPopInstruction m _ rs1 rd _ => decide (m < 192) && decide (rs1 < 32) && decide (rd < 32)
  | .hodStat m _ rs1 rd => decide (m < 192) && decide (rs1 < 32) && decide (rd < 32)
  | .hodWait m _ rs1 rd => decide (m < 192) && decide (rs1 < 32) && decide (rd < 32)
  | .hodWaitWake m => decide (m < 192)
  | .wfi m => decide (m < 192)
  | .palGet m _ rs1 rd => decide (m < 192) && decide (rs1 < 32) && decide (rd < 32)
  | .palDone m _ rd => decide (m < 192) && decide (rd < 32)
  | .palPusho m _ rs2 rs1 rd =>
    decide (m < 192) && decide (rs2 < 32) && decide (rs1 < 32) && decide (rd < 32)
  | .palPushoEntryFree m => decide (m < 192)
  | .masonDesignLoad m _ _ => decide (m < 192)
  | .masonDesignStore m _ _ => decide (m < 192)
  | .peerWindowAccess m _ => decide (m < 192)
  | .counterCsrRead m _ rd => decide (m < 192) && decide (rd < 32)
  | .mret m => decide (m < 192)
  | .masonPaused m => decide (m < 192)
  | .masonPauseTimeout job => decide (job < 8)
  | .masonSubstitution m => decide (m < 192)
  | .laneTraining port _ _ _ _ => decide (port < 12)
  | .laneTrainingDone port _ _ => decide (port < 12)
  | .portBringupTimeout port => decide (port < 12)
  | .init port _ => decide (port < 12)
  | .sequencedFlit port _ _ _ => decide (port < 12)
  | .ack port _ _ _ _ => decide (port < 12)
  | .nak port _ _ _ _ => decide (port < 12)
  | .ackSend port => decide (port < 12)
  | .ackTimeout port => decide (port < 12)
  | .quietEnter port => decide (port < 12)
  | .quietIdleExpiry port => decide (port < 12)
  | .quietWake port => decide (port < 12)
  | .retrainReq port => decide (port < 12)
  | .laneLockLoss lane => decide (lane < 108)
  | .codewordBurst lane => decide (lane < 108)
  | .laneErrorWindow lane => decide (lane < 108)
  | .linkTimeoutExpiry port => decide (port < 12)
  | .remoteHodItem port => decide (port < 12)
  | .remoteHodCreditGrant port => decide (port < 12)
  | .remoteHodSend hod _ => decide (hod < 32768)
  | .managementMessage port => decide (port < 12)
  | .cmdLryPortCfg h _ _ _ _ => hdrOk h
  | .cmdLryPortStatus h _ _ => hdrOk h
  | .cmdLryLaneTaps h _ _ => hdrOk h
  | .cmdLryLanePower h _ _ _ => hdrOk h
  | .cmdLryLaneTest h _ _ => hdrOk h
  | .cmdLryLaneWords h _ _ => hdrOk h
  | .injGo lane _ => decide (lane < 108)
  | .slip lane _ => decide (lane < 108)
  | .cmdLryFwdWrite h _ => hdrOk h
  | .cmdLryFwdRead h _ => hdrOk h
  | .cmdLryRouteWrite h _ => hdrOk h
  | .cmdLryRouteRead h _ => hdrOk h
  | .cmdLryPortResetRetrain h _ => hdrOk h
  | .cmdLryPortResetReset h _ => hdrOk h
  | .cmdLryPortResetClearMarks h _ => hdrOk h
  | .cmdArrOrdinal h _ => hdrOk h
  | .cmdArrStream h _ _ => hdrOk h
  | .cmdArrCkptPolicy h _ => hdrOk h
  | .cmdArrRollbackLocal h => hdrOk h
  | .cmdArrRollbackGlobal h _ _ => hdrOk h
  | .cmdArrCkptExport h _ => hdrOk h
  | .cmdArrCkptImport h _ _ => hdrOk h
  | .cmdArrStatus h => hdrOk h
  | .jointFrame port => decide (port < 12)
  | .barrierToken port => decide (port < 12)
  | .checkpointCut job => decide (job < 8)
  | .ckptDone job _ => decide (job < 8)
  | .checkpointMarker port => decide (port < 12)
  | .shadowPop job vt port => decide (job < 8) && decide (vt < 384) && decide (port < 4)
  | .replayDone job => decide (job < 8)
  | .resendRequest port => decide (port < 12)
  | .spinePacket _ _ _ => true
  | .epochChange _ _ => true
  | .oldCountZero => true
  | .domainPowerDown group => decide (group < 12)
  | .drainDone => true
  | .drainTimeout => true
  | .traceRecordWrite => true
  | .cmdSpnProbe h _ _ _ _ => hdrOk h
  | .cmdSpnTraceControl h _ => hdrOk h
  | .cmdSpnTraceCopy h _ _ _ => hdrOk h
  | .cmdSpnStatus h => hdrOk h
  | .safeWindow _ => true
  | .safeTimeout => true
  | .refWindow _ => true
  | .refMissingEdge => true
  | .refHoldoverEnd => true
  | .refRestore => true
  | .pllEnable pll _ => decide (pll < 6)
  | .pllStable pll => decide (pll < 6)
  | .dividerStep domain => decide (domain < 25)
  | .fabRampStart => true
  | .sourceSwitch domain => decide (domain < 25)
  | .forcedSwitch domain => decide (domain < 25)
  | .cmdClkFab h _ => hdrOk h
  | .cmdClkStatus h _ _ => hdrOk h
  | .resetNLow _ => true
  | .perstNLow => true
  | .perstNRise => true
  | .cmdRstDieCourse h => hdrOk h
  | .cmdRstDieFace h => hdrOk h
  | .viasEmpty => true
  | .courseDieCleared _ => true
  | .cmdJobReset h => hdrOk h
  | .vin48Apply => true
  | .vin48Qualified => true
  | .railInRange rail => decide (rail < 9)
  | .vin48Fail => true
  | .pwrEnRise _ => true
  | .pwrEnFall => true
  | .domainClearDone group => decide (group < 12)
  | .bootRomStart => true
  | .powerLinkLoss => true
  | .powerTelemetry _ => true
  | .inputPowerMeasure _ _ _ _ _ _ => true
  | .railWarn rail => decide (rail < 9)
  | .supplyGlitch _ => true
  | .kilnConversion _ _ _ => true
  | .kilnClear => true
  | .killAssert => true
  | .thermTripEvent => true
  | .coolingWaitEnd _ => true
  | .cmdPwrStateEnter h => hdrOk h
  | .deepHoldDemotionDone => true
  | .cmdPwrStateWake h => hdrOk h
  | .wakeRestore _ => true
  | .cmdPwrStatus h => hdrOk h
  | .cmdKlnStatus h => hdrOk h
  | .mbxDoorbell fn mbx _ => decide (fn ≤ 8) && decide (mbx < mbxCount fn)
  | .mbxDoneClear fn mbx => decide (fn ≤ 8) && decide (mbx < mbxCount fn)
  | .commandTaken => true
  | .mbxTimeout fn mbx => decide (fn ≤ 8) && decide (mbx < mbxCount fn)
  | .mbxEvrEnable fn => decide (fn ≤ 8)
  | .mbxEvrTail fn _ => decide (fn ≤ 8)
  | .flrVf fn => decide (fn ≤ 8)
  | .flrPf0 => true
  | .cmdIdentify h => hdrOk h
  | .cmdDevStatus h => hdrOk h
  | .cmdDevStatusClearAlert h _ => hdrOk h
  | .cmdTileStatus h _ _ _ _ => hdrOk h
  | .cmdJobStatus h => hdrOk h
  | .cmdEventLog h _ => hdrOk h
  | .bulkTransferDone _ _ => true
  | .cmdFwUpdate h _ _ => hdrOk h
  | .fwUpdateDone => true
  | .cmdFwActivate h => hdrOk h
  | .cmdFwActivateResetNow h => hdrOk h
  | .trialTimeout => true
  | .cmdRunHold h _ => hdrOk h
  | .cmdRunResume h _ _ => hdrOk h
  | .cmdRunResets h _ _ => hdrOk h
  | .cmdTrigGrant h _ => hdrOk h
  | .cmdTrigRelease h _ => hdrOk h
  | .cmdJobCreate h => hdrOk h
  | .cmdJobDestroy h => hdrOk h
  | .cmdSpareStatus h => hdrOk h
  | .cmdBistRun h _ => hdrOk h
  | .bistDone _ => true
  | .cmdSweepPolicy h _ _ _ => hdrOk h
  | .cmdRepairMap h _ => hdrOk h
  | .sweepSlot => true
  | .sweepTestsDone _ => true
  | .relocationCopy job _ _ => decide (job < 8)
  | .spareSwitch job => decide (job < 8)
  | .bedRowSpare _ _ _ => true
  | .efuseBurn _ _ => true
  | .rollLeaf _ => true
  | .earlyRoll root => decide (root < 8192)
  | .cmdTelRead h _ _ _ => hdrOk h
  | .cmdTelClear h _ _ => hdrOk h
  | .cmdCaptureCfg h _ => hdrOk h
  | .cmdCaptureCtlArm h => hdrOk h
  | .cmdCaptureCtlTrigger h _ => hdrOk h
  | .cmdCaptureCtlStop h => hdrOk h
  | .cmdCaptureCtlDisarm h => hdrOk h
  | .cmdCaptureRead h _ => hdrOk h
  | .pcieLinkTraining => true
  | .pmbusReadingRefresh => true
  | .page _ => true
  | .clearFaults => true
  | .capability => true
  | .voutMode => true
  | .statusByte => true
  | .statusWord => true
  | .statusVout => true
  | .statusInput => true
  | .statusTemperature => true
  | .statusMfrSpecific => true
  | .readVin => true
  | .readIin => true
  | .readVout => true
  | .readIout => true
  | .readTemperature1 => true
  | .readPin => true
  | .pmbusRevision => true
  | .mfrId => true
  | .mfrModel => true
  | .mfrRevision => true
  | .mfrKlnStatus => true
  | .mfrEvent => true
  | .pmbusUnsupported _ => true
  | .trstNLow => true
  | .extest => true
  | .samplePreload => true
  | .idcode => true
  | .clamp => true
  | .highz => true
  | .bypass => true
  | .dbgAccess _ _ => true
  | .registerWrite fn _ size _ => decide (fn ≤ 8) && sizeOk size
  | .scratchAccess m _ _ => decide (m < 192)
  | .patternCheckerLock lane _ _ => decide (lane < 108)
  | .wakeSequence port => decide (port < 12)
  | .resetNRise => true
  | .mbxEvrCoalesceExpiry fn => decide (fn ≤ 8)

end Sys2Proof
end

