-- ==== Sys2Proof/Decode.lean ====
section
/-! DEFINITION. The words of the command table. spec/opcode_table.json gives none of its 324 rows
any bits: the block takes commands and events, and no row is spelt by a word. -/

namespace Sys2Proof

/-- The command that a word of the table spells: the table gives no row any bits, so none. -/
def decodeTableWord (_nbits _w : Nat) : Option Instr := none

end Sys2Proof
end

