-- ==== Sys2Proof/Machine/Codes.lean ====
section
/-! DEFINITION. Check codes: SEC-DED (R538), CRC-32C (R103), Reed–Solomon (R196), parity (Table
8-1), and the byte-order helpers every structure uses (R3, R4). -/

namespace Sys2Proof.Machine

/-! ## Bits and bytes -/

/-- `n` bytes of a number, least significant first (R4). -/
def leBytes : Nat → Nat → List Byte
  | 0, _ => []
  | n + 1, v => BitVec.ofNat 8 v :: leBytes n (v / 256)

/-- The number a little-endian byte string holds (R4). -/
def leNat : List Byte → Nat
  | [] => 0
  | b :: bs => b.toNat + 256 * leNat bs

/-- The little-endian number in `n` bytes from offset `off`. -/
def leAt (bs : List Byte) (off n : Nat) : Nat := leNat ((bs.drop off).take n)

/-- Field [hi:lo] of a number (R3). -/
def field (v hi lo : Nat) : Nat := v / 2 ^ lo % 2 ^ (hi + 1 - lo)

/-- Bit i of a number. -/
def bitOf (v i : Nat) : Bool := v.testBit i

/-- 1 for true. -/
def b2n (b : Bool) : Nat := if b then 1 else 0

/-- Parity of the lowest `n` bits: true when an odd number of them is 1. -/
def oddBits : Nat → Nat → Bool
  | 0, _ => false
  | n + 1, v => xor (v.testBit n) (oddBits n v)

/-! ## SEC-DED (R538) -/

/-- Number of ones among the lowest `n` bits. -/
def weight : Nat → Nat → Nat
  | 0, _ => 0
  | n + 1, v => b2n (v.testBit n) + weight n v

/-- The r-bit values of a given weight in rising order. -/
def colsOfWeight (r w : Nat) : List Nat := (List.range (2 ^ r)).filter (fun v => weight r v == w)

/-- The column list of R538: weight 3, then 5, then 7. -/
def secCols (r k : Nat) : List Nat :=
  (colsOfWeight r 3 ++ colsOfWeight r 5 ++ colsOfWeight r 7).take k

/-- XOR of the columns of the data bits that are 1, from bit `i` on. -/
def secFold : List Nat → Nat → Nat → Nat
  | [], _, _ => 0
  | c :: cs, i, d => (if d.testBit i then c else 0) ^^^ secFold cs (i + 1) d

/-- Check bits of `k` data bits under `r` check bits. -/
def secCheck (r k d : Nat) : Nat := secFold (secCols r k) 0 d

/-- What a SEC-DED read finds: the data and check bits to use, and whether they were corrected; none
when uncorrectable. -/
def secRead (r k d c : Nat) : Option (Nat × Nat × Bool) :=
  let syn := c ^^^ secCheck r k d
  if syn = 0 then some (d, c, false)
  else match (secCols r k).findIdx? (· == syn) with
    | some i => some (d ^^^ 2 ^ i, c, true)
    | none =>
      match (List.range r).find? (fun j => 2 ^ j == syn) with
      | some j => some (d, c ^^^ 2 ^ j, true)
      | none => none

/-- A word of `k` data bits with its `r` check bits above them, as stored. -/
def secEncode (r k d : Nat) : Nat := d + secCheck r k d * 2 ^ k

/-- A SEC-DED read of a stored word: the corrected stored word and whether it changed. -/
def secDecode (r k w : Nat) : Option (Nat × Bool) :=
  match secRead r k (w % 2 ^ k) (w / 2 ^ k) with
  | some (d, c, fixed) => some (d + c * 2 ^ k, fixed)
  | none => none

/-! ## CRC-32C (R103) -/

/-- One bit step of the reflected polynomial of 0x1EDC_6F41. -/
def crcStep (c : BitVec 32) : BitVec 32 :=
  if c.getLsbD 0 then (c >>> 1) ^^^ 0x82F63B78 else c >>> 1

def crcByte (c : BitVec 32) (b : Byte) : BitVec 32 :=
  let x := c ^^^ b.setWidth 32
  crcStep (crcStep (crcStep (crcStep (crcStep (crcStep (crcStep (crcStep x)))))))

/-- CRC register after a byte string, from a given register. -/
def crcRun (c : BitVec 32) (bs : List Byte) : BitVec 32 := bs.foldl crcByte c

/-- CRC-32C of a byte string. -/
def crc32c (bs : List Byte) : BitVec 32 := crcRun 0xFFFFFFFF bs ^^^ 0xFFFFFFFF

/-- Row signature: the CRC of the row's 64 bytes (R110, R105). -/
def rowSig (r : Row) : BitVec 32 := crc32c (leBytes 64 r.toNat)

/-! ## Reed–Solomon over GF(2⁸), polynomial 0x11D (R196) -/

/-- Multiplication by α = 0x02. -/
def gfTwice (a : Byte) : Byte := if a.getLsbD 7 then (a <<< 1) ^^^ 0x1D else a <<< 1

def gfMulBits : Nat → Byte → Byte → Byte
  | 0, _, _ => 0
  | n + 1, a, b => (if b.getLsbD 0 then a else 0) ^^^ gfMulBits n (gfTwice a) (b >>> 1)

/-- Product in the field. -/
def gfMul (a b : Byte) : Byte := gfMulBits 8 a b

/-- αⁿ. -/
def gfPow : Nat → Byte
  | 0 => 1
  | n + 1 => gfTwice (gfPow n)

def gfExp (a : Byte) : Nat → Byte
  | 0 => 1
  | n + 1 => gfMul a (gfExp a n)

/-- Inverse (a²⁵⁴). -/
def gfInv (a : Byte) : Byte := gfExp a 254

/-- Syndrome for root αʲ of an error pattern: byte position i stands at degree 135 − i. -/
def rsSyndrome (errs : List (Nat × Byte)) (j : Nat) : Byte :=
  errs.foldl (fun acc p => acc ^^^ gfMul p.2 (gfPow ((135 - p.1) * j % 255))) 0

/-- The one byte error that explains four syndromes, if one does. -/
def rsOne (s0 s1 s2 s3 : Byte) : Option (List (Nat × Byte)) :=
  if s0 = 0 then none else
  (List.range 136).findSome? fun i =>
    let x := gfPow (135 - i)
    if gfMul s0 x = s1 && gfMul s1 x = s2 && gfMul s2 x = s3 then some [(i, s0)] else none

/-- The two byte errors that explain four syndromes, if two do. -/
def rsTwo (s0 s1 s2 s3 : Byte) : Option (List (Nat × Byte)) :=
  (List.range 136).findSome? fun i =>
    (List.range i).findSome? fun k =>
      let x := gfPow (135 - i)
      let y := gfPow (135 - k)
      let e := gfMul (s1 ^^^ gfMul y s0) (gfInv (x ^^^ y))
      let f := s0 ^^^ e
      if e ≠ 0 && f ≠ 0
        && (gfMul e (gfMul x x) ^^^ gfMul f (gfMul y y)) = s2
        && (gfMul e (gfMul x (gfMul x x)) ^^^ gfMul f (gfMul y (gfMul y y))) = s3
      then some [(k, f), (i, e)] else none

/-- XOR a byte into an error pattern, which lists positions in rising order and no zero. -/
def errXor : List (Nat × Byte) → Nat → Byte → List (Nat × Byte)
  | [], i, b => if b = 0 then [] else [(i, b)]
  | (j, c) :: t, i, b =>
    if i < j then (if b = 0 then (j, c) :: t else (i, b) :: (j, c) :: t)
    else if i = j then (if c ^^^ b = 0 then t else (j, c ^^^ b) :: t)
    else (j, c) :: errXor t i b

/-- XOR of two error patterns. -/
def errMerge (a b : List (Nat × Byte)) : List (Nat × Byte) :=
  b.foldl (fun acc p => errXor acc p.1 p.2) a

/-- What the check makes of a stored line whose bytes differ from a codeword by `errs`: the pattern
left after correction, and whether it corrected anything; none when it cannot correct. The code is
linear, so only the difference counts. -/
def rsCorrect (errs : List (Nat × Byte)) : Option (List (Nat × Byte) × Bool) :=
  let s0 := rsSyndrome errs 0
  let s1 := rsSyndrome errs 1
  let s2 := rsSyndrome errs 2
  let s3 := rsSyndrome errs 3
  if s0 = 0 && s1 = 0 && s2 = 0 && s3 = 0 then some (errs, false)
  else match rsOne s0 s1 s2 s3 with
    | some p => some (errMerge errs p, true)
    | none =>
      match rsTwo s0 s1 s2 s3 with
      | some p => some (errMerge errs p, true)
      | none => none

/-- Remainder step of the systematic encoder: one more data symbol into four check symbols, for
g(x) = (x + α⁰)(x + α¹)(x + α²)(x + α³) = x⁴ + 0x0F x³ + 0x36 x² + 0x78 x + 0x40. -/
def rsStep (c : Byte × Byte × Byte × Byte) (d : Byte) : Byte × Byte × Byte × Byte :=
  let f := d ^^^ c.1
  (c.2.1 ^^^ gfMul f 0x0F, c.2.2.1 ^^^ gfMul f 0x36, c.2.2.2 ^^^ gfMul f 0x78, gfMul f 0x40)

/-- Check symbols 0–3 of 132 data symbols (ciphertext then tag bytes). -/
def rsCheck (bs : List Byte) : List Byte :=
  let c := bs.foldl rsStep (0, 0, 0, 0)
  [c.1, c.2.1, c.2.2.1, c.2.2.2]

/-! ## Hod store words (Table 8-1) -/

/-- A hod store word with even parity over bits [69:0]. -/
def hodWordOf (data : Word) (prio : Nat) (start last poison : Bool) : BitVec 71 :=
  let body := data.toNat + prio % 8 * 2 ^ 65 + b2n start * 2 ^ 68 + b2n last * 2 ^ 69
  let par := b2n (oddBits 70 body)
  BitVec.ofNat 71 (body + par * 2 ^ 64 + b2n poison * 2 ^ 70)

/-- Whether a stored word passes its parity (R256). -/
def hodParityOk (w : BitVec 71) : Bool := !oddBits 70 w.toNat

end Sys2Proof.Machine
end

