-- ==== Sys2Proof/Machine/Operands.lean ====
section
/-! DEFINITION. The operand forms that commands share: the job a request names, host buffer lists,
ranges of units. Reads and writes of registers by access code stand in HostOps.lean. -/

namespace Sys2Proof.Machine

/-- The job a request names: a VF that names 0xFF means its own (R454; log 10). -/
def namedJob (h : Hdr) : Nat := if h.fn ≠ 0 ∧ h.job = 0xFF then h.fn - 1 else h.job

/-- A malformed buffer list (R456): the index of the failing descriptor. -/
def badBulk (b : Bulk) : Option Nat :=
  if b.lens.isEmpty || decide (1048576 < b.lens.length) then some 0
  else match b.lens.findIdx? (fun n => n == 0 || decide (4294967295 < n)) with
    | some i => some i
    | none => b.bad

def bulkBytes (b : Bulk) : Nat := b.lens.foldl (· + ·) 0

/-- A range of units inside `n` units; at most `most` of them. -/
def rangeOk (first count n most : Nat) : Bool :=
  decide (1 ≤ count) && decide (count ≤ most) && decide (first + count ≤ n)

end Sys2Proof.Machine
end

