-- ==== Sys2Proof/Machine/State.lean ====
section
/-! DEFINITION. The state of the KZ6532: one record per block of the device, each field naming the
rule or table that gives it, and `State.reset`. Field defaults ARE the reset values; INVENTORY.md
lists each with its source. -/

namespace Sys2Proof.Machine

/-- Why a step can fault. -/
inductive Fault where
  /-- Raised by an event that names a unit the device does not have (port 12, tile 400, mason 192):
  the spec gives no such unit, so nothing could act. Safe: the machine stops where the hardware has
  no behaviour. -/
  | noSuchUnit
  deriving DecidableEq, Repr

/-- Why a step can be refused. -/
inductive Refusal where
  /-- Raised by exec for a command that has no meaning yet. Safe. -/
  | notModelled (mnemonic : String)
  deriving DecidableEq, Repr

/-! ## Jobs -/

/-- Causes of a fault hold, priority 1 of Table 3-6. -/
inductive HoldCause where
  | mismatch | storeError | trowelStop | frameFault | relocation | spareSwitch | dieReset
  | channelFailed | resendFailed | audit
  /-- the job stays in STATE 5 until the host chooses (R147, R379) -/
  | awaitHost
  deriving DecidableEq, Repr

/-- A command hold ordered for a later cycle (R458), with the command it completes. -/
structure HoldOrder where
  atCycle : Word
  hdr     : Option Hdr := none
  deriving DecidableEq, Repr

/-- Where a checkpoint capture stands (Table 11-5): steps 1–2, then from the cut on. -/
inductive CapStage where
  | pausing | cut
  deriving DecidableEq, Repr

/-- A rollback and replay in progress (Table 11-10): k, e, the boundary b as the course before it
(32 before user cycle 0) and whether its course end was done, who started it, and what is left of the journal. -/
structure Replay where
  k         : Word
  e         : Word
  bCourse   : Nat
  bEnd      : Bool
  byCommand : Bool
  hdr       : Option Hdr
  recs      : List JEntry
  /-- HOD_DELIVER records whose shadow pop is still to be made (R378) -/
  shadow    : List JEntry
  diverged  : Bool
  deriving DecidableEq, Repr

/-- The image a job holds: the golden copy byte for byte (R133) with the frames, slabs and links
read from it. Rows are keyed ((vt × 32 + course) × 512 + brick) × 16 + row. -/
structure Image where
  bytes   : List Byte := []
  rows    : SMap Row := []
  slabs   : SMap (BitVec 72) := []
  slabCfg : SMap (BitVec 5) := []
  links   : List (Nat × Link) := []
  crc     : BitVec 32 := 0
  vtCount : Nat := 0
  /-- far lines of the golden-copy region that hold the image, in its order: first line and number -/
  spans   : List (Nat × Nat) := []
  deriving DecidableEq, Repr

/-- One of the eight jobs. -/
structure Job where
  created   : Bool := false
  state     : JobState := .empty
  /-- key store draw of the job's key (R198) -/
  key       : Option Nat := none
  /-- FAB_SEQ_STATUS (Table 3-4): COURSE, the eight W_ bits, RELEASE -/
  course    : Nat := 0
  waits     : BitVec 8 := 0
  /-- cause of Table 3-6 that the stretch since the last sample counts against (R89); 0 while the job
  holds at no boundary -/
  charge    : Nat := 0
  release   : Nat := 0
  /-- FAB_SEQ_CYCLE (Table 3-5) -/
  cycle     : Word := 0
  desc      : Desc := {}
  image     : Option Image := none
  /-- OUT_HOLD, WE_HOLD and user resets 1–7 (R62, R73) -/
  outHold   : Bool := false
  weHold    : Bool := false
  resets    : BitVec 7 := 0
  resetAt   : List (Word × BitVec 7) := []
  noRelease : Bool := false
  /-- the job waits before user cycle 0 (R130) -/
  beforeZero : Bool := false
  /-- the sequencer has sent go for the next boundary (R81) -/
  go        : Bool := false
  /-- go already sent for that many boundaries after the next one: static courses shorter than 8 fabric
  cycles are sampled in earlier user cycles (R81) -/
  ahead     : Nat := 0
  /-- the course end before the boundary is done and the swap is pending (R67) -/
  endDone   : Bool := false
  /-- the boundary is late: its conditions arise at the course end itself (R539) -/
  late      : Bool := false
  /-- a fault hold was pending where a checkpoint is due: it is not taken (R87) -/
  skipCkpt  : Bool := false
  /-- ports that sampled pop_request at the course end whose swap is pending: virtual tile, port -/
  pops      : List (Nat × Nat) := []
  /-- what the job's pin ports drive, and with which output enables (R57) -/
  pinVal    : BitVec 16 := 0
  pinOe     : BitVec 16 := 0
  /-- rows to rewrite in the fault hold: physical tile, brick, course, row, and whether the store
  entry failed (Table 5-2, R157) -/
  badRows   : List (Nat × Nat × Nat × Nat × Bool) := []
  faults    : List HoldCause := []
  sweepDue  : Bool := false
  sweepRun  : Bool := false
  /-- a frequency change holds the job at priority 2 (R412) -/
  clockHold : Bool := false
  cmdHeld   : Bool := false
  holdAt    : List HoldOrder := []
  resetReq  : Option Hdr := none
  memReqs   : List MemReq := []
  /-- sampled TRIG value (R58) -/
  trig      : BitVec 16 := 0
  /-- checkpoints (R364–R369) -/
  ckptLog2  : Nat := 20
  slotA     : Option Ckpt := none
  slotB     : Option Ckpt := none
  nextB     : Bool := false
  recoverable : Bool := false
  /-- early checkpoints scheduled (R365) -/
  earlyAt   : List Word := []
  capturing : Option CapStage := none
  /-- the snapshot taken at the cut (R366) -/
  cutState  : Option Ckpt := none
  /-- the job has a journal epoch and an undo epoch, of checkpoint cycle `epochK` (R149, R366) -/
  journaling : Bool := false
  epochK    : Word := 0
  epoch     : BitVec 4 := 0
  /-- blocks already in the undo log in this undo epoch (R374) -/
  written   : List Nat := []
  queued    : List QInput := []
  replay    : Option Replay := none
  /-- high-water marks of R377 for hods; those of streams are `SrcRun.sent` and `ConsRun.tokened`,
  which a local rollback leaves alone -/
  hodHwm    : List (Nat × Nat) := []
  /-- the job's state was imported (R381) -/
  imported  : Bool := false
  /-- EV_LOAD_DONE of the job's load has been raised (R119) -/
  loadDone  : Bool := false
  exportReq : Option Hdr := none
  capture   : Capture := {}
  /-- Belic firmware has acted on the fault hold; the repeated preload's verdict is awaited -/
  rewriting : Bool := false
  /-- rollback wanted after the good verdict (Table 5-2 step 5) -/
  wantRollback : Bool := false
  deriving DecidableEq, Repr

/-! ## Loading -/

inductive LoadStage where
  | header | descriptor | tiles | slabs | signatures | endRecord
  /-- every check has passed; the fabric clock comes down first (R115) -/
  | ramping
  /-- applied; the start-up preload is to come -/
  | starting
  deriving DecidableEq, Repr

/-- The load in progress (R118–R121). -/
structure Load where
  job       : Nat := 0
  hdr       : Option Hdr := none
  noRelease : Bool := false
  chain     : Bool := false
  /-- bytes that the host's descriptor list covers (R121) -/
  covered   : Nat := 0
  stage     : LoadStage := .header
  /-- bytes of the image taken so far, and those of a section not yet whole (chain) -/
  off       : Nat := 0
  buf       : List Byte := []
  vtCount   : Nat := 0
  courseCount : Nat := 0
  total     : Nat := 0
  slabOff   : Nat := 0
  sigOff    : Nat := 0
  slabBlocks : Nat := 0
  slabSeen  : Nat := 0
  /-- virtual tile × 48 + slab of the last slab block, plus one -/
  lastSlab  : Nat := 0
  nextVt    : Nat := 0
  /-- device_ordinal of the header -/
  ordinal   : Nat := 0
  desc      : Desc := {}
  image     : Image := {}
  /-- (virtual tile, physical tile) chosen -/
  bound     : List (Nat × Nat) := []
  deriving DecidableEq, Repr

/-- Chain loading (R122–R127). -/
structure Chain where
  armed     : Bool := false
  /-- the CMD_IMAGE_LOAD that brings the stream to a head device, not yet answered, with NO_RELEASE
  (R118, R122) -/
  req       : Option (Hdr × Bool) := none
  /-- the first stream byte of the session has arrived -/
  session   : Bool := false
  /-- an image of this stream has been kept, or its keeping has failed with no ordinal set (R124) -/
  kept      : Bool := false
  gaveUp    : Bool := false
  outLost   : Bool := false
  discarded : Nat := 0
  /-- bytes collected of a header or end record, bytes left of the image that passes, and whether it is
  kept or forwarded -/
  hdrBuf    : List Byte := []
  remaining : Nat := 0
  keep      : Bool := false
  forward   : Bool := false
  /-- the array end record has passed: the ports return after 100 ms (R351) -/
  endPassed : Bool := false
  deriving DecidableEq, Repr

/-! ## Memory -/

structure Mem where
  ppt       : SMap Ppt := []
  /-- mirror of every mapped page (R178); unlisted: not mapped -/
  mirror    : SMap (Option Mirror) := []
  /-- page held by a near frame (R178) -/
  reverse   : SMap (Option Nat) := []
  /-- bed-memory words of near frames with check bits; unlisted words are zero (R436) -/
  near      : SMap (BitVec 72) := []
  /-- far lines; an unlisted line of a mapped frame holds the zeros of CMD_MEM_MAP (R169) -/
  far       : SMap (Option FarLine) := []
  retiredFar : List Nat := []
  nearOut   : List Nat := []
  quar      : List QEntry := []
  knobs     : Knobs := {}
  knobsNext : Option Knobs := none
  /-- migrations chosen and not yet done, oldest first: page, whether a demotion (R180, R183) -/
  moves     : List (Nat × Bool) := []
  /-- lines that the migration under way has passed (R183) -/
  copyPos   : Nat := 0
  stalled   : List Nat := []
  pptErr    : SMap (BitVec 72) := []
  regions   : Regions := {}
  rights    : List (BitVec 16) :=
    [0, 0x3, 0xC, 0x30, 0xC0, 0x300, 0xC00, 0x3000, 0xC000,
     0x3, 0xC, 0x30, 0xC0, 0x300, 0xC00, 0x3000, 0xC000, 0, 0xFFFF]
  /-- time in µs at which EV_SEC_RIGHTS was last raised for a master (R203) -/
  rightsEv  : SMap (Option Nat) := []
  deriving DecidableEq, Repr

/-- Table 7-4. -/
structure Chan where
  st        : Nat := 0
  hot       : Bool := false
  over105   : Bool := false
  rate      : BitVec 5 := 0
  drift     : Nat := 0
  retrains  : Nat := 0
  recovered : Bool := false
  coolReads : Nat := 0
  retrainDue : Bool := false
  /-- refreshes issued since training, and those owed (R218, R222) -/
  refreshes : Nat := 0
  owed      : Nat := 0
  /-- last DQS oscillator measurement and the stored baseline, in ps (R221) -/
  osc       : Nat := 0
  oscBase   : Nat := 0
  tries     : Nat := 0
  deriving DecidableEq, Repr

/-- A running scrub with the summary it is building (Table 7-7). -/
structure Scrub where
  hdr       : Hdr := {}
  /-- bandwidth share in percent (R236) -/
  share     : Nat := 5
  next      : Nat := 0
  stop      : Nat := 0
  lines     : Nat := 0
  corrected : Nat := 0
  uncorrectable : Nat := 0
  skipped   : Nat := 0
  firstBad  : Option Nat := none
  lastBad   : Option Nat := none
  started   : Nat := 0
  deriving DecidableEq, Repr

structure Lp5x where
  chans     : SMap Chan := []
  retainMask : BitVec 8 := 0xFF
  retainJobs : BitVec 8 := 0
  training  : Bool := false
  /-- BAR4 accesses that wait for a channel's training, oldest first (R223) -/
  waiting   : List HostAcc := []
  /-- rows that the dies hold soft-repaired, by row key: replayed from the soft repair map by a full
  training with reset (R216 step 8) -/
  softRows  : List Nat := []
  scrub     : Option Scrub := none
  /-- times (µs) of corrected reads per row, key (channel × 16 + bank) × 131072 + row (R232) -/
  ceTimes   : SMap (List Nat) := []
  candidates : List Nat := []
  /-- diagnostic words of targets 2 and 4 (Table 7-8), key target × 16 + word -/
  diag      : SMap (BitVec 72) := []
  deriving DecidableEq, Repr

/-! ## Hods, scheduler, masons -/

structure Pal where
  hods      : SMap Hod := []
  /-- items that have become complete: each takes its place in their order (R267) -/
  stored    : Nat := 0
  /-- handler offset by job × 256 + type (R266) -/
  handlers  : SMap (Option (BitVec 16)) := []
  affinity  : Nat := 2
  /-- flow state by job × 65536 + flow (R273) -/
  flows     : SMap Flow := []
  rb        : List RbEntry := []
  /-- completions of reset masons and discarded pallets that wait for a free entry, oldest first (R276) -/
  rbWait    : List RbEntry := []
  /-- pallets dispatched by job × 256 + type (R280) -/
  dispatched : SMap Nat := []
  busy      : SMap Nat := []
  idle      : SMap Nat := []
  /-- hod-store blocks of 16 words out of the free pool (R487) -/
  blocksOut : List Nat := []
  /-- remote pairs by hod: items sent and credit total received; credit total granted, items
  received (R348) -/
  rSent     : SMap Nat := []
  rCredit   : SMap Nat := []
  rGranted  : SMap Nat := []
  rTaken    : SMap Nat := []
  deriving DecidableEq, Repr

structure Msn where
  masons    : SMap Mason := []
  groups    : SMap MGroup := []
  pauseUs   : Nat := 200
  /-- times (µs) of uncorrectable scratch errors by physical mason (R311) -/
  ueTimes   : SMap (List Nat) := []
  failedPhys : List Nat := []
  /-- programs accepted and not yet written: request, masons, image (R305) -/
  loads     : List (Hdr × List Nat × List Byte) := []
  /-- assignments that wait for a group to power up: request, job, masons (R284) -/
  assigning : List (Hdr × Nat × List Nat) := []
  deriving DecidableEq, Repr

/-! ## Larey, arrays, spine -/

structure Larey where
  ports     : SMap Port := []
  lanes     : SMap Lane := []
  linkTimeoutUs : Nat := 2000000
  ackTimeoutUs  : Nat := 20
  fwd       : SMap Fwd := []
  /-- where the stored bits of a forwarding entry differ from what was written, check bits above (R538) -/
  fwdErr    : SMap (BitVec 39) := []
  route     : SMap Nat := []
  unroutEv  : SMap (Option Nat) := []
  deriving DecidableEq, Repr

structure Arr where
  ordinal   : Option Nat := none
  ordFromChain : Bool := false
  src       : SMap SrcEntry := []
  cons      : SMap ConsEntry := []
  srcRun    : SMap SrcRun := []
  consRun   : SMap ConsRun := []
  journal   : List JEntry := []
  undo      : List Undo := []
  /-- byte of the undo-log region at which the next record starts -/
  undoPos   : Nat := 0
  frameErrEv : SMap (Option Nat) := []
  /-- frames discarded by stream (R361), and remote items discarded by hod (R348) -/
  dropped   : SMap Nat := []
  itemDrops : SMap Nat := []
  /-- markers already relayed: job, target (R365) -/
  relayed   : List (Nat × Word) := []
  /-- ordinals from which a job has received frames or tokens (R365) -/
  peers     : List (Nat × Nat) := []
  deriving DecidableEq, Repr

structure Probe where
  cfg  : BitVec 64 := 0
  mtch : BitVec 64 := 0
  mask : BitVec 64 := 0
  deriving DecidableEq, Repr

/-- Arbiter of a router output (R391): the virtual network other than JNT served last, and for how many
cycles each has held a packet and a credit and been passed over. -/
structure Arb where
  last   : Nat := 4
  passed : List Nat := [0, 0, 0, 0, 0]
  deriving DecidableEq, Repr

/-- A domain power-down in progress (Table 12-5). -/
structure PowerDown where
  group : Nat
  hdr   : Option Hdr := none
  deriving DecidableEq, Repr

structure Spn where
  inject    : Bool := false
  flipping  : Bool := false
  oldCount  : BitVec 32 := 0
  /-- routing entries, key (bank × 100 + router) × 136 + entry; unlisted: column first, then row
  (R392) -/
  routes    : SMap Nat := []
  /-- where the stored bits of a routing entry differ from what was written, check bits above (R538) -/
  routeErr  : SMap (BitVec 7) := []
  /-- arbiters of the router outputs, key router × 5 + output (R391) -/
  arb       : SMap Arb := []
  /-- local fence masks, key bank × 100 + router -/
  fences    : SMap (BitVec 6) := []
  drains    : SMap Nat := []
  badDest   : SMap Nat := []
  fenceDisc : SMap Nat := []
  badDestEv : SMap (Option Nat) := []
  fenceEv   : SMap (Option Nat) := []
  probes    : SMap Probe := []
  /-- SPN_TRACE_CTL (Table 12-9) -/
  trcEn     : Bool := false
  trcWrap   : Bool := false
  trcFull   : Bool := false
  trcNext   : Nat := 0
  trcLost   : Nat := 0
  trcQueue  : List (BitVec 256) := []
  trcBuf    : SMap (BitVec 256) := []
  /-- SPINE cycle count (R402) -/
  cycles    : Nat := 0
  down      : Option PowerDown := none
  /-- groups whose fence bit the next epoch change clears (R397 step 5, R398) -/
  unfence   : List Nat := []
  deriving DecidableEq, Repr

/-! ## Clocks, resets, power -/

/-- Where a FAB frequency change stands (Table 13-4). -/
inductive ChgStage where
  | pllWait | holding | rampDown | switching | rampUp
  deriving DecidableEq, Repr

structure FabChange where
  mhz   : Nat
  stage : ChgStage
  deriving DecidableEq, Repr

structure Clk where
  /-- CLK_STATUS (Table 13-5) -/
  pllEn     : BitVec 6 := 0
  pllStable : BitVec 6 := 0
  safeStable : Bool := false
  refStable : Bool := false
  refArmed  : Bool := false
  refLost   : Bool := false
  belicOnSafe : Bool := true
  fabSrc    : Bool := false
  fabDiv    : Nat := 4
  throttle  : Bool := false
  ramping   : Bool := false
  forced    : Bool := false
  /-- CLK_FAB_CTL (Table 13-6) -/
  target    : Nat := 400
  granted   : Nat := 400
  pllMhz    : SMap Nat := []
  refLast   : Option Nat := none
  refRun    : Nat := 0
  change    : Option FabChange := none
  /-- every PLL-fed domain runs (R406, R417) -/
  domainsOn : Bool := false
  safeFailed : Bool := false
  restoring : Bool := false
  deriving DecidableEq, Repr

structure Rst where
  /-- RST_STATUS (Table 13-9) -/
  lastCause : Nat := 0
  perstSeen : Bool := false
  faceBusy  : Bool := false
  courseBusy : Bool := false
  viasEmpty : Bool := false
  courseResets : Nat := 0
  dieHdr    : Option Hdr := none
  /-- the device is held in reset (R422, R408) -/
  held      : Bool := true
  stepping  : BitVec 8 := 0x11
  serial    : BitVec 64 := 0
  deriving DecidableEq, Repr

/-- Table 14-3. -/
inductive PwrState where
  | off | standby | ready | run | hold | deepHold | trip
  deriving DecidableEq, Repr

structure Pwr where
  /-- OFF, STANDBY, DEEP HOLD and TRIP; READY stands for READY, RUN and HOLD, which follow the
  jobs (R434) -/
  state     : PwrState := .off
  booting   : Bool := false
  /-- rails on, in the order of Table 14-1: VAO, VB, VSA, VSH, VC, VF, VD1, VD2, VDQ -/
  rails     : BitVec 9 := 0
  sysKey    : Option Nat := none
  vin48     : Bool := false
  smbusOn   : Bool := false
  pwrEn     : Bool := false
  resetN    : Bool := true
  perstN    : Bool := false
  presentN  : Bool := true
  alertN    : Bool := true
  thermtripN : Bool := true
  kill      : Bool := false
  /-- kiln: readings (Table 14-6 encoding), broken diodes, threshold counts and actions -/
  temps     : List (BitVec 10) := [0, 0, 0]
  broken    : BitVec 3 := 0
  brokenEv  : BitVec 3 := 0
  atWarn    : List Nat := [0, 0, 0]
  atThrot   : List Nat := [0, 0, 0]
  atTrip    : List Nat := [0, 0, 0]
  warn      : Bool := false
  throtTherm : Bool := false
  throtPower : Bool := false
  tripping  : Bool := false
  cooling   : Bool := false
  /-- microseconds of HVOSC time since VIN48 was applied, and the times of the last trips in it (R446) -/
  hvUs      : Nat := 0
  tripTimes : List Nat := []
  lastTrip  : BitVec 2 := 0
  lockout   : Bool := false
  linkLost  : Bool := false
  /-- events sent over the power link, newest first: code, time (R531) -/
  linkEvs   : List (Nat × Nat) := []
  railMv    : List Nat := [0, 0, 0, 0, 0, 0, 0, 0, 0]
  railMa    : List Nat := [0, 0, 0, 0, 0, 0, 0, 0, 0]
  vinMv     : Nat := 0
  iinMa     : Nat := 0
  inW       : Nat := 0
  /-- a DEEP HOLD entry in progress, and a wake -/
  entering  : Option Hdr := none
  waking    : Option Hdr := none
  /-- a restart after a trip, with the jobs whose golden copies fail their read (R444, R445) -/
  restart   : Option (List Nat) := none
  deriving DecidableEq, Repr

/-- PMBus side of the HV controller (Table 18-7). -/
structure Hv where
  page      : Nat := 0
  cml       : Bool := false
  vWarn     : BitVec 9 := 0
  vFault    : BitVec 9 := 0
  vinUv     : Bool := false
  pinOver   : Bool := false
  otWarn    : Bool := false
  otFault   : Bool := false
  safeBad   : Bool := false
  refLost   : Bool := false
  linkLost  : Bool := false
  broken    : Bool := false
  /-- conditions that still hold, so that CLEAR_FAULTS leaves their latched bits -/
  vWarnNow  : BitVec 9 := 0
  vFaultNow : BitVec 9 := 0
  /-- readings of the last refresh -/
  rVin      : Nat := 0
  rIin      : Nat := 0
  rPin      : Nat := 0
  rMv       : List Nat := [0, 0, 0, 0, 0, 0, 0, 0, 0]
  rMa       : List Nat := [0, 0, 0, 0, 0, 0, 0, 0, 0]
  rKln      : BitVec 64 := 0
  deriving DecidableEq, Repr

/-! ## Host -/

structure Mbx where
  req      : BitVec 2048 := 0
  rsp      : BitVec 2048 := 0
  /-- the copy taken at the doorbell -/
  copy     : BitVec 2048 := 0
  busy     : Bool := false
  done     : Bool := false
  ignored  : Bool := false
  timedOut : Bool := false
  /-- the command of this copy answers after TIMED_OUT (R455), or after a PCIe reset (R424) -/
  late     : Bool := false
  orphan   : Bool := false
  deriving DecidableEq, Repr

structure Ring where
  base     : BitVec 64 := 0
  log2     : Nat := 6
  en       : Bool := false
  coalesce : Nat := 0
  head     : Nat := 0
  phase    : Bool := true
  tail     : Nat := 0
  lost     : Nat := 0
  lostSince : Nat := 0
  /-- records written since the last vector-0 message while an interval runs (R464) -/
  waiting  : Bool := false
  running  : Bool := false
  deriving DecidableEq, Repr

/-- An accepted command in progress (R455), with the numbers its completion needs. -/
structure Accepted where
  opcode : Nat
  hdr    : Hdr
  args   : List Nat := []
  deriving DecidableEq, Repr

structure HostIf where
  mbx       : SMap Mbx := []
  submitted : List (Nat × Nat) := []
  accepted  : List Accepted := []
  rings     : SMap Ring := []
  dma       : SMap DmaChan := []
  /-- the device event log, one entry per 32-byte record: event and which of its records (R467) -/
  log       : List (Ev × Nat) := []
  logLost   : Nat := 0
  seq       : Nat := 0
  msix      : SMap (BitVec 64) := []
  linkUp    : Bool := false
  linkTraining : Bool := false
  deriving DecidableEq, Repr

structure Fw where
  slotA     : Option FwImage := none
  slotB     : Option FwImage := none
  runningB  : Bool := false
  running   : Bool := false
  preferB   : Bool := false
  trial     : Bool := false
  goodUpdate : Option Bool := none
  recovery  : Bool := false
  secCount  : Nat := 0
  keyHashes : List (BitVec 384) := []
  revoked   : BitVec 4 := 0
  updating  : Option (Hdr × FwImage) := none
  deriving DecidableEq, Repr

/-! ## Spares, counters, debug -/

/-- A relocation pending or in progress (Table 16-5). -/
structure Reloc where
  job    : Nat
  vt     : Nat
  src    : Nat
  dst    : Nat
  /-- the tile that holds the virtual tile's state: `src`, or a target that has failed (R491) -/
  frm    : Nat
  retire : Bool
  reason : Nat
  copied : Bool := false
  deriving DecidableEq, Repr

structure Spares where
  map       : List Repair := []
  extra     : List Repair := []   -- brought in while the map was full (R481)
  fuses     : List Repair := []
  fusesUsed : Nat := 0
  /-- LP5X rows that hard repair has replaced for good, by row key (R233) -/
  hardRows  : List Nat := []
  mapFull   : Bool := false
  fusesFull : Bool := false
  session   : Nat := 0
  hours     : Nat := 24
  tilesEn   : Bool := true
  groupsEn  : Bool := true
  pos       : Nat := 0
  deferred  : Nat := 0
  skipped   : Nat := 0
  sweeping  : Option Region := none
  bist      : Option (Hdr × Region) := none
  reloc     : List Reloc := []
  /-- bond, via, row and column repairs waiting for a hold of the owning job (R486) -/
  toSwitch  : List (Nat × Repair) := []
  /-- regions whose first sweep of this boot session is done (R485) -/
  swept     : List Region := []
  poweredHours : Nat := 0
  hotHours  : Nat := 0
  mismatches : List (Nat × Nat × Nat × Nat × Nat) := []
  deriving DecidableEq, Repr

/-- A counter root: 48 bits with flags (Table 17-2). -/
structure Root where
  value      : BitVec 48 := 0
  sat        : Bool := false
  valid      : Bool := true
  incomplete : Bool := false
  err        : BitVec 55 := 0
  deriving DecidableEq, Repr

structure PNode where
  value   : Nat := 0
  invalid : Bool := false
  err     : BitVec 22 := 0
  deriving DecidableEq, Repr

structure Tel where
  leaves    : SMap Nat := []
  roots     : SMap Root := []
  pageLeaf  : SMap Nat := []
  pages     : SMap PNode := []
  snapshot  : SMap (BitVec 48) := []
  walk      : Nat := 0
  walkEndUs : Nat := 0
  /-- bytes of capture records in the capture engine's buffer (R520) -/
  capFill   : Nat := 0
  deriving DecidableEq, Repr

structure Jtag where
  ir       : BitVec 8 := 0x02
  capture  : BitVec 8 := 0x01
  dr       : BitVec 128 := 0
  deriving DecidableEq, Repr

/-- The KZ6532, whole. -/
structure State where
  /-- commands waiting, first in, first out -/
  pending : List Instr := []
  tiles   : SMap Tile := []
  tileMap : SMap TmEntry := []
  jobs    : SMap Job := []
  trigPin : SMap (Option Nat) := []
  load    : Option Load := none
  chain   : Chain := {}
  mem     : Mem := {}
  lp      : Lp5x := {}
  pal     : Pal := {}
  msn     : Msn := {}
  lry     : Larey := {}
  arr     : Arr := {}
  spn     : Spn := {}
  clk     : Clk := {}
  rst     : Rst := {}
  pwr     : Pwr := {}
  hv      : Hv := {}
  hif     : HostIf := {}
  fw      : Fw := {}
  spr     : Spares := {}
  tel     : Tel := {}
  jtag    : Jtag := {}
  /-- µs since cold power-up, and SCHED cycles (R279); an idle step advances both (log 7) -/
  nowUs   : Nat := 0
  sched   : Nat := 0
  /-- draws taken from the TRNG -/
  draws   : Nat := 0
  /-- the model's own: free values taken so far (log 1) -/
  freeCtr : Nat := 0
  /-- the model's own: everything driven outward, newest first (log 8) -/
  out     : List Out := []
  deriving DecidableEq, Repr

/-- The machine right after reset: every field at its default above. -/
def State.reset : State := {}

end Sys2Proof.Machine
end

