-- ==== Sys2Proof/Machine/Ops.lean ====
section
/-! DEFINITION. The named operations every family uses: sparse tables, access to the records of the
state, free values, counters, events and their rings, responses and completions, upsets. -/

namespace Sys2Proof.Machine

/-! ## Sparse tables -/

/-- What a table reads at a key; an unlisted key reads as `d`. -/
def mapGet {α : Type} : SMap α → α → Nat → α
  | [], d, _ => d
  | (k', v) :: t, d, k => if k' = k then v else mapGet t d k

/-- A table without a key. -/
def mapDel {α : Type} : SMap α → Nat → SMap α
  | [], _ => []
  | (k', v') :: t, k => if k' = k then mapDel t k else (k', v') :: mapDel t k

/-- A table with a key that it does not list put in its place. -/
def mapIns {α : Type} : SMap α → Nat → α → SMap α
  | [], k, v => [(k, v)]
  | (k', v') :: t, k, v => if k < k' then (k, v) :: (k', v') :: t else (k', v') :: mapIns t k v

/-- The table with one key changed; keys stay strictly rising and no entry equals `d`. -/
def mapPut {α : Type} [DecidableEq α] (m : SMap α) (d : α) (k : Nat) (v : α) : SMap α :=
  if v = d then mapDel m k else mapIns (mapDel m k) k v

/-- One key changed by a function of what it reads as. -/
def mapMod {α : Type} [DecidableEq α] (m : SMap α) (d : α) (k : Nat) (f : α → α) : SMap α :=
  mapPut m d k (f (mapGet m d k))

/-- Every listed key that satisfies `p` taken out. -/
def mapDrop {α : Type} (m : SMap α) (p : Nat → Bool) : SMap α := m.filter (fun e => !p e.1)

/-- Keys strictly rising from above `lo`, and no entry equal to `d`. -/
def mapOk {α : Type} [DecidableEq α] : SMap α → α → Option Nat → Bool
  | [], _, _ => true
  | (k, v) :: t, d, lo =>
    (match lo with | none => true | some l => decide (l < k)) && decide (v ≠ d) && mapOk t d (some k)

/-- The canonical form of a table. -/
abbrev mapWf {α : Type} [DecidableEq α] (m : SMap α) (d : α) : Bool := mapOk m d none

/-- A list with its element i changed; unchanged where there is none. -/
def listMod {α : Type} (l : List α) (i : Nat) (f : α → α) : List α := l.modify i f

def listAt {α : Type} (l : List α) (d : α) (i : Nat) : α := l.getD i d

/-! ## Records of the state -/

def modMemBlk (s : State) (f : Mem → Mem) : State := { s with mem := f s.mem }
def modLpBlk (s : State) (f : Lp5x → Lp5x) : State := { s with lp := f s.lp }
def modPalBlk (s : State) (f : Pal → Pal) : State := { s with pal := f s.pal }
def modMsnBlk (s : State) (f : Msn → Msn) : State := { s with msn := f s.msn }
def modLryBlk (s : State) (f : Larey → Larey) : State := { s with lry := f s.lry }
def modArrBlk (s : State) (f : Arr → Arr) : State := { s with arr := f s.arr }
def modSpnBlk (s : State) (f : Spn → Spn) : State := { s with spn := f s.spn }
def modClkBlk (s : State) (f : Clk → Clk) : State := { s with clk := f s.clk }
def modRstBlk (s : State) (f : Rst → Rst) : State := { s with rst := f s.rst }
def modPwrBlk (s : State) (f : Pwr → Pwr) : State := { s with pwr := f s.pwr }
def modHvBlk (s : State) (f : Hv → Hv) : State := { s with hv := f s.hv }
def modHifBlk (s : State) (f : HostIf → HostIf) : State := { s with hif := f s.hif }
def modFwBlk (s : State) (f : Fw → Fw) : State := { s with fw := f s.fw }
def modSprBlk (s : State) (f : Spares → Spares) : State := { s with spr := f s.spr }
def modTelBlk (s : State) (f : Tel → Tel) : State := { s with tel := f s.tel }

def jobOf (s : State) (j : Nat) : Job := mapGet s.jobs {} j
def setJob (s : State) (j : Nat) (v : Job) : State := { s with jobs := mapPut s.jobs {} j v }
def modJob (s : State) (j : Nat) (f : Job → Job) : State := setJob s j (f (jobOf s j))

def tileOf (s : State) (t : Nat) : Tile := mapGet s.tiles {} t
def setTile (s : State) (t : Nat) (v : Tile) : State := { s with tiles := mapPut s.tiles {} t v }
def modTile (s : State) (t : Nat) (f : Tile → Tile) : State := setTile s t (f (tileOf s t))

def hodOf (s : State) (h : Nat) : Hod := mapGet s.pal.hods {} h
def setHod (s : State) (h : Nat) (v : Hod) : State :=
  { s with pal := { s.pal with hods := mapPut s.pal.hods {} h v } }
def modHod (s : State) (h : Nat) (f : Hod → Hod) : State := setHod s h (f (hodOf s h))

/-- Logical mason m starts bound to core m mod 16 of its group (R282; log 14). -/
def masonInit (m : Nat) : Mason := { phys := m / 16 * 17 + m % 16 }
def masonOf (s : State) (m : Nat) : Mason :=
  match s.msn.masons.find? (fun e => e.1 == m) with
  | some e => e.2
  | none => masonInit m
def setMason (s : State) (m : Nat) (v : Mason) : State :=
  { s with msn := { s.msn with masons := mapPut s.msn.masons (masonInit m) m v } }
def modMason (s : State) (m : Nat) (f : Mason → Mason) : State := setMason s m (f (masonOf s m))

def groupOf (s : State) (g : Nat) : MGroup := mapGet s.msn.groups {} g
def modGroup (s : State) (g : Nat) (f : MGroup → MGroup) : State :=
  { s with msn := { s.msn with groups := mapMod s.msn.groups {} g f } }

def portOf (s : State) (p : Nat) : Port := mapGet s.lry.ports {} p
def setPort (s : State) (p : Nat) (v : Port) : State :=
  { s with lry := { s.lry with ports := mapPut s.lry.ports {} p v } }
def modPort (s : State) (p : Nat) (f : Port → Port) : State := setPort s p (f (portOf s p))

def laneOf (s : State) (l : Nat) : Lane := mapGet s.lry.lanes {} l
def modLane (s : State) (l : Nat) (f : Lane → Lane) : State :=
  { s with lry := { s.lry with lanes := mapMod s.lry.lanes {} l f } }

def pptOf (s : State) (p : Nat) : Ppt := mapGet s.mem.ppt {} p
def setPpt (s : State) (p : Nat) (v : Ppt) : State :=
  { s with mem := { s.mem with ppt := mapPut s.mem.ppt {} p v } }
def modPpt (s : State) (p : Nat) (f : Ppt → Ppt) : State := setPpt s p (f (pptOf s p))
def modMirror (s : State) (p : Nat) (f : Mirror → Mirror) : State :=
  modMemBlk s fun m => { m with mirror := mapMod m.mirror none p (Option.map f) }

def chanOf (s : State) (c : Nat) : Chan := mapGet s.lp.chans {} c
def modChan (s : State) (c : Nat) (f : Chan → Chan) : State :=
  { s with lp := { s.lp with chans := mapMod s.lp.chans {} c f } }

def mbxKey (fn m : Nat) : Nat := fn * 4 + m
def mbxOf (s : State) (fn m : Nat) : Mbx := mapGet s.hif.mbx {} (mbxKey fn m)
def modMbx (s : State) (fn m : Nat) (f : Mbx → Mbx) : State :=
  { s with hif := { s.hif with mbx := mapMod s.hif.mbx {} (mbxKey fn m) f } }

def ringOf (s : State) (fn : Nat) : Ring := mapGet s.hif.rings {} fn
def setRing (s : State) (fn : Nat) (r : Ring) : State :=
  { s with hif := { s.hif with rings := mapPut s.hif.rings {} fn r } }

def dmaOf (s : State) (c : Nat) : DmaChan := mapGet s.hif.dma {} c
def modDma (s : State) (c : Nat) (f : DmaChan → DmaChan) : State :=
  { s with hif := { s.hif with dma := mapMod s.hif.dma {} c f } }

def emitOut (s : State) (o : Out) : State := { s with out := o :: s.out }

/-- The jobs that exist, lowest first. -/
def createdJobs (s : State) : List Nat := (List.range 8).filter (fun j => (jobOf s j).created)

/-- Apply a function of the state to each element of a list in turn. -/
def each {α : Type} (xs : List α) (f : State → α → State) (s : State) : State := xs.foldl f s

/-- (virtual tile, physical tile) of a job's valid Tile Map entries, lowest virtual tile first. -/
def jobTiles (s : State) (j : Nat) : List (Nat × Nat) :=
  ((s.tileMap.filter (fun e => e.2.valid && e.2.job == j)).map (fun e => (e.2.vt, e.2.phys))).mergeSort
    (fun a b => a.1 ≤ b.1)

def physOf (s : State) (j vt : Nat) : Option Nat :=
  ((jobTiles s j).find? (fun e => e.1 == vt)).map (·.2)

/-- The job and virtual tile that own a physical tile. -/
def ownerOf (s : State) (t : Nat) : Option (Nat × Nat) :=
  (s.tileMap.find? (fun e => e.2.valid && e.2.phys == t)).map (fun e => (e.2.job, e.2.vt))

def tileBound (s : State) (t : Nat) : Bool := (ownerOf s t).isSome

/-- In the spare pool: neither bound, reserved nor retired (R16). -/
def tileFree (s : State) (t : Nat) : Bool :=
  !(tileBound s t) && !(tileOf s t).reserved && !(tileOf s t).retired && !(tileOf s t).mustClear

/-- Spine router above which a tile sits (R15). -/
def tileRouter (t : Nat) : Nat := t / 20 / 2 * 10 + t % 20 / 2

/-- The free tile R116 chooses: lowest router, then lowest tile. -/
def pickTile (s : State) : Option Nat :=
  ((List.range 400).filter (tileFree s)).foldl
    (fun best t => match best with
      | none => some t
      | some b => if tileRouter t < tileRouter b then some t else some b) none

/-- Tiles that are retired, and the allocable count (R17). -/
def retiredCount (s : State) : Nat := (s.tiles.filter (fun e => e.2.retired)).length
def allocable (s : State) : Nat := min 384 (400 - retiredCount s)

/-! ## Free values and draws -/

/-- A value the spec leaves open, and the state that has used it. -/
def takeFree (s : State) (w : Nat) : BitVec w × State :=
  (Config.freeBits w s.freeCtr, { s with freeCtr := s.freeCtr + 1 })

/-- The number of a fresh TRNG draw, and the state after it. -/
def takeDraw (s : State) : Nat × State := (s.draws, { s with draws := s.draws + 1 })

/-! ## Counters (Table 17-1) -/

/-- Add to a leaf. A leaf never loses a count (R503). -/
def leafAdd (s : State) (root n : Nat) : State :=
  { s with tel := { s.tel with leaves := mapMod s.tel.leaves 0 root (· + n) } }

def leafTile (t i : Nat) : Nat := 8 * t + i
def leafJob (j i : Nat) : Nat := 3200 + 16 * j + i
def leafMason (m i : Nat) : Nat := 3328 + 2 * m + i
def leafGroup (g i : Nat) : Nat := 3712 + 4 * g + i
def leafLane (l i : Nat) : Nat := 3760 + 6 * l + i
def leafPort (p i : Nat) : Nat := 4408 + 8 * p + i
def leafBank (c b i : Nat) : Nat := 4504 + 32 * c + 2 * b + i
def leafProbe (p : Nat) : Nat := 5528 + p
def leafRouter (r vn : Nat) : Nat := 5544 + 5 * r + vn
def leafPal (j i : Nat) : Nat := 6044 + 4 * j + i
def leafMaster (m : Nat) : Nat := 6076 + m
def leafTagFail : Nat := 6095
def leafFarUe : Nat := 6096
def leafNearUe : Nat := 6097
def leafQuar : Nat := 6098

/-! ## Events (R463–R467) -/

/-- Zero bytes up to the next multiple of `a`. -/
def padTo (a : Nat) (bs : List Byte) : List Byte :=
  bs ++ List.replicate ((a - bs.length % a) % a) 0

/-- Payload fields (size, value), each aligned to its own size (R464). -/
def packFields (fs : List (Nat × Nat)) : List Byte :=
  fs.foldl (fun acc f => padTo f.1 acc ++ leBytes f.1 f.2) []

/-- Record i of an event as 32 bytes (Table 15-11). -/
def evRecord (e : Ev) (phase : Bool) (i : Nat) : List Byte :=
  let n := max 1 ((e.payload.length + 15) / 16)
  let body := (e.payload.drop (16 * i)).take 16
  leBytes 2 e.code ++ leBytes 1 e.job
    ++ leBytes 1 (b2n phase + 2 * b2n (decide (i + 1 < n)))
    ++ leBytes 4 e.seq ++ leBytes 8 e.timeUs
    ++ (body ++ List.replicate (16 - body.length) 0)

def evRecords (e : Ev) : Nat := min 4 (max 1 ((e.payload.length + 15) / 16))

/-- Records a ring can still take (R466). -/
def ringRoom (r : Ring) : Nat := (r.tail + 2 ^ r.log2 - r.head - 1) % 2 ^ r.log2

/-- Write one record and advance HEAD; PHASE inverts when HEAD wraps (R465). -/
def ringStep (s : State) (fn : Nat) (e : Ev) (i : Nat) : State :=
  let r := ringOf s fn
  let h := (r.head + 1) % 2 ^ r.log2
  setRing (emitOut s (.ring fn r.head (evRecord e r.phase i))) fn
    { r with head := h, phase := if h = 0 then !r.phase else r.phase }

/-- The vector-0 message of a ring, held back inside a coalescing interval (R464). -/
def ringSignal (s : State) (fn : Nat) : State :=
  let r := ringOf s fn
  if r.coalesce = 0 then emitOut s (.msix fn 0)
  else if r.running then setRing s fn { r with waiting := true }
  else setRing (emitOut s (.msix fn 0)) fn { r with running := true }

def sat32 (n : Nat) : Nat := min n (2 ^ 32 - 1)

/-- An event into one ring, all of its records or none (R466; log 9). -/
def ringPut (s : State) (fn : Nat) (e : Ev) : State :=
  let r := ringOf s fn
  if !r.en then s
  else if ringRoom r < evRecords e then
    setRing s fn { r with lost := sat32 (r.lost + evRecords e), lostSince := r.lostSince + evRecords e }
  else ringSignal ((List.range (evRecords e)).foldl (fun s i => ringStep s fn e i) s) fn

/-- The records of an event into the device event log; each beyond 4,096 overwrites the oldest (R467). -/
def logPut (s : State) (e : Ev) : State :=
  let l := s.hif.log ++ (List.range (evRecords e)).map fun i => (e, i)
  { s with hif := { s.hif with log := l.drop (l.length - 4096),
                               logLost := s.hif.logLost + (l.length - 4096) } }

/-- A fresh event number with the event it numbers. -/
def newEv (s : State) (code job : Nat) (payload : List Byte) : Ev × State :=
  ({ code := code, job := job, seq := s.hif.seq % 2 ^ 32, timeUs := s.nowUs, payload := payload },
   { s with hif := { s.hif with seq := s.hif.seq + 1 } })

/-- EV_RING_OVERFLOW once space has returned, ahead of any other record (R466). -/
def ringOverflow (s : State) (fn : Nat) : State :=
  let r := ringOf s fn
  if r.en && decide (0 < r.lostSince) && decide (1 ≤ ringRoom r) then
    let (e, s1) := newEv s 0x0E06 0xFF (packFields [(4, r.lostSince)])
    ringPut (setRing (logPut s1 e) fn { r with lostSince := 0 }) fn e
  else s

def toRing (e : Ev) (s : State) (fn : Nat) : State := ringPut (ringOverflow s fn) fn e

/-- An event into the device event log and into the rings of the named functions. -/
def emitTo (s : State) (fns : List Nat) (code job : Nat) (fs : List (Nat × Nat)) : State :=
  let (e, s1) := newEv s code job (packFields fs)
  fns.foldl (toRing e) (logPut s1 e)

/-- An event that names a job: log, PF0 and the job's VF (R463). -/
def emitJob (s : State) (code j : Nat) (fs : List (Nat × Nat)) : State :=
  emitTo s [0, j + 1] code j fs

/-- An event that names no job: log and PF0. -/
def emitDev (s : State) (code : Nat) (fs : List (Nat × Nat)) : State :=
  emitTo s [0] code 0xFF fs

/-- An event that only reaches the device event log. -/
def emitLog (s : State) (code : Nat) (fs : List (Nat × Nat)) : State := emitTo s [] code 0xFF fs

/-- Send an event over the power link too, so that SMBus reports it (R429); nothing crosses a lost link
(R10). -/
def linkEvent (s : State) (code : Nat) : State :=
  { s with pwr := if s.pwr.linkLost then s.pwr
                  else { s.pwr with linkEvs := ((code, s.nowUs) :: s.pwr.linkEvs).take 4 } }

/-- What the stack reports to the HV controller over the power link, while that carries frames (R10). -/
def tellHv (s : State) (f : Hv → Hv) : State :=
  { s with hv := if s.pwr.linkLost then s.hv else f s.hv }

/-! ## Responses and completions -/

/-- Table 15-10. -/
def stCode : St → Nat
  | .ok => 0x0000 | .accepted => 0x0001 | .badOpcode => 0x0010 | .badLength => 0x0011
  | .badParam => 0x0012 | .badJob => 0x0013 | .noRights => 0x0020 | .busy => 0x0030
  | .wrongState => 0x0031 | .noResource => 0x0040 | .imageWrongPart => 0x0050
  | .imageTruncated => 0x0051 | .imageCrc => 0x0052 | .imageContention => 0x0053
  | .imageTooLarge => 0x0054 | .hwFault => 0x0060 | .timeout => 0x0061

/-- The response message (Table 15-6). -/
def rspBytes (opcode : Nat) (tag : BitVec 16) (st : St) (job : Nat) (payload : List Byte) :
    List Byte :=
  let pl := payload.take 240
  leBytes 2 opcode ++ leBytes 2 tag.toNat ++ leBytes 2 (stCode st) ++ leBytes 2 pl.length
    ++ leBytes 1 job ++ List.replicate 7 0 ++ pl ++ List.replicate (240 - pl.length) 0

/-- Belic firmware writes MBX_RSP, clears BUSY, sets DONE and signals vector 1 (R452). An answer
after TIMED_OUT is reported as EV_MBX_LATE (R455), one to a reset mailbox to the log only (R424). -/
def respondJ (s : State) (h : Hdr) (opcode : Nat) (st : St) (job : Nat) (payload : List Byte) :
    State :=
  let m := mbxOf s h.fn h.mbx
  let fs := [(2, opcode), (2, h.tag.toNat), (2, stCode st)]
  if m.orphan then
    emitTo (modMbx s h.fn h.mbx fun m => { m with orphan := false }) [] 0x0E01 0xFF fs
  else if m.late then
    emitTo (modMbx s h.fn h.mbx fun m => { m with late := false })
      (if h.fn = 0 then [0] else [0, h.fn]) 0x0E01 0xFF fs
  else
    emitOut (modMbx s h.fn h.mbx fun m =>
      { m with rsp := BitVec.ofNat 2048 (leNat (rspBytes opcode h.tag st job payload)),
               busy := false, done := true }) (.msix h.fn 1)

def respond (s : State) (h : Hdr) (opcode : Nat) (st : St) (payload : List Byte) : State :=
  respondJ s h opcode st h.job payload

/-- Status of the response a mailbox holds. -/
def rspStatus (s : State) (fn m : Nat) : Nat := field (mbxOf s fn m).rsp.toNat 47 32

/-- Steps 3 to 5 of R454, as far as they do not depend on the command: rights, the job named, and
whether it must exist. Recovery takes two commands only (R474). -/
def headCheck (s : State) (h : Hdr) (opcode : Nat) (who : From) (needJob : Bool) : Option St :=
  if s.fw.recovery ∧ opcode ≠ 0x0101 ∧ opcode ≠ 0x0110 then some .wrongState
  else if who = .pf0 ∧ h.fn ≠ 0 then some .noRights
  else if h.fn ≠ 0 ∧ namedJob h ≠ h.fn - 1 ∧ who ≠ .any then some .noRights
  else if 8 ≤ h.job ∧ h.job ≠ 0xFF then some .badJob
  else if needJob ∧ ¬ (jobOf s (namedJob h)).created then some .badJob
  else none

/-- A command: the checks of R454, then its own body, which is given the job named. -/
def runCmd (s : State) (h : Hdr) (opcode : Nat) (who : From) (needJob : Bool)
    (body : Nat → State) : State :=
  match headCheck s h opcode who needJob with
  | some st => respond s h opcode st []
  | none => body (namedJob h)

/-- ST_OK with a payload. -/
def answer (s : State) (h : Hdr) (opcode : Nat) (payload : List Byte) : State :=
  respond s h opcode .ok payload

/-- A refusal by status: nothing else changes. -/
def fail (s : State) (h : Hdr) (opcode : Nat) (st : St) : State := respond s h opcode st []

/-- ST_ACCEPTED, unless sixteen accepted commands are in progress (R455). -/
def accept (s : State) (h : Hdr) (opcode : Nat) (args : List Nat) (effect : State → State) : State :=
  if 16 ≤ s.hif.accepted.length then fail s h opcode .busy
  else
    let s1 := effect s
    respond { s1 with hif := { s1.hif with accepted := s1.hif.accepted ++
      [{ opcode := opcode, hdr := h, args := args }] } } h opcode .accepted []

/-- The completion event of an accepted command: log, PF0 and the issuing function (R463, R464). -/
def complete (s : State) (h : Hdr) (opcode code : Nat) (st : St) (fs : List (Nat × Nat)) : State :=
  emitTo s (if h.fn = 0 then [0] else [0, h.fn]) code h.job
    ([(2, opcode), (2, h.tag.toNat), (2, stCode st), (1, h.mbx), (1, h.fn)] ++ fs)

/-- The oldest accepted command of an opcode. -/
def findAcc (s : State) (opcode : Nat) : Option Accepted :=
  s.hif.accepted.find? (fun a => a.opcode == opcode)

/-- Take the oldest accepted command of an opcode off the list. -/
def dropAcc (s : State) (opcode : Nat) : State :=
  match s.hif.accepted.findIdx? (fun a => a.opcode == opcode) with
  | some i => { s with hif := { s.hif with accepted := s.hif.accepted.eraseIdx i } }
  | none => s

/-- Take the accepted command of a request off the list. -/
def dropAccOf (s : State) (opcode : Nat) (h : Hdr) : State :=
  match s.hif.accepted.findIdx? (fun a => a.opcode == opcode && a.hdr == h) with
  | some i => { s with hif := { s.hif with accepted := s.hif.accepted.eraseIdx i } }
  | none => s

/-- A bulk command that copies records out: accepted, the DMA done by BULK_TRANSFER_DONE. -/
def bulkOut (s : State) (h : Hdr) (opcode : Nat) (b : Bulk) (rs : List (List Byte)) : State :=
  match badBulk b with
  | some i => respond s h opcode .badParam (leBytes 4 i)
  | none => accept s h opcode [] (fun s => emitOut s (.records h.fn rs))

/-! ## Upsets -/

def planeKey (c b r : Nat) : Nat := (c * 512 + b) * 16 + r
def rowKey (b r : Nat) : Nat := b * 16 + r
def storeKey (b e : Nat) : Nat := b * 320 + e
def ffKey (b c k : Nat) : Nat := (b * 32 + c) * 32 + k
def slabKey (sl r : Nat) : Nat := sl * 512 + r

/-- Key under which a far frame is encrypted: that of the job whose page it backs, or the system key
(R198). -/
def frameKey (s : State) (frame : Nat) : Option Nat :=
  match s.mem.ppt.find? (fun e => e.2.state != .unbacked && e.2.farFrame == frame) with
  | some e => (jobOf s e.2.job).key
  | none => s.pwr.sysKey

/-- A far line lies in one of the spans. -/
def inSpans (sp : List (Nat × Nat)) (l : Nat) : Bool := sp.any fun e => decide (e.1 ≤ l) && decide (l < e.1 + e.2)

/-- Place of a far line among the lines of some spans. -/
def spanIndex : List (Nat × Nat) → Nat → Option Nat
  | [], _ => none
  | (a, n) :: r, l => if a ≤ l ∧ l < a + n then some (l - a) else (spanIndex r l).map (· + n)

/-- Images whose golden copies the region holds: those of the jobs, and of the load in progress. -/
def goldenImages (s : State) : List Image :=
  ((List.range 8).filterMap fun j => (jobOf s j).image)
    ++ (match s.load with | some l => if l.stage = .starting then [] else [l.image] | none => [])

/-- Plaintext of a line of the golden-copy region (R133). -/
def goldenText (s : State) (l : Nat) : Option Line :=
  (goldenImages s).findSome? fun img =>
    (spanIndex img.spans l).map fun i =>
      BitVec.ofNat 1024 (leNat ((img.bytes.drop (128 * i)).take 128))

/-- What an unlisted far line holds: a line of a golden copy, or the zeros that CMD_MEM_MAP wrote under
the owner's key (R169). -/
def plainLine (s : State) (l : Nat) (key : Option Nat) : FarLine :=
  { plain := (goldenText s l).getD 0, key := key.getD 0, errs := [] }

def farLineOf (s : State) (l : Nat) (key : Option Nat) : FarLine :=
  (mapGet s.mem.far none l).getD (plainLine s l key)

def setFar (s : State) (l : Nat) (f : FarLine) : State :=
  modMemBlk s fun m => { m with far := mapPut m.far none l (some f) }

/-- XOR a mask into the stored words of the item a hod delivers next. -/
def flipItem (i : Nat) (m : BitVec 71) (it : Item) : Item :=
  { it with words := listMod it.words i (· ^^^ m) }

/-- Change stored bits as the environment did. -/
def upset (s : State) : Upset → State
  | .active t b r m => modTile s t fun x => { x with active := mapMod x.active 0 (rowKey b r) (· ^^^ m) }
  | .shadow t b r m => modTile s t fun x => { x with shadow := mapMod x.shadow 0 (rowKey b r) (· ^^^ m) }
  | .plane t c b r m => modTile s t fun x => { x with planes := mapMod x.planes 0 (planeKey c b r) (· ^^^ m) }
  | .store t b e m => modTile s t fun x => { x with store := mapMod x.store 0 (storeKey b e) (· ^^^ m) }
  | .trowel t c m => modTile s t fun x =>
      if c = 0 then { x with trw0 := x.trw0 ^^^ m }
      else if c = 1 then { x with trw1 := x.trw1 ^^^ m } else { x with trw2 := x.trw2 ^^^ m }
  | .slab t sl r m => modTile s t fun x => { x with slabs := mapMod x.slabs 0 (slabKey sl r) (· ^^^ m) }
  | .near w m => { s with mem := { s.mem with near := mapMod s.mem.near 0 w (· ^^^ m) } }
  | .far l es =>
    let f := farLineOf s l (frameKey s (l / 8192))
    setFar s l { f with errs := errMerge f.errs es }
  | .hodWord h i m => modHod s h fun x =>
      match x.items with
      | [] => x
      | it :: rest => { x with items := flipItem i m it :: rest }
  | .ppt p m => { s with mem := { s.mem with pptErr := mapMod s.mem.pptErr 0 p (· ^^^ m) } }
  | .scratch m w x => modMason s m fun c => { c with scratch := mapMod c.scratch 0 w (· ^^^ x) }
  | .root i m => { s with tel := { s.tel with roots := mapMod s.tel.roots {} i fun x => { x with err := x.err ^^^ m } } }
  | .pageNode p m => { s with tel := { s.tel with pages := mapMod s.tel.pages {} p fun x => { x with err := x.err ^^^ m } } }
  | .fwd st m => { s with lry := { s.lry with fwdErr := mapMod s.lry.fwdErr 0 st (· ^^^ m) } }
  | .route r b e m => { s with spn := { s.spn with
      routeErr := mapMod s.spn.routeErr 0 ((b * 100 + r) * 136 + e) (· ^^^ m) } }

def upsets (s : State) (us : List Upset) : State := us.foldl upset s

/-! ## Repairs -/

/-- Record a detection in the soft repair map (R479, R481, R482): one more for an entry in state 0 or
1, a new entry otherwise; a full map records nothing and reports MAP_FULL: the repair lasts until the next
warm reset. -/
def addRepair (s : State) (kind loc spare : Nat) : State :=
  let m := s.spr
  match m.map.findIdx? (fun r => r.kind == kind && r.loc == loc && r.state != 2) with
  | some i =>
    let map := listMod m.map i fun r =>
      { r with det := min 7 (r.det + 1), last := m.session, passed := 0 }
    { s with spr := { m with map := map } }
  | none =>
    if 16384 ≤ m.map.length then
      { s with spr := { m with mapFull := true,
                               extra := if m.extra.any (fun r => r.kind == kind && r.loc == loc) then m.extra
                                        else m.extra ++ [{ kind := kind, loc := loc, spare := spare }] } }
    else
      { s with spr := { m with map := m.map ++
        [{ kind := kind, loc := loc, spare := spare, state := 0, det := 1, first := m.session,
           last := m.session }] } }

/-- Repairs in effect: the entries of the map that are not released, and those brought in while it was
full (R481). -/
def liveRepairs (s : State) : List Repair := s.spr.map.filter (fun r => r.state != 2) ++ s.spr.extra

/-- Whether a repair of a resource is in effect. -/
def repaired (s : State) (kind loc : Nat) : Bool :=
  (liveRepairs s).any fun r => r.kind == kind && r.loc == loc

/-! ## Holds -/

/-- A cause of a fault hold (priority 1 of Table 3-6) for a job that has an image: it acts at the
job's next boundary, for which the sequencer samples again. -/
def faultHold (c : HoldCause) (s : State) (j : Nat) : State :=
  modJob s j fun x =>
    match x.state with
    | .empty => x
    | .loading => x
    | .stopped => x
    | _ => { x with go := false, ahead := 0, faults := if x.faults.contains c then x.faults else x.faults ++ [c] }

/-! ## Outcomes -/

/-- The outcome of an event at a unit: a next state, or a fault when the device has no such unit. -/
def atUnit (ok : Bool) (s : State) : Host.Outcome State Fault Refusal :=
  if ok then .next s else .fault .noSuchUnit

/-- An event may not raise its report again within a time (R203, R344, R361, R387). -/
def mayRaise (last : Option Nat) (now gap : Nat) : Bool :=
  match last with
  | none => true
  | some t => decide (t + gap ≤ now)

end Sys2Proof.Machine
end

