-- ==== Sys2Proof/Machine/Flags.lean ====
section
/-! DEFINITION. The status registers and table entries as software reads them, packed bit by bit. -/

namespace Sys2Proof.Machine

/-- FAB_SEQ_STATUS (Table 3-4). -/
def jobStateCode : JobState → Nat
  | .empty => 0 | .loading => 1 | .releasing => 2 | .running => 3
  | .heldCmd => 4 | .heldFault => 5 | .stopped => 6

def seqStatus (j : Job) : Nat :=
  j.course % 32 + jobStateCode j.state * 2 ^ 5 + j.waits.toNat * 2 ^ 8 + j.release % 4 * 2 ^ 16

/-- Tile Map entry (Table 1-4). -/
def tmWord (e : TmEntry) : Nat :=
  e.phys % 512 + b2n e.valid * 2 ^ 9 + e.job % 8 * 2 ^ 10 + b2n e.moving * 2 ^ 13

def pageStateCode : PageState → Nat
  | .unbacked => 0 | .far => 1 | .near => 2 | .migrating => 3 | .lost => 4 | .quarantined => 5

def pageStateOf : Nat → PageState
  | 0 => .unbacked | 1 => .far | 2 => .near | 3 => .migrating | 4 => .lost | 5 => .quarantined
  | _ => .unbacked

/-- Page Placement Table entry (Table 6-3). -/
def pptWord (e : Ppt) : Nat :=
  pageStateCode e.state + e.job % 8 * 2 ^ 3 + b2n e.pin * 2 ^ 6 + b2n e.exclude * 2 ^ 7
    + b2n e.dir * 2 ^ 8 + b2n e.frozen * 2 ^ 9 + b2n e.dirty * 2 ^ 10
    + e.farFrame % 2 ^ 17 * 2 ^ 11 + e.nearFrame % 1024 * 2 ^ 28 + e.heat % 4096 * 2 ^ 38
    + e.qlines % 128 * 2 ^ 50

def pptOfWord (w : Nat) : Ppt :=
  { state := pageStateOf (field w 2 0), job := field w 5 3, pin := bitOf w 6, exclude := bitOf w 7,
    dir := bitOf w 8, frozen := bitOf w 9, dirty := bitOf w 10, farFrame := field w 27 11,
    nearFrame := field w 37 28, heat := field w 49 38, qlines := field w 56 50 }

/-- MEM_CH_STATUS (Table 7-4). -/
def chanWord (c : Chan) : Nat :=
  c.st % 8 + b2n c.hot * 2 ^ 3 + b2n c.over105 * 2 ^ 4 + c.rate.toNat * 2 ^ 5
    + min 255 c.drift * 2 ^ 10 + min 255 c.retrains * 2 ^ 18 + b2n c.recovered * 2 ^ 26

/-- LRY_PORT_STATUS (Table 10-3). -/
def portStateCode : PState → Nat
  | .disabled => 0 | .training => 1 | .locking => 2 | .init => 3 | .up => 4 | .retrain => 5
  | .down => 6 | .test => 7 | .chain => 8

def portStatus (p : Port) : Nat :=
  portStateCode p.st + p.actWidth % 16 * 2 ^ 4 + p.laneMask.toNat * 2 ^ 8
    + p.failed.toNat * 2 ^ 17 + p.peerOrd % 1024 * 2 ^ 26 + b2n p.peerOrdV * 2 ^ 36
    + p.peerPort % 16 * 2 ^ 37 + p.peerGen.toNat * 2 ^ 41

/-- LRY_PORT_CFG (Table 10-2). -/
def portCfg (p : Port) : Nat :=
  p.width % 16 + p.minWidth % 16 * 2 ^ 4 + b2n p.spareEn * 2 ^ 8 + b2n p.enable * 2 ^ 9
    + b2n p.txQuiet * 2 ^ 10 + p.quietIdle % 1024 * 2 ^ 11

/-- Joint forwarding entry (Table 10-10). -/
def fwdWord (e : Fwd) : Nat :=
  b2n e.valid + e.out.toNat * 2 + b2n e.loc * 2 ^ 13 + e.job % 8 * 2 ^ 14

def fwdOfWord (w : Nat) : Fwd :=
  { valid := bitOf w 0, out := BitVec.ofNat 12 (field w 12 1), loc := bitOf w 13, job := field w 16 14 }

/-! ## Hods -/

def hodSize (h : Hod) : Nat := 2 ^ h.p.sizeLog2

/-- Stored words of complete items (Table 8-8, DEPTH). -/
def hodDepth (h : Hod) : Nat :=
  h.items.foldl (fun n i => n + i.words.length) 0
    + h.part.foldl (fun n e => n + e.2.words.length) 0

/-- Words in open items and reservations: 16 for each open item (R248). -/
def hodReserved (h : Hod) : Nat := 16 * h.openIt.length

/-- FULL (R249) and EMPTY (R255). -/
def hodFull (h : Hod) : Bool := decide (hodSize h < hodDepth h + hodReserved h + 16)
def hodEmpty (h : Hod) : Bool := h.items.isEmpty

/-- Hod descriptor (Table 8-2). -/
def hodDesc (h : Hod) : Nat :=
  b2n h.valid + h.job % 8 * 2 + h.p.sizeLog2 % 32 * 2 ^ 4 + h.p.prodKind % 8 * 2 ^ 9
    + h.p.consKind % 8 * 2 ^ 12 + b2n h.p.palletSrc * 2 ^ 15 + b2n h.p.blocking * 2 ^ 16
    + h.p.prodEp % 65536 * 2 ^ 17 + h.p.consEp % 65536 * 2 ^ 33 + h.p.highWm % 2 ^ 17 * 2 ^ 49
    + h.p.lowWm % 2 ^ 17 * 2 ^ 66 + h.p.msix % 2048 * 2 ^ 83 + h.base % 2 ^ 20 * 2 ^ 94

/-- HOD_STATUS (Table 8-8). -/
def hodStatus (h : Hod) : Nat :=
  hodDepth h + hodReserved h * 2 ^ 17 + b2n (hodFull h) * 2 ^ 34 + b2n (hodEmpty h) * 2 ^ 35
    + b2n h.overrun * 2 ^ 36 + b2n h.flushed * 2 ^ 37 + b2n h.poisonSeen * 2 ^ 38
    + h.lastResult % 4 * 2 ^ 39

/-- The tag of a word (Table 8-7); zero for none. -/
def wordTag : Option PortWord → BitVec 7
  | some w => BitVec.ofNat 7
      (1 + b2n w.start * 2 + b2n w.last * 4 + b2n w.poison * 8 + w.prio % 8 * 16)
  | none => 0

/-- hod.stat result (Table 9-6) for a mason with a last-pop tag. -/
def hodStatWord (h : Hod) (empty : Bool) (tag : BitVec 7) : Nat :=
  hodDepth h + b2n (hodFull h) * 2 ^ 17 + b2n empty * 2 ^ 18 + b2n h.overrun * 2 ^ 19
    + b2n h.flushed * 2 ^ 20 + b2n h.poisonSeen * 2 ^ 21 + tag.toNat * 2 ^ 22

/-! ## Masons -/

def mStateCode : MState → Nat
  | .off => 0 | .reset => 1 | .running => 2 | .waiting => 3 | .paused => 4 | .halted => 5
  | .failed => 6

/-- MSN_STATUS (Table 9-7). -/
def msnStatus (m : Mason) (g : MGroup) : Nat :=
  mStateCode m.st + (m.job.getD 0) % 8 * 2 ^ 3 + b2n m.job.isSome * 2 ^ 6 + b2n m.safe * 2 ^ 7
    + b2n m.cur.isSome * 2 ^ 8 + m.slots.length % 4 * 2 ^ 9 + m.phys % 256 * 2 ^ 11
    + b2n g.spare.isSome * 2 ^ 19 + m.reason % 16 * 2 ^ 22

/-! ## Arrays -/

/-- ARR_CKPT_STATUS (Table 11-6). -/
def ckptStatus (j : Job) (jfill ufill : Nat) : Nat :=
  (match j.slotA with | some c => c.k.toNat | none => 0)
    + (match j.slotB with | some c => c.k.toNat | none => 0) * 2 ^ 64
    + b2n j.slotA.isSome * 2 ^ 128 + b2n j.slotB.isSome * 2 ^ 129 + b2n j.recoverable * 2 ^ 130
    + b2n j.replay.isSome * 2 ^ 131 + b2n j.capturing.isSome * 2 ^ 132
    + min 100 jfill * 2 ^ 133 + min 100 ufill * 2 ^ 140 + j.epoch.toNat * 2 ^ 147

/-- Soft repair map entry (Table 16-2). -/
def repairWord (r : Repair) : Nat :=
  r.kind % 16 + r.loc % 2 ^ 28 * 2 ^ 4 + r.spare % 512 * 2 ^ 32 + r.state % 4 * 2 ^ 41
    + r.det % 8 * 2 ^ 43 + r.first % 2 ^ 32 * 2 ^ 64 + r.last % 2 ^ 32 * 2 ^ 96

end Sys2Proof.Machine
end

