-- ==== Sys2Proof/Machine/Fec.lean ====
section
/-! DEFINITION. The FEC sublayer and the line code of a Larey lane: RS(544,514) over GF(2¹⁰), blocks of 257
bits, flit slots and lane markers (R327, R328), Gray mapping and 1/(1+D) precoding of PAM4 (R317), and the test
patterns (R325). Field and generator polynomials are those of IEEE 802.3 (PRESUMED, log 132). -/

namespace Sys2Proof.Machine

/-! ## GF(2¹⁰), polynomial x¹⁰ + x³ + 1 -/

def gf10Twice (a : BitVec 10) : BitVec 10 := if a.getLsbD 9 then (a <<< 1) ^^^ 9 else a <<< 1

def gf10MulBits : Nat → BitVec 10 → BitVec 10 → BitVec 10
  | 0, _, _ => 0
  | n + 1, a, b => (if b.getLsbD 0 then a else 0) ^^^ gf10MulBits n (gf10Twice a) (b >>> 1)

def gf10Mul (a b : BitVec 10) : BitVec 10 := gf10MulBits 10 a b

/-- αⁿ. -/
def gf10Pow : Nat → BitVec 10
  | 0 => 1
  | n + 1 => gf10Twice (gf10Pow n)

def gf10Exp (a : BitVec 10) : Nat → BitVec 10
  | 0 => 1
  | n + 1 => gf10Mul a (gf10Exp a n)

/-- Inverse (a¹⁰²²), by repeated squaring. -/
def gf10Inv (a : BitVec 10) : BitVec 10 :=
  let sq (x : BitVec 10) := gf10Mul x x
  (List.range 9).foldl (fun (acc : BitVec 10 × BitVec 10) _ =>
    let p := sq acc.2
    (gf10Mul acc.1 p, p)) (1, a) |>.1

/-! ## Polynomials, coefficient of x⁰ first -/

def polyAdd : List (BitVec 10) → List (BitVec 10) → List (BitVec 10)
  | [], q => q
  | p, [] => p
  | a :: p, b :: q => (a ^^^ b) :: polyAdd p q

def polyScale (c : BitVec 10) (p : List (BitVec 10)) : List (BitVec 10) := p.map (gf10Mul c)

def polyMul : List (BitVec 10) → List (BitVec 10) → List (BitVec 10)
  | [], _ => []
  | a :: p, q => polyAdd (polyScale a q) (0 :: polyMul p q)

/-- Value at x. -/
def polyEval : List (BitVec 10) → BitVec 10 → BitVec 10
  | [], _ => 0
  | a :: p, x => a ^^^ gf10Mul x (polyEval p x)

/-- Formal derivative: the odd coefficients, in characteristic 2. -/
def polyDeriv : List (BitVec 10) → List (BitVec 10)
  | _ :: b :: p => b :: 0 :: polyDeriv p
  | _ => []

/-! ## RS(544,514) -/

/-- g(x), the product of x + αʲ for j from 0 to 29. -/
def rs10Gen : List (BitVec 10) :=
  (List.range 30).foldl (fun g j => polyMul g [gf10Pow j, 1]) [1]

/-- Remainder step of the systematic encoder: `c` holds the check symbols, highest degree first. -/
def rs10Step (g : List (BitVec 10)) (c : List (BitVec 10)) (d : BitVec 10) : List (BitVec 10) :=
  let f := d ^^^ c.headD 0
  List.zipWith (fun a b => a ^^^ gf10Mul f b) (c.tail ++ [0]) g

/-- A codeword: 514 message symbols, then the 30 check symbols. -/
def rs10Encode (msg : List (BitVec 10)) : List (BitVec 10) :=
  let g := (rs10Gen.take 30).reverse
  msg ++ msg.foldl (rs10Step g) (List.replicate 30 0)

/-- Symbol errors by place in the codeword; place i stands at degree 543 − i. -/
abbrev SymErrs := List (Nat × BitVec 10)

def rs10Syndromes (errs : SymErrs) : List (BitVec 10) :=
  (List.range 30).map fun j =>
    errs.foldl (fun acc e => acc ^^^ gf10Mul e.2 (gf10Pow ((543 - e.1) * j % 1023))) 0

/-- What the error locator search carries: locator, its predecessor, length, shift, last discrepancy. -/
structure Locator where
  c : List (BitVec 10) := [1]
  b : List (BitVec 10) := [1]
  len : Nat := 0
  m : Nat := 1
  d : BitVec 10 := 1
  deriving DecidableEq, Repr

/-- One step of the Berlekamp–Massey search at syndrome n. -/
def locatorStep (syn : List (BitVec 10)) (l : Locator) (n : Nat) : Locator :=
  let d := (List.range (l.len + 1)).foldl (fun acc i =>
    acc ^^^ gf10Mul (l.c.getD i 0) (syn.getD (n - i) 0)) 0
  if d = 0 then { l with m := l.m + 1 }
  else
    let c := polyAdd l.c (polyScale (gf10Mul d (gf10Inv l.d)) (List.replicate l.m 0 ++ l.b))
    if 2 * l.len ≤ n then { c := c, b := l.c, len := n + 1 - l.len, m := 1, d := d }
    else { l with c := c, m := l.m + 1 }

/-- The symbol errors that explain the syndromes: at most 15, or none. -/
def rs10Locate (syn : List (BitVec 10)) : Option SymErrs :=
  let l := (List.range 30).foldl (locatorStep syn) {}
  if 15 < l.len then none
  else
    let omega := (polyMul syn l.c).take 30
    let dc := polyDeriv l.c
    let found := (List.range 544).filterMap fun i =>
      let x := gf10Pow (543 - i)
      let xi := gf10Inv x
      if polyEval l.c xi = 0 then
        some (i, gf10Mul x (gf10Mul (polyEval omega xi) (gf10Inv (polyEval dc xi))))
      else none
    if found.length = l.len then some found else none

/-- XOR of two symbol error patterns. -/
def symXor (errs : SymErrs) (e : Nat × BitVec 10) : SymErrs :=
  match errs.find? (fun x => x.1 == e.1) with
  | some x =>
    let rest := errs.filter fun y => y.1 != e.1
    if x.2 ^^^ e.2 = 0 then rest else rest ++ [(e.1, x.2 ^^^ e.2)]
  | none => if e.2 = 0 then errs else errs ++ [e]

/-- The decoder on a codeword whose symbols differ from those sent by `errs` (R327): what still differs after
correction and how many symbols it corrected; none when it cannot correct. The code is linear, so only the
difference counts. -/
def rs10Decode (errs : SymErrs) : Option (SymErrs × Nat) :=
  match errs with
  | [] => some ([], 0)
  | _ => (rs10Locate (rs10Syndromes errs)).map fun fix => (fix.foldl symXor errs, fix.length)

/-! ## Flit slots -/

/-- A block of 257 bits: 32 bytes above its flag. -/
def blockBits (flag : Bool) (bytes : List Byte) : Nat := b2n flag + 2 * leNat (bytes.take 32)

/-- The 514 bits of a slot: two blocks. -/
def slotBits (flag : Bool) (bytes : List Byte) : Nat :=
  blockBits flag bytes + 2 ^ 257 * blockBits flag (bytes.drop 32)

/-- A lane marker (R328): the physical lane number, n mod 256, zeros (log 132). -/
def markerBytes (lane n : Nat) : List Byte :=
  BitVec.ofNat 8 lane :: BitVec.ofNat 8 n :: List.replicate 62 0

/-- The 514 message symbols of ten slots, each with its flag. -/
def slotSymbols (slots : List (Bool × List Byte)) : List (BitVec 10) :=
  let v := slots.foldr (fun e acc => slotBits e.1 e.2 + 2 ^ 514 * acc) 0
  (List.range 514).map fun i => BitVec.ofNat 10 (v / 2 ^ (10 * i))

def codewordOf (slots : List (Bool × List Byte)) : List (BitVec 10) := rs10Encode (slotSymbols slots)

/-- Bits that a leftover symbol error changes in slot i (0–9) of its codeword. -/
def slotErrs (errs : SymErrs) (i : Nat) : Nat :=
  errs.foldl (fun acc e => if e.1 < 514 then acc ^^^ (e.2.toNat * 2 ^ (10 * e.1)) else acc) 0
    / 2 ^ (514 * i) % 2 ^ 514

/-- A flit as the decoder hands it on, and whether its blocks still say flit data. -/
def slotFlit (bytes : List Byte) (diff : Nat) : Bool × List Byte :=
  let v := slotBits true bytes ^^^ diff
  (v % 2 == 1 && v / 2 ^ 257 % 2 == 1,
   leBytes 32 (v / 2 % 2 ^ 256) ++ leBytes 32 (v / 2 ^ 258 % 2 ^ 256))

/-- A marker stands in flit slot 40,960 × n of each lane. -/
def markerSlot (width slot : Nat) : Bool := slot / width % 40960 == 0

/-! ## Line code (R317) -/

/-- Level of a bit pair: 00, 01, 11, 10 at levels 0, 1, 2, 3; the same table leads back. -/
def gray (p : BitVec 2) : BitVec 2 := if p = 2 then 3 else if p = 3 then 2 else p

/-- Levels sent for bit pairs: Gray mapping, then 1/(1+D) precoding while it is on. -/
def encodeLine (pre : Bool) : BitVec 2 → List (BitVec 2) → List (BitVec 2) × BitVec 2
  | last, [] => ([], last)
  | last, p :: ps =>
    let l := if pre then gray p - last else gray p
    let (ls, e) := encodeLine pre l ps
    (l :: ls, e)

/-- Bit pairs of received levels: the matching decoding, then Gray mapping back. -/
def decodeLine (pre : Bool) : BitVec 2 → List (BitVec 2) → List (BitVec 2) × BitVec 2
  | last, [] => ([], last)
  | last, l :: ls =>
    let p := gray (if pre then l + last else l)
    let (ps, e) := decodeLine pre l ls
    (p :: ps, e)

/-- The 2,720 bit pairs of a codeword, the earlier bit of each pair above the later one. -/
def codewordPairs (c : List (BitVec 10)) : List (BitVec 2) :=
  c.flatMap fun s => (List.range 5).map fun i =>
    BitVec.ofNat 2 (b2n (s.getLsbD (2 * i)) * 2 + b2n (s.getLsbD (2 * i + 1)))

/-- A level of a pair of conductors that are exchanged (R314). -/
def invert (l : BitVec 2) : BitVec 2 := 3 - l

/-! ## Test patterns (R325, Table 10-6) -/

/-- Next bit of PRBS13 (x¹³ + x¹² + x² + x + 1) and PRBS31 (x³¹ + x²⁸ + 1) from the bits before, the latest in
bit 0. -/
def prbsBit (pat : Nat) (h : BitVec 31) : Bool :=
  if pat = 0 then xor (xor (h.getLsbD 0) (h.getLsbD 1)) (xor (h.getLsbD 11) (h.getLsbD 12))
  else xor (h.getLsbD 27) (h.getLsbD 30)

def pushBit (h : BitVec 31) (b : Bool) : BitVec 31 := (h <<< 1) ||| BitVec.ofNat 31 (b2n b)

/-- The history after a symbol's two bits. -/
def pushPair (h : BitVec 31) (p : BitVec 2) : BitVec 31 := pushBit (pushBit h (p.getLsbD 1)) (p.getLsbD 0)

/-- Symbol of a PRBS pattern that follows a history. -/
def prbsPair (pat : Nat) (h : BitVec 31) : BitVec 2 :=
  let a := prbsBit pat h
  let b := prbsBit pat (pushBit h a)
  BitVec.ofNat 2 (b2n a * 2 + b2n b)

/-- Symbol i of a FIXED word, which repeats. -/
def fixedPair (w : BitVec 128) (i : Nat) : BitVec 2 := (w >>> (2 * (i % 64))).setWidth 2

/-- 64 symbols as a word, symbol 0 in bits [1:0]. -/
def packWord (ps : List (BitVec 2)) : BitVec 128 :=
  BitVec.ofNat 128 (ps.foldr (fun p acc => p.toNat + 4 * acc) 0)

end Sys2Proof.Machine
end

