-- ==== Sys2Proof/Machine/Link.lean ====
section
/-! DEFINITION. The Larey link layer as operations: flits and messages (R330–R332), credits and
arbitration (R333, R334), retry (R335–R338), retraining (R339), routing (R343–R346). -/

namespace Sys2Proof.Machine

/-! ## Flits -/

/-- Link sequencing runs: STATE 4, or chain mode after its INIT (R349; log 17). -/
def portUp (p : Port) : Bool := p.st == .up || (p.st == .chain && p.actWidth != 0)

/-- Flit header (Table 10-7). -/
def flitHeader (cls kind : Nat) (first last : Bool) (len : Nat) : Nat :=
  cls % 4 + kind % 16 * 4 + b2n first * 64 + b2n last * 128 + len % 64 * 256

/-- Flit bytes 0–59: header and body, padded with zeros. -/
def flitBody (cls kind : Nat) (first last : Bool) (body : List Byte) : List Byte :=
  leBytes 2 (flitHeader cls kind first last body.length) ++ body
    ++ List.replicate (58 - body.length) 0

/-- CRC over the sequence number and flit bytes 0–59 (R330). -/
def flitCrc (seq : Nat) (bytes : List Byte) : BitVec 32 :=
  crc32c (leBytes 2 (seq % 65536) ++ bytes.take 60)

/-- A whole flit of 64 bytes. -/
def flitWire (seq : Nat) (bytes : List Byte) : List Byte :=
  bytes.take 60 ++ leBytes 4 (flitCrc seq bytes).toNat

/-- The flits of a message, in order (R330, Table 10-7). -/
def flitsFrom (cls kind : Nat) (first : Bool) : Nat → List Byte → List (Nat × List Byte)
  | 0, _ => []
  | n + 1, body =>
    if body.length ≤ 58 then [(cls, flitBody cls kind first true body)]
    else (cls, flitBody cls kind first false (body.take 58))
      :: flitsFrom cls kind false n (body.drop 58)

def messageFlits (cls kind : Nat) (body : List Byte) : List (Nat × List Byte) :=
  flitsFrom cls kind true (body.length / 58 + 1) body

/-- The 4-byte envelope (R331): stream or destination, hops, source ordinal. -/
def envelope (dst hops src : Nat) : List Byte :=
  leBytes 4 (dst % 4096 + hops % 4 * 2 ^ 12 + src % 1024 * 2 ^ 16)

/-- Largest number of flits of a class and kind; none where the pair is reserved (Table 10-8). -/
def kindFlits (cls kind : Nat) : Option Nat :=
  match cls, kind with
  | 0, 0 => some 4
  | 1, 0 => some 3
  | 1, 1 => some 1
  | 2, 0 => some 64
  | 2, 1 => some 1
  | 2, 2 => some 1
  | 2, 3 => some 64
  | _, _ => none

/-! ## Sending (R333–R335) -/

def creditOf (p : Port) (c : Nat) : Nat :=
  if c = 0 then p.credit0 else if c = 1 then p.credit1 else p.credit2

def spendCredit (p : Port) (c : Nat) : Port :=
  if c = 0 then { p with credit0 := p.credit0 - 1 }
  else if c = 1 then { p with credit1 := p.credit1 - 1 }
  else { p with credit2 := p.credit2 - 1 }

/-- A class holds a flit and a credit. -/
def classReady (p : Port) (c : Nat) : Bool :=
  p.queue.any (fun e => e.1 == c) && decide (0 < creditOf p c)

/-- The class that takes the next slot (R334): a class passed over 63 times goes first. -/
def nextClass (p : Port) : Option Nat :=
  if classReady p 2 && decide (63 ≤ p.passed2) then some 2
  else if classReady p 1 && decide (63 ≤ p.passed1) then some 1
  else if classReady p 0 then some 0
  else if classReady p 1 then some 1
  else if classReady p 2 then some 2
  else none

/-- Slots a ready class has been passed over, after class c took one, or 3 for an ACK, a NAK, another control
flit or a flit of a replay (R334). -/
def passOver (p : Port) (c : Nat) : Port :=
  { p with passed1 := if c = 1 then 0 else if classReady p 1 then p.passed1 + 1 else 0,
           passed2 := if c = 2 then 0 else if classReady p 2 then p.passed2 + 1 else 0 }

/-- First queued flit of a class, and the queue without it. -/
def takeClass (c : Nat) : List (Nat × List Byte) → Option (List Byte × List (Nat × List Byte))
  | [] => none
  | (k, b) :: t =>
    if k = c then some (b, t)
    else match takeClass c t with
      | some (x, t') => some (x, (k, b) :: t')
      | none => none

/-! ## Slots on the lanes (R317, R327, R328) -/

/-- Physical lane (0–8) of logical lane i: the i-th lowest of the lane map (R315). -/
def mapLane (q : Port) (i : Nat) : Nat := ((List.range 9).filter fun j => q.laneMask.getLsbD j).getD i 0

/-! ## The test block of a lane (R324–R326, Table 10-6) -/

/-- A lane is in the lane map of a port that carries traffic (R322, R324). -/
def laneInUse (s : State) (l : Nat) : Bool :=
  let p := portOf s (l / 9)
  p.laneMask.getLsbD (l % 9) && (p.st == .up || p.st == .retrain || p.st == .chain)

/-- The value of LOOP while loopback works. -/
def laneLoop (s : State) (l : Nat) : Nat :=
  if laneInUse s l then 0 else field (laneOf s l).test.toNat 29 28

/-- One symbol to be sent, with the injected error that is due at it. -/
def injectPair (x : Lane) (p : BitVec 2) : BitVec 2 × Lane :=
  let gap := if x.injOn then x.injGap + 1 else 0
  if 0 < x.injLeft then (~~~p, { x with injLeft := x.injLeft - 1, injGap := gap })
  else if x.injOn && decide (2 ^ field x.test.toNat 25 20 ≤ gap) then (~~~p, { x with injGap := 0 })
  else (p, { x with injGap := gap })

def injectPairs : Lane → List (BitVec 2) → List (BitVec 2) × Lane
  | x, [] => ([], x)
  | x, p :: ps =>
    let (q, x) := injectPair x p
    let (qs, x) := injectPairs x ps
    (q :: qs, x)

/-- Symbol of a pattern at a place. -/
def patternPair (pat : Nat) (w : BitVec 128) (bits : BitVec 31) (pos : Nat) : BitVec 2 :=
  if pat = 3 then fixedPair w pos
  else if pat = 2 then Config.ssprq (pos % 65535)
  else prbsPair pat bits

/-- The next symbols of the pattern generator. -/
def generate : Nat → Lane → List (BitVec 2) × Lane
  | 0, x => ([], x)
  | n + 1, x =>
    let p := patternPair (field x.test.toNat 2 1) x.word x.genBits x.genPos
    let (ps, x) := generate n
      { x with genBits := pushPair x.genBits p, genPos := (x.genPos + 1) % (64 * 65535) }
    (p :: ps, x)

/-- The checker on one symbol, with the symbol and bit errors it counts. Unlocked it predicts from what it
receives and needs 64 consecutive good symbols; locked it runs the pattern by itself (R325). A FIXED word is
compared at its place in the receive word. -/
def checkPair (x : Lane) (p : BitVec 2) : Lane × Nat × Nat :=
  let pat := field x.test.toNat 5 4
  let want := patternPair pat x.word x.chkBits (if pat = 3 then x.rxAcc.length else x.chkPos)
  if x.locked then
    ({ x with chkBits := pushPair x.chkBits want, chkPos := (x.chkPos + 1) % 65535 },
      b2n (want != p), weight 2 (want ^^^ p).toNat)
  else
    let run := if want = p then x.chkRun + 1 else 0
    ({ x with chkBits := pushPair x.chkBits p,
              chkPos := if want = p then (x.chkPos + 1) % 65535 else 0,
              chkRun := run % 64, locked := decide (64 ≤ run) }, 0, 0)

/-- One symbol as the receiver decodes it: it goes through the checker and joins the receive word. -/
def receivePair (chk : Bool) (acc : Lane × Nat × Nat) (p : BitVec 2) : Lane × Nat × Nat :=
  let r := if chk then checkPair acc.1 p else (acc.1, 0, 0)
  let word := r.1.rxAcc ++ [p]
  let x := if word.length = 64 then { r.1 with rxword := packWord word, rxAcc := [] }
    else { r.1 with rxAcc := word }
  (x, acc.2.1 + r.2.1, acc.2.2 + r.2.2)

/-- Levels reach a receiver: polarity (R314), decoding (R317), checker and receive word. A receiver in QUIET or
OFF takes none. -/
def takeLevels (s : State) (l : Nat) (levels : List (BitVec 2)) : List (BitVec 2) × State :=
  let x := laneOf s l
  if x.rxPower ≠ .active then ([], s)
  else
    let ls := if x.inverted then levels.map invert else levels
    let (ps, e) := decodeLine (portOf s (l / 9)).precode x.rxLast ls
    let chk := x.test.getLsbD 3 && !laneInUse s l
    let (x, sym, bits) := ps.foldl (receivePair chk) ({ x with rxLast := e }, 0, 0)
    (ps, leafAdd (leafAdd (modLane s l fun _ => x) (leafLane l 0) sym) (leafLane l 1) bits)

/-- Symbols leave a transmitter: injected errors, then Gray mapping and precoding (R317, R325). -/
def putLevels (s : State) (l : Nat) (ps : List (BitVec 2)) : List (BitVec 2) × State :=
  let (qs, x) := injectPairs (laneOf s l) ps
  let (ls, e) := encodeLine (portOf s (l / 9)).precode x.txLast qs
  (ls, emitOut (modLane s l fun _ => { x with txLast := e }) (.line l ls))

/-- A lane transmits symbols; near-end loopback leads them to its own receiver. -/
def sendPairs (s : State) (l : Nat) (ps : List (BitVec 2)) : State :=
  let (ls, s) := putLevels s l ps
  if laneLoop s l = 1 then (takeLevels s l ls).2 else s

/-- Levels arrive on a lane; far-end loopback sends the symbols back. Near-end loopback cuts the line off. -/
def receiveLine (s : State) (l : Nat) (levels : List (BitVec 2)) : State :=
  if laneLoop s l = 1 then s
  else
    let (ps, s) := takeLevels s l levels
    if laneLoop s l = 2 ∧ (laneOf s l).txPower = .active then (putLevels s l ps).2 else s

/-! ## Slots -/

/-- Lanes of the lane map, over which the slots are dealt. -/
def laneCount (q : Port) : Nat := max 1 (weight 9 q.laneMask.toNat)

/-- A slot joins the codeword of its lane; the tenth completes it, and the codeword is sent. -/
def fillSlotOf (s : State) (p slot : Nat) (flag : Bool) (bytes : List Byte) : State :=
  let q := portOf s p
  let i := slot % laneCount q
  let f := mapGet q.fill [] i ++ [(flag, bytes)]
  if f.length < 10 then setPort s p { q with fill := mapPut q.fill [] i f }
  else sendPairs (setPort s p { q with fill := mapPut q.fill [] i [] }) (9 * p + mapLane q i)
    (codewordPairs (codewordOf f))

/-- A lane marker takes a slot. -/
def sendMarker (s : State) (p : Nat) : State :=
  let q := portOf s p
  let w := laneCount q
  let m := markerBytes (mapLane q (q.txSlot % w)) (q.txSlot / w / 40960)
  fillSlotOf (emitOut (setPort s p { q with txSlot := q.txSlot + 1 }) (.marker p q.txSlot m)) p q.txSlot false m

/-- A flit takes the port's next slot; the markers due before it go first. -/
def putSlot (s : State) (p : Nat) (bytes : List Byte) : State :=
  let q := portOf s p
  let w := laneCount q
  let n := if markerSlot w q.txSlot then w - q.txSlot % w else 0
  let s := each (List.range n) (fun s _ => sendMarker s p) s
  let q := portOf s p
  fillSlotOf (emitOut (setPort s p { q with txSlot := q.txSlot + 1 }) (.flit p q.txSlot bytes)) p q.txSlot true bytes

/-! ## Quiet (R321, R323) -/

/-- Power of one direction of every lane of a port. -/
def portPower (s : State) (p : Nat) (tx : Bool) (from_ into : LPower) : State :=
  each (List.range 9) (fun s j =>
    modLane s (9 * p + j) fun x =>
      if tx then { x with txPower := if x.txPower = from_ then into else x.txPower }
      else { x with rxPower := if x.rxPower = from_ then into else x.rxPower }) s

/-- The transmit direction wakes and sends the wake sequence. -/
def wakeTx (s : State) (p : Nat) : State :=
  if (portOf s p).txAsleep then
    portPower (modPort (emitOut s (.wake p)) p fun q => { q with txAsleep := false }) p true .quiet .active
  else s

/-- One flit slot of a port: the next new flit, if the port may send one. -/
def sendSlot (s : State) (p : Nat) : Option State :=
  let q := portOf s p
  if !portUp q || q.txAsleep || decide (8192 ≤ q.replay.length) then none
  else match nextClass q with
    | none => none
    | some c =>
      match takeClass c q.queue with
      | none => none
      | some (b, rest) =>
        let q := spendCredit (passOver q c) c
        let f : Flit := { seq := q.txSeq, cls := c, bytes := b }
        some (leafAdd (putSlot (setPort s p
          { q with queue := rest, txSeq := (q.txSeq + 1) % 65536, replay := q.replay ++ [f] })
          p (flitWire f.seq b)) (leafPort p 0) 1)

/-- Flit slots until nothing more can be sent. -/
def pumpN : Nat → State → Nat → State
  | 0, s, _ => s
  | n + 1, s, p =>
    match sendSlot s p with
    | some s' => pumpN n s' p
    | none => s

def pump (s : State) (p : Nat) : State := pumpN (portOf s p).queue.length s p

/-- Queue a message at a port and send what the port can. -/
def sendMsg (s : State) (p cls kind : Nat) (body : List Byte) : State :=
  pump (modPort s p fun q => { q with queue := q.queue ++ messageFlits cls kind body }) p

/-! ## Link control -/

/-- A link-control flit (R330): class 3, one flit, its crc under the number 0. -/
def ctlFlit (kind : Nat) (body : List Byte) : List Byte := flitWire 0 (flitBody 3 kind true true body)

/-- A control flit is sent; a sleeping direction wakes for it (R323). -/
def sendCtl (s : State) (p kind : Nat) (body : List Byte) : State :=
  putSlot (modPort (wakeTx s p) p fun q => passOver q 3) p (ctlFlit kind body)

/-- Body of ACK and NAK: a sequence number, then the freed count of each class, 2 bytes each (log 19). -/
def freedBody (q : Port) (n : Nat) : List Byte :=
  leBytes 2 n ++ leBytes 2 q.freed0 ++ leBytes 2 q.freed1 ++ leBytes 2 q.freed2

/-- Send an ACK of the last accepted number (R336). -/
def sendAck (s : State) (p : Nat) : State :=
  let q := portOf s p
  sendCtl (setPort s p { q with sinceAck := 0 }) p 1 (freedBody q ((q.rxNext + 65535) % 65536))

/-- Send a NAK of the expected number (R337). -/
def sendNak (s : State) (p : Nat) : State :=
  let q := portOf s p
  leafAdd (sendCtl (setPort s p { q with nakAt := some s.nowUs }) p 2 (freedBody q q.rxNext)) (leafPort p 2) 1

/-- The low 64 bits of an INIT body (Table 10-9). -/
def initArg (s : State) (p : Nat) : Nat :=
  let q := portOf s p
  (s.arr.ordinal.getD 0) + b2n s.arr.ordinal.isSome * 2 ^ 10 + p * 2 ^ 12 + q.width * 2 ^ 16
    + q.minWidth * 2 ^ 20 + b2n q.spareEn * 2 ^ 24 + b2n q.precode * 2 ^ 25
    + b2n (q.st == .chain) * 2 ^ 26 + q.gen.toNat * 2 ^ 32 + q.rxNext * 2 ^ 48

def sendInit (s : State) (p : Nat) : State := sendCtl s p 3 (leBytes 58 (initArg s p))

/-- An INIT body as it arrives (Table 10-9). -/
def initOf (body : List Byte) : InitBody :=
  let v := leAt body 0 8
  { ordinal := field v 9 0, ordValid := bitOf v 10, port := field v 15 12, width := field v 19 16,
    minWidth := field v 23 20, spareEn := bitOf v 24, precode := bitOf v 25, chain := bitOf v 26,
    gen := BitVec.ofNat 16 (field v 47 32), nextExp := field v 63 48 }

/-! ## Acknowledgement and resending -/

/-- Credits returned by cumulative freed counts (R333). -/
def takeFreed (q : Port) (f0 f1 f2 : Nat) : Port :=
  { q with credit0 := q.credit0 + (f0 + 65536 - q.seen0) % 65536, seen0 := f0 % 65536,
           credit1 := q.credit1 + (f1 + 65536 - q.seen1) % 65536, seen1 := f1 % 65536,
           credit2 := q.credit2 + (f2 + 65536 - q.seen2) % 65536, seen2 := f2 % 65536 }

/-- The replay buffer once flits before `seq` are acknowledged; unchanged when the number is neither
held nor the next to send. -/
def freeBefore (q : Port) (seq : Nat) : Port :=
  match q.replay.findIdx? (fun f => f.seq == seq) with
  | some 0 => q
  | some i => { q with replay := q.replay.drop i }
  | none => if seq = q.txSeq ∧ q.replay ≠ [] then { q with replay := [] } else q

/-- A retrain trigger (R339): STATE 5 after a RETRAIN_REQ; everything queued and held is kept. -/
def retrain (s : State) (p : Nat) : State :=
  let q := portOf s p
  if q.st = .up ∨ q.st = .chain then
    modPort (sendCtl s p 5 [0]) p fun q =>
      { q with st := if q.st = .chain then .chain else .retrain, actWidth := 0,
               leftUp := q.leftUp || q.st == .up }
  else s

/-- One flit of a replay takes a slot. -/
def resendOne (p : Nat) (s : State) (f : Flit) : State :=
  putSlot (modPort s p fun q => passOver q 3) p (flitWire f.seq f.bytes)

/-- Resend the whole replay buffer in order, ahead of new flits; a flit resent 8 times without
acknowledgement makes the port retrain instead (R338). -/
def resendAll (s : State) (p : Nat) : State :=
  let q := portOf s p
  if !portUp q || q.replay.isEmpty then s
  else if q.replay.any (fun f => decide (8 ≤ f.resends)) then retrain s p
  else
    let s := each q.replay (resendOne p) (wakeTx s p)
    leafAdd (modPort s p fun x =>
      { x with replay := x.replay.map fun f => { f with resends := f.resends + 1 } }) (leafPort p 3)
      q.replay.length

/-! ## Routing (R343–R346) -/

/-- EV_LRY_UNROUTABLE for a frame, at most once per stream per second. -/
def unroutableFrame (s : State) (p stream : Nat) : State :=
  let s := leafAdd s (leafPort p 5) 1
  if mayRaise (mapGet s.lry.unroutEv none stream) s.nowUs 1000000 then
    emitDev (modLryBlk s fun l => { l with unroutEv := mapPut l.unroutEv none stream (some s.nowUs) })
      0x0907 []
  else s

/-- EV_LRY_UNROUTABLE for a message of class 1 or 2 (R346). -/
def unroutable (s : State) (p : Nat) : State := emitDev (leafAdd s (leafPort p 5) 1) 0x0907 []

/-- Route-table value of a destination (R346); unlisted entries are 0xE (log 18). -/
def routeOf (s : State) (dst : Nat) : Nat := mapGet s.lry.route 0xE dst

/-- A destination is this device: its entry of the route table says so (R346). -/
def isHere (s : State) (dst : Nat) : Bool := routeOf s dst == 0xF

/-- Send a class 1 or 2 message that this device originates. One for this device itself is delivered among the
messages of port 0, where it occupies no flit buffer (log 133). -/
def routeSend (s : State) (cls kind dst : Nat) (body : List Byte) : State :=
  let r := routeOf s dst
  let whole := envelope dst 1 (s.arr.ordinal.getD 0) ++ body
  if r < 12 then sendMsg s r cls kind whole
  else if r = 0xF then modPort s 0 fun q =>
    { q with inbox := q.inbox ++ [{ cls := cls, kind := kind, body := whole, flits := 0 }] }
  else unroutable s 0

/-- Pass on a class 1 or 2 message that is not for this device. -/
def relay (s : State) (port : Nat) (e : Env) (cls kind : Nat) (body : List Byte) : State :=
  let r := routeOf s e.dst
  if r < 12 ∧ r ≠ port ∧ e.hops + 1 ≤ 3 then
    sendMsg s r cls kind (envelope e.dst (e.hops + 1) e.src ++ body)
  else unroutable s port

/-- The envelope at the head of a message of class 1 or 2 (R331). -/
def envOf (body : List Byte) : Env :=
  let v := leAt body 0 4
  { dst := field v 9 0, hops := field v 13 12, src := field v 25 16 }

/-- The oldest delivered message of a class and kind at a port. -/
def nextMsg (s : State) (p cls kind : Nat) : Option RxMsg :=
  (portOf s p).inbox.find? fun m => m.cls == cls && m.kind == kind

/-- Flits leave the receive buffer of a class: what this end returns as credits (R333). -/
def freeFlits (q : Port) (c n : Nat) : Port :=
  if c = 0 then { q with freed0 := (q.freed0 + n) % 65536 }
  else if c = 1 then { q with freed1 := (q.freed1 + n) % 65536 }
  else { q with freed2 := (q.freed2 + n) % 65536 }

/-- A delivered message leaves its port; its flits are freed, and an ACK returns the credits. -/
def takeMsg (s : State) (p : Nat) (m : RxMsg) : State :=
  let s := modPort s p fun q => freeFlits { q with inbox := q.inbox.erase m } m.cls m.flits
  if m.flits ≠ 0 ∧ portUp (portOf s p) then sendAck s p else s

/-- A message of class 1 or 2 that a port has delivered is taken and read: `here` is given its envelope and
what follows it when it is for this device; otherwise it is passed on by the route table (R346). -/
def arriving (s : State) (port cls kind : Nat) (here : Env → List Byte → State → State) : State :=
  match nextMsg s port cls kind with
  | none => s
  | some m =>
    let e := envOf m.body
    let s := takeMsg s port m
    if isHere s e.dst then here e (m.body.drop 4) s else relay s port e cls kind (m.body.drop 4)

/-- Joint frame body after the envelope (Table 11-3). -/
def frameBody (f : Frame) : List Byte :=
  leBytes 4 f.cycleLo.toNat
    ++ leBytes 1 ((f.slices.length - 1) % 8 + b2n f.intra * 8 + f.epoch.toNat * 16)
    ++ [0, 0, 0] ++ f.slices.flatMap (fun b => leBytes 24 b.toNat)

/-- A joint frame as it arrives, envelope and body (R331, Table 11-3). -/
def frameOf (body : List Byte) : Frame :=
  let v := leAt body 0 4
  let w := leAt body 8 1
  { stream := field v 11 0, hops := field v 13 12, src := field v 25 16,
    cycleLo := BitVec.ofNat 32 (leAt body 4 4), intra := bitOf w 3, epoch := BitVec.ofNat 4 (field w 7 4),
    slices := (List.range (w % 8 + 1)).map fun i => BitVec.ofNat 192 (leAt body (12 + 24 * i) 24) }

/-- Forwarding entry of a stream as a read finds it (R344, R538): corrected and written back; an
uncorrectable one counts as invalid, and Belic firmware rewrites it from its own copy and raises
EV_LRY_TABLE_ERROR. -/
def fwdRead (s : State) (stream : Nat) : Fwd × State :=
  let e := mapGet s.lry.fwd {} stream
  let clean (s : State) : State := modLryBlk s fun l => { l with fwdErr := mapPut l.fwdErr 0 stream 0 }
  match secDecode 7 32 (secEncode 7 32 (fwdWord e) ^^^ (mapGet s.lry.fwdErr 0 stream).toNat) with
  | some (w, fixed) =>
    if fixed then
      let e := fwdOfWord (w % 2 ^ 32)
      (e, clean (modLryBlk s fun l => { l with fwd := mapPut l.fwd {} stream e }))
    else (e, s)
  | none => ({}, emitDev (clean s) 0x0908 [])

/-- Copies of a frame out of the entry's ports, never the one it came in by (R343, R344). -/
def forwardCopies (s : State) (e : Fwd) (f : Frame) (inPort : Option Nat) (hops : Nat) : State :=
  let ports := (List.range 12).filter (fun p => e.out.getLsbD p && !(inPort == some p))
  if ports.isEmpty then s
  else if 3 < hops then unroutableFrame s (inPort.getD (ports.headD 0)) f.stream
  else each ports (fun s p => sendMsg s p 0 0 (envelope f.stream hops f.src ++ frameBody f)) s

/-! ## Lanes -/

/-- Mark a lane failed (R340): FAILED_MASK and the soft repair map. -/
def markLane (s : State) (l : Nat) : State :=
  let p := l / 9
  let s := modPort s p fun q => { q with failed := q.failed ||| BitVec.ofNat 9 (2 ^ (l % 9)) }
  if repaired s 10 l then s else addRepair s 10 l 0

/-- A lane triggers a retrain by itself; the second time within a minute marks it (R340). -/
def laneTrigger (s : State) (l : Nat) : State :=
  if !laneInUse s l || (portOf s (l / 9)).st == .retrain then s
  else
    let again := (laneOf s l).trig.any (fun t => decide (s.nowUs < t + 60000000))
    let s := modLane s l fun x => { x with trig := (s.nowUs :: x.trig).take 2 }
    let s := if again then markLane s l else s
    retrain s (l / 9)

/-- The largest of 8, 4, 2 and 1 that does not exceed two bounds (R315). -/
def portWidth (width usable : Nat) : Nat :=
  let n := min width usable
  if 8 ≤ n then 8 else if 4 ≤ n then 4 else if 2 ≤ n then 2 else if 1 ≤ n then 1 else 0

/-- The lowest-numbered `n` lanes of a mask (R315). -/
def lowLanes : List Nat → Nat → BitVec 9 → BitVec 9
  | [], _, _ => 0
  | j :: t, n, m =>
    if n = 0 then 0
    else if m.getLsbD j then BitVec.ofNat 9 (2 ^ j) ||| lowLanes t (n - 1) m
    else lowLanes t n m

end Sys2Proof.Machine
end

