-- ==== Sys2Proof/Machine/Larey.lean ====
section
/-! DEFINITION. The commands and events of Larey lanes and links (chapter 10). -/

namespace Sys2Proof.Machine

/-! ## Training -/

/-- The limits of Table 10-4 and the sum of R318. -/
def tapsOk (w : BitVec 32) : Bool :=
  let v := w.toNat
  let pre2 := field v 3 0
  let pre1 := field v 8 4
  let main := field v 15 9
  let post := field v 20 16
  decide (pre2 ≤ 8) && decide (pre1 ≤ 20) && decide (32 ≤ main) && decide (main ≤ 64)
    && decide (post ≤ 16) && decide (pre2 + pre1 + main + post ≤ 64)

/-- Bit position of tap 0–3 (PRE2, PRE1, MAIN, POST1). -/
def tapShift (t : Nat) : Nat := if t = 0 then 0 else if t = 1 then 4 else if t = 2 then 9 else 16

/-- Size of the field of a tap. -/
def tapBits (t : Nat) : Nat := if t = 0 then 4 else if t = 1 then 5 else if t = 2 then 7 else 5

/-- A tap moved one step; none when its field cannot hold the result. -/
def tapStep (w : BitVec 32) (t : Nat) (inc : Bool) : Option (BitVec 32) :=
  let v := w.toNat / 2 ^ tapShift t % 2 ^ tapBits t
  if inc then (if v + 1 < 2 ^ tapBits t then some (BitVec.ofNat 32 (w.toNat + 2 ^ tapShift t)) else none)
  else (if 0 < v then some (BitVec.ofNat 32 (w.toNat - 2 ^ tapShift t)) else none)

/-- One request of the remote receiver (R319) for tap 0–3; a preset of the standard sets all four, and the spec
does not print its values (free values, log 20). -/
def tapRequest (p : Nat) (s : State) (r : Nat × Nat × TapReq) : State :=
  let l := 9 * p + r.1
  let old := (laneOf s l).taps
  if 3 < r.2.1 ∨ 9 ≤ r.1 then s
  else if old.getLsbD 21 then emitOut s (.tapStatus l r.2.1 true)
  else
    let (want, s) : Option (BitVec 32) × State :=
      match r.2.2 with
      | .preset =>
        let (v, s) := takeFree s 21
        (some (v.setWidth 32), s)
      | .increment => (tapStep old r.2.1 true, s)
      | .decrement => (tapStep old r.2.1 false, s)
      | .hold => (some old, s)
    match want with
    | some w =>
      if tapsOk w then emitOut (modLane s l fun x => { x with taps := w }) (.tapStatus l r.2.1 false)
      else emitOut s (.tapStatus l r.2.1 true)
    | none => emitOut s (.tapStatus l r.2.1 true)

/-- A port whose lanes may train (Table 10-5, R342, R349). -/
def mayTrain (s : State) (q : Port) : Bool :=
  s.pwr.state == .ready && (q.enable || q.st == .chain)
    && (q.st == .disabled || q.st == .training || q.st == .locking || q.st == .init
        || q.st == .retrain || q.st == .down || (q.st == .chain && q.actWidth == 0))

/-- A request that this device's receiver makes of the remote transmitter. -/
def askTap (p : Nat) (s : State) (r : Nat × Nat × TapReq) : State :=
  if 3 < r.2.1 ∨ 9 ≤ r.1 then s else emitOut s (.tapReq (9 * p + r.1) r.2.1 r.2.2)

/-- Steps 1 and 2 of Table 10-5: signal and polarity detection (R314) and tap training, with the requests of
both ends. A lane that is OFF does not train. -/
def laneTraining (s : State) (p : Nat) (signal inverted : BitVec 9) (reqs asks : List (Nat × Nat × TapReq)) :
    State :=
  let q := portOf s p
  if !mayTrain s q then s
  else
    let s := setPort s p
      { q with st := if q.st = .chain ∨ q.st = .retrain ∨ q.st = .down then q.st else .training }
    let s := each (List.range 9) (fun s j =>
      modLane s (9 * p + j) fun x =>
        { x with signal := signal.getLsbD j && x.txPower != .off && x.rxPower != .off,
                 inverted := inverted.getLsbD j, ready := false }) s
    each asks (askTap p) (each reqs (tapRequest p) s)

def execLaneTraining (port : Nat) (signal inverted : BitVec 9) (reqs asks : List (Nat × Nat × TapReq))
    (s : State) : Host.Outcome State Fault Refusal :=
  atUnit (decide (port < 12)) (laneTraining s port signal inverted reqs asks)

/-- Lanes that may enter the lane map (R315, R340, R349): usable in both directions, not marked
failed; lane 8 only with SPARE_EN; lanes 0–3 only in chain mode. -/
def usableLanes (s : State) (p : Nat) (ready : BitVec 9) : BitVec 9 :=
  let q := portOf s p
  (List.range 9).foldl (fun m j =>
    let x := laneOf s (9 * p + j)
    let ok := ready.getLsbD j && x.signal && x.txPower != .off && x.rxPower != .off
      && (if q.st == .chain then decide (j < 4)
          else !q.failed.getLsbD j && (j != 8 || q.spareEn))
    if ok then m ||| BitVec.ofNat 9 (2 ^ j) else m) 0

/-- The lane marker that a lane has locked to, if any: lane number, n mod 256, and when it came, in ns. -/
abbrev LaneMark := Option (Nat × Nat × Nat)

/-- Every lane of the map has locked to a marker of its own lane, all of one n, within the skew of 160 ns that the
receiver takes out (R328). -/
def deskewed (map : BitVec 9) (marks : List LaneMark) : Bool :=
  let ms := ((List.range 9).filter fun j => map.getLsbD j).map fun j => (j, listAt marks none j)
  let found := ms.filterMap (·.2)
  ms.all (fun e => match e.2 with | some v => v.1 == e.1 | none => false)
    && found.all (fun a => found.all fun b => a.2.1 % 256 == b.2.1 % 256 && decide (a.2.2 ≤ b.2.2 + 160))

/-- Steps 3 and 4 of Table 10-5: the lane map, and the INIT flit once every lane has locked. Slots are numbered
from the first after the lock. -/
def trainingDone (s : State) (p : Nat) (ready : BitVec 9) (marks : List LaneMark) : State :=
  let q := portOf s p
  if !mayTrain s q then s
  else
    let usable := usableLanes s p ready
    let wanted := if q.st = .chain then 4 else q.width
    let w := portWidth wanted (weight 9 usable.toNat)
    let least := if q.st = .chain then 4 else q.minWidth
    let s := each (List.range 9) (fun s j =>
      modLane s (9 * p + j) fun x => { x with ready := usable.getLsbD j }) s
    if w < least ∨ w = 0 then s
    else
      let map := lowLanes (List.range 9) w usable
      let locked := deskewed map marks
      let q := { q with txSlot := w, fill := [], rxCode := [] }
      let q' := if q.st = .chain then { q with laneMask := map }
        else { q with actWidth := w, laneMask := map, st := if locked then .init else .locking }
      let s := setPort s p q'
      let s := if map.getLsbD 8 && !q.laneMask.getLsbD 8 then emitDev s 0x0903 [] else s
      let s := if decide (w < q.width) && q.st != .chain && (q.actWidth != w || q.laneMask != map)
        then emitDev s 0x0904 [] else s
      if locked then sendInit s p else s

def execLaneTrainingDone (port : Nat) (ready : BitVec 9) (marks : List LaneMark) (s : State) :
    Host.Outcome State Fault Refusal :=
  atUnit (decide (port < 12)) (trainingDone s port ready marks)

/-- A port that has not reached step 6 within 1 s starts again at step 1. -/
def bringupTimeout (s : State) (p : Nat) : State :=
  let q := portOf s p
  if q.st = .training ∨ q.st = .locking ∨ q.st = .init ∨ q.st = .retrain
      ∨ (q.st = .chain ∧ q.actWidth = 0) then
    let st := if q.st = .chain ∨ q.st = .retrain then q.st else .training
    each (List.range 9) (fun s j =>
      modLane s (9 * p + j) fun x => { x with signal := false, ready := false })
      (setPort s p { q with st := st, actWidth := 0 })
  else s

def execPortBringupTimeout (port : Nat) (s : State) : Host.Outcome State Fault Refusal :=
  atUnit (decide (port < 12)) (bringupTimeout s port)

/-! ## INIT (R316, R341, R353, R383) -/

/-- The peer holds other settings, or this device's own ordinal. -/
def initMismatch (s : State) (q : Port) (b : InitBody) : Bool :=
  b.width != q.width || b.minWidth != q.minWidth || b.spareEn != q.spareEn
    || b.precode != q.precode || b.chain != (q.st == .chain)
    || (b.ordValid && s.arr.ordinal == some b.ordinal)

/-- The peer's generation and ordinal are those held before (R341). -/
def samePeer (q : Port) (b : InitBody) : Bool :=
  q.peerHeld && q.peerGen == b.gen && q.peerOrd == b.ordinal && q.peerOrdV == b.ordValid

/-- The first cycle of a consumed stream that is neither presented nor in the buffer. -/
def firstLacking (r : ConsRun) : Nat → Nat → Nat
  | 0, c => c
  | n + 1, c => if r.buf.any (fun f => f.cycle.toNat == c) then firstLacking r n (c + 1) else c

def lackedCycle (r : ConsRun) : Nat :=
  firstLacking r 5 (match r.presented with | none => 0 | some c => c.toNat + 1)

/-- Requests to the source of every consumed stream after the peer changed (R383): the body carries
the stream in 4 bytes and the cycle in 8 (log 19). A stream that no frame has come in yet has no known source
(log 135). -/
def askResend (s : State) : State :=
  each (s.arr.cons.filter (fun e => e.2.valid)) (fun s e =>
    let r := mapGet s.arr.consRun {} e.1
    if isHere s r.src || (r.presented.isNone && r.buf.isEmpty) then s
    else routeSend s 2 3 r.src (leBytes 4 e.1 ++ leBytes 8 (lackedCycle r))) s

/-- Messages of earlier numbering stay delivered, but owe the new peer no credits. -/
def keepOwn (ms : List RxMsg) : List RxMsg := ms.map fun m => { m with flits := 0 }

/-- Numbering restarts: the replay buffer and the queue are discarded and counted (R341). -/
def restartPort (q : Port) : Port :=
  { q with replay := [], queue := [], txSeq := 0, rxNext := 0, nakAt := none,
           sinceAck := 0, credit0 := 512, credit1 := 512, credit2 := 256, seen0 := 0, seen1 := 0,
           seen2 := 0, freed0 := 0, freed1 := 0, freed2 := 0, passed1 := 0, passed2 := 0,
           asm0 := [], asm1 := [], asm2 := [], asmFlits := [0, 0, 0], inbox := keepOwn q.inbox }

def initUp (s : State) (p : Nat) (b : InitBody) : State :=
  let q := portOf s p
  let same := samePeer q b
  let dropped := if same then 0 else q.replay.length + q.queue.length
  let q1 := if same then freeBefore q b.nextExp else restartPort q
  let s := leafAdd s (leafPort p 4) dropped
  let s := setPort s p
    { q1 with st := if q.st = .chain then .chain else .up,
              actWidth := if q.st = .chain then 4 else q.actWidth,
              peerOrd := b.ordinal, peerOrdV := b.ordValid, peerPort := b.port, peerGen := b.gen,
              peerHeld := true, fresh := false, leftUp := false,
              replay := q1.replay.map fun f => { f with resends := 0 } }
  let s := if same ∨ q.fresh then s else emitDev s 0x0905 []
  let s := emitDev s 0x0901 []
  let s := if same then resendAll s p else s
  let s := if same ∨ q.fresh then s else askResend s
  pump s p

def initMessage (s : State) (p : Nat) (b : InitBody) : State :=
  let q := portOf s p
  if q.st ≠ .init ∧ ¬ (q.st = .chain ∧ q.laneMask ≠ 0 ∧ q.actWidth = 0) then s
  else if initMismatch s q b then emitDev s 0x0906 []
  else initUp s p b

def execInit (port : Nat) (b : InitBody) (s : State) : Host.Outcome State Fault Refusal :=
  atUnit (decide (port < 12)) (initMessage s port b)

/-! ## Receiving -/

/-- A bad flit: counted, and answered by one NAK until the expected one comes or 2 µs pass (R337). -/
def badFlit (s : State) (p : Nat) : State :=
  let s := leafAdd s (leafPort p 4) 1
  match (portOf s p).nakAt with
  | none => sendNak s p
  | some t => if t + 2 ≤ s.nowUs then sendNak s p else s

def asmOf (q : Port) (c : Nat) : List Byte := if c = 0 then q.asm0 else if c = 1 then q.asm1 else q.asm2

def setAsm (q : Port) (c : Nat) (b : List Byte) : Port :=
  if c = 0 then { q with asm0 := b } else if c = 1 then { q with asm1 := b } else { q with asm2 := b }

/-- Flits that a receive buffer holds, of 512, 512 and 256 (R333): messages not yet taken, and the one being
received. -/
def heldFlits (q : Port) (c : Nat) : Nat :=
  (q.inbox.filter fun m => m.cls == c).foldl (fun n m => n + m.flits) 0 + listAt q.asmFlits 0 c
def bufferSize (c : Nat) : Nat := if c = 2 then 256 else 512

/-- An accepted flit joins its message; a first flit ends an unfinished one and latches the entry of its stream
(R345); a complete message is delivered and stays in its buffer until it is taken (R332, R333). -/
def acceptFlit (s : State) (p : Nat) (bytes : List Byte) : State :=
  let hd := leAt bytes 0 2
  let c := field hd 1 0
  let body := (bytes.drop 2).take (field hd 13 8)
  let first := bitOf hd 6
  let (e, s) := if first && c == 0 then fwdRead s (leAt body 0 4 % 4096) else ((portOf s p).asmFwd, s)
  let q := portOf s p
  let q := if first then freeFlits { q with asmFlits := q.asmFlits.set c 0 } c (listAt q.asmFlits 0 c) else q
  let part := (if first then [] else asmOf q c) ++ body
  let n := listAt q.asmFlits 0 c + 1
  let q := { q with rxNext := (q.rxNext + 1) % 65536, nakAt := none, sinceAck := q.sinceAck + 1, asmFwd := e }
  let q := if bitOf hd 7 then
      let m : RxMsg := { cls := c, kind := field hd 5 2, body := part, flits := n, fwd := if c = 0 then e else {} }
      { setAsm q c [] with asmFlits := q.asmFlits.set c 0, inbox := q.inbox ++ [m] }
    else { setAsm q c part with asmFlits := q.asmFlits.set c n }
  let s := leafAdd (setPort s p q) (leafPort p 1) 1
  if 32 ≤ q.sinceAck then sendAck s p else s

/-- The codeword of a slot, decoded once for all its slots (R327, R329): what the decoder leaves of its errors,
none when it cannot correct; corrected symbols, corrected and uncorrectable codewords are counted. -/
def receiveCode (s : State) (p slot : Nat) (errs : SymErrs) : Option SymErrs × State :=
  let q := portOf s p
  let w := laneCount q
  let i := slot % w
  let n := slot / w / 10
  let lane := 9 * p + mapLane q i
  let keep (v : Option SymErrs) (s : State) : State :=
    modPort s p fun q => { q with rxCode := mapPut q.rxCode none i (some { num := n, left := v }) }
  match (mapGet q.rxCode none i).filter (fun r => r.num == n) with
  | some r => (r.left, s)
  | none =>
    match rs10Decode errs with
    | some (left, fixed) =>
      (some left, keep (some left) (if fixed = 0 then s
        else leafAdd (leafAdd s (leafLane lane 3) fixed) (leafLane lane 4) 1))
    | none => (none, keep none (leafAdd s (leafLane lane 5) 1))

/-- ACK: frees every flit up to the number it carries, and returns credits (R333, R336). -/
def ackFlit (s : State) (p last f0 f1 f2 : Nat) : State :=
  let q := portOf s p
  if !portUp q then s
  else pump (setPort s p (takeFreed (freeBefore q ((last + 1) % 65536)) f0 f1 f2)) p

def execAck (port last freed0 freed1 freed2 : Nat) (s : State) : Host.Outcome State Fault Refusal :=
  atUnit (decide (port < 12)) (ackFlit s port last freed0 freed1 freed2)

/-- NAK: frees what it acknowledges and resends the rest (R338). -/
def nakFlit (s : State) (p expected f0 f1 f2 : Nat) : State :=
  let q := portOf s p
  if !portUp q then s
  else pump (resendAll (setPort s p (takeFreed (freeBefore q (expected % 65536)) f0 f1 f2)) p) p

def execNak (port expected freed0 freed1 freed2 : Nat) (s : State) :
    Host.Outcome State Fault Refusal :=
  atUnit (decide (port < 12)) (nakFlit s port expected freed0 freed1 freed2)

/-- The ACK owed within 200 ns of the first unacknowledged accepted flit (R336). -/
def execAckSend (port : Nat) (s : State) : Host.Outcome State Fault Refusal :=
  atUnit (decide (port < 12))
    (if portUp (portOf s port) ∧ 0 < (portOf s port).sinceAck then sendAck s port else s)

/-- ACK_TIMEOUT: the transmitter resends from the oldest unacknowledged flit (R338). -/
def execAckTimeout (port : Nat) (s : State) : Host.Outcome State Fault Refusal :=
  atUnit (decide (port < 12)) (pump (resendAll s port) port)

/-! ## Quiet (R321, R323) -/

/-- QUIET_ENTER from the peer: the receive directions enter QUIET. -/
def quietEnter (s : State) (p : Nat) : State :=
  if portUp (portOf s p) then
    portPower (modPort s p fun q => { q with rxAsleep := true }) p false .active .quiet
  else s

def execQuietEnter (port : Nat) (s : State) : Host.Outcome State Fault Refusal :=
  atUnit (decide (port < 12)) (quietEnter s port)

/-- QUIET_IDLE without traffic: the port sends QUIET_ENTER and its transmit direction sleeps. -/
def execQuietIdleExpiry (port : Nat) (s : State) : Host.Outcome State Fault Refusal :=
  let q := portOf s port
  atUnit (decide (port < 12))
    (if portUp q && q.txQuiet && !q.txAsleep && q.replay.isEmpty && q.queue.isEmpty
        && q.sinceAck == 0 then
      portPower (modPort (sendCtl s port 4 [0]) port fun q => { q with txAsleep := true })
        port true .active .quiet
    else s)

/-- A flit is queued: the transmit direction wakes, sends the wake sequence and the flits. -/
def execQuietWake (port : Nat) (s : State) : Host.Outcome State Fault Refusal :=
  atUnit (decide (port < 12))
    (if (portOf s port).txAsleep then pump (wakeTx s port) port else s)

/-- The peer's wake sequence: the receivers return to ACTIVE. -/
def execWakeSequence (port : Nat) (s : State) : Host.Outcome State Fault Refusal :=
  atUnit (decide (port < 12))
    (portPower (modPort s port fun q => { q with rxAsleep := false }) port false .quiet .active)

/-! ## Flits as they arrive (R328–R330, R336) -/

/-- A link-control flit, its crc good under the number 0. -/
def controlFlit (s : State) (p kind : Nat) (body : List Byte) : State :=
  match kind with
  | 1 => ackFlit s p (leAt body 0 2) (leAt body 2 2) (leAt body 4 2) (leAt body 6 2)
  | 2 => nakFlit s p (leAt body 0 2) (leAt body 2 2) (leAt body 4 2) (leAt body 6 2)
  | 3 => initMessage s p (initOf body)
  | 4 => quietEnter s p
  | 5 => retrain s p
  | _ => s

/-- A flit of 64 bytes as the decoder hands it on. A sequenced one is accepted only when its crc is good under
the number expected, its class, kind and len are valid and its buffer has room; a link-control one has the
number 0 (R330, R333, R336). -/
def takeFlit (s : State) (p : Nat) (bytes : List Byte) : State :=
  let q := portOf s p
  let hd := leAt bytes 0 2
  let c := field hd 1 0
  let kind := field hd 5 2
  let len := field hd 13 8
  let crc (n : Nat) : Bool := decide (bytes.length = 64) && leAt bytes 60 4 == (flitCrc n bytes).toNat
  let okLen := decide (1 ≤ len) && decide (len ≤ 58)
  if c = 3 then
    if crc 0 && okLen && decide (kind ≤ 5) then controlFlit s p kind ((bytes.drop 2).take 58)
    else if portUp q then badFlit s p else s
  else if !portUp q then s
  else if crc q.rxNext && (kindFlits c kind).isSome && okLen && decide (heldFlits q c < bufferSize c) then
    acceptFlit s p bytes
  else badFlit s p

/-- Flit slot `slot` of a port: `bytes` is the flit sent in it and `errs` the symbols of its codeword that
differ from those sent. A codeword that cannot be corrected makes every flit in it bad (R329); a marker slot
holds no flit (R328). -/
def sequencedFlit (s : State) (p slot : Nat) (bytes : List Byte) (errs : SymErrs) : State :=
  let w := laneCount (portOf s p)
  match receiveCode s p slot errs with
  | (none, s) => if portUp (portOf s p) && !markerSlot w slot then badFlit s p else s
  | (some left, s) =>
    if markerSlot w slot then s
    else
      let (data, bs) := if left.isEmpty then (true, bytes) else slotFlit bytes (slotErrs left (slot / w % 10))
      if data then takeFlit s p bs else if portUp (portOf s p) then badFlit s p else s

def execSequencedFlit (port slot : Nat) (bytes : List Byte) (errs : List (Nat × BitVec 10)) (s : State) :
    Host.Outcome State Fault Refusal :=
  atUnit (decide (port < 12)) (sequencedFlit s port slot bytes errs)

/-! ## Retraining and loss -/

/-- RETRAIN_REQ from the peer (R339). -/
def execRetrainReq (port : Nat) (s : State) : Host.Outcome State Fault Refusal :=
  atUnit (decide (port < 12)) (retrain s port)

/-- Loss of CDR or codeword lock on a lane of the map (R339, R340). -/
def execLaneLockLoss (lane : Nat) (s : State) : Host.Outcome State Fault Refusal :=
  atUnit (decide (lane < 108)) (laneTrigger s lane)

/-- More than 16 uncorrectable codewords on one lane within 1 ms (R339). -/
def execCodewordBurst (lane : Nat) (s : State) : Host.Outcome State Fault Refusal :=
  atUnit (decide (lane < 108)) (laneTrigger s lane)

/-- A symbol error ratio above 2 × 10⁻⁴ over 1 s: the lane is marked and the port retrains without
it (R340). -/
def execLaneErrorWindow (lane : Nat) (s : State) : Host.Outcome State Fault Refusal :=
  atUnit (decide (lane < 108))
    (if laneInUse s lane then retrain (markLane s lane) (lane / 9) else s)

/-- Jobs whose streams or tokens a port carries (R384). -/
def portJobs (s : State) (p : Nat) : List Nat :=
  (List.range 8).filter fun j =>
    (s.arr.src.any fun e => e.2.valid && e.2.job == j && (mapGet s.lry.fwd {} e.1).out.getLsbD p)
    || (s.arr.cons.any fun e =>
      let f := mapGet s.lry.fwd {} e.1
      e.2.valid && f.valid && f.loc && f.job == j
        && routeOf s (mapGet s.arr.consRun {} e.1).src == p)

/-- LINK_TIMEOUT out of UP: DOWN, EV_LRY_LINK_DOWN, and EV_ARRAY_SPLIT for each job concerned (R342,
R384). -/
def linkTimeout (s : State) (p : Nat) : State :=
  let q := portOf s p
  if q.leftUp ∧ (q.st = .retrain ∨ q.st = .training ∨ q.st = .locking ∨ q.st = .init ∨ q.st = .disabled) then
    let s := emitDev (setPort s p { q with st := .down, actWidth := 0, leftUp := false }) 0x0902 []
    each (portJobs s p) (fun s j => emitJob s 0x0A02 j []) s
  else s

def execLinkTimeoutExpiry (port : Nat) (s : State) : Host.Outcome State Fault Refusal :=
  atUnit (decide (port < 12)) (linkTimeout s port)

/-! ## Management messages (R346) -/

/-- A class 2 management message: for this device, one for Belic firmware, whose content the spec leaves to it;
otherwise passed on by the route table. -/
def execManagementMessage (port : Nat) (s : State) : Host.Outcome State Fault Refusal :=
  atUnit (decide (port < 12)) (arriving s port 2 3 fun _ _ s => s)

/-! ## Commands -/

def widthOk (n : Nat) : Bool := n == 1 || n == 2 || n == 4 || n == 8

/-- The checks of Table 10-2 and the ranges of R338 and R342. -/
def portCfgOk (cfg : BitVec 32) (lt at_ : Option Nat) : Bool :=
  let v := cfg.toNat
  widthOk (field v 3 0) && widthOk (field v 7 4) && decide (field v 7 4 ≤ field v 3 0)
    && decide (1 ≤ field v 20 11) && decide (field v 20 11 ≤ 1000)
    && (match lt with | none => true | some t => decide (10000 ≤ t) && decide (t ≤ 600000000))
    && (match at_ with | none => true | some t => decide (2 ≤ t) && decide (t ≤ 255))

def setPortCfg (q : Port) (v : Nat) : Port :=
  { q with width := field v 3 0, minWidth := field v 7 4, spareEn := bitOf v 8,
           enable := bitOf v 9, txQuiet := bitOf v 10, quietIdle := field v 20 11 }

def execCmdLryPortCfg (h : Hdr) (port : Nat) (cfg : BitVec 32) (linkTimeoutUs ackTimeoutUs : Option Nat)
    (s : State) : Host.Outcome State Fault Refusal :=
  .next (runCmd s h 0x0701 .pf0 false fun _ =>
    if 12 ≤ port ∨ !portCfgOk cfg linkTimeoutUs ackTimeoutUs then fail s h 0x0701 .badParam
    else
      let s := modPort s port fun q => setPortCfg q cfg.toNat
      let s := modLryBlk s fun l =>
        { l with linkTimeoutUs := linkTimeoutUs.getD l.linkTimeoutUs,
                 ackTimeoutUs := ackTimeoutUs.getD l.ackTimeoutUs }
      answer s h 0x0701 [])

def execCmdLryPortStatus (h : Hdr) (first count : Nat) (s : State) :
    Host.Outcome State Fault Refusal :=
  .next (runCmd s h 0x0702 .pf0 false fun _ =>
    if !rangeOk first count 12 12 then fail s h 0x0702 .badParam
    else answer s h 0x0702
      ((List.range count).flatMap fun i => leBytes 8 (portStatus (portOf s (first + i)))))

def execCmdLryLaneTaps (h : Hdr) (lane : Nat) (w : Option (BitVec 32)) (s : State) :
    Host.Outcome State Fault Refusal :=
  .next (runCmd s h 0x0703 .pf0 false fun _ =>
    if 108 ≤ lane then fail s h 0x0703 .badParam
    else match w with
      | none => answer s h 0x0703 (leBytes 4 (laneOf s lane).taps.toNat)
      | some v =>
        if !tapsOk v then fail s h 0x0703 .badParam
        else
          let v := v &&& 0x3FFFFF
          answer (modLane s lane fun x => { x with taps := v }) h 0x0703 (leBytes 4 v.toNat))

def lpowerCode : LPower → Nat
  | .active => 0 | .quiet => 1 | .off => 2

/-- A lane leaves OFF untrained (R322). -/
def setLanePower (x : Lane) (tx : Bool) (p : LPower) : Lane :=
  let old := if tx then x.txPower else x.rxPower
  let x := if tx then { x with txPower := p } else { x with rxPower := p }
  if p = .off ∨ old = .off then { x with signal := false, ready := false } else x

def execCmdLryLanePower (h : Hdr) (lane : Nat) (tx : Bool) (power : LPower) (s : State) :
    Host.Outcome State Fault Refusal :=
  .next (runCmd s h 0x0703 .pf0 false fun _ =>
    if 108 ≤ lane then fail s h 0x0703 .badParam
    else if power = .off ∧ laneInUse s lane then fail s h 0x0703 .wrongState
    else
      let s := modLane s lane fun x => setLanePower x tx power
      let x := laneOf s lane
      answer s h 0x0703 [BitVec.ofNat 8 (lpowerCode x.txPower), BitVec.ofNat 8 (lpowerCode x.rxPower)])

/-- A write of LRY_LANE_TEST asks for generator, checker, loopback or slip (R324). -/
def needsIdleLane (v : Nat) : Bool := bitOf v 0 || bitOf v 3 || field v 29 28 != 0 || bitOf v 27

def laneTestOk (v : Nat) : Bool :=
  decide (1 ≤ field v 19 8) && decide (10 ≤ field v 25 20) && decide (field v 25 20 ≤ 40)
    && field v 29 28 != 3

def execCmdLryLaneTest (h : Hdr) (lane : Nat) (w : BitVec 32) (s : State) :
    Host.Outcome State Fault Refusal :=
  .next (runCmd s h 0x0703 .pf0 false fun _ =>
    if 108 ≤ lane ∨ !laneTestOk w.toNat then fail s h 0x0703 .badParam
    else if needsIdleLane w.toNat ∧ laneInUse s lane then fail s h 0x0703 .wrongState
    else
      let s := modLane s lane fun x =>
        { x with test := w &&& 0x33FFFFFF, injDue := x.injDue || w.getLsbD 26,
                 slipDue := x.slipDue || w.getLsbD 27,
                 locked := x.locked && w.getLsbD 3,
                 chkRun := if w.getLsbD 3 then x.chkRun else 0 }
      answer s h 0x0703 (leBytes 4 (laneOf s lane).test.toNat))

def execCmdLryLaneWords (h : Hdr) (lane : Nat) (w : Option (BitVec 128)) (s : State) :
    Host.Outcome State Fault Refusal :=
  .next (runCmd s h 0x0703 .pf0 false fun _ =>
    if 108 ≤ lane then fail s h 0x0703 .badParam
    else
      let s := match w with
        | some v => modLane s lane fun x => { x with word := v }
        | none => s
      let (rx, s) := if laneInUse s lane then takeFree s 128 else ((laneOf s lane).rxword, s)
      answer s h 0x0703 (leBytes 16 (laneOf s lane).word.toNat ++ leBytes 16 rx.toNat))

/-- INJ_GO: modes 1 and 2 act once, mode 3 starts or stops (R325); `n` symbols of the generator follow. -/
def injectGo (s : State) (l n : Nat) : State :=
  let x := laneOf s l
  if !x.injDue then s
  else
    let mode := field x.test.toNat 7 6
    let left := if mode = 1 then 1 else if mode = 2 then field x.test.toNat 19 8 else x.injLeft
    let s := modLane s l fun x =>
      { x with injDue := false, injLeft := left, injGap := if mode = 3 then 0 else x.injGap,
               injOn := if mode = 3 then !x.injOn else x.injOn }
    if x.test.getLsbD 0 && !laneInUse s l && x.txPower == .active then
      let (ps, y) := generate n (laneOf s l)
      sendPairs (modLane s l fun _ => y) l ps
    else s

def execInjGo (lane symbols : Nat) (s : State) : Host.Outcome State Fault Refusal :=
  atUnit (decide (lane < 108)) (injectGo s lane symbols)

/-- SLIP takes effect: the word boundary moves one symbol later; the levels that follow fill the next words
(R326). -/
def slipLane (s : State) (l : Nat) (levels : List (BitVec 2)) : State :=
  let s := modLane s l fun x => { x with slipDue := false, slips := (x.slips + 1) % 64 }
  let n := if (laneOf s l).rxAcc = [] then 1 else 0
  let s := modLane (receiveLine s l (levels.take n)) l fun x => { x with rxAcc := x.rxAcc.drop 1 }
  receiveLine s l (levels.drop n)

def execSlip (lane : Nat) (levels : List (BitVec 2)) (s : State) : Host.Outcome State Fault Refusal :=
  atUnit (decide (lane < 108))
    (if (laneOf s lane).slipDue && !laneInUse s lane then slipLane s lane levels else s)

/-- Levels go through the checker, which gains lock by them and counts while it holds it; `lost` says that it then
loses lock, by a rule the spec does not give (R325, log 132). -/
def checkLane (s : State) (l : Nat) (levels : List (BitVec 2)) (lost : Bool) : State :=
  let s := receiveLine s l levels
  if lost && (laneOf s l).locked then
    leafAdd (modLane s l fun x => { x with locked := false, chkRun := 0 }) (leafLane l 2) 1
  else s

def execPatternCheckerLock (lane : Nat) (levels : List (BitVec 2)) (lost : Bool) (s : State) :
    Host.Outcome State Fault Refusal :=
  atUnit (decide (lane < 108))
    (if (laneOf s lane).test.getLsbD 3 && !laneInUse s lane then checkLane s lane levels lost else s)

def execCmdLryFwdWrite (h : Hdr) (entries : List (Nat × Fwd)) (s : State) :
    Host.Outcome State Fault Refusal :=
  .next (runCmd s h 0x0704 .pf0 false fun _ =>
    if entries.any (fun e => decide (4096 ≤ e.1) || decide (8 ≤ e.2.job)) then
      fail s h 0x0704 .badParam
    else
      let s := each entries (fun s e => modLryBlk s fun l =>
        { l with fwd := mapPut l.fwd {} e.1 e.2, fwdErr := mapPut l.fwdErr 0 e.1 0 }) s
      answer s h 0x0704 [])

/-- One entry of a table read; a bad one is rewritten before it is answered (R344, R538). -/
def readFwd (acc : List Byte × State) (stream : Nat) : List Byte × State :=
  let s := (fwdRead acc.2 stream).2
  (acc.1 ++ leBytes 4 (fwdWord (mapGet s.lry.fwd {} stream)), s)

def execCmdLryFwdRead (h : Hdr) (streams : List Nat) (s : State) :
    Host.Outcome State Fault Refusal :=
  .next (runCmd s h 0x0704 .pf0 false fun _ =>
    if streams.any (fun i => decide (4096 ≤ i)) || decide (60 < streams.length) then
      fail s h 0x0704 .badParam
    else
      let (bs, s) := streams.foldl readFwd ([], s)
      answer s h 0x0704 bs)

def execCmdLryRouteWrite (h : Hdr) (entries : List (Nat × Nat)) (s : State) :
    Host.Outcome State Fault Refusal :=
  .next (runCmd s h 0x0705 .pf0 false fun _ =>
    if entries.any (fun e => decide (1024 ≤ e.1) || !(decide (e.2 < 12) || e.2 == 14 || e.2 == 15))
    then fail s h 0x0705 .badParam
    else answer (each entries (fun s e => modLryBlk s fun l =>
      { l with route := mapPut l.route 0xE e.1 e.2 }) s) h 0x0705 [])

def execCmdLryRouteRead (h : Hdr) (ordinals : List Nat) (s : State) :
    Host.Outcome State Fault Refusal :=
  .next (runCmd s h 0x0705 .pf0 false fun _ =>
    if ordinals.any (fun i => decide (1024 ≤ i)) || decide (240 < ordinals.length) then
      fail s h 0x0705 .badParam
    else answer s h 0x0705 (ordinals.map fun i => BitVec.ofNat 8 (routeOf s i)))

def execCmdLryPortResetRetrain (h : Hdr) (port : Nat) (s : State) :
    Host.Outcome State Fault Refusal :=
  .next (runCmd s h 0x0706 .pf0 false fun _ =>
    if 12 ≤ port then fail s h 0x0706 .badParam
    else answer (retrain s port) h 0x0706 [])

/-- A port that starts anew: a fresh generation, nothing held of the peer (R341). -/
def freshPort (s : State) (p : Nat) : State :=
  let (n, s) := takeDraw s
  modPort s p fun q =>
    { restartPort q with
        st := .disabled, actWidth := 0, laneMask := 0, peerOrd := 0, peerOrdV := false,
        peerPort := 0, peerGen := 0, peerHeld := false, fresh := true, txAsleep := false,
        rxAsleep := false, leftUp := false, inbox := [], gen := (Config.trng n).setWidth 16 }

def execCmdLryPortResetReset (h : Hdr) (port : Nat) (s : State) :
    Host.Outcome State Fault Refusal :=
  .next (runCmd s h 0x0706 .pf0 false fun _ =>
    if 12 ≤ port then fail s h 0x0706 .badParam
    else
      let old := portOf s port
      let s := freshPort s port
      answer (modPort s port fun q =>
        { q with st := if old.st = .chain then .chain else if q.enable then .training else .disabled,
                 leftUp := old.leftUp || old.st == .up, inbox := keepOwn old.inbox })
        h 0x0706 [])

/-- Clear-marks: FAILED_MASK is cleared and the lanes' repairs are released (R340). -/
def execCmdLryPortResetClearMarks (h : Hdr) (port : Nat) (s : State) :
    Host.Outcome State Fault Refusal :=
  .next (runCmd s h 0x0706 .pf0 false fun _ =>
    if 12 ≤ port then fail s h 0x0706 .badParam
    else
      let s := modPort s port fun q => { q with failed := 0 }
      let s := modSprBlk s fun m =>
        { m with map := m.map.map fun r =>
            if r.kind = 10 ∧ r.loc / 9 = port then { r with state := 2 } else r }
      answer s h 0x0706 [])

end Sys2Proof.Machine
end

