-- ==== Sys2Proof/Machine/Crypto.lean ====
section
/-! DEFINITION. The standard algorithms that the spec names without printing them: AES-256 in XTS mode and
AES-CMAC (R195, R196), SHA-384 and ECDSA P-384 (R473). PRESUMED: their texts are the published standards'
(log 3). -/

namespace Sys2Proof.Machine

/-- Byte-wise XOR. -/
def xorBytes (a b : List Byte) : List Byte := (a.zip b).map fun p => p.1 ^^^ p.2

/-! ## AES-256 -/

def aesTwice (a : Byte) : Byte := if a.getLsbD 7 then (a <<< 1) ^^^ 0x1B else a <<< 1

def aesMulBits : Nat → Byte → Byte → Byte
  | 0, _, _ => 0
  | n + 1, a, b => (if b.getLsbD 0 then a else 0) ^^^ aesMulBits n (aesTwice a) (b >>> 1)

/-- Product in the AES field. -/
def aesMul (a b : Byte) : Byte := aesMulBits 8 a b

/-- Inverse in the AES field: the product of a², a⁴, …, a¹²⁸, which is a²⁵⁴; 0 for 0. -/
def aesInvSteps : Nat → Byte → Byte
  | 0, _ => 1
  | n + 1, a => aesMul (aesMul a a) (aesInvSteps n (aesMul a a))

def aesInv (a : Byte) : Byte := aesInvSteps 7 a

def aesSub (a : Byte) : Byte :=
  let i := aesInv a
  i ^^^ i.rotateLeft 1 ^^^ i.rotateLeft 2 ^^^ i.rotateLeft 3 ^^^ i.rotateLeft 4 ^^^ 0x63

def aesUnsub (a : Byte) : Byte :=
  aesInv (a.rotateLeft 1 ^^^ a.rotateLeft 3 ^^^ a.rotateLeft 6 ^^^ 0x05)

def aesRcon : Nat → Byte
  | 0 => 1
  | n + 1 => aesTwice (aesRcon n)

/-- The next word of the key schedule, from the words so far (four bytes each). -/
def aesNextWord (ws : List (List Byte)) (i : Nat) : List Byte :=
  let t := (ws[i - 1]?).getD []
  let t :=
    if i % 8 = 0 then
      xorBytes ((t.rotateLeft 1).map aesSub) [aesRcon (i / 8 - 1), 0, 0, 0]
    else if i % 8 = 4 then t.map aesSub else t
  xorBytes ((ws[i - 8]?).getD []) t

def keyWords (key : List Byte) : List (List Byte) :=
  (List.range 8).map fun i => (key.drop (4 * i)).take 4

/-- The 15 round keys of a 32-byte key. -/
def aesRoundKeys (key : List Byte) : List (List Byte) :=
  let ws := (List.range 52).foldl (fun ws i => ws ++ [aesNextWord ws (i + 8)]) (keyWords key)
  (List.range 15).map fun r => ((ws.drop (4 * r)).take 4).flatten

def byteAtIdx (s : List Byte) (i : Nat) : Byte := (s[i]?).getD 0

/-- Row r of the column-major state moves left by r, or right. -/
def aesShift (s : List Byte) : List Byte :=
  (List.range 16).map fun i => byteAtIdx s (i % 4 + 4 * ((i / 4 + i % 4) % 4))
def aesUnshift (s : List Byte) : List Byte :=
  (List.range 16).map fun i => byteAtIdx s (i % 4 + 4 * ((i / 4 + 4 - i % 4) % 4))

/-- Each column times the circulant of four coefficients. -/
def aesMix (k : List Byte) (s : List Byte) : List Byte :=
  (List.range 16).map fun i =>
    (List.range 4).foldl (fun acc j =>
      acc ^^^ aesMul (byteAtIdx k ((j + 4 - i % 4) % 4)) (byteAtIdx s (i / 4 * 4 + j))) 0

def aesEncrypt (key block : List Byte) : List Byte :=
  match aesRoundKeys key with
  | [] => block
  | k0 :: ks =>
    let s := (ks.take 13).foldl (fun s k =>
      xorBytes (aesMix [2, 3, 1, 1] (aesShift (s.map aesSub))) k) (xorBytes block k0)
    xorBytes (aesShift (s.map aesSub)) ((ks[13]?).getD [])

def aesDecrypt (key block : List Byte) : List Byte :=
  match (aesRoundKeys key).reverse with
  | [] => block
  | k0 :: ks =>
    let s := (ks.take 13).foldl (fun s k =>
      aesMix [14, 11, 13, 9] (xorBytes ((aesUnshift s).map aesUnsub) k)) (xorBytes block k0)
    xorBytes ((aesUnshift s).map aesUnsub) ((ks[13]?).getD [])

/-! ## XTS over one 128-byte line (R195) -/

/-- Multiplication of a tweak by the primitive element, little-endian. -/
def xtsTwice (t : Nat) : Nat :=
  if t.testBit 127 then (2 * t) % 2 ^ 128 ^^^ 0x87 else 2 * t

/-- The eight blocks of a data unit, each between two XORs with its tweak. -/
def xtsBlocks (cipher : List Byte → List Byte) : Nat → Nat → List Byte → List Byte
  | 0, _, _ => []
  | n + 1, t, bs =>
    let w := leBytes 16 t
    xorBytes (cipher (xorBytes (bs.take 16) w)) w ++ xtsBlocks cipher n (xtsTwice t) (bs.drop 16)

/-- Key 1 is the low half, key 2 the high half, each little-endian (R4; log 2). -/
def xtsKey1 (key : BitVec 512) : List Byte := leBytes 32 key.toNat
def xtsKey2 (key : BitVec 512) : List Byte := leBytes 32 (key.toNat / 2 ^ 256)

def xtsTweak (key : BitVec 512) (farLine : Nat) : Nat :=
  leNat (aesEncrypt (xtsKey2 key) (leBytes 16 farLine))

def xtsEncrypt (key : BitVec 512) (farLine : Nat) (plain : Line) : Line :=
  BitVec.ofNat 1024 (leNat (xtsBlocks (aesEncrypt (xtsKey1 key)) 8 (xtsTweak key farLine)
    (leBytes 128 plain.toNat)))

def xtsDecrypt (key : BitVec 512) (farLine : Nat) (cipher : Line) : Line :=
  BitVec.ofNat 1024 (leNat (xtsBlocks (aesDecrypt (xtsKey1 key)) 8 (xtsTweak key farLine)
    (leBytes 128 cipher.toNat)))

/-! ## CMAC (R196) -/

/-- A number from bytes, most significant first, and back. -/
def beNat (bs : List Byte) : Nat := leNat bs.reverse
def beBytes (n v : Nat) : List Byte := (leBytes n v).reverse

def cmacTwice (k : Nat) : Nat :=
  if k.testBit 127 then (2 * k) % 2 ^ 128 ^^^ 0x87 else 2 * k

/-- Chaining over whole blocks. -/
def cmacChain (key : List Byte) : Nat → List Byte → List Byte → List Byte
  | 0, c, _ => c
  | n + 1, c, bs => cmacChain key n (aesEncrypt key (xorBytes c (bs.take 16))) (bs.drop 16)

/-- The last block: whole under the first subkey, else padded under the second. -/
def cmacLast (key bs : List Byte) : List Byte :=
  let k1 := cmacTwice (beNat (aesEncrypt key (List.replicate 16 0)))
  if bs.length = 16 then xorBytes bs (beBytes 16 k1)
  else xorBytes (bs ++ 0x80 :: List.replicate (15 - bs.length) 0) (beBytes 16 (cmacTwice k1))

/-- AES-CMAC of a byte string, 16 bytes. -/
def aesCmac (key bs : List Byte) : List Byte :=
  let n := (bs.length - 1) / 16
  aesEncrypt key (xorBytes (cmacChain key n (List.replicate 16 0) bs) (cmacLast key (bs.drop (16 * n))))

/-- The tag of a line: 8 address bytes and 128 ciphertext bytes, the first four bytes of the result. -/
def cmacTag (key : BitVec 256) (farLine : Nat) (cipher : Line) : BitVec 32 :=
  BitVec.ofNat 32 (leNat ((aesCmac (leBytes 32 key.toNat)
    (leBytes 8 farLine ++ leBytes 128 cipher.toNat)).take 4))

/-! ## SHA-384 (R473) -/

/-- The fraction bits of the cube roots of the first 80 primes. -/
def shaK : List (BitVec 64) :=
  [0x428a2f98d728ae22, 0x7137449123ef65cd, 0xb5c0fbcfec4d3b2f, 0xe9b5dba58189dbbc,
   0x3956c25bf348b538, 0x59f111f1b605d019, 0x923f82a4af194f9b, 0xab1c5ed5da6d8118,
   0xd807aa98a3030242, 0x12835b0145706fbe, 0x243185be4ee4b28c, 0x550c7dc3d5ffb4e2,
   0x72be5d74f27b896f, 0x80deb1fe3b1696b1, 0x9bdc06a725c71235, 0xc19bf174cf692694,
   0xe49b69c19ef14ad2, 0xefbe4786384f25e3, 0x0fc19dc68b8cd5b5, 0x240ca1cc77ac9c65]
  ++ [0x2de92c6f592b0275, 0x4a7484aa6ea6e483, 0x5cb0a9dcbd41fbd4, 0x76f988da831153b5,
   0x983e5152ee66dfab, 0xa831c66d2db43210, 0xb00327c898fb213f, 0xbf597fc7beef0ee4,
   0xc6e00bf33da88fc2, 0xd5a79147930aa725, 0x06ca6351e003826f, 0x142929670a0e6e70,
   0x27b70a8546d22ffc, 0x2e1b21385c26c926, 0x4d2c6dfc5ac42aed, 0x53380d139d95b3df,
   0x650a73548baf63de, 0x766a0abb3c77b2a8, 0x81c2c92e47edaee6, 0x92722c851482353b]
  ++ [0xa2bfe8a14cf10364, 0xa81a664bbc423001, 0xc24b8b70d0f89791, 0xc76c51a30654be30,
   0xd192e819d6ef5218, 0xd69906245565a910, 0xf40e35855771202a, 0x106aa07032bbd1b8,
   0x19a4c116b8d2d0c8, 0x1e376c085141ab53, 0x2748774cdf8eeb99, 0x34b0bcb5e19b48a8,
   0x391c0cb3c5c95a63, 0x4ed8aa4ae3418acb, 0x5b9cca4f7763e373, 0x682e6ff3d6b2b8a3,
   0x748f82ee5defb2fc, 0x78a5636f43172f60, 0x84c87814a1f0ab72, 0x8cc702081a6439ec]
  ++ [0x90befffa23631e28, 0xa4506cebde82bde9, 0xbef9a3f7b2c67915, 0xc67178f2e372532b,
   0xca273eceea26619c, 0xd186b8c721c0c207, 0xeada7dd6cde0eb1e, 0xf57d4f7fee6ed178,
   0x06f067aa72176fba, 0x0a637dc5a2c898a6, 0x113f9804bef90dae, 0x1b710b35131c471b,
   0x28db77f523047d84, 0x32caab7b40c72493, 0x3c9ebe0a15c9bebc, 0x431d67c49c100d4c,
   0x4cc5d4becb3e42b6, 0x597f299cfc657e2a, 0x5fcb6fab3ad6faec, 0x6c44198c4a475817]

def shaInit : List (BitVec 64) :=
  [0xcbbb9d5dc1059ed8, 0x629a292a367cd507, 0x9159015a3070dd17, 0x152fecd8f70e5939,
   0x67332667ffc00b31, 0x8eb44a8768581511, 0xdb0c2e0d64f98fa7, 0x47b5481dbefa4fa4]

abbrev W64 := BitVec 64

def shaBig0 (x : W64) : W64 := x.rotateRight 28 ^^^ x.rotateRight 34 ^^^ x.rotateRight 39
def shaBig1 (x : W64) : W64 := x.rotateRight 14 ^^^ x.rotateRight 18 ^^^ x.rotateRight 41
def shaSmall0 (x : W64) : W64 := x.rotateRight 1 ^^^ x.rotateRight 8 ^^^ (x >>> 7)
def shaSmall1 (x : W64) : W64 := x.rotateRight 19 ^^^ x.rotateRight 61 ^^^ (x >>> 6)

def shaWord (ws : List W64) (i : Nat) : W64 := (ws[i]?).getD 0

/-- The 80 words of a block's schedule. -/
def shaSchedule (block : List Byte) : List W64 :=
  let w0 := (List.range 16).map fun i => BitVec.ofNat 64 (beNat ((block.drop (8 * i)).take 8))
  (List.range 64).foldl (fun ws i =>
    ws ++ [shaSmall1 (shaWord ws (i + 14)) + shaWord ws (i + 9) + shaSmall0 (shaWord ws (i + 1))
      + shaWord ws i]) w0

/-- One round over the eight working words. -/
def shaRound (v : List W64) (kw : W64) : List W64 :=
  match v with
  | [a, b, c, d, e, f, g, h] =>
    let t1 := h + shaBig1 e + ((e &&& f) ^^^ (~~~e &&& g)) + kw
    let t2 := shaBig0 a + ((a &&& b) ^^^ (a &&& c) ^^^ (b &&& c))
    [t1 + t2, a, b, c, d + t1, e, f, g]
  | v => v

def shaBlock (h : List W64) (block : List Byte) : List W64 :=
  let v := ((shaK.zip (shaSchedule block)).map fun p => p.1 + p.2).foldl shaRound h
  (h.zip v).map fun p => p.1 + p.2

def shaRun : Nat → List W64 → List Byte → List W64
  | 0, h, _ => h
  | n + 1, h, bs => shaRun n (shaBlock h (bs.take 128)) (bs.drop 128)

/-- SHA-384 of a byte string, 48 bytes. -/
def sha384Bytes (bs : List Byte) : List Byte :=
  let n := bs.length
  let m := bs ++ 0x80 :: List.replicate (127 - (n + 16) % 128) 0 ++ beBytes 16 (8 * n)
  ((shaRun (m.length / 128) shaInit m).flatMap fun w => beBytes 8 w.toNat).take 48

def sha384 (bs : List Byte) : BitVec 384 := BitVec.ofNat 384 (leNat (sha384Bytes bs))

/-! ## ECDSA P-384 (R473) -/

def p384 : Nat := 2 ^ 384 - 2 ^ 128 - 2 ^ 96 + 2 ^ 32 - 1
def n384 : Nat :=
  0xFFFFFFFFFFFFFFFFFFFFFFFFFFFFFFFFFFFFFFFFFFFFFFFFC7634D81F4372DDF581A0DB248B0A77AECEC196ACCC52973
def b384 : Nat :=
  0xB3312FA7E23EE7E4988E056BE3F82D19181D9C6EFE8141120314088F5013875AC656398D8A2ED19D2A85C8EDD3EC2AEF
def g384 : Nat × Nat :=
  (0xAA87CA22BE8B05378EB1C71EF320AD746E1D3B628BA79B9859F741E082542A385502F25DBF55296C3A545E3872760AB7,
   0x3617DE4A96262C6F5D9E98BF9292DC29F8F41DBD289A147CE9DA3113B5F0B8C00A60B1CE1D7E819D7A431D7C90EA0E5F)

/-- aᵉ mod m over the low n bits of e. -/
def powMod (m : Nat) : Nat → Nat → Nat → Nat
  | 0, _, _ => 1 % m
  | n + 1, a, e => (if e % 2 = 1 then a else 1) * powMod m n (a * a % m) (e / 2) % m

/-- Inverse modulo a prime. -/
def invMod (m a : Nat) : Nat := powMod m 384 (a % m) (m - 2)

/-- Sum of two points of the curve; none is the point at infinity. -/
def ecAdd (a b : Option (Nat × Nat)) : Option (Nat × Nat) :=
  match a, b with
  | none, b => b
  | a, none => a
  | some (x1, y1), some (x2, y2) =>
    if x1 = x2 ∧ (y1 + y2) % p384 = 0 then none
    else
      let l := if x1 = x2 then (3 * x1 * x1 + p384 - 3) * invMod p384 (2 * y1) % p384
        else (y2 + p384 - y1) * invMod p384 (x2 + p384 - x1) % p384
      let x := (l * l + 2 * p384 - x1 - x2) % p384
      some (x, (l * (x1 + p384 - x) + p384 - y1) % p384)

def ecMul : Nat → Nat → Option (Nat × Nat) → Option (Nat × Nat)
  | 0, _, _ => none
  | n + 1, k, a =>
    let r := ecMul n (k / 2) (ecAdd a a)
    if k % 2 = 1 then ecAdd a r else r

def onCurve (q : Nat × Nat) : Bool :=
  decide (q.1 < p384) && decide (q.2 < p384)
    && (q.2 * q.2) % p384 == (q.1 * q.1 * q.1 + (p384 - 3) * q.1 + b384) % p384

/-- The signature r, s over a message verifies under the key x, y: 48 bytes each, most significant byte
first (log 3). -/
def ecdsaOk (key sig msg : List Byte) : Bool :=
  let q := (beNat (key.take 48), beNat (key.drop 48))
  let r := beNat (sig.take 48)
  let s := beNat (sig.drop 48)
  let e := beNat (sha384Bytes msg)
  let w := invMod n384 s
  key.length == 96 && sig.length == 96 && onCurve q
    && decide (0 < r) && decide (r < n384) && decide (0 < s) && decide (s < n384)
    && match ecAdd (ecMul 384 (e * w % n384) (some g384)) (ecMul 384 (r * w % n384) (some q)) with
      | some p => p.1 % n384 == r
      | none => false

end Sys2Proof.Machine
end

