-- ==== Sys2Proof/Machine/Journal.lean ====
section
/-! DEFINITION. The input journal and the undo log (R364, R365, R369–R374): records, fill, early
checkpoints and markers. -/

namespace Sys2Proof.Machine

/-- Payload bytes of a record before padding (Table 11-8). -/
def recPayload : JRec → Nat
  | .jntRx _ _ _ sl => 8 + 24 * sl.length
  | .jntTx _ _ _ sl => 8 + 24 * sl.length
  | .hodDeliver .. => 16
  | .hodFlags .. => 3
  | .hodArrival _ _ _ ws _ _ => 16 + 8 * ws.length
  | .trig _ => 2
  | .reset _ => 1
  | .hostWrite _ d => 16 + d.length
  | .epochStart _ => 8

/-- Bytes a record takes: the 16-byte header and the payload padded to 16 (R370). -/
def recBytes (r : JRec) : Nat := 16 + (recPayload r + 15) / 16 * 16

/-- Records kept by cycle, not by epoch (Table 11-8). -/
def keptByCycle : JRec → Bool
  | .jntRx .. => true
  | .jntTx .. => true
  | .hodDeliver .. => true
  | .hodFlags .. => true
  | .hodArrival .. => false
  | .trig _ => true
  | .reset _ => true
  | .hostWrite .. => false
  | .epochStart _ => false

def journalBytes (s : State) : Nat := s.arr.journal.foldl (fun n e => n + recBytes e.body) 0
def undoBytes (s : State) : Nat := s.arr.undo.length * 4112
def journalSize (s : State) : Nat := s.mem.regions.journal * 1048576
def undoSize (s : State) : Nat := s.mem.regions.undo * 1048576

/-- Fill in percent (Table 11-6). -/
def journalFill (s : State) : Nat := journalBytes s * 100 / journalSize s
def undoFill (s : State) : Nat := undoBytes s * 100 / undoSize s

/-- The smallest multiple of 4,096 that is at least c + 65,536 (R365). -/
def earlyTarget (c : Word) : Word := BitVec.ofNat 64 ((c.toNat + 65536 + 4095) / 4096 * 4096)

/-- A stream of a job, for its markers. -/
def streamOf (s : State) (j : Nat) : Nat :=
  match s.arr.src.find? (fun e => e.2.valid && e.2.job == j) with
  | some e => e.1
  | none =>
    match s.arr.cons.find? (fun e => e.2.valid && (mapGet s.lry.fwd {} e.1).job == j) with
    | some e => e.1
    | none => 0

/-- A checkpoint marker to every ordinal from which the job has received frames or tokens. -/
def sendMarkers (s : State) (j stream : Nat) (target : Word) : State :=
  let epoch := (jobOf s j).epoch.toNat
  each (s.arr.peers.filter (fun p => p.1 == j)) (fun s p =>
    if isHere s p.2 then s
    else routeSend s 2 2 p.2 (leBytes 8 (stream % 4096 + epoch * 4096) ++ leBytes 8 target.toNat)) s

/-- An early checkpoint for one job, with its markers (R365). -/
def scheduleEarly (s : State) (j : Nat) : State :=
  if !(jobOf s j).earlyAt.isEmpty then s
  else
    let t := earlyTarget (jobOf s j).cycle
    sendMarkers (modJob s j fun x => { x with earlyAt := [t] }) j (streamOf s j) t

def jobsInJournal (s : State) : List Nat :=
  (List.range 8).filter fun j => s.arr.journal.any (fun e => e.job == j)
def jobsInUndo (s : State) : List Nat :=
  (List.range 8).filter fun j => s.arr.undo.any (fun e => e.job == j)

/-- A region that cannot take a record: RECOVERABLE clears for every job with records in it (R373).
The event is raised when this changes something. -/
def logFull (s : State) (js : List Nat) : State :=
  each (js.filter fun j => (jobOf s j).recoverable) (fun s j =>
    emitJob (modJob s j fun x => { x with recoverable := false }) 0x0A07 j []) s

/-- Write a journal record of a job at a cycle (R370), then look at the fill (R365). -/
def addRecord (s : State) (j : Nat) (cycle : Word) (r : JRec) : State :=
  let x := jobOf s j
  if !x.journaling then s
  else if journalSize s < journalBytes s + recBytes r then logFull s (jobsInJournal s)
  else
    let s := modArrBlk s fun a =>
      { a with journal := a.journal ++ [{ job := j, epoch := x.epochK, cycle := cycle, body := r }] }
    if 75 ≤ journalFill s then each (jobsInJournal s) scheduleEarly s else s

/-- Free records that no valid checkpoint of the job needs (R369). -/
def freeRecords (s : State) (j : Nat) : State :=
  let x := jobOf s j
  let ks := (x.slotA.map (·.k)).toList ++ (x.slotB.map (·.k)).toList
  match ks with
  | [] => s
  | k0 :: rest =>
    let k := rest.foldl (fun a b => if b.toNat < a.toNat then b else a) k0
    let gone (e : JEntry) : Bool :=
      e.job == j && decide (e.epoch.toNat < k.toNat)
        && (!keptByCycle e.body || decide (e.cycle.toNat < k.toNat))
    modArrBlk s fun a =>
      { a with journal := a.journal.filter (fun e => !gone e),
               undo := a.undo.filter (fun u => !(u.job == j && decide (u.epoch.toNat < k.toNat))) }

/-- Drop every record of a job. -/
def dropRecords (s : State) (j : Nat) : State :=
  modArrBlk s fun a =>
    { a with journal := a.journal.filter (fun e => e.job != j),
             undo := a.undo.filter (fun u => u.job != j) }

/-- A new journal epoch and undo epoch begin (the cut of R366); what is left of a hod's mark counts on
in the new epoch. -/
def beginEpoch (s : State) (j : Nat) (k : Word) : State :=
  let left (m : Nat × Nat) : Nat × Nat := (m.1, m.2 - (hodOf s m.1).ownItems)
  let s := modJob s j fun x =>
    { x with journaling := true, epochK := k, written := [], hodHwm := x.hodHwm.map left }
  let s := each (s.pal.hods.filter (fun e => e.2.valid && e.2.job == j))
    (fun s e => modHod s e.1 fun h => { h with arrivals := 0, ownItems := 0 }) s
  addRecord s j (jobOf s j).cycle (.epochStart k)

end Sys2Proof.Machine
end

