-- ==== Sys2Proof/Machine/SpnOps.lean ====
section
/-! DEFINITION. The spine as operations: router positions, epoch changes, fences, the power-down of a
mason group (R281, R386–R399). -/

namespace Sys2Proof.Machine

/-! ## Positions -/

/-- Router of Larey port p (Table 12-1). -/
def portRouter (p : Nat) : Nat := listAt [2, 5, 8, 29, 59, 89, 97, 94, 91, 70, 40, 10] 0 p

/-- Router of mason group g (R281). -/
def groupRouter (g : Nat) : Nat := 10 * listAt [1, 4, 8] 1 (g / 4) + listAt [1, 3, 6, 8] 1 (g % 4)

def gap (a b : Nat) : Nat := (a - b) + (b - a)

/-- Hops between two routers of the mesh. -/
def hops (a b : Nat) : Nat := gap (a / 10) (b / 10) + gap (a % 10) (b % 10)

/-! ## Fences and epochs -/

def bankOf (inject : Bool) : Nat := b2n inject

/-- Local fence mask of a router under an epoch. -/
def fenceMask (s : State) (epoch : Bool) (r : Nat) : BitVec 6 :=
  mapGet s.spn.fences 0 (bankOf epoch * 100 + r)

/-- New packets to a mason group meet its fence sink (R398). -/
def groupFenced (s : State) (g : Nat) : Bool :=
  (fenceMask s s.spn.inject (groupRouter g)).getLsbD 4

/-- No epoch change may start while the previous one is not over (R394). -/
def epochBusy (s : State) : Bool := s.spn.flipping || s.spn.oldCount != 0

/-- Entries of one bank moved to the other: the part of a key below `size` stays. -/
def copyBank {α : Type} [DecidableEq α] (m : SMap α) (d : α) (size frm into : Nat) : SMap α :=
  m.foldl (fun acc e => if e.1 / size = frm then mapPut acc d (into * size + e.1 % size) e.2 else acc)
    (mapDrop m (fun k => k / size == into))

/-- Value that a routing entry reads as at reset (R392): the column first, then the row. -/
def attachRouter (entry : Nat) : Nat :=
  if entry < 100 then entry
  else if entry < 112 then portRouter (entry - 100)
  else if entry < 116 then listAt [30, 39, 60, 69] 0 (entry - 112)
  else if entry = 116 then 9
  else if entry = 117 then 1
  else if entry = 120 then 0
  else if entry = 121 then 45
  else if entry < 128 then 0
  else listAt [33, 36, 63, 66] 33 ((entry - 128) % 4)

def routeReset (router entry : Nat) : Nat :=
  let d := attachRouter entry
  if router % 10 < d % 10 then 2
  else if d % 10 < router % 10 then 4
  else if router / 10 < d / 10 then 1
  else if d / 10 < router / 10 then 3
  else 0

def routeKey (bank router entry : Nat) : Nat := (bank * 100 + router) * 136 + entry

/-- Routing entry: an unlisted one holds its reset contents; values are stored plus one. -/
def routeAt (s : State) (bank router entry : Nat) : Nat :=
  match mapGet s.spn.routes 0 (routeKey bank router entry) with
  | 0 => routeReset router entry
  | n + 1 => n

/-- An epoch change (R394): the bank not in use takes the whole state in use with the given entries
and fences, then INJECT flips. OLD_COUNT is what is still under way: a free value. -/
def epochChange (s : State) (routes : List (Nat × Nat × Nat)) (fences : List (Nat × BitVec 6)) :
    State :=
  let now := bankOf s.spn.inject
  let new := 1 - now
  let rs := copyBank s.spn.routes 0 13600 now new
  let rs := routes.foldl (fun m e => mapPut m 0 (routeKey new e.1 e.2.1) (e.2.2 + 1)) rs
  let fs := copyBank s.spn.fences 0 100 now new
  let fs := fences.foldl (fun m e => mapPut m 0 (new * 100 + e.1) e.2) fs
  let (n, s) := takeFree s 32
  modSpnBlk s fun x =>
    { x with routes := rs, fences := fs, inject := !x.inject, flipping := true, oldCount := n,
             routeErr := mapDrop x.routeErr (fun k => k / 13600 == new) }

/-- The fence bit of a group, with the other bits of its router. -/
def groupFence (s : State) (g : Nat) (on : Bool) : Nat × BitVec 6 :=
  let r := groupRouter g
  let m := fenceMask s s.spn.inject r
  (r, if on then m ||| 0x10 else m &&& 0x2F)

/-- The fence bits of groups clear with the next epoch change. -/
def runUnfence (s : State) : State :=
  if epochBusy s || s.spn.unfence.isEmpty then s
  else
    let gs := s.spn.unfence
    modSpnBlk (epochChange s [] (gs.map fun g => groupFence s g false)) fun x =>
      { x with unfence := [] }

/-- A group's fence is to clear (R397 step 5, R398). -/
def unfenceGroup (s : State) (g : Nat) : State :=
  if (groupFenced s g) then
    runUnfence (modSpnBlk s fun x => { x with unfence := x.unfence ++ [g] })
  else s

/-- OLD_COUNT reaches zero. -/
def oldCountZero (s : State) : State :=
  if epochBusy s then
    runUnfence (modSpnBlk s fun x => { x with flipping := false, oldCount := 0 })
  else s

/-! ## Power-down of a mason group (Table 12-5) -/

/-- The group holds no assigned mason. -/
def groupEmpty (s : State) (g : Nat) : Bool :=
  (List.range 16).all fun i => (masonOf s (16 * g + i)).job.isNone

/-- Steps 1 and 2, when Belic firmware may act. -/
def canPowerDown (s : State) (g : Nat) : Bool :=
  (groupOf s g).on && groupEmpty s g && s.spn.down.isNone && !epochBusy s

def startPowerDown (s : State) (g : Nat) (hdr : Option Hdr) : State :=
  modSpnBlk (epochChange s [] [groupFence s g true]) fun x =>
    { x with down := some { group := g, hdr := hdr } }

/-- The rails of the group go off: its masons are in STATE 0 and hold nothing (R284). -/
def groupOff (s : State) (g : Nat) : State :=
  let s := each (List.range 16) (fun s i =>
    modMason s (16 * g + i) fun m => { phys := m.phys, st := if m.st = .failed then .failed else .off }) s
  modGroup s g fun x => { x with on := false, clearing := false }

end Sys2Proof.Machine
end

