-- ==== Sys2Proof/Machine/MemOps.lean ====
section
/-! DEFINITION. Design memory as operations: the Page Placement Table, near words and far lines with
their checks, quarantine, the undo copy, rights, reads and writes by masters (R165–R210). -/

namespace Sys2Proof.Machine

/-! ## Addresses -/

/-- Page of a design line (R165): 8,192 lines of 128 bytes. -/
def linePage (dl : Nat) : Nat := dl / 8192

/-- Far line index of line `dl` in far frame f (R213). -/
def farIndex (frame dl : Nat) : Nat := frame * 8192 + dl % 8192

/-- Bed-memory word number of 64-bit word w of a design line in near frame n. -/
def nearIndex (frame dl w : Nat) : Nat := frame * 131072 + dl % 8192 * 16 + w

/-- Channel, bank and row of a far line (R213). -/
def lineChannel (l : Nat) : Nat := l % 32
def lineBank (l : Nat) : Nat := l / 32 / 15 % 16
def lineRow (l : Nat) : Nat := l / 32 / 240
def lineSlot (l : Nat) : Nat := l / 32 % 15

/-- A channel's controller, package and number in its package (R211, Table 7-1). -/
def chanController (c : Nat) : Nat := c / 8
def chanPackage (c : Nat) : Nat := c / 4
def packageChan (c : Nat) : Nat := c % 4

/-- Far frames of the design backing (R188). -/
def regionsSum (r : Regions) : Nat :=
  r.golden + r.slotA + r.slotB + r.journal + r.undo + r.capture + r.scratch
def backingFrames (s : State) : Nat := 122880 - regionsSum s.mem.regions

/-! ## Table entries (R176–R179) -/

/-- What an entry read finds: its SEC-DED word corrected or, when uncorrectable, the page stalled with
EV_PLC_ENTRY_ERROR. -/
def fetchEntry (s : State) (p : Nat) : Bool × State :=
  if s.mem.stalled.contains p then (false, s)
  else
    let m := mapGet s.mem.pptErr 0 p
    if m = 0 then (true, s)
    else
      let clear (s : State) := modMemBlk s fun x => { x with pptErr := mapPut x.pptErr 0 p 0 }
      match secDecode 8 64 (secEncode 8 64 (pptWord (pptOf s p)) ^^^ m.toNat) with
      | some (w, _) => (true, setPpt (clear s) p (pptOfWord (w % 2 ^ 64)))
      | none =>
        (false, emitDev (modMemBlk s fun x => { x with stalled := p :: x.stalled }) 0x0506 [])

/-- The page node of a page, or its branch node, is INVALID (R185, R510). -/
def nodeInvalid (s : State) (p : Nat) : Bool :=
  (mapGet s.tel.pages {} p).invalid || !(mapGet s.tel.roots {} (7680 + p / 256)).valid

/-- Near frame that a page holds, by the reverse map. -/
def reverseFrame (s : State) (p : Nat) : Option Nat :=
  (s.mem.reverse.find? (fun e => e.2 == some p)).map (·.1)

def setReverse (s : State) (frame : Nat) (p : Option Nat) : State :=
  modMemBlk s fun m => { m with reverse := mapPut m.reverse none frame p }

def quarCount (s : State) (p : Nat) : Nat :=
  (s.mem.quar.filter (fun q => linePage q.line == p)).length

/-- Belic firmware rebuilds an entry from its mirror, the reverse map and the quarantine list
(R179). -/
def rebuildEntry (s : State) (p : Nat) : State :=
  let e : Ppt :=
    match mapGet s.mem.mirror none p with
    | none => { frozen := nodeInvalid s p }
    | some m =>
      let b : Ppt := { frozen := nodeInvalid s p, job := m.job, pin := m.pin, exclude := m.exclude, farFrame := m.farFrame,
                       qlines := quarCount s p }
      if m.lost then { b with state := .lost }
      else if m.quar then { b with state := .quarantined }
      else match reverseFrame s p with
        | some f => { b with state := .near, nearFrame := f, dirty := true }
        | none => { b with state := .far }
  let s := setPpt s p e
  modMemBlk s fun x => { x with stalled := x.stalled.filter (· != p), pptErr := mapPut x.pptErr 0 p 0 }

/-- An entry read by a master other than a tile port: when the entry is uncorrectable the access
waits for the rebuild and then proceeds (R179; log 22). -/
def readEntry (s : State) (p : Nat) : Ppt × State :=
  let (ok, s) := fetchEntry s p
  let s := if ok then s else rebuildEntry s p
  (pptOf s p, s)

/-! ## The way through the spine (R387, R398) -/

/-- Hub of the mesh quadrant of a router. -/
def quadrant (r : Nat) : Nat := b2n (decide (5 ≤ r % 10)) + 2 * b2n (decide (50 ≤ r))

/-- A hub's attached blocks lie behind their router's local fence. -/
def hubFenced (s : State) (q : Nat) : Bool :=
  (fenceMask s s.spn.inject (listAt [33, 36, 63, 66] 33 (q % 4))).getLsbD 5

/-- An access that router r sends meets a fence sink: at its own hub of node 118, or at the hub that the
line is forwarded to. -/
def accessFenced (s : State) (r : Nat) (e : Ppt) (dl : Nat) : Bool :=
  hubFenced s (quadrant r)
    || hubFenced s (if e.state == .near || (e.state == .migrating && e.dir) then e.nearFrame % 4
        else chanController (lineChannel (farIndex e.farFrame dl)))

/-! ## Quarantine (R207–R209) -/

def isListed (s : State) (dl : Nat) : Bool := s.mem.quar.any (fun q => q.line == dl)

/-- An access that quarantine refuses is counted, with no event (R207). -/
def quarRefused (s : State) : State := leafAdd s leafQuar 1

/-- A line enters the list; a full list quarantines the page instead. -/
def quarantine (s : State) (dl job : Nat) (r : QReason) : State :=
  let p := linePage dl
  if isListed s dl then s
  else if s.mem.quar.length < 64 then
    let s := modMemBlk s fun m =>
      { m with quar := m.quar ++
          [{ line := dl, job := job, reason := r, cycle := (jobOf s job).cycle }] }
    modPpt s p fun e => { e with qlines := e.qlines + 1 }
  else
    let s := modPpt s p fun e => { e with state := .quarantined }
    emitDev (modMirror s p fun m => { m with quar := true }) 0x0505 []

/-- A line leaves the list. -/
def unlist (s : State) (dl : Nat) : State :=
  if isListed s dl then
    modPpt (modMemBlk s fun m => { m with quar := m.quar.filter (fun q => q.line != dl) })
      (linePage dl) fun e => { e with qlines := e.qlines - 1 }
  else s

/-! ## Lines -/

def qreasonLeaf : QReason → Nat
  | .tag => leafTagFail
  | .farUncorrectable => leafFarUe
  | .nearUncorrectable => leafNearUe

/-- A line that fails its check: counted, reported, listed (R204, R205). A tag failure asserts
ALERT_N. -/
def lineFailed (s : State) (dl job : Nat) (r : QReason) : State :=
  let s := leafAdd s (qreasonLeaf r) 1
  let s := match r with
    | .tag =>
      emitJob (modPwrBlk s fun p => { p with alertN := false }) 0x0601 job [(8, dl * 128)]
    | _ => emitJob s 0x0504 job [(8, dl * 128)]
  quarantine s dl job r

/-- Outcome of looking at a stored far line: its plaintext, or why it fails. -/
inductive FarRead where
  | good (l : Line)
  | uncorrectable
  | tag
  deriving DecidableEq, Repr

/-- Stored byte errors of a line as a mask over the ciphertext. -/
def cipherMask (errs : List (Nat × Byte)) : Line :=
  errs.foldl (fun (m : Line) e =>
    if e.1 < 128 then m ^^^ (BitVec.setWidth 1024 e.2 <<< (8 * e.1)) else m) 0

def tagMask (errs : List (Nat × Byte)) : BitVec 32 :=
  errs.foldl (fun (m : BitVec 32) e =>
    if 128 ≤ e.1 ∧ e.1 < 132 then m ^^^ (BitVec.setWidth 32 e.2 <<< (8 * (e.1 - 128))) else m) 0

def xtsKey (k : Nat) : BitVec 512 := (Config.trng k).setWidth 512
def macKey (k : Nat) : BitVec 256 := (Config.trng k >>> 512).setWidth 256

/-- Ciphertext and tag as stored, byte errors included (R195, R196). -/
def storedCipher (l : Nat) (f : FarLine) : Line :=
  xtsEncrypt (xtsKey f.key) l f.plain ^^^ cipherMask f.errs
def storedTag (l : Nat) (f : FarLine) : BitVec 32 :=
  cmacTag (macKey f.key) l (xtsEncrypt (xtsKey f.key) l f.plain) ^^^ tagMask f.errs

/-- Tag check and decryption under the reader's key, after the Reed–Solomon check (R197). -/
def openLine (l : Nat) (f : FarLine) (key : Option Nat) : FarRead :=
  match key with
  | none => .tag
  | some k =>
    if f.errs = [] ∧ k = f.key then .good f.plain
    else
      let c := storedCipher l f
      if storedTag l f = cmacTag (macKey k) l c then
        .good (xtsDecrypt (xtsKey k) l c)
      else .tag

/-- Forget every listed line of a far frame. -/
def dropFrame (s : State) (frame : Nat) : State :=
  modMemBlk s fun m => { m with far := mapDrop m.far (fun k => k / 8192 == frame) }

/-- Corrected reads of a row within an hour, and the row as a repair candidate (R232). -/
def noteCorrected (s : State) (l : Nat) : State :=
  let key := (lineChannel l * 16 + lineBank l) * 131072 + lineRow l
  let times := (s.nowUs :: mapGet s.lp.ceTimes [] key).filter (fun t => decide (s.nowUs < t + 3600000000))
  modLpBlk s fun x =>
    { x with ceTimes := mapPut x.ceTimes [] key times,
             candidates := if 8 ≤ times.length ∧ !x.candidates.contains key then
               x.candidates ++ [key] else x.candidates }

def noteUncorrectable (s : State) (l : Nat) : State :=
  let key := (lineChannel l * 16 + lineBank l) * 131072 + lineRow l
  modLpBlk s fun x =>
    { x with candidates := if x.candidates.contains key then x.candidates else x.candidates ++ [key] }

/-- Reed–Solomon check of a far line with the write-back of a corrected one (R197, R235): the line as
it then stands, or none when uncorrectable. -/
def checkFar (s : State) (l : Nat) (key : Option Nat) : Option FarLine × State :=
  let f := farLineOf s l key
  let leaf := leafBank (lineChannel l) (lineBank l)
  if (chanOf s (lineChannel l)).st = 5 then (none, leafAdd s (leaf 1) 1)
  else match rsCorrect f.errs with
    | none => (none, noteUncorrectable (leafAdd s (leaf 1) 1) l)
    | some (errs, fixed) =>
      if fixed then
        let g := { f with errs := errs }
        (some g, noteCorrected (leafAdd (setFar s l g) (leaf 0) 1) l)
      else (some f, s)

/-- Read of a far line (R197). -/
def readFar (s : State) (l : Nat) (key : Option Nat) : FarRead × State :=
  match checkFar s l key with
  | (none, s) => (.uncorrectable, s)
  | (some f, s) => (openLine l f key, s)

/-- Full-line write of a far line (R195, R196). -/
def writeFar (s : State) (l : Nat) (key : Option Nat) (d : Line) : State :=
  setFar s l { plain := d, key := key.getD 0, errs := [] }

/-- 64-bit word w of a line. -/
def lineWord (d : Line) (w : Nat) : Nat := d.toNat / 2 ^ (64 * w) % 2 ^ 64

def putNear (s : State) (k : Nat) (v : BitVec 72) : State :=
  modMemBlk s fun m => { m with near := mapPut m.near 0 k v }

/-- Read of a line in a near frame: each word corrected and written back, or none when one is
uncorrectable (R205, R242). -/
def readNear (s : State) (frame dl : Nat) : Option Line × State :=
  (List.range 16).foldl (fun acc w =>
    let k := nearIndex frame dl w
    let raw := mapGet acc.2.mem.near 0 k
    match secDecode 8 64 raw.toNat with
    | none => (none, acc.2)
    | some (v, fixed) =>
      let s := if fixed then putNear acc.2 k (BitVec.ofNat 72 v) else acc.2
      (acc.1.map fun d => d ||| BitVec.ofNat 1024 (v % 2 ^ 64 * 2 ^ (64 * w)), s))
    (some 0, s)

def writeNear (s : State) (frame dl : Nat) (d : Line) : State :=
  (List.range 16).foldl (fun s w =>
    putNear s (nearIndex frame dl w) (BitVec.ofNat 72 (secEncode 8 64 (lineWord d w)))) s

def jobKey (s : State) (j : Nat) : Option Nat := (jobOf s j).key

/-- Whether accesses are served from the near frame (Table 6-4, R183). -/
def servedNear (e : Ppt) : Bool := e.state == .near || (e.state == .migrating && e.dir)

/-- Access failures decided by the page's state (Table 6-4). -/
def pageFail (e : Ppt) : Option AccStatus :=
  match e.state with
  | .unbacked => some .unmapped
  | .lost => some .lost
  | .quarantined => some .quarantined
  | _ => none

/-- Read a line of an accessible page, whether or not it is listed: its data, or the failure. -/
def readPlaced (s : State) (e : Ppt) (dl : Nat) : AccStatus × Line × State :=
  if servedNear e then
    match readNear s e.nearFrame dl with
    | (some d, s) => (.ok, d, s)
    | (none, s) => (.uncorrectable, 0, lineFailed s dl e.job .nearUncorrectable)
  else
    match readFar s (farIndex e.farFrame dl) (jobKey s e.job) with
    | (.good d, s) => (.ok, d, s)
    | (.uncorrectable, s) => (.uncorrectable, 0, lineFailed s dl e.job .farUncorrectable)
    | (.tag, s) => (.tagFailed, 0, lineFailed s dl e.job .tag)

/-- Read one line of design memory (R173, R204, R205, R207). -/
def readLine (s : State) (dl : Nat) : AccStatus × Line × State :=
  let (e, s) := readEntry s (linePage dl)
  match pageFail e with
  | some .quarantined => (.quarantined, 0, quarRefused s)
  | some st => (st, 0, s)
  | none => if isListed s dl then (.listed, 0, quarRefused s) else readPlaced s e dl

/-- Read of a line for the undo copy, which no requester sees: the same checks, events and listing. What a
line that cannot be read leaves in the undo record is not stated: a free value (log 23). -/
def undoLine (s : State) (dl : Nat) : Line × State :=
  match readLine s dl with
  | (.ok, d, s) => (d, s)
  | (_, _, s) => takeFree s 1024

/-! ## The undo copy (R374) -/

/-- First write after the cut to a 4 KiB block: the block goes to the undo log before the write. -/
def undoTouch (s : State) (job dl : Nat) : State :=
  let x := jobOf s job
  let block := dl / 32
  if !x.journaling || x.written.contains block then s
  else if undoSize s < undoBytes s + 4112 then logFull s (jobsInUndo s)
  else
    let (ls, s) := (List.range 32).foldl (fun acc i =>
      let (d, s) := undoLine acc.2 (block * 32 + i)
      (acc.1 ++ [d], s)) (([] : List Line), s)
    let s := modArrBlk s fun a =>
      { a with undo := a.undo ++ [{ block := block, job := job, epoch := x.epochK, lines := ls, pos := a.undoPos }],
               undoPos := (a.undoPos + 4112) % undoSize s }
    let s := modJob s job fun x => { x with written := block :: x.written }
    if 75 ≤ undoFill s then each (jobsInUndo s) scheduleEarly s else s

/-! ## Writes -/

def lineByte (d : Line) (i : Nat) : Byte := BitVec.setWidth 8 (d >>> (8 * i))

/-- A line that holds one byte at position i and zeros elsewhere. -/
def byteAt (b : Byte) (i : Nat) : Line := BitVec.setWidth 1024 b <<< (8 * i)

/-- Bytes of `d` where the byte enable is set, of `old` elsewhere. -/
def mergeLine (old d : Line) (be : BitVec 128) : Line :=
  (List.range 128).foldl (fun acc i =>
    if be.getLsbD i then
      acc ||| byteAt (lineByte d i) i
    else acc ||| byteAt (lineByte old i) i) (0 : Line)

/-- Store a line where its page is served; a near frame becomes dirty. -/
def storeServed (s : State) (p : Nat) (e : Ppt) (dl : Nat) (d : Line) : State :=
  if servedNear e then
    modPpt (writeNear s e.nearFrame dl d) p fun e => { e with dirty := true }
  else writeFar s (farIndex e.farFrame dl) (jobKey s e.job) d

/-- A line that the copy of a migrating page has passed. -/
def linePassed (s : State) (e : Ppt) (dl : Nat) : Bool :=
  e.state == .migrating && decide (dl % 8192 < s.mem.copyPos)

/-- Store a line: where its page is served, and in the other frame too once the copy of a migration has
passed it (R183). -/
def storePlaced (s : State) (p : Nat) (e : Ppt) (dl : Nat) (d : Line) : State :=
  let s := if linePassed s e dl then
      if e.dir then writeFar s (farIndex e.farFrame dl) (jobKey s e.job) d
      else writeNear s e.nearFrame dl d
    else s
  storeServed s p e dl d

/-- The line's channel has failed: every access to it fails as uncorrectable (R223). -/
def chanLost (s : State) (e : Ppt) (dl : Nat) : Bool :=
  !servedNear e && (chanOf s (lineChannel (farIndex e.farFrame dl))).st == 5

/-- An access to the line waits while its channel trains (R223). -/
def lineWaits (s : State) (dl : Nat) : Bool :=
  let e := pptOf s (linePage dl)
  (pageFail e).isNone && !servedNear e && (chanOf s (lineChannel (farIndex e.farFrame dl))).st == 1

/-- A write whose block has been copied to the undo log lands, unless that copy has filled the quarantine
list and taken the page (R209). -/
def landWrite (s : State) (e : Ppt) (dl : Nat) (d : Line) : AccStatus × State :=
  let p := linePage dl
  let s := undoTouch s e.job dl
  if (pptOf s p).state = .quarantined then (.quarantined, quarRefused s)
  else (.ok, storePlaced (unlist s dl) p (pptOf s p) dl d)

/-- Write one line of design memory under byte enables (R206, R208, R209). -/
def writeLine (s : State) (dl : Nat) (d : Line) (be : BitVec 128) : AccStatus × State :=
  let (e, s) := readEntry s (linePage dl)
  match pageFail e with
  | some .quarantined => (.quarantined, quarRefused s)
  | some st => (st, s)
  | none =>
    if isListed s dl && (be != BitVec.allOnes 128 || chanLost s e dl) then (.listed, quarRefused s)
    else if be = BitVec.allOnes 128 then
      if chanLost s e dl then (.uncorrectable, lineFailed s dl e.job .farUncorrectable)
      else landWrite s e dl d
    else
      match readPlaced s e dl with
      | (.ok, old, s) => landWrite s e dl (mergeLine old d be)
      | (st, _, s) => (st, s)

/-- 64-byte accesses to a page in this epoch (R180, R505). -/
def countAccess (s : State) (p n : Nat) : State :=
  modTelBlk s fun t => { t with pageLeaf := mapMod t.pageLeaf 0 p (· + n) }

/-! ## Rights (R200–R203) -/

/-- The rights of a master on a job: 0 none, 1 read, 3 read/write; 2 is treated as none. -/
def rightsOf (s : State) (m j : Nat) : Nat :=
  let v := (listAt s.mem.rights 0 m).toNat / 2 ^ (2 * j) % 4
  if v = 2 then 0 else v

def mayAccess (s : State) (m j : Nat) (write : Bool) : Bool :=
  if write then rightsOf s m j == 3 else rightsOf s m j != 0

/-- An access without its right: counted, reported once per master per millisecond (R203). -/
def denied (s : State) (m : Nat) : State :=
  let s := leafAdd s (leafMaster m) 1
  if mayRaise (mapGet s.mem.rightsEv none m) s.nowUs 1000 then
    emitDev (modMemBlk s fun x => { x with rightsEv := mapPut x.rightsEv none m (some s.nowUs) })
      0x0602 []
  else s

/-- The job that a page is mapped to. -/
def pageJob (s : State) (p : Nat) : Option Nat :=
  if (pptOf s p).state = .unbacked then none else some (pptOf s p).job

/-! ## Byte ranges -/

/-- The design lines of a byte range with the range's bytes in each: line, first byte, count. -/
def lineSpans : Nat → Nat → Nat → List (Nat × Nat × Nat)
  | 0, _, _ => []
  | n + 1, addr, len =>
    if len = 0 then []
    else
      let k := min len (128 - addr % 128)
      (addr / 128, addr % 128, k) :: lineSpans n (addr + k) (len - k)

def spansOf (addr len : Nat) : List (Nat × Nat × Nat) := lineSpans (len / 128 + 2) addr len

def lineBytes (d : Line) (off n : Nat) : List Byte :=
  (List.range n).map fun i => lineByte d (off + i)

/-- Bytes placed in a line from an offset, with their enables. -/
def placeBytes (off : Nat) (bs : List Byte) : Line × BitVec 128 :=
  let r := bs.foldl (fun (acc : Line × BitVec 128 × Nat) b =>
    (acc.1 ||| byteAt b acc.2.2, acc.2.1 ||| (1#128 <<< acc.2.2), acc.2.2 + 1)) (0, 0, off)
  (r.1, r.2.1)

/-- 64-byte units that n bytes from an offset in a line touch (R180). -/
def unitsOf (off n : Nat) : Nat := if n = 0 then 0 else (off + n - 1) / 64 - off / 64 + 1

/-- Some line of a byte range waits for its channel. -/
def rangeWaits (s : State) (addr len : Nat) : Bool := (spansOf addr len).any fun sp => lineWaits s sp.1

/-- Router from which a master's accesses come (Table 12-1): the PCIe endpoint, the group of the job's
lowest mason, or Belic, whose attachment JTAG debug shares (log 127). -/
def masterRouter (s : State) (m : Nat) : Nat :=
  if m < 9 then 9
  else if m < 17 then
    match (List.range 192).find? fun i => (masonOf s i).job == some (m - 9) with
    | some i => groupRouter (i / 16)
    | none => 1
  else 1

/-- One line read by a master: the entry, the way to it, rights on a mapped page, then the line. -/
def masterReadLine (s : State) (m dl units : Nat) : AccStatus × Line × State :=
  let (e, s) := readEntry s (linePage dl)
  if accessFenced s (masterRouter s m) e dl then (.fenced, 0, s)
  else match pageJob s (linePage dl) with
  | none => (.unmapped, 0, s)
  | some j =>
    if mayAccess s m j false then
      readLine (countAccess s (linePage dl) units) dl
    else (.noRights, 0, denied s m)

/-- Read of a byte range by a master, line by line; it stops at the first failing line, with the
bytes of the lines before it (R191, R193). -/
def masterRead (s : State) (m addr len : Nat) : AccStatus × List Byte × State :=
  (spansOf addr len).foldl (fun acc sp =>
    match acc.1 with
    | .ok =>
      let (st, d, s) := masterReadLine acc.2.2 m sp.1 (unitsOf sp.2.1 sp.2.2)
      (st, if st = .ok then acc.2.1 ++ lineBytes d sp.2.1 sp.2.2 else acc.2.1, s)
    | st => (st, acc.2.1, acc.2.2)) (.ok, [], s)

/-- One line written by a master. A host write is a HOST_WRITE record of the job (R372), and waits
while the job rolls back (Table 11-10). -/
def masterWriteLine (s : State) (m : Nat) (host : Bool) (dl off : Nat) (bs : List Byte) :
    AccStatus × State :=
  let (e, s) := readEntry s (linePage dl)
  if accessFenced s (masterRouter s m) e dl then (.fenced, s)
  else match pageJob s (linePage dl) with
  | none => (.unmapped, s)
  | some j =>
    if !mayAccess s m j true then (.noRights, denied s m)
    else if host && (jobOf s j).replay.isSome then
      (.ok, modJob s j fun x => { x with queued := x.queued ++ [.write (dl * 128 + off) bs] })
    else
      let (d, be) := placeBytes off bs
      let (st, s) := writeLine (countAccess s (linePage dl) (unitsOf off bs.length)) dl d be
      if st = .ok ∧ host then
        (st, addRecord s j (jobOf s j).cycle (.hostWrite (dl * 128 + off) bs))
      else (st, s)

/-- Write of a byte range by a master; it stops at the first failing line (R191). -/
def masterWrite (s : State) (m : Nat) (host : Bool) (addr : Nat) (bs : List Byte) :
    AccStatus × State :=
  let r := (spansOf addr bs.length).foldl (fun (acc : AccStatus × State × Nat) sp =>
    match acc.1 with
    | .ok =>
      let (st, s) := masterWriteLine acc.2.1 m host sp.1 sp.2.1 ((bs.drop acc.2.2).take sp.2.2)
      (st, s, acc.2.2 + sp.2.2)
    | st => (st, acc.2.1, acc.2.2)) (.ok, s, 0)
  (r.1, r.2.1)

/-- Belic firmware's own write of design bytes, without rights or journal (imports, replay). -/
def plainWrite (s : State) (addr : Nat) (bs : List Byte) : State :=
  let r := (spansOf addr bs.length).foldl (fun (acc : State × Nat) sp =>
    let (d, be) := placeBytes sp.2.1 ((bs.drop acc.2).take sp.2.2)
    ((writeLine acc.1 sp.1 d be).2, acc.2 + sp.2.2)) (s, 0)
  r.1

end Sys2Proof.Machine
end

