-- ==== Sys2Proof/Machine/Placement.lean ====
section
/-! DEFINITION. Placement as operations: mapping and unmapping, near frames, migration (R166–R187),
the far layout and MEM_PASR (R188, R224–R226). -/

namespace Sys2Proof.Machine

/-! ## Far layout -/

/-- Regions from the top of the data space downward: (first MiB, size) (R225). -/
def regionSpans (r : Regions) : List (Nat × Nat) :=
  let g := 122880 - r.golden
  let a := g - r.slotA
  let b := a - r.slotB
  let j := b - r.journal
  let x := j - r.scratch
  let u := x - r.undo
  [(g, r.golden), (a, r.slotA), (b, r.slotB), (j, r.journal), (x, r.scratch), (u, r.undo),
   (u - r.capture, r.capture)]

/-- Segments that hold any MiB of a span: 15 GiB each (R224). -/
def segsOf (sp : Nat × Nat) : BitVec 8 :=
  (List.range 8).foldl (fun m k =>
    if sp.1 < (k + 1) * 15360 ∧ k * 15360 < sp.1 + sp.2 then m ||| BitVec.ofNat 8 (2 ^ k) else m) 0

/-- RETAIN_MASK (R226). -/
def retainMask (s : State) : BitVec 8 :=
  let sp := regionSpans s.mem.regions
  let base := (sp.take 4).foldl (fun m x => m ||| segsOf x) 0
  if s.lp.retainJobs = 0 then base
  else
    let undo := segsOf (listAt sp (0, 0) 5)
    s.mem.mirror.foldl (fun m e =>
      match e.2 with
      | some x => if s.lp.retainJobs.getLsbD x.job then m ||| segsOf (x.farFrame, 1) else m
      | none => m) (base ||| undo)

/-- Belic firmware keeps MEM_PASR current. -/
def updatePasr (s : State) : State := modLpBlk s fun x => { x with retainMask := retainMask s }

/-- A channel in STATE 5 makes every command that needs LP5X fail (R217). -/
def lp5xBad (s : State) : Bool := s.lp.chans.any (fun e => e.2.st == 5)

/-! ## Frames -/

def usedFrames (s : State) : List Nat := s.mem.mirror.filterMap (fun e => e.2.map (·.farFrame))

/-- The lowest-numbered `n` frames below `limit` that are not taken (R215). -/
def freeFrom (taken : List Nat) (limit : Nat) : Nat → Nat → Nat → List Nat
  | 0, _, _ => []
  | fuel + 1, f, n =>
    if n = 0 ∨ limit ≤ f then []
    else if taken.contains f then freeFrom taken limit fuel (f + 1) n
    else f :: freeFrom taken limit fuel (f + 1) (n - 1)

def freeFar (s : State) (n : Nat) : List Nat :=
  let taken := usedFrames s ++ s.mem.retiredFar
  freeFrom taken (backingFrames s) (n + taken.length) 0 n

/-- Lowest near frame that holds no page and is in use. -/
def freeNear (s : State) : Option Nat :=
  (List.range 992).find? fun f =>
    mapGet s.mem.reverse none f == none && !s.mem.nearOut.contains f

/-- Near frames that a job holds. -/
def nearUsed (s : State) (j : Nat) : Nat :=
  (s.mem.reverse.filter (fun e => match e.2 with
    | some p => (pptOf s p).job == j
    | none => false)).length

/-- The page gives up its near frame. -/
def freeNearOf (s : State) (p : Nat) : State :=
  match reverseFrame s p with
  | some f => setReverse s f none
  | none => s

def cancelMoves (s : State) (p : Nat) : State :=
  modMemBlk s fun m => { m with moves := m.moves.filter (fun x => x.1 != p) }

/-! ## Mapping -/

/-- Take a far frame for a page (R169, R178). -/
def takeFrame (j : Nat) (s : State) (pf : Nat × Nat) : State :=
  modMemBlk s fun m =>
    { m with mirror := mapPut m.mirror none pf.1 (some { job := j, farFrame := pf.2 }) }

/-- Zeros under the job's key, and the entry in state far (R169). -/
def finishMap (s : State) (p : Nat) : State :=
  match mapGet s.mem.mirror none p with
  | none => s
  | some m =>
    modMemBlk (setPpt (dropFrame s m.farFrame) p
      { state := .far, job := m.job, pin := m.pin, exclude := m.exclude, farFrame := m.farFrame,
        frozen := nodeInvalid s p })
      fun x => { x with pptErr := mapPut x.pptErr 0 p 0, stalled := x.stalled.filter (· != p) }

/-- Every quarantine-list entry of a page's lines goes. -/
def dropQuar (s : State) (p : Nat) : State :=
  modMemBlk s fun m => { m with quar := m.quar.filter (fun q => linePage q.line != p) }

/-- Return a page to the unmapped state (R171). -/
def unmapPage (s : State) (p : Nat) : State :=
  let frame := (mapGet s.mem.mirror none p).map (·.farFrame)
  let s := dropQuar (freeNearOf (cancelMoves s p) p) p
  let s := match frame with
    | some f => dropFrame s f
    | none => s
  modMemBlk (setPpt s p { frozen := nodeInvalid s p }) fun m =>
    { m with mirror := mapPut m.mirror none p none, pptErr := mapPut m.pptErr 0 p 0,
             stalled := m.stalled.filter (· != p) }

def pagesOfJob (s : State) (j : Nat) : List Nat :=
  s.mem.mirror.filterMap fun e => match e.2 with
    | some m => if m.job = j then some e.1 else none
    | none => none

/-- Zeros with fresh tags, no listed line, state far (R177). -/
def resetPage (s : State) (p : Nat) : State :=
  match mapGet s.mem.mirror none p with
  | none => s
  | some m =>
    let s := dropFrame (dropQuar (freeNearOf (cancelMoves s p) p) p) m.farFrame
    let s := setPpt s p { state := .far, job := m.job, pin := m.pin, exclude := m.exclude,
                          farFrame := m.farFrame, frozen := (pptOf s p).frozen,
                          heat := (pptOf s p).heat }
    modMirror s p fun m => { m with lost := false, quar := false }

/-! ## Copies -/

/-- Lines of a page that its far frame lists, lowest first. -/
def farLinesOf (s : State) (e : Ppt) : List Nat :=
  s.mem.far.filterMap fun x => if x.1 / 8192 = e.farFrame then some (x.1 % 8192) else none

/-- Lines of a page with words that its near frame lists. -/
def nearLinesOf (s : State) (e : Ppt) : List Nat :=
  (s.mem.near.filterMap fun x =>
    if x.1 / 131072 = e.nearFrame then some (x.1 % 131072 / 16) else none).eraseDups

/-- First line of a page that a failed channel serves. -/
def failedLines (s : State) (e : Ppt) : List Nat :=
  (s.lp.chans.filterMap fun c =>
    if c.2.st = 5 then some ((c.1 + 32 - e.farFrame * 8192 % 32) % 32) else none)

/-- Words of a near frame go to zero before a copy into it. -/
def clearNear (s : State) (f : Nat) : State :=
  modMemBlk s fun m => { m with near := mapDrop m.near (fun k => k / 131072 == f) }

/-- Lines of a page from `lo` up to `hi`, each once and in rising order. -/
def linesWithin (lo hi : Nat) (ls : List Nat) : List Nat :=
  ((ls.filter fun n => decide (lo ≤ n) && decide (n < hi)).eraseDups).mergeSort (· ≤ ·)

/-- Copy of lines `lo` to `hi` − 1 of a page into its near frame; it stops at the first line whose check
fails (R184). -/
def copyUp (s : State) (p : Nat) (e : Ppt) (lo hi : Nat) : Bool × State :=
  let lines := linesWithin lo hi (farLinesOf s e ++ failedLines s e)
  lines.foldl (fun acc ln =>
    if acc.1 then
      let dl := p * 8192 + ln
      match readFar acc.2 (farIndex e.farFrame dl) (jobKey acc.2 e.job) with
      | (.good d, s) => (true, writeNear s e.nearFrame dl d)
      | (.uncorrectable, s) => (false, lineFailed s dl e.job .farUncorrectable)
      | (.tag, s) => (false, lineFailed s dl e.job .tag)
    else acc) (true, s)

/-- One line of a demotion: read and encrypted; a listed line, or one that fails its read, is written
as zeros with fresh tags (R210). -/
def copyDownLine (p : Nat) (e : Ppt) (s : State) (ln : Nat) : State :=
  let dl := p * 8192 + ln
  let key := jobKey s e.job
  if isListed s dl then writeFar s (farIndex e.farFrame dl) key 0
  else match readNear s e.nearFrame dl with
    | (some d, s) => writeFar s (farIndex e.farFrame dl) key d
    | (none, s) =>
      writeFar (lineFailed s dl e.job .nearUncorrectable) (farIndex e.farFrame dl) key 0

/-- Listed lines of a page. -/
def listedLines (s : State) (p : Nat) : List Nat :=
  (s.mem.quar.filter fun q => linePage q.line == p).map fun q => q.line % 8192

/-- Copy of lines `lo` to `hi` − 1 of a page back to its far frame. -/
def copyDown (s : State) (p : Nat) (e : Ppt) (lo hi : Nat) : State :=
  each (linesWithin lo hi (nearLinesOf s e ++ farLinesOf s e ++ listedLines s p)) (copyDownLine p e) s

/-- The page stands in the far tier: entry switched, near frame free (R183). A page quarantined
during the copy stays so (R209). -/
def settleFar (s : State) (p : Nat) : State :=
  modPpt (freeNearOf s p) p fun e =>
    { e with state := if e.state = .quarantined then .quarantined else .far, dirty := false,
             dir := false, nearFrame := 0 }

/-- A forced demotion, whole: a dirty page is copied; of a clean one only the listed lines are written
(R183, R186, R210). -/
def demoteNow (s : State) (p : Nat) : State :=
  let e := pptOf s p
  if e.state = .near ∨ (e.state = .migrating ∧ e.dir) then
    settleFar (if e.dirty then copyDown s p e 0 8192
      else each (listedLines s p) (copyDownLine p e) s) p
  else if e.state = .migrating then settleFar s p
  else s

/-- Every near page goes to the far tier (R186). -/
def demoteAll (s : State) : State :=
  let moving := s.mem.moves.map (·.1)
  each (moving ++ s.mem.reverse.filterMap (·.2)) demoteNow (modMemBlk s fun m => { m with moves := [] })

/-! ## Migration -/

/-- Start the first pending migration of a page that may still move (R210): a clean demotion is switched
at once, a promotion takes the lowest free near frame. An entry that cannot be read starts nothing
(R179). -/
def startMove : Nat → State → State
  | 0, s => s
  | n + 1, s =>
    match s.mem.moves with
    | [] => s
    | (p, demote) :: rest =>
      let (ok, s) := fetchEntry s p
      let e := pptOf s p
      let skip (s : State) : State := startMove n (modMemBlk s fun m => { m with moves := rest })
      if !ok || e.qlines != 0 then skip s
      else if demote then
        if e.state ≠ .near then skip s
        else if e.dirty then
          modMemBlk (setPpt s p { e with state := .migrating, dir := true }) fun m => { m with copyPos := 0 }
        else skip (settleFar s p)
      else
        match freeNear s, e.state with
        | some f, .far =>
          modMemBlk (setPpt (clearNear s f) p { e with state := .migrating, dir := false, nearFrame := f })
            fun m => { m with copyPos := 0 }
        | _, _ => skip s

/-- The next migration starts if none runs. -/
def nextMove (s : State) : State :=
  match s.mem.moves with
  | [] => s
  | (p, _) :: _ => if (pptOf s p).state = .migrating then s else startMove (s.mem.moves.length) s

/-- The copy moves on to line `hi`; a promotion that meets a failing line is over (R183, R184). -/
def copyOn (s : State) (p hi : Nat) : State :=
  let e := pptOf s p
  let lo := s.mem.copyPos
  if e.dir then modMemBlk (copyDown s p e lo hi) fun m => { m with copyPos := hi }
  else
    let (ok, s) := copyUp s p e lo hi
    if ok then modMemBlk s fun m => { m with copyPos := hi } else settleFar s p

/-- The entry after a whole copy. A page one of whose lines has been listed meanwhile stays in the tier it
came from (R210). -/
def switchEntry (s : State) (p : Nat) : State :=
  let e := pptOf s p
  if e.state ≠ .migrating then s
  else if e.dir then
    if e.qlines = 0 then settleFar s p else modPpt s p fun e => { e with state := .near, dir := false }
  else if e.qlines = 0 then
    setReverse (modPpt s p fun e => { e with state := .near, dirty := false }) e.nearFrame (some p)
  else settleFar s p

/-- A page copy completes and the engine switches the entry in one step (R183, R184). -/
def finishMove (s : State) (p : Nat) : State :=
  match s.mem.moves with
  | [] => s
  | (q, _) :: rest =>
    let (ok, s) := fetchEntry s p
    if q ≠ p ∨ (pptOf s p).state ≠ .migrating ∨ !ok then s
    else nextMove (switchEntry (copyOn (modMemBlk s fun m => { m with moves := rest }) p 8192) p)

/-- Lines that the engine copies in a microsecond: 1 MiB takes about 10 µs (R180; log 128). -/
def copyRate : Nat := 819

/-- A microsecond of the copy under way. -/
def copyTick (s : State) : State :=
  match s.mem.moves with
  | [] => s
  | (p, _) :: _ =>
    if (pptOf s p).state = .migrating ∧ !s.mem.stalled.contains p ∧ s.lp.chans.all (fun c => c.2.st == 2) then
      copyOn s p (min 8192 (s.mem.copyPos + copyRate))
    else s

/-! ## The epoch (R180–R182, R185) -/

def sat4095 (n : Nat) : Nat := min n 4095

/-- Count of a page node at an epoch end: an INVALID node gives none. -/
def pageCount (s : State) (p : Nat) : Nat :=
  let n := mapGet s.tel.pages {} p
  if n.invalid then 0 else n.value

/-- The engine reads every entry at an epoch end: one that cannot be corrected stalls its page (R179). -/
def readEntries (s : State) : State :=
  each (s.mem.pptErr.map (·.1)) (fun s p => (fetchEntry s p).2) s

/-- Entries that the engine has read. -/
def entries (s : State) : SMap Ppt := s.mem.ppt.filter fun e => !s.mem.stalled.contains e.1

/-- Heat of every mapped page that is not frozen. -/
def updateHeat (k : Knobs) (s : State) : State :=
  each ((entries s).filter (fun e => e.2.state != .unbacked && !e.2.frozen)) (fun s x =>
    modPpt s x.1 fun e =>
      { e with heat := sat4095 (e.heat - e.heat / 2 ^ k.decay + pageCount s x.1) }) s

/-- A page that moves have been chosen for. -/
def moving (s : State) (p : Nat) : Bool := s.mem.moves.any (fun m => m.1 == p)

/-- Candidates for promotion, in the order of R180. -/
def candidates (k : Knobs) (s : State) : List (Nat × Ppt) :=
  ((entries s).filter fun x =>
    let e := x.2
    e.state == .far && !e.exclude && e.qlines == 0 && !moving s x.1
      && (e.pin || (k.enable == 1 && !e.frozen && decide (k.promoteMin ≤ e.heat)))).mergeSort
    fun a b =>
      if a.2.pin != b.2.pin then a.2.pin
      else if a.2.heat ≠ b.2.heat then decide (b.2.heat < a.2.heat)
      else decide (a.1 ≤ b.1)

/-- The near page with the lowest heat that may leave: of the job, or of any job while the job has
quota left. -/
def victim (s : State) (j : Nat) (anyJob : Bool) : Option (Nat × Ppt) :=
  ((entries s).filter fun x =>
    let e := x.2
    e.state == .near && !e.pin && !e.frozen && e.qlines == 0 && !moving s x.1
      && (anyJob || e.job == j)).foldl
    (fun best x => match best with
      | none => some x
      | some b => if x.2.heat < b.2.heat then some x else some b) none

/-- Near frames free after the migrations chosen so far. -/
def nearLeft (s : State) : Nat :=
  let used := (s.mem.reverse.filter (fun e => e.2.isSome)).length
  let ups := (s.mem.moves.filter (fun m => !m.2)).length
  let downs := (s.mem.moves.filter (fun m => m.2)).length
  992 - s.mem.nearOut.length + downs - used - ups

/-- Near frames of a job after the migrations chosen so far. -/
def nearPlanned (s : State) (j : Nat) : Nat :=
  let ups := (s.mem.moves.filter (fun m => !m.2 && (pptOf s m.1).job == j)).length
  let downs := (s.mem.moves.filter (fun m => m.2 && (pptOf s m.1).job == j)).length
  nearUsed s j + ups - downs

def addMove (s : State) (p : Nat) (demote : Bool) : State :=
  modMemBlk s fun m => { m with moves := m.moves ++ [(p, demote)] }

/-- One candidate of the epoch (R180). -/
def considerPage (k : Knobs) (acc : Nat × State) (c : Nat × Ppt) : Nat × State :=
  let (moves, s) := acc
  let quota := decide (nearPlanned s c.2.job < listAt k.quota 0 c.2.job)
  if k.maxMoves ≤ moves then acc
  else if decide (0 < nearLeft s) && (c.2.pin || quota) then (moves + 1, addMove s c.1 false)
  else if moves + 2 ≤ k.maxMoves then
    match victim s c.2.job quota with
    | some v =>
      if c.2.pin || decide (v.2.heat + k.hysteresis < c.2.heat) then
        (moves + 2, addMove (addMove s v.1 true) c.1 false)
      else acc
    | none => acc
  else acc

/-- Excluded near pages go first, within max_moves (R182). -/
def demoteExcluded (k : Knobs) (s : State) : Nat × State :=
  ((entries s).filter fun x =>
    x.2.exclude && x.2.state == .near && x.2.qlines == 0 && !moving s x.1).foldl
    (fun acc x => if acc.1 < k.maxMoves then (acc.1 + 1, addMove acc.2 x.1 true) else acc) (0, s)

/-- The epoch's heat update and its choice of migrations. -/
def epochMoves (s : State) : State :=
  let k := s.mem.knobsNext.getD s.mem.knobs
  let s := modMemBlk s fun m => { m with knobs := k, knobsNext := none }
  let s := updateHeat k (readEntries s)
  let acc := demoteExcluded k s
  let acc := (candidates k acc.2).foldl (considerPage k) acc
  nextMove acc.2

end Sys2Proof.Machine
end

