-- ==== Sys2Proof/Machine/CapOps.lean ====
section
/-! DEFINITION. The capture engine (R515–R521): taps, comparators, records. -/

namespace Sys2Proof.Machine

/-- Bytes of a record with `n` taps (Table 17-4). -/
def capRecBytes (n : Nat) : Nat := 64 + (n + 511) / 512 * 64

/-- Records a ring holds. -/
def capRoom (c : CapCfg) : Nat := c.ringBytes / capRecBytes c.taps.length

/-- A tap's value after the commit (R516). -/
def tapValue (s : State) (j : Nat) (t : Tap) : Bool :=
  match physOf s j t.vt with
  | some p => (mapGet (tileOf s p).ff 0 (ffKey t.brick t.cell t.course)).getLsbD t.bit
  | none => false

/-- 64-tap window w of the tap values. -/
def tapWindow (vs : List Bool) (w : Nat) : Nat :=
  (List.range 64).foldl (fun n i => n + b2n (listAt vs false (64 * w + i)) * 2 ^ i) 0

/-- Sources that match in user cycle u (R518): bits 0–3 comparators, 4 TRIG, 5 command. -/
def capSources (c : Capture) (vs : List Bool) (trig : BitVec 16) (u : Word) : Nat :=
  let cmp := ((c.cfg.cmps.take 4).zip (List.range 4)).foldl (fun n e =>
    if ((BitVec.ofNat 64 (tapWindow vs e.1.window) ^^^ e.1.value) &&& e.1.mask) = 0
    then n + 2 ^ e.2 else n) 0
  cmp + b2n (trig &&& c.cfg.trigMask != 0) * 16 + b2n (c.cfg.cmdTrig && c.cmdAt == some u) * 32

/-- A record enters the ring; the oldest leaves a full one. -/
def putCapRec (c : Capture) (r : CapRec) : Capture :=
  let rs := c.records ++ [r]
  { c with records := rs.drop (rs.length - capRoom c.cfg), dropped := 0, written := c.written + 1 }

/-- A capture in DONE holds the trigger record, those after it and `pre` before it. -/
def capDone (c : Capture) : Capture :=
  { c with st := .done,
           records := c.records.drop (c.records.length - (c.cfg.pre + 1 + c.cfg.post)) }

/-- Bytes of the capture engine's buffer (R520). -/
def capBuffer : Nat := 1048576

/-- The capture engine at the commit of user cycle u: a due record that finds the buffer full is dropped and
counted (R519, R520). -/
def captureCommit (s : State) (j : Nat) (u : Word) : State :=
  let x := jobOf s j
  let c := x.capture
  if c.st != .armed && c.st != .triggered then s
  else
    let vs := c.cfg.taps.map (tapValue s j)
    let src := capSources c vs x.trig u
    let hits := if src = 0 then c.matches_ else c.matches_ + 1
    let fires := c.st == .armed && src != 0 && hits == c.cfg.n
    let due := u.toNat % c.cfg.every == 0 || fires
    let n := capRecBytes c.cfg.taps.length
    let fits := decide (s.tel.capFill + n ≤ capBuffer)
    let r : CapRec := { trigger := fires, replay := x.replay.isSome, gap := decide (0 < c.dropped),
                        cycle := u, dropped := c.dropped, src := BitVec.ofNat 6 src, taps := vs }
    let c1 := { c with matches_ := hits }
    let c2 := if due then (if fits then putCapRec c1 r else { c1 with dropped := c.dropped + 1 }) else c1
    let c3 : Capture :=
      if fires then { c2 with st := .triggered, left := c.cfg.post }
      else if due && fits && c.st == .triggered then { c2 with left := c.left - 1 } else c2
    let s := if due && fits then modTelBlk s fun t => { t with capFill := t.capFill + n }
      else if due then leafAdd s (leafJob j 15) 1 else s
    let done := c3.st == .triggered && c3.left == 0
    let s := modJob s j fun y => { y with capture := if done then capDone c3 else c3 }
    let s := if fires then emitJob s 0x0D03 j [(8, u.toNat), (1, src)] else s
    if done then emitJob s 0x0D04 j [] else s

/-- The bytes of a record (Table 17-4). -/
def boolBytes : Nat → List Bool → List Byte
  | 0, _ => []
  | n + 1, bs =>
    BitVec.ofNat 8 ((List.range 8).foldl (fun v i => v + b2n (listAt bs false i) * 2 ^ i) 0)
      :: boolBytes n (bs.drop 8)

def capRecOut (j : Nat) (r : CapRec) : List Byte :=
  let hd := leBytes 2 0x0010
    ++ leBytes 2 (j % 8 + b2n r.trigger * 8 + b2n r.replay * 16 + b2n r.gap * 32)
    ++ leBytes 4 r.taps.length ++ leBytes 8 r.cycle.toNat ++ leBytes 4 (sat32 r.dropped)
    ++ leBytes 1 r.src.toNat
  padTo 64 (hd ++ List.replicate (64 - hd.length) 0 ++ boolBytes ((r.taps.length + 7) / 8) r.taps)

end Sys2Proof.Machine
end

