-- ==== Sys2Proof/Machine/HodOps.lean ====
section
/-! DEFINITION. Hods as operations: words pushed and taken, flushes, watermarks, statistics, and the
journal of outside items (R243–R264, R279, R371, R377). -/

namespace Sys2Proof.Machine

/-! ## Endpoints -/

/-- Tile endpoint of Table 8-3. -/
def tileEp (vt port : Nat) : Nat := vt % 512 + port % 4 * 512

/-- The agent is the hod's producer, or its consumer, by kind and endpoint. -/
def endpointIs (s : State) (kind ep job : Nat) : Agent → Bool
  | .tile j vt port => kind == 1 && j == job && ep == tileEp vt port
  | .host fn => kind == 3 && ep % 16 == fn
  | .mason m => kind == 2 && (masonOf s m).job == some job
  | .remote o => kind == 4 && ep % 1024 == o
  | .belic => kind == 5

def isProducer (s : State) (h : Hod) (a : Agent) : Bool :=
  h.valid && endpointIs s h.p.prodKind h.p.prodEp h.job a
def isConsumer (s : State) (h : Hod) (a : Agent) : Bool :=
  h.valid && endpointIs s h.p.consKind h.p.consEp h.job a

/-- Hod of a job that a tile port consumes, or produces. -/
def portConsumes (s : State) (j vt port : Nat) : Option Nat :=
  (s.pal.hods.find? fun e =>
    e.2.valid && e.2.job == j && e.2.p.consKind == 1 && e.2.p.consEp == tileEp vt port).map (·.1)
def portProduces (s : State) (j vt port : Nat) : Option Nat :=
  (s.pal.hods.find? fun e =>
    e.2.valid && e.2.job == j && e.2.p.prodKind == 1 && e.2.p.prodEp == tileEp vt port).map (·.1)

/-! ## Flags and watermarks -/

/-- OVERRUN, FLUSHED_PARTIAL, POISON_SEEN: each event when its flag goes from 0 to 1. -/
def setOverrun (s : State) (h : Nat) : State :=
  let x := hodOf s h
  if x.overrun then s else emitJob (setHod s h { x with overrun := true }) 0x0701 x.job []
def setFlushed (s : State) (h : Nat) : State :=
  let x := hodOf s h
  if x.flushed then s else emitJob (setHod s h { x with flushed := true }) 0x0702 x.job []
def setPoison (s : State) (h : Nat) : State :=
  let x := hodOf s h
  if x.poisonSeen then s else emitJob (setHod s h { x with poisonSeen := true }) 0x0703 x.job []

/-- hod.wait field i of rs1 watches hod h. -/
def watches (w : Word) (h : Nat) : Bool :=
  (List.range 4).any fun i =>
    let f := w.toNat / 2 ^ (16 * i) % 65536
    decide (32768 ≤ f) && f % 32768 == h

/-- A watermark signal to an endpoint (R257, R295). -/
def wmSend (s : State) (h kind ep job msix : Nat) : State :=
  if kind = 3 then emitOut s (.msix (ep % 16) msix)
  else if kind = 2 then
    each (s.msn.masons.filter fun e => e.2.job == some job
      && (match e.2.wait with | some w => watches w.2 h | none => false))
      (fun s e => modMason s e.1 fun m => { m with wmSignal := true }) s
  else s

/-- B's credits for a remote pair (R348): one for each 16 words that are neither stored, reserved nor
promised; the message carries the hod in 2 bytes and, aligned, the cumulative count (log 19). -/
def grantCredits (s : State) (h : Nat) : State :=
  let x := hodOf s h
  if !x.valid || x.p.prodKind != 4 then s
  else
    let granted := mapGet s.pal.rGranted 0 h
    let promised := granted - mapGet s.pal.rTaken 0 h
    let n := (hodSize x - hodDepth x - hodReserved x - 16 * promised) / 16
    if n = 0 then s
    else
      let s := modPalBlk s fun p => { p with rGranted := mapPut p.rGranted 0 h (granted + n) }
      routeSend s 1 1 (x.p.prodEp % 1024) (packFields [(2, h), (4, (granted + n) % 2 ^ 32)])

/-- Signals due when depth has gone from `before` to what it is now, and remote credits for the space
that has become free. -/
def wmCheck (s : State) (h before : Nat) : State :=
  let s := grantCredits s h
  let x := hodOf s h
  let after := hodDepth x
  let s := if before < x.p.highWm ∧ x.p.highWm ≤ after then
    wmSend s h x.p.consKind x.p.consEp x.job x.p.msix else s
  if x.p.lowWm < before ∧ after ≤ x.p.lowWm then
    wmSend s h x.p.prodKind x.p.prodEp x.job x.p.msix else s

/-! ## Items -/

/-- A complete item enters the hod (R248). -/
def storeItem (s : State) (h : Nat) (a : Agent) (prio : Nat) (ws : List (BitVec 71)) : State :=
  let before := hodDepth (hodOf s h)
  let s := modHod s h fun x =>
    let it : Item := { prio := prio, words := ws, by_ := a, doneAt := s.sched, total := ws.length,
                       order := s.pal.stored }
    let x : Hod := { x with items := x.items ++ [it] }
    { x with maxDepth := max x.maxDepth (hodDepth x) }
  wmCheck (modPalBlk s fun p => { p with stored := p.stored + 1 }) h before

/-- Producers outside the job (R371). -/
def outside : Agent → Bool
  | .tile .. => false | .mason _ => false
  | .host _ => true | .remote _ => true | .belic => true

/-- The hod's consumer is a host window, a remote hod or Belic (R377). -/
def boundOut (h : Hod) : Bool := h.p.consKind == 3 || h.p.consKind == 4 || h.p.consKind == 5

def wordData (w : BitVec 71) : Word := w.setWidth 64
def poisonBits (ws : List (BitVec 71)) : BitVec 16 :=
  (List.range 16).foldl (fun m i =>
    if (ws.getD i 0).getLsbD 70 then m ||| BitVec.ofNat 16 (2 ^ i) else m) 0

/-- The mark that suppresses this item (R377): the hod's count from tile ports and masons stays at or
below it. -/
def suppressed (s : State) (h : Nat) : Bool :=
  let x := hodOf s h
  boundOut x && (match (jobOf s x.job).hodHwm.find? (fun e => e.1 == h) with
    | some m => decide (x.ownItems + 1 ≤ m.2)
    | none => false)

/-- Items already waiting for this hod (R366). -/
def queuedFor (x : Job) (h : Nat) : Nat :=
  (x.queued.filter fun q => match q with | .item k .. => k == h | .write .. => false).length

def arrivalRecord (h : Nat) (a : Agent) (prio : Nat) (ws : List (BitVec 71)) (idx : Nat) : JRec :=
  .hodArrival h a prio (ws.map wordData) (poisonBits ws) idx

def arrivalQueued (h : Nat) (a : Agent) (prio : Nat) (ws : List (BitVec 71)) : QInput :=
  .item h a prio (ws.map wordData) (poisonBits ws)

/-- An item from outside the job: through a HOD_ARRIVAL record; held back during a capture after the
record is written, and during a rollback before it (R366, R371, Table 11-10). -/
def outsideItem (s : State) (h : Nat) (a : Agent) (prio : Nat) (ws : List (BitVec 71)) : State :=
  let x := hodOf s h
  let j := jobOf s x.job
  let hold (s : State) := modJob s x.job fun j =>
    { j with queued := j.queued ++ [arrivalQueued h a prio ws] }
  if j.replay.isSome then hold s
  else
    let s := addRecord s x.job j.cycle (arrivalRecord h a prio ws (x.arrivals + queuedFor j h))
    if j.capturing = some .cut then hold s
    else storeItem (modHod s h fun x => { x with arrivals := x.arrivals + 1 }) h a prio ws

/-- An item is complete. -/
def completeItem (s : State) (h : Nat) (a : Agent) (prio : Nat) (ws : List (BitVec 71)) : State :=
  if outside a then outsideItem s h a prio ws
  else
    let skip := suppressed s h
    let s := modHod s h fun x => { x with arrivals := x.arrivals + 1, ownItems := x.ownItems + 1 }
    if skip then s else storeItem s h a prio ws

def openOf (x : Hod) (a : Agent) : Option OpenItem := x.openIt.find? (fun o => o.by_ == a)
def dropOpen (x : Hod) (a : Agent) : Hod := { x with openIt := x.openIt.filter (fun o => o.by_ != a) }

/-- A word joins the producer's open item, and completes it with an end mark. -/
def appendWord (s : State) (h : Nat) (a : Agent) (o : OpenItem) (start last : Bool) (data : Word)
    (poison : Bool) : State :=
  let ws := o.words ++ [hodWordOf data o.prio start last poison]
  let s := leafAdd s (leafJob (hodOf s h).job 11) 1
  if last then completeItem (modHod s h fun x => dropOpen x a) h a o.prio ws
  else modHod s h fun x =>
    { dropOpen x a with openIt := (dropOpen x a).openIt ++ [{ o with words := ws }] }

/-- A word that is discarded with its producer's open item (R250): result 2. -/
def discardWord (s : State) (h : Nat) (a : Agent) : Nat × State :=
  (2, setFlushed (modHod s h fun x => { dropOpen x a with discards := x.discards + 1 }) h)

/-- One word reaches the hod logic (R248–R250); the result code of Table 8-4. -/
def hodPushWord (s : State) (h : Nat) (a : Agent) (start last : Bool) (prio : Nat) (data : Word)
    (poison : Bool) : Nat × State :=
  let x := hodOf s h
  if x.ignoring.contains a then
    (1, setOverrun (if last then
      setHod s h { x with ignoring := x.ignoring.filter (· != a) } else s) h)
  else if start then
    let s := if (openOf x a).isSome then setFlushed (modHod s h fun x => dropOpen x a) h else s
    if hodFull (hodOf s h) then
      (1, setOverrun (if last then s
        else modHod s h fun x => { x with ignoring := x.ignoring ++ [a] }) h)
    else
      (0, appendWord s h a { by_ := a, prio := prio % 8, words := [] } true last data poison)
  else match openOf x a with
    | none => discardWord s h a
    | some o =>
      if 16 ≤ o.words.length then discardWord s h a
      else (0, appendWord s h a o false last data poison)

/-- A whole item pushed word by word as an ordinary producer would (R278, R348). -/
def hodPushItem (s : State) (h : Nat) (a : Agent) (prio : Nat) (ws : List Word)
    (poison : BitVec 16) : State :=
  (ws.zip (List.range ws.length)).foldl (fun s w =>
    (hodPushWord s h a (w.2 == 0) (w.2 + 1 == ws.length) prio w.1 (poison.getLsbD w.2)).2) s

/-- A recorded item is stored whole; its producer's open item ends (R378). -/
def storeRecorded (s : State) (h : Nat) (a : Agent) (prio : Nat) (ws : List Word)
    (poison : BitVec 16) : State :=
  let n := ws.length
  let raw := (ws.zip (List.range n)).map fun w =>
    hodWordOf w.1 prio (w.2 == 0) (w.2 + 1 == n) (poison.getLsbD w.2)
  storeItem (modHod s h fun x => { dropOpen x a with arrivals := x.arrivals + 1 }) h a prio raw

/-! ## Consumers (R254–R256) -/

/-- Place of the item that goes next: highest priority, then completed first. -/
def bestItem (items : List Item) : Option Nat :=
  ((items.zip (List.range items.length)).foldl (fun (best : Option (Nat × Nat)) x =>
    match best with
    | none => some (x.2, x.1.prio)
    | some b => if b.2 < x.1.prio then some (x.2, x.1.prio) else some b) none).map (·.1)

/-- A stored word as it is delivered: data, poison from its bit and its parity, marks and priority
from the item record. -/
def deliver (it : Item) (w : BitVec 71) : PortWord :=
  { data := wordData w, start := it.words.length == it.total, last := it.words.length == 1,
    poison := w.getLsbD 70 || !hodParityOk w, prio := it.prio }

/-- The next word for a consumer, without taking it: the place of its item, none when it is partly
read already. -/
def peekNext (x : Hod) (a : Agent) : Option (Option Nat × PortWord) :=
  match x.part.find? (fun e => e.1 == a) with
  | some e => match e.2.words with
    | w :: _ => some (none, deliver e.2 w)
    | [] => none
  | none =>
    match bestItem x.items with
    | some i => match (x.items.getD i {}).words with
      | w :: _ => some (some i, deliver (x.items.getD i {}) w)
      | [] => none
    | none => none

/-- The stored word that `peekNext` reads. -/
def nextRaw (x : Hod) (a : Agent) : Option (BitVec 71) :=
  match x.part.find? (fun e => e.1 == a) with
  | some e => e.2.words.head?
  | none => (bestItem x.items).bind fun i => (x.items.getD i {}).words.head?

/-- A failing parity is counted and reported (R256). -/
def parityNote (s : State) (h : Nat) (w : BitVec 71) : State :=
  if hodParityOk w then s
  else setPoison (modHod s h fun x => { x with poisons := x.poisons + 1 }) h

def sat64 (n : Nat) : Nat := min n (2 ^ 64 - 1)

/-- An item is claimed by a consumer: its wait is counted (R279). -/
def claimItem (s : State) (h i : Nat) (a : Agent) : State :=
  modHod s h fun x =>
    let it := x.items.getD i {}
    let wait := s.sched - it.doneAt
    { x with items := x.items.eraseIdx i, part := x.part ++ [(a, it)],
             itemCount := x.itemCount + 1, sumWait := sat64 (x.sumWait + wait),
             maxWait := max x.maxWait wait, aside := none }

/-- One word of the partly read item of a consumer leaves the hod; `read` when the store is read for it now
(R256), and not when it was set aside before. -/
def takePart (read : Bool) (s : State) (h : Nat) (a : Agent) : Option PortWord × State :=
  let x := hodOf s h
  match x.part.find? (fun e => e.1 == a) with
  | none => (none, s)
  | some e =>
    match e.2.words with
    | [] => (none, s)
    | w :: rest =>
      let others := x.part.filter (fun p => p.1 != a)
      let part := if rest.isEmpty then others else others ++ [(a, { e.2 with words := rest })]
      let s := leafAdd s (leafJob x.job 12) 1
      let s := setHod s h { x with part := part }
      (some (deliver e.2 w), if read then parityNote s h w else s)

/-- The next word for a consumer is taken from the hod. -/
def hodPopWord (s : State) (h : Nat) (a : Agent) : Option PortWord × State :=
  let x := hodOf s h
  let before := hodDepth x
  let s := if x.part.any (fun e => e.1 == a) then s
    else match bestItem x.items with
      | some i => claimItem s h i a
      | none => s
  let (w, s) := takePart true s h a
  (w, wmCheck s h before)

/-- The word set aside for a tile port is taken, unless a flush has discarded its item (R92). -/
def hodPopAside (s : State) (h : Nat) (a : Agent) : State :=
  let x := hodOf s h
  let before := hodDepth x
  let s := if x.part.any (fun e => e.1 == a) then s
    else match x.aside with
      | some i => claimItem s h i a
      | none => s
  wmCheck (takePart false s h a).2 h before

/-- Discard every stored, open and partly read item (R252). -/
def hodFlush (s : State) (h : Nat) : State :=
  let before := hodDepth (hodOf s h)
  wmCheck (modHod s h fun x =>
    { x with items := [], part := [], openIt := [], ignoring := [], aside := none }) h before

/-- The hod ceases to exist (R247). -/
def hodDestroy (s : State) (h : Nat) : State :=
  modPalBlk (setHod s h {}) fun p =>
    { p with rSent := mapPut p.rSent 0 h 0, rCredit := mapPut p.rCredit 0 h 0,
             rGranted := mapPut p.rGranted 0 h 0, rTaken := mapPut p.rTaken 0 h 0 }

def hodsOfJob (s : State) (j : Nat) : List Nat :=
  s.pal.hods.filterMap fun e => if e.2.valid && e.2.job == j then some e.1 else none

/-! ## Allocation (R244, R245) -/

/-- Lowest hod ID that names no hod. -/
def freeHodId (s : State) : Option Nat :=
  let used := s.pal.hods.filterMap fun e => if e.2.valid then some e.1 else none
  (List.range (used.length + 1)).find? fun i => decide (i < 32768) && !used.contains i

/-- Spans of the hod store that are taken: hods, and blocks out of the pool (R487). -/
def takenSpans (s : State) : List (Nat × Nat) :=
  (s.pal.hods.filterMap fun e => if e.2.valid then some (e.2.base, hodSize e.2) else none)
    ++ s.pal.blocksOut.map (fun b => (16 * b, 16))

/-- Lowest aligned free offset: a span in the way moves the candidate past it. -/
def findBlock (spans : List (Nat × Nat)) (size : Nat) : Nat → Nat → Option Nat
  | 0, _ => none
  | n + 1, off =>
    if 1048576 < off + size then none
    else match spans.find? (fun sp => decide (sp.1 < off + size) && decide (off < sp.1 + sp.2)) with
      | none => some off
      | some sp => findBlock spans size n ((sp.1 + sp.2 + size - 1) / size * size)

def freeBlock (s : State) (size : Nat) : Option Nat :=
  findBlock (takenSpans s) size ((takenSpans s).length + 1) 0

end Sys2Proof.Machine
end

