-- ==== Sys2Proof/Machine/JointOps.lean ====
section
/-! DEFINITION. The joint engine as operations: stamps, frames sent, received and presented, barrier
tokens, resends (R354–R363, R383). -/

namespace Sys2Proof.Machine

/-- Extension of a 32-bit stamp against a 64-bit user-cycle number (R363). -/
def extendStamp (own : Word) (lo : BitVec 32) : Word :=
  let ext := (own &&& ~~~0xFFFFFFFF) ||| lo.setWidth 64
  if ext + 0x80000000 < own then ext + 0x100000000
  else if own + 0x80000000 < ext ∧ 0x100000000 ≤ ext then ext - 0x100000000
  else ext

def consOf (s : State) (st : Nat) : ConsEntry := mapGet s.arr.cons {} st
def srcOf (s : State) (st : Nat) : SrcEntry := mapGet s.arr.src {} st
def consRunOf (s : State) (st : Nat) : ConsRun := mapGet s.arr.consRun {} st
def srcRunOf (s : State) (st : Nat) : SrcRun := mapGet s.arr.srcRun {} st
def modConsRun (s : State) (st : Nat) (f : ConsRun → ConsRun) : State :=
  modArrBlk s fun a => { a with consRun := mapMod a.consRun {} st f }
def modSrcRun (s : State) (st : Nat) (f : SrcRun → SrcRun) : State :=
  modArrBlk s fun a => { a with srcRun := mapMod a.srcRun {} st f }

/-- An entry is an intra consumer entry (Table 11-2). -/
def consIntra (e : ConsEntry) : Bool := e.recvCourse != 0

/-- Streams that a job consumes (the job of the forwarding entry), and that it originates. -/
def consumed (s : State) (j : Nat) : List (Nat × ConsEntry) :=
  s.arr.cons.filter fun e => e.2.valid && (mapGet s.lry.fwd {} e.1).job == j
def originated (s : State) (j : Nat) : List (Nat × SrcEntry) :=
  s.arr.src.filter fun e => e.2.valid && e.2.job == j

/-- The user cycle a receiver counts from: the job's own, or e during a rollback or replay (R361). -/
def windowBase (x : Job) : Word :=
  match x.replay with
  | some r => r.e
  | none => x.cycle

/-- The job has heard from an ordinal (R365). -/
def addPeer (s : State) (j o : Nat) : State :=
  if s.arr.peers.contains (j, o) then s
  else modArrBlk s fun a => { a with peers := a.peers ++ [(j, o)] }

/-! ## Receiving -/

/-- A frame is discarded and counted (R361). -/
def discardFrame (s : State) (st : Nat) : State :=
  modArrBlk s fun a => { a with dropped := mapMod a.dropped 0 st (· + 1) }

/-- EV_ARR_FRAME_ERROR, at most once per stream per second. -/
def frameError (s : State) (j st : Nat) : State :=
  let s := discardFrame s st
  if mayRaise (mapGet s.arr.frameErrEv none st) s.nowUs 1000000 then
    emitJob (modArrBlk s fun a => { a with frameErrEv := mapPut a.frameErrEv none st (some s.nowUs) })
      0x0A05 j []
  else s

/-- The frame of a cycle is in the buffer, or the cycle has been presented. Only a registered frame of
cycle u − 1 may still be due below u: at a commit boundary whose commit is done (log 24). -/
def haveCycle (intra : Bool) (r : ConsRun) (u c : Word) : Bool :=
  r.buf.any (fun f => f.cycle == c) || (decide (c < u) && (intra || c + 1 != u))
    || (match r.presented with | some p => decide (c ≤ p) | none => false)

/-- A frame delivered to the joint-port logic of a job (R361). -/
def acceptFrame (s : State) (j : Nat) (f : Frame) : State :=
  let en := consOf s f.stream
  if !en.valid then discardFrame s f.stream
  else
    let x := jobOf s j
    let u := windowBase x
    let c := extendStamp u f.cycleLo
    let r := consRunOf s f.stream
    if f.epoch != x.epoch then discardFrame s f.stream
    else if f.intra != consIntra en then frameError s j f.stream
    else if haveCycle f.intra r u c then discardFrame s f.stream
    else if u + 3 < c then frameError s j f.stream
    else
      let s := addPeer (leafAdd s (leafJob j 14) 1) j f.src
      let s := addRecord s j c (.jntRx f.stream f.intra f.epoch f.slices)
      modConsRun s f.stream fun r =>
        { r with buf := r.buf ++ [{ cycle := c, slices := f.slices }], src := f.src }

/-- A frame handled by an entry of its stream (R343, R344). -/
def handleBy (s : State) (e : Fwd) (f : Frame) (inPort : Option Nat) (hops : Nat) : State :=
  if !e.valid then unroutableFrame s (inPort.getD 0) f.stream
  else
    let s := if e.loc then acceptFrame s e.job f else s
    forwardCopies s e f inPort hops

/-- A frame that this device originates: its entry is read now. -/
def handleFrame (s : State) (f : Frame) : State :=
  let (e, s) := fwdRead s f.stream
  handleBy s e f none 1

/-! ## Tokens -/

/-- The greatest token of a device for a stream (R359). -/
def tokenFrom (r : SrcRun) (o : Nat) : Option Word := (r.tokens.find? (fun t => t.1 == o)).map (·.2)

/-- A token for cycle c also confirms every earlier cycle. -/
def putToken (r : SrcRun) (o : Nat) (c : Word) : SrcRun :=
  match tokenFrom r o with
  | some d => if d < c then { r with tokens := (o, c) :: r.tokens.filter (fun t => t.1 != o) } else r
  | none => { r with tokens := (o, c) :: r.tokens }

/-- A token arrives at the stream's source; one of another epoch is discarded (R381). -/
def takeToken (s : State) (o st : Nat) (epoch : BitVec 4) (lo : BitVec 32) : State :=
  let e := srcOf s st
  let x := jobOf s e.job
  if !e.valid || epoch != x.epoch then s
  else
    let s := addPeer s e.job o
    modSrcRun s st fun r => putToken r o (extendStamp x.cycle lo)

/-- Body of a token (R359). -/
def tokenBody (st : Nat) (epoch : BitVec 4) (c : Word) : List Byte :=
  leBytes 4 (st % 4096 + epoch.toNat * 4096) ++ leBytes 4 (c.toNat % 2 ^ 32)

/-- A token for a presented frame, unless its mark suppresses it (R377). -/
def sendToken (s : State) (j st : Nat) (c : Word) : State :=
  let r := consRunOf s st
  let done := match r.tokened with | some t => decide (c ≤ t) | none => false
  if done then s
  else
    let s := modConsRun s st fun r => { r with tokened := some c }
    let ep := (jobOf s j).epoch
    if isHere s r.src || (srcOf s st).valid then
      takeToken s (s.arr.ordinal.getD 0) st ep (c.setWidth 32)
    else routeSend s 2 1 r.src (tokenBody st ep c)

/-- Tokens let user cycle c + 1 start (R360). -/
def tokensMet (s : State) (j : Nat) (c : Word) : Bool :=
  decide (c < 3) || (originated s j).all fun e =>
    decide (e.2.consumers ≤
      ((srcRunOf s e.1).tokens.filter fun t => decide (c ≤ t.2 + 3)).length)

/-! ## Sending (R357) -/

/-- Outbound bits of the source tiles; zeros under OUT_HOLD. -/
def outSlices (x : Job) (e : SrcEntry) (bits : Nat → BitVec 192) : List (BitVec 192) :=
  e.vts.map fun vt => if x.outHold then 0 else bits vt

/-- The JNT_TX record of a stream and cycle. -/
def txRecord (s : State) (j st : Nat) (c : Word) : Option (List (BitVec 192)) :=
  s.arr.journal.reverse.findSome? fun e =>
    match e.body with
    | .jntTx st' _ _ sl => if e.job = j ∧ st' = st ∧ e.cycle = c then some sl else none
    | _ => none

/-- EV_ARR_REPLAY_DIVERGED (R379): the stream or hod, and the cycle. -/
def diverge (s : State) (j isHod unit : Nat) (c : Word) : State :=
  let s := emitJob s 0x0A06 j [(1, isHod), (2, unit), (8, c.toNat)]
  modJob s j fun x => { x with replay := x.replay.map fun r => { r with diverged := true } }

/-- The frame of one originated stream at the end of its send course. During a replay a frame at or
below the mark is compared with its record and not sent (R377). -/
def sendFrame (s : State) (j st : Nat) (e : SrcEntry) (slices : List (BitVec 192)) : State :=
  let x := jobOf s j
  let c := x.cycle
  let old := match (srcRunOf s st).sent with | some t => decide (c ≤ t) | none => false
  if x.replay.isSome && old then
    match txRecord s j st c with
    | some sl => if sl = slices then s else diverge s j 0 st c
    | none => diverge s j 0 st c
  else
    let f : Frame := { stream := st, hops := 1, src := s.arr.ordinal.getD 0,
                       cycleLo := c.setWidth 32, intra := e.intra, epoch := x.epoch,
                       slices := slices }
    let s := addRecord (leafAdd s (leafJob j 13) 1) j c (.jntTx st e.intra x.epoch slices)
    handleFrame (modSrcRun s st fun r => { r with sent := some c }) f

/-- Resend from the JNT_TX records, in cycle order (R383): none when the records do not reach the
first cycle asked for. -/
def resendFrom (s : State) (st : Nat) (first : Word) : Option State :=
  let e := srcOf s st
  let x := jobOf s e.job
  let last := (srcRunOf s st).sent
  match last with
  | none => some s
  | some t =>
    if t < first then some s
    else if (txRecord s e.job st first).isNone then none
    else
      let recs := s.arr.journal.filterMap fun r =>
        match r.body with
        | .jntTx st' intra ep sl =>
          if r.job = e.job ∧ st' = st ∧ first ≤ r.cycle ∧ ep = x.epoch then some (r.cycle, intra, sl)
          else none
        | _ => none
      some (each (recs.mergeSort fun a b => decide (a.1 ≤ b.1)) (fun s r =>
        handleFrame s { stream := st, hops := 1, src := s.arr.ordinal.getD 0,
                        cycleLo := r.1.setWidth 32, intra := r.2.1, epoch := x.epoch,
                        slices := r.2.2 }) s)

/-! ## Presenting (R358) -/

/-- The slices of a stream and cycle: from the buffer, or in a replay from the JNT_RX record and, for
frames from before the journal began, from the checkpoint (R378, R149). -/
def rxRecord (s : State) (j st : Nat) (c : Word) : Option (List (BitVec 192)) :=
  s.arr.journal.reverse.findSome? fun e =>
    match e.body with
    | .jntRx st' _ _ sl => if e.job = j ∧ st' = st ∧ e.cycle = c then some sl else none
    | _ => none

def bufferedFrame (r : ConsRun) (c : Word) : Option (List (BitVec 192)) :=
  (r.buf.find? (fun f => f.cycle == c)).map (·.slices)

def ckptFrame (x : Job) (st : Nat) (c : Word) : Option (List (BitVec 192)) :=
  let cks := [x.slotA, x.slotB].filterMap id
  cks.findSome? fun k =>
    match k.consRuns.find? (fun r => r.1 == st) with
    | some r => bufferedFrame r.2 c
    | none => none

def frameFor (s : State) (j st : Nat) (c : Word) : Option (List (BitVec 192)) :=
  let x := jobOf s j
  if x.replay.isSome then (rxRecord s j st c).orElse (fun _ => ckptFrame x st c)
  else bufferedFrame (consRunOf s st) c

/-- Streams whose frames the swap into a course presents, with the frame's cycle: registered frames of
the cycle before into course 0, intra frames of the cycle at hand at their receive course. `c` is the
user cycle that the swap's course belongs to. -/
def dueStreams (s : State) (j course : Nat) (c : Word) : List (Nat × ConsEntry × Word) :=
  (consumed s j).filterMap fun e =>
    if consIntra e.2 then (if e.2.recvCourse = course then some (e.1, e.2, c) else none)
    else if course = 0 ∧ c ≠ 0 then some (e.1, e.2, c - 1) else none

/-- The job sends the stream's frame at the end of the course that runs, so its own boundary waits for
it only from that course end on (R539). -/
def sentAtEnd (s : State) (j st : Nat) : Bool :=
  let x := jobOf s j
  !x.endDone && (originated s j).any fun o => o.1 == st && o.2.sendCourse == x.course

/-- Every frame due at a swap is present, and the tokens for the next user cycle (R91, R360). An intra
stream holds the swap only when the course's bit of jnt_intra_mask is set. -/
def jointMet (s : State) (j course : Nat) (c : Word) : Bool :=
  let x := jobOf s j
  x.replay.isSome ||
    ((dueStreams s j course c).all (fun d =>
      (consIntra d.2.1 && !x.desc.intraMask.getLsbD course) || sentAtEnd s j d.1
        || (frameFor s j d.1 d.2.2).isSome)
     && (course != 0 || c == 0 || tokensMet s j (c - 1)))

/-- One stream's slices reach their tiles, and a live presentation sends its token. -/
def presentOne (j : Nat) (s : State) (d : Nat × ConsEntry × Word) : State :=
  match frameFor s j d.1 d.2.2 with
  | none => s
  | some sl =>
    let s := (List.range 8).foldl (fun s i =>
      if d.2.1.mask.getLsbD i then
        match physOf s j (listAt d.2.1.vts 0 i) with
        | some t => modTile s t fun x => { x with jointIn := listAt sl 0 i }
        | none => s
      else s) s
    if (jobOf s j).replay.isSome then s
    else
      let s := modConsRun s d.1 fun r =>
        { r with presented := some d.2.2, buf := r.buf.filter (fun f => f.cycle != d.2.2) }
      sendToken s j d.1 d.2.2

def presentJoints (s : State) (j course : Nat) (c : Word) : State :=
  each (dueStreams s j course c) (presentOne j) s

end Sys2Proof.Machine
end

