-- ==== Sys2Proof/Machine/Fabric.lean ====
section
/-! DEFINITION. What a course computes: cell words, local lines, clusters, express segments, tile
links, port outputs (R25–R56), and the slabs (R48–R53). Values are three-valued: `none` is not yet
settled, and what a combinational loop leaves unsettled is a free value (R98; log 15). -/

namespace Sys2Proof.Machine

/-! ## Cell words (R28, Table 2-2) -/

/-- Cell word of a cell under a table of rows: vector bits [160c+159:160c]. -/
def cellWord (rows : SMap Row) (brick cell : Nat) : Nat :=
  let off := 160 * cell
  let r := off / 512
  let lo := (mapGet rows 0 (rowKey brick r)).toNat
  let hi := (mapGet rows 0 (rowKey brick (r + 1))).toNat
  (lo + hi * 2 ^ 512) / 2 ^ (off % 512) % 2 ^ 160

def lutMask (w : Nat) : Nat := field w 63 0
/-- Local line selected by input i (0 A to 5 F). -/
def inSel (w i : Nat) : Nat := w / 2 ^ (64 + 7 * i) % 128
def lutMode (w : Nat) : Nat := field w 107 106
def ff0En (w : Nat) : Nat := field w 112 108
def ff1En (w : Nat) : Nat := field w 117 113
def ff1Dcrs (w : Nat) : Nat := field w 122 118
def ff0Rst (w : Nat) : Nat := field w 125 123
def ff1Rst (w : Nat) : Nat := field w 128 126
def ff0Rv (w : Nat) : Bool := bitOf w 129
def ff1Rv (w : Nat) : Bool := bitOf w 130
def outSrc (w o : Nat) : Nat := w / 2 ^ (131 + 8 * o) % 8
def outCrs (w o : Nat) : Nat := w / 2 ^ (134 + 8 * o) % 32
def cluIn (w : Nat) : Nat := field w 150 147
def expClaim (w : Nat) : Bool := bitOf w 151
def expSrc (w : Nat) : Nat := field w 157 152
def gwClaim (w : Nat) : Bool := bitOf w 158

/-- A cell word with an encoding that raises BAD_ENCODING (Tables 2-1, 2-3, 2-4). -/
def badEncoding (w : Nat) : Bool :=
  lutMode w == 3 || outSrc w 0 == 7 || outSrc w 1 == 7 || decide (18 ≤ ff0En w)
    || decide (18 ≤ ff1En w)

/-! ## Express segments (R40–R45) -/

/-- Segment of a tile that brick b's segment c is part of: horizontal ones are 0–1023, vertical ones
1024–2047. -/
def segId (b c : Nat) : Nat :=
  if c < 16 then (b / 16) * 32 + c * 2 + (b % 16) / 8
  else 1024 + (b % 16) * 64 + (c - 16) * 4 + (b / 16) / 8

/-- Brick b lies on the tile edge where its segment c ends. -/
def onEdge (b c : Nat) : Bool :=
  if c < 16 then b % 16 == 0 || b % 16 == 15 else b / 16 == 0 || b / 16 == 31

/-- The tiles of a job as they are evaluated: virtual tile, tile. -/
structure Net where
  tiles  : List (Nat × Tile)
  course : Nat
  count  : Nat
  /-- TRIG value the job's tiles see (R57, R58) -/
  trig   : BitVec 16
  /-- cell words that are not zero, key (virtual tile × 512 + brick) × 32 + cell -/
  words  : List (Nat × Nat)
  /-- cells whose gw_claim the course-die banks apply in this course (R41), same key -/
  gws    : List Nat

/-- How a claimed segment is driven. -/
inductive SegDrv where
  | line (brick l : Nat)
  | link (vt seg : Nat)
  | zero
  deriving DecidableEq, Repr

def cellKey (vt b c : Nat) : Nat := (vt * 512 + b) * 32 + c
def segKey (vt seg : Nat) : Nat := vt * 2048 + seg

def netTile (n : Net) (vt : Nat) : Tile := ((n.tiles.find? (fun e => e.1 == vt)).map (·.2)).getD {}

/-- Bricks with a row that is not zero. -/
def rowBricks (rows : SMap Row) : List Nat := (rows.map (fun e => e.1 / 16)).eraseDups

/-- The cell words of a table of rows that are not zero. -/
def rowWords (vt : Nat) (rows : SMap Row) : List (Nat × Nat) :=
  (rowBricks rows).flatMap fun b =>
    (List.range 32).filterMap fun c =>
      let w := cellWord rows b c
      if w = 0 then none else some (cellKey vt b c, w)

def mkNet (tiles : List (Nat × Tile)) (course count : Nat) (trig : BitVec 16) : Net :=
  { tiles := tiles, course := course, count := count, trig := trig,
    words := tiles.flatMap fun e => rowWords e.1 e.2.active,
    gws := tiles.flatMap fun e => e.2.gwNow.map fun k => e.1 * 16384 + k }

def wordAt (n : Net) (k : Nat) : Nat := mapGet n.words 0 k

/-- The outbound link that ends at a gateway: source virtual tile and segment (R46). -/
def linkInto (tiles : List (Nat × Tile)) (vt brick seg : Nat) : Option (Nat × Nat) :=
  tiles.findSome? fun e =>
    (e.2.links.find? (fun l => l.dstVt == vt && l.dstBrick == brick && l.dstSeg == seg)).map
      fun l => (e.1, segId l.srcBrick l.srcSeg)

/-- Owner bit of an exp_claim: the segment, how it would be driven, the brick. -/
def expOwner (k w : Nat) : List (Nat × SegDrv × Nat) :=
  let b := k / 32 % 512
  if expClaim w then [(segKey (k / 16384) (segId b (k % 32)), SegDrv.line b (expSrc w), b)] else []

/-- Owner bit of a gw_claim; one off the edge is no owner bit (R45). -/
def gwOwner (tiles : List (Nat × Tile)) (k : Nat) : List (Nat × SegDrv × Nat) :=
  let c := k % 32
  let b := k / 32 % 512
  let vt := k / 16384
  if onEdge b c then
    [(segKey vt (segId b c),
      (match linkInto tiles vt b c with
       | some (v, sg) => SegDrv.link v sg
       | none => SegDrv.zero), b)]
  else []

/-- Owner bits that a cell word of an image sets (R44). -/
def ownersOf (tiles : List (Nat × Tile)) (k w : Nat) : List (Nat × SegDrv × Nat) :=
  expOwner k w ++ (if gwClaim w then gwOwner tiles k else [])

/-- Owner bits of a running course: exp_claim as the active registers hold it, gw_claim as the
course-die banks apply it (R41). -/
def netOwners (n : Net) : List (Nat × SegDrv × Nat) :=
  (n.words.flatMap fun e => expOwner e.1 e.2) ++ n.gws.flatMap (gwOwner n.tiles)

/-- Segments with owner bits: one owner drives, more than one reads 0 (R42, R43). -/
def netSegs (n : Net) : List (Nat × SegDrv) :=
  let os := netOwners n
  (os.map (·.1)).eraseDups.map fun sg =>
    match os.filter (fun o => o.1 == sg) with
    | [o] => (sg, o.2.1)
    | _ => (sg, SegDrv.zero)

/-! ## Ports (R54–R56, Tables 2-8 and 2-9) -/

inductive PortKind where
  | slab (s : Nat) | memory (p : Nat) | hod (p : Nat) | joint | pin
  deriving DecidableEq, Repr

/-- The port behind a brick, with its first brick and number of outputs. -/
def portAt (b : Nat) : Option (PortKind × Nat × Nat) :=
  if b < 480 then (if b % 10 < 3 then some (.slab (b / 10), b / 10 * 10, 144) else none)
  else if b < 490 then some (.memory 0, 480, 514)
  else if b < 500 then some (.memory 1, 490, 514)
  else if b < 508 then some (.hod ((b - 500) / 2), 500 + (b - 500) / 2 * 2, 73)
  else if b < 511 then some (.joint, 508, 192)
  else some (.pin, 511, 16)

def hodPresBits (p : HodPres) : Nat :=
  (match p.word with
   | some w => w.data.toNat + 2 ^ 64 + b2n w.start * 2 ^ 65 + b2n w.last * 2 ^ 66
                 + b2n w.poison * 2 ^ 67 + w.prio % 8 * 2 ^ 68
   | none => 0)
  + b2n p.empty * 2 ^ 71 + b2n p.full * 2 ^ 72

/-- The output bits of a port as the tile presents them. -/
def portOutBits (t : Tile) (trig : BitVec 16) : PortKind → Nat
  | .slab s => (mapGet t.slabOut 0 (2 * s)).toNat + (mapGet t.slabOut 0 (2 * s + 1)).toNat * 2 ^ 72
  | .memory p =>
    let m := mapGet t.memOut {} p
    m.data.toNat + b2n m.valid * 2 ^ 512 + b2n m.poison * 2 ^ 513
  | .hod p => hodPresBits (mapGet t.hodOut {} p)
  | .joint => t.jointIn.toNat
  | .pin => trig.toNat

/-- Value of a port output that takes candidate `cand` of cluster input `k` of a brick. -/
def portCandidate (t : Tile) (trig : BitVec 16) (b k cand : Nat) : Option Bool :=
  match portAt b with
  | none => none
  | some (kind, first, outs) =>
    if cand < 14 then none else
    let i := 64 * (b - first) + k + (if cand = 14 then 32 else 0)
    if i < outs then some (bitOf (portOutBits t trig kind) i) else none

/-! ## Evaluation -/

/-- Values of one cell: primary, secondary, carry-out, output 0, output 1. -/
structure CellVal where
  p  : Option Bool := none
  s  : Option Bool := none
  co : Option Bool := none
  o0 : Option Bool := none
  o1 : Option Bool := none
  deriving DecidableEq, Repr

/-- A cell whose word is zero (R28): every value 0. -/
def quietCell : CellVal := { p := some false, s := some false, co := some false, o0 := some false, o1 := some false }

structure Vals where
  cells : SMap CellVal
  segs  : SMap (Option Bool)
  deriving DecidableEq, Repr

def cellAt (v : Vals) (k : Nat) : CellVal := mapGet v.cells quietCell k
def segAt (v : Vals) (k : Nat) : Option Bool := mapGet v.segs (some false) k

/-- Brick at a position of the cluster that holds brick b. -/
def clusterBrick (b pos : Nat) : Nat :=
  let row := b / 16 / 8 * 8 + pos / 8
  let col := b % 16 / 8 * 8 + pos % 8
  row * 16 + col

/-- Cluster input k of a brick (R39). -/
def clusterInput (n : Net) (v : Vals) (vt b k : Nat) : Option Bool :=
  let j := cluIn (wordAt n (cellKey vt b k))
  match portCandidate (netTile n vt) n.trig b k j with
  | some x => some x
  | none =>
    let p := b / 16 % 8 * 8 + b % 16 % 8
    let src := clusterBrick b ((p + 4 * j + k / 16) % 64)
    (cellAt v (cellKey vt src (16 + k % 16))).o1

/-- Local line l of a brick (Table 2-5). -/
def lineAt (n : Net) (v : Vals) (vt b l : Nat) : Option Bool :=
  if l < 32 then (cellAt v (cellKey vt b l)).o0
  else if l < 64 then (cellAt v (cellKey vt b (l - 32))).o1
  else if l < 96 then clusterInput n v vt b (l - 64)
  else segAt v (segKey vt (segId b (l - 96)))

/-- Table lookup with inputs that may be unsettled: the value on which every completion agrees. -/
def lut3 (mask : Nat) : List (Option Bool) → Nat → Option Bool
  | [], i => some (bitOf mask i)
  | x :: xs, i =>
    match x with
    | some b => lut3 mask xs (2 * i + b2n b)
    | none =>
      let a := lut3 mask xs (2 * i)
      if a = lut3 mask xs (2 * i + 1) then a else none

def xor3 (a b : Option Bool) : Option Bool :=
  match a, b with
  | some x, some y => some (xor x y)
  | _, _ => none

/-- p ? x : y with unsettled parts. -/
def mux3 (p x y : Option Bool) : Option Bool :=
  match p with
  | some true => x
  | some false => y
  | none => if x = y then x else none

/-- Carry-in of a cell (R27). -/
def carryIn (v : Vals) (vt b c : Nat) : Option Bool :=
  if c ≠ 0 then (cellAt v (cellKey vt b (c - 1))).co
  else if b < 16 then some false
  else (cellAt v (cellKey vt (b - 16) 31)).co

/-- State-file bit of a cell for a course: entries of courses at or above N read 0 (R96). -/
def stateBit (n : Net) (vt b c crs i : Nat) : Bool :=
  if crs < n.count then (mapGet (netTile n vt).ff 0 (ffKey b c crs)).getLsbD i else false

/-- Output o of a cell (Table 2-3). -/
def outValue (n : Net) (vt b c w o : Nat) (x : CellVal) : Option Bool :=
  match outSrc w o with
  | 0 => x.p
  | 1 => x.s
  | 2 => some (stateBit n vt b c (outCrs w o) 0)
  | 3 => some (stateBit n vt b c (outCrs w o) 1)
  | 4 => some (stateBit n vt b c (outCrs w o) 2)
  | 5 => x.co
  | _ => some false

/-- Primary output, secondary output and carry-out (Table 2-1). -/
def lutValue (n : Net) (v : Vals) (vt b c w : Nat) : CellVal :=
  let inp (i : Nat) := lineAt n v vt b (inSel w i)
  let five := [inp 4, inp 3, inp 2, inp 1, inp 0]
  let lo := lut3 (lutMask w % 2 ^ 32) five 0
  let hi := lut3 (lutMask w / 2 ^ 32) five 0
  match lutMode w with
  | 0 =>
    let p := lut3 (lutMask w) (inp 5 :: five) 0
    { p := p, s := hi, co := p }
  | 1 => { p := lo, s := hi, co := lo }
  | 2 =>
    let cin := carryIn v vt b c
    let co := mux3 lo cin hi
    { p := xor3 lo cin, s := co, co := co }
  | _ => { p := some false, s := some false, co := some false }

def cellValue (n : Net) (v : Vals) (k w : Nat) : CellVal :=
  let c := k % 32
  let b := k / 32 % 512
  let vt := k / 16384
  let x := lutValue n v vt b c w
  { x with o0 := outValue n vt b c w 0 x, o1 := outValue n vt b c w 1 x }

def segValue (n : Net) (v : Vals) (k : Nat) : SegDrv → Option Bool
  | .line b l => lineAt n v (k / 2048) b l
  | .link vt sg => segAt v (segKey vt sg)
  | .zero => some false

/-- One pass over every cell and claimed segment. -/
def pass (n : Net) (segs : List (Nat × SegDrv)) (v : Vals) : Vals :=
  { cells := n.words.map fun e => (e.1, cellValue n v e.1 e.2),
    segs := segs.map fun e => (e.1, segValue n v e.1 e.2) }

/-- Passes until nothing changes. -/
def settle (n : Net) (segs : List (Nat × SegDrv)) : Nat → Vals → Vals
  | 0, v => v
  | f + 1, v =>
    let v' := pass n segs v
    if v' = v then v else settle n segs f v'

/-- The settled values of a course; unsettled ones lie behind a combinational loop. Each pass settles one
more of the three values of every cell and of every claimed segment along the longest path. -/
def evaluate (n : Net) : Vals :=
  let segs := netSegs n
  settle n segs (3 * n.words.length + segs.length + 1)
    { cells := n.words.map fun e => (e.1, {}), segs := segs.map fun e => (e.1, none) }

/-- A settled bit, or a free value. -/
def resolve (s : State) (b : Option Bool) : Bool × State :=
  match b with
  | some x => (x, s)
  | none => let (x, s') := takeFree s 1; (x.getLsbD 0, s')

/-- Resolve one cell: its unsettled values are free, its outputs follow them. -/
def resolveCell (n : Net) (s : State) (k w : Nat) (x : CellVal) : CellVal × State :=
  let (p, s) := resolve s x.p
  let (sec, s) := resolve s x.s
  let (co, s) := resolve s x.co
  let y : CellVal := { p := some p, s := some sec, co := some co }
  let c := k % 32
  let b := k / 32 % 512
  ({ y with o0 := outValue n (k / 16384) b c w 0 y, o1 := outValue n (k / 16384) b c w 1 y }, s)

/-- Resolve every cell. -/
def resolveVals (n : Net) (s : State) (v : Vals) : SMap CellVal × State :=
  v.cells.foldl (fun acc e =>
    let (x, s) := resolveCell n acc.2 e.1 (wordAt n e.1) e.2
    (acc.1 ++ [(e.1, x)], s)) ([], s)

/-- Input bits of a port: bit i from the port bricks' outputs (R55). -/
def portInBits (cells : SMap CellVal) (vt first width : Nat) : Nat :=
  (List.range width).foldl (fun acc i =>
    let x := mapGet cells quietCell (cellKey vt (first + i / 64) (i % 32))
    let bit := if i % 64 < 32 then x.o0 else x.o1
    acc + b2n (bit == some true) * 2 ^ i) 0

/-- Whether any brick of a range has a cell word that is not zero. -/
def anyCell (cells : SMap CellVal) (vt first count : Nat) : Bool :=
  cells.any fun e => e.1 / 16384 == vt && decide (first ≤ e.1 / 32 % 512)
    && decide (e.1 / 32 % 512 < first + count)

/-! ## Frame faults (R63, R64) -/

/-- The kind bits of FAB_TILE_FAULT and the brick of every fault: encodings and gw_claim bits set in the
active registers, gw_claim bits that the banks apply, segments with more than one owner bit (log 122). -/
def tileFaults (n : Net) (vt : Nat) : List (Nat × Nat) :=
  let ws := n.words.filter (fun e => e.1 / 16384 == vt)
  let enc := ws.filterMap fun e => if badEncoding e.2 then some (2, e.1 / 32 % 512) else none
  let claims := (ws.filterMap fun e => if gwClaim e.2 then some e.1 else none)
    ++ n.gws.filter fun k => k / 16384 == vt
  let gw := claims.eraseDups.filterMap fun k =>
    let c := k % 32
    let b := k / 32 % 512
    if !onEdge b c || (linkInto n.tiles vt b c).isNone then some (4, b) else none
  let os := (netOwners n).filter (fun o => o.1 / 2048 == vt)
  let multi := (os.map (·.1)).eraseDups.filterMap fun sg =>
    match os.filter (fun o => o.1 == sg) with
    | a :: b :: t => some (1, (a :: b :: t).foldl (fun m o => min m o.2.2) 511)
    | _ => none
  enc ++ gw ++ multi

/-- FAB_TILE_FAULT after faults: bits set, FIRST fields only when bits [2:0] were clear. -/
def faultWord (old : BitVec 32) (fs : List (Nat × Nat)) (course : Nat) : BitVec 32 :=
  let bits := fs.foldl (fun a f => a ||| f.1) 0
  let w := old.toNat
  if w % 8 = 0 then
    let b := fs.foldl (fun m f => min m f.2) 511
    BitVec.ofNat 32 (bits + b * 8 + course % 32 * 2 ^ 12)
  else old ||| BitVec.ofNat 32 bits

/-! ## Capture and commit -/

/-- The rows of a course of a table keyed course × 8192 + row, replaced. -/
def putCourse (m : SMap Row) (c : Nat) (rows : SMap Row) : SMap Row :=
  (m.filter fun e => decide (e.1 / 8192 < c)) ++ rows.map (fun e => (c * 8192 + e.1, e.2))
    ++ m.filter fun e => decide (c < e.1 / 8192)

/-- Hold latches of course k capture the primary outputs of a tile's cells (R31); the configuration that
the course ran is what its flip-flops commit by (R33, R66). -/
def captureTile (cells : SMap CellVal) (course vt : Nat) (t : Tile) : Tile :=
  let cleared := t.ff.foldr (fun e acc =>
    let v := if e.1 % 32 = course then e.2 &&& 3 else e.2
    if v = 0 then acc else (e.1, v) :: acc) []
  { t with ran := putCourse t.ran course t.active, ff := (cells.filter (fun e => e.1 / 16384 == vt)).foldl (fun m e =>
      if e.2.p == some true then
        mapMod m 0 ((e.1 % 16384) * 32 + course) (· ||| 4)
      else m) cleared }

/-- Whether a flip-flop with an enable select updates (Table 2-4). -/
def enabled (sel : Nat) (phases : BitVec 16) : Bool :=
  if sel < 16 then phases.getLsbD sel else sel == 16

/-- The rule of R33 for one flip-flop. -/
def ffNext (en rst : Nat) (rv d q : Bool) (phases : BitVec 16) (resets : BitVec 7) : Bool :=
  if rst ≠ 0 ∧ resets.getLsbD (rst - 1) then rv
  else if enabled en phases then d else q

/-- Commit of one cell for one course, by the cell word with which the course ran (R33). -/
def commitCell (t : Tile) (count crs b c w : Nat) (phases : BitVec 16) (resets : BitVec 7)
    (ff : SMap (BitVec 3)) : SMap (BitVec 3) :=
  let old := mapGet t.ff 0 (ffKey b c crs)
  let d1 := if ff1Dcrs w < count then (mapGet t.ff 0 (ffKey b c (ff1Dcrs w))).getLsbD 2 else false
  let q0 := ffNext (ff0En w) (ff0Rst w) (ff0Rv w) (old.getLsbD 2) (old.getLsbD 0) phases resets
  let q1 := ffNext (ff1En w) (ff1Rst w) (ff1Rv w) d1 (old.getLsbD 1) phases resets
  mapPut ff 0 (ffKey b c crs) (BitVec.ofNat 3 (b2n q0 + 2 * b2n q1 + 4 * b2n (old.getLsbD 2)))

end Sys2Proof.Machine
end

