-- ==== Sys2Proof/Machine/SlabOps.lean ====
section
/-! DEFINITION. Slabs at a course end (R48–R53, Tables 2-7 and 2-9). -/

namespace Sys2Proof.Machine

/-- What one slab port samples at a course end. -/
structure SlabIn where
  en    : Bool
  addr  : Nat
  data  : Nat
  lanes : Nat
  width : Nat
  deriving DecidableEq, Repr

/-- Inputs of a port from the slab's input bits; `p` is 0 for port A, 1 for port B. -/
def slabIn (bits p width : Nat) : SlabIn :=
  let b := bits / 2 ^ (93 * p)
  { en := bitOf b 0, addr := field b 12 1 % 2 ^ (9 + width), data := field b 84 13,
    lanes := field b 92 85 % 2 ^ (8 / 2 ^ width), width := width }

def wordBits (width : Nat) : Nat := 72 / 2 ^ width
def slabRowOf (i : SlabIn) : Nat := i.addr / 2 ^ i.width
def slabShift (i : SlabIn) : Nat := wordBits i.width * (i.addr % 2 ^ i.width)

/-- Row bits that the enabled lanes of a port cover. -/
def laneMask (i : SlabIn) : BitVec 72 :=
  BitVec.ofNat 72 ((List.range 8).foldl (fun m l =>
    if bitOf i.lanes l then m + 511 * 2 ^ (9 * l) else m) 0 * 2 ^ slabShift i)

/-- A port's write into the rows: enabled lanes, or all 64 data bits with check bits in ECC mode. -/
def slabWrite (ecc : Bool) (sl : Nat) (rows : SMap (BitVec 72)) (i : SlabIn) : SMap (BitVec 72) :=
  if !i.en || i.lanes == 0 then rows
  else
    let k := slabKey sl (slabRowOf i)
    if ecc then mapPut rows 0 k (BitVec.ofNat 72 (secEncode 8 64 (i.data % 2 ^ 64)))
    else
      let m := laneMask i
      let d := BitVec.ofNat 72 (i.data * 2 ^ slabShift i)
      mapPut rows 0 k ((mapGet rows 0 k &&& ~~~m) ||| (d &&& m))

/-- What a read presents, and the corrected word to write back, if any; true when uncorrectable. -/
def slabRead (ecc : Bool) (sl : Nat) (rows : SMap (BitVec 72)) (i : SlabIn) :
    BitVec 72 × Option (BitVec 72) × Bool :=
  let w := mapGet rows 0 (slabKey sl (slabRowOf i))
  if ecc then
    match secDecode 8 64 w.toNat with
    | some (v, fixed) =>
      (BitVec.ofNat 72 (v % 2 ^ 64 + b2n fixed * 2 ^ 64),
       if fixed then some (BitVec.ofNat 72 v) else none, false)
    | none => (BitVec.ofNat 72 (w.toNat % 2 ^ 64 + 2 ^ 65), none, true)
  else (BitVec.ofNat 72 (w.toNat / 2 ^ slabShift i % 2 ^ wordBits i.width), none, false)

/-- One slab at a course end: the tile after it, and how many uncorrectable reads it met. Simple
dual-port slabs write through A and read through B; A's read outputs stay 0. DESIGN CHOICE: WE_HOLD lets the ECC
write-back of a corrected read through (log 115); a port that writes reads as well (log 116). -/
def slabEnd (sl bits : Nat) (weHold : Bool) (t : Tile) : Tile × Nat :=
  let cfg := (mapGet t.slabCfg 0 sl).toNat
  let ecc := bitOf cfg 4
  let a := slabIn bits 0 (field cfg 1 0)
  let b := slabIn bits 1 (field cfg 3 2)
  let dual := decide (sl < 8)
  let wa := if weHold then { a with lanes := 0 } else a
  let wb := if weHold || !dual then { b with lanes := 0 } else b
  let ra := slabRead ecc sl t.slabs a
  let rb := slabRead ecc sl t.slabs b
  let readA := a.en && dual
  let out := if readA then mapPut t.slabOut 0 (2 * sl) ra.1 else t.slabOut
  let out := if b.en then mapPut out 0 (2 * sl + 1) rb.1 else out
  let writes := (wa.en && wa.lanes != 0) || (wb.en && wb.lanes != 0)
  let fix (i : SlabIn) (v : Option (BitVec 72)) (on : Bool) (rows : SMap (BitVec 72)) :=
    match v with
    | some w => if on && !writes then mapPut rows 0 (slabKey sl (slabRowOf i)) w else rows
    | none => rows
  let rows := slabWrite ecc sl (slabWrite ecc sl t.slabs wb) wa
  let rows := fix b rb.2.1 b.en (fix a ra.2.1 readA rows)
  ({ t with slabs := rows, slabOut := out }, b2n (readA && ra.2.2) + b2n (b.en && rb.2.2))

end Sys2Proof.Machine
end

