-- ==== Sys2Proof/Machine/PortOps.lean ====
section
/-! DEFINITION. Tile ports at a course end and at a swap: slabs, memory ports, hod ports, pin ports
(R48–R58, R90, R92, R172–R175, R258–R262). -/

namespace Sys2Proof.Machine

/-- Every (virtual tile, physical tile, port) with port below n. -/
def jobPorts (s : State) (j n : Nat) : List (Nat × Nat × Nat) :=
  (jobTiles s j).flatMap fun e => (List.range n).map fun p => (e.1, e.2, p)

/-! ## Course arithmetic -/

/-- Number of a course end or swap: user cycle × N + course (R90). -/
def courseIndex (x : Job) (c : Word) (k : Nat) : Nat := c.toNat * x.desc.courseCount + k

/-- The course that the next swap starts, and the user cycle it belongs to. -/
def nextCourse (x : Job) : Nat :=
  if x.beforeZero then 0 else (x.course + 1) % x.desc.courseCount
def lastCourse (x : Job) : Bool := x.course + 1 == x.desc.courseCount
def nextCycle (x : Job) : Word :=
  if x.beforeZero then 0 else if lastCourse x && !x.endDone then x.cycle + 1 else x.cycle

/-- The boundary ahead is a commit boundary. -/
def atCommit (x : Job) : Bool := x.beforeZero || lastCourse x

/-- The first user cycle that begins after now. -/
def firstCycle (x : Job) : Word :=
  if x.beforeZero || (x.endDone && atCommit x) then x.cycle else x.cycle + 1

def nextIndex (x : Job) : Nat := courseIndex x (nextCycle x) (nextCourse x)

/-! ## Slabs -/

/-- One slab of a tile at a course end. -/
def slabAtEnd (cells : SMap CellVal) (vt t : Nat) (weHold : Bool) (j : Nat) (s : State) (sl : Nat) :
    State :=
  if !anyCell cells vt (10 * sl) 3 then s
  else
    let (x, bad) := slabEnd sl (portInBits cells vt (10 * sl) 186) weHold (tileOf s t)
    let s := leafAdd (setTile s t x) (leafTile t 6) bad
    each (List.range bad) (fun s _ => emitJob s 0x0501 j []) s

def slabsAtEnd (cells : SMap CellVal) (j : Nat) (s : State) : State :=
  let we := (jobOf s j).weHold
  each (jobTiles s j) (fun s e => each (List.range 48) (slabAtEnd cells e.1 e.2 we j) s) s

/-! ## Memory ports -/

/-- The request a memory port samples, if any; a write under WE_HOLD is none (R172). -/
def memRequest (cells : SMap CellVal) (x : Job) (vt p : Nat) : Option MemReq :=
  if !anyCell cells vt (480 + 10 * p) 10 then none
  else
    let b := portInBits cells vt (480 + 10 * p) 609
    let e := courseIndex x x.cycle x.course
    if !bitOf b 0 || (bitOf b 1 && x.weHold) then none
    else some { vt := vt, port := p, sampled := e, nominal := e + listAt x.desc.budget 0 x.course,
                write := bitOf b 1, unit := field b 32 2, data := BitVec.ofNat 512 (field b 544 33),
                be := BitVec.ofNat 64 (field b 608 545) }

def memAtEnd (cells : SMap CellVal) (j : Nat) (s : State) : State :=
  let x := jobOf s j
  let rs := (jobPorts s j 2).filterMap fun e => memRequest cells x e.1 e.2.2
  leafAdd (modJob s j fun x => { x with memReqs := x.memReqs ++ rs }) (leafJob j 10) rs.length

/-- The request whose reply a port presents at a swap: the first sampled of those whose nominal swap
has come (R90). -/
def dueAt (x : Job) (i vt p : Nat) : Option MemReq :=
  (x.memReqs.filter fun r => r.vt == vt && r.port == p && decide (r.nominal ≤ i)).foldl
    (fun best r => match best with
      | none => some r
      | some b => if r.sampled < b.sampled then some r else some b) none

def dueReqs (s : State) (j i : Nat) : List MemReq :=
  (jobPorts s j 2).filterMap fun e => dueAt (jobOf s j) i e.1 e.2.2

def reqStatus (r : MemReq) : Option AccStatus := r.result.map (·.1)
def reqStops (r : MemReq) : Bool :=
  reqStatus r == some .unmapped || reqStatus r == some .lost

/-- Every reply due at a swap has arrived; one whose request stops the job is resolved by that. -/
def memMet (s : State) (j i : Nat) : Bool := (dueReqs s j i).all fun r => r.arrived || reqStops r

/-- What the port presents for a request (R173). -/
def memPres (r : MemReq) : MemPres :=
  match r.result with
  | some (.ok, d) => { data := if r.write then 0 else d, valid := true, poison := false }
  | _ => { data := 0, valid := true, poison := true }

/-- Replies of a swap: one per port at most; a port without one presents nothing. -/
def presentMem (s : State) (j i : Nat) : State :=
  let s := each (jobPorts s j 2) (fun s e =>
    match dueAt (jobOf s j) i e.1 e.2.2 with
    | some r => modTile s e.2.1 fun t => { t with memOut := mapPut t.memOut {} e.2.2 (memPres r) }
    | none => modTile s e.2.1 fun t => { t with memOut := mapPut t.memOut {} e.2.2 {} }) s
  let due := dueReqs s j i
  modJob s j fun x => { x with memReqs := x.memReqs.filter fun r => !due.contains r }

/-- Order of failing requests: sampling, then virtual tile, then port. -/
def reqBefore (a b : MemReq) : Bool :=
  decide (a.sampled < b.sampled)
    || (a.sampled == b.sampled && (decide (a.vt < b.vt) || (a.vt == b.vt && decide (a.port ≤ b.port))))

/-- Requests due at a swap that stop the job (R175). -/
def pageFaults (s : State) (j i : Nat) : List MemReq :=
  ((dueReqs s j i).filter reqStops).mergeSort reqBefore

/-! ## Hod ports -/

/-- The stamp word of a design item (Table 8-5). -/
def stampWord (j vt p : Nat) (c : Word) : Word :=
  BitVec.ofNat 64 (c.toNat % 2 ^ 32 + vt % 512 * 2 ^ 32 + p % 4 * 2 ^ 41 + j % 8 * 2 ^ 43)

/-- Inputs of a hod port. -/
def hodBits (cells : SMap CellVal) (vt p : Nat) : Nat :=
  if anyCell cells vt (500 + 2 * p) 2 then portInBits cells vt (500 + 2 * p) 71 else 0

/-- A port pushes at most one word; the hardware puts the stamp word before a start word (R258). -/
def tilePush (j vt p bits : Nat) (s : State) : State :=
  let x := jobOf s j
  if !bitOf bits 0 || x.outHold then s
  else match portProduces s j vt p with
    | none => s
    | some h =>
      let a : Agent := .tile j vt p
      let prio := field bits 67 65
      let start := bitOf bits 68
      let s := if start then
          (hodPushWord s h a true false prio (stampWord j vt p x.cycle) false).2 else s
      (hodPushWord s h a false (bitOf bits 69) prio (BitVec.ofNat 64 (field bits 64 1)) false).2

/-- Pushes and pop requests of every hod port, in the order of virtual tile and port. -/
def hodsAtEnd (cells : SMap CellVal) (j : Nat) (s : State) : State :=
  let ps := jobPorts s j 4
  let pops := ps.filterMap fun e =>
    if bitOf (hodBits cells e.1 e.2.2) 70 then some (e.1, e.2.2) else none
  let s := each ps (fun s e => tilePush j e.1 e.2.2 (hodBits cells e.1 e.2.2) s) s
  modJob s j fun x => { x with pops := pops }

/-- What a port's hod would give it now (R92, R261). -/
def asideNow (s : State) (j vt p : Nat) : SetAside :=
  let full := match portProduces s j vt p with
    | some h => hodFull (hodOf s h)
    | none => false
  match portConsumes s j vt p with
  | some h =>
    { word := (peekNext (hodOf s h) (.tile j vt p)).map (·.2), empty := hodEmpty (hodOf s h),
      full := full }
  | none => { word := none, empty := true, full := full }

/-- The item whose start word is set aside; the store is read for it, and its parity checked (R256). -/
def markAside (s : State) (j vt p : Nat) : State :=
  match portConsumes s j vt p with
  | some h =>
    let s := match nextRaw (hodOf s h) (.tile j vt p) with
      | some w => parityNote s h w
      | none => s
    modHod s h fun x =>
      { x with aside := match peekNext x (.tile j vt p) with
                        | some (i, _) => i
                        | none => none }
  | none => s

/-- The delivery and flag records of a replayed swap. -/
def deliverRec (r : Replay) (vt p k : Nat) (c : Word) : Option JEntry :=
  r.recs.find? fun e => e.cycle == c && (match e.body with
    | .hodDeliver v q kk _ _ => v == vt && q == p && kk == k
    | _ => false)
def flagsRec (r : Replay) (vt p k : Nat) (c : Word) : Option (Bool × Bool) :=
  r.recs.findSome? fun e =>
    match e.body with
    | .hodFlags v q kk em fu =>
      if e.cycle = c ∧ v = vt ∧ q = p ∧ kk = k then some (em, fu) else none
    | _ => none

/-- What is set aside for a port at a sample: live from the hod, in a replay from the journal with the
flags shown before where no record changes them (R378). -/
def asideFor (s : State) (j vt t p : Nat) : SetAside :=
  let x := jobOf s j
  match x.replay with
  | none => asideNow s j vt p
  | some r =>
    let old := mapGet (tileOf s t).hodOut {} p
    let fl := (flagsRec r vt p (nextCourse x) (nextCycle x)).getD (old.empty, old.full)
    let w := match deliverRec r vt p (nextCourse x) (nextCycle x) with
      | some e => (match e.body with | .hodDeliver _ _ _ _ w => some w | _ => none)
      | none => none
    { word := w, empty := fl.1, full := fl.2 }

/-- Every hod port of the job sets aside its next word and fixes its flags (R92). -/
def setAsides (s : State) (j : Nat) : State :=
  each (jobPorts s j 4) (fun s e =>
    let v := asideFor s j e.1 e.2.1 e.2.2
    let s := if (jobOf s j).replay.isSome then s else markAside s j e.1 e.2.2
    modTile s e.2.1 fun t => { t with aside := mapPut t.aside {} e.2.2 v }) s

def asideOf (s : State) (t p : Nat) : SetAside := mapGet (tileOf s t).aside {} p

/-- A port whose consumed hod is in blocking mode. -/
def blockingPort (s : State) (j vt p : Nat) : Bool :=
  match portConsumes s j vt p with
  | some h => (hodOf s h).p.blocking
  | none => false

/-- No popping port of a blocking hod lacks its word (cause 7). -/
def popsMet (s : State) (j : Nat) : Bool :=
  (jobOf s j).replay.isSome || (jobPorts s j 4).all fun e =>
    !(jobOf s j).pops.contains (e.1, e.2.2) || !blockingPort s j e.1 e.2.2
      || (asideOf s e.2.1 e.2.2).word.isSome

/-- A port that may come to wait for its word: blocking, with none set aside (R539). -/
def mayBlock (s : State) (j : Nat) : Bool :=
  (jobOf s j).replay.isNone && (jobPorts s j 4).any fun e =>
    blockingPort s j e.1 e.2.2 && (asideOf s e.2.1 e.2.2).word.isNone

/-- A HOD_DELIVER or HOD_FLAGS record of a live swap. -/
def deliverRecord (s : State) (j vt p k h : Nat) (c : Word) (w : PortWord) : State :=
  addRecord s j c (.hodDeliver vt p k h w)

/-- EV_ARR_REPLAY_DIVERGED for a delivery whose hod is gone; otherwise its shadow pop is to come. -/
def addShadow (s : State) (j vt p : Nat) (e : JEntry) (h : Nat) : State :=
  if (hodOf s h).valid ∧ portConsumes s j vt p ≠ none then
    modJob s j fun x =>
      { x with replay := x.replay.map fun r => { r with shadow := r.shadow ++ [e] } }
  else diverge s j 1 h e.cycle

/-- One hod port at a swap: the popped word leaves the hod, word and flags are presented and recorded
(R260–R262); a replay presents its records (R378). -/
def presentHod (j k : Nat) (c : Word) (s : State) (e : Nat × Nat × Nat) : State :=
  let x := jobOf s j
  let a := asideOf s e.2.1 e.2.2
  let old := mapGet (tileOf s e.2.1).hodOut {} e.2.2
  let popped := x.pops.contains (e.1, e.2.2)
  let w := if popped || x.replay.isSome then a.word else none
  let s := modTile s e.2.1 fun t =>
    let v : HodPres := { word := w, empty := a.empty, full := a.full }
    { t with hodOut := mapPut t.hodOut {} e.2.2 v, aside := mapPut t.aside {} e.2.2 {} }
  match x.replay with
  | some r =>
    (match deliverRec r e.1 e.2.2 k c with
     | some d => (match d.body with
       | .hodDeliver _ _ _ h _ => addShadow s j e.1 e.2.2 d h
       | _ => s)
     | none => s)
  | none =>
    let s := if old.empty != a.empty || old.full != a.full then
        addRecord s j c (.hodFlags e.1 e.2.2 k a.empty a.full) else s
    match w, portConsumes s j e.1 e.2.2 with
    | some w, some h =>
      addRecord (hodPopAside s h (.tile j e.1 e.2.2)) j c (.hodDeliver e.1 e.2.2 k h w)
    | _, _ => s

def presentHods (s : State) (j k : Nat) (c : Word) : State :=
  each (jobPorts s j 4) (presentHod j k c) s

/-! ## Joint and pin ports -/

def jointBits (cells : SMap CellVal) (vt : Nat) : BitVec 192 :=
  BitVec.ofNat 192 (portInBits cells vt 508 192)

/-- Frames of every stream whose send course has ended (R357). -/
def jointsAtEnd (cells : SMap CellVal) (j : Nat) (s : State) : State :=
  let k := (jobOf s j).course
  each ((originated s j).filter fun e => e.2.sendCourse == k) (fun s e =>
    sendFrame s j e.1 e.2 (outSlices (jobOf s j) e.2 (jointBits cells))) s

/-- Pins granted to a job. -/
def grantedPins (s : State) (j : Nat) : BitVec 16 :=
  (List.range 16).foldl (fun m i =>
    if mapGet s.trigPin none i == some j then m ||| BitVec.ofNat 16 (2 ^ i) else m) 0

/-- TRIG[i] takes the lowest virtual tile whose output enable is 1 (R57); nothing under OUT_HOLD. DESIGN CHOICE
(log 117): a driven pin changes at course ends alone. -/
def pinsAtEnd (cells : SMap CellVal) (j : Nat) (s : State) : State :=
  let x := jobOf s j
  let ins := (jobTiles s j).map fun e => portInBits cells e.1 511 32
  let pick (i : Nat) : Option Nat := ins.find? fun v => bitOf v (16 + i)
  let r := (List.range 16).foldl (fun (acc : BitVec 16 × BitVec 16) i =>
    match pick i with
    | some v => (if bitOf v i then acc.1 ||| BitVec.ofNat 16 (2 ^ i) else acc.1,
                 acc.2 ||| BitVec.ofNat 16 (2 ^ i))
    | none => acc) (0, 0)
  let g := grantedPins s j
  if x.outHold then modJob s j fun x => { x with pinVal := 0, pinOe := 0 }
  else modJob s j fun x => { x with pinVal := r.1 &&& g, pinOe := r.2 &&& g }

end Sys2Proof.Machine
end

