-- ==== Sys2Proof/Machine/MsnOps.lean ====
section
/-! DEFINITION. Masons as operations: registers, scratch with its check bits, exceptions (R302), the
base set's memory instructions, flows and the release buffer (R273–R278). -/

namespace Sys2Proof.Machine

/-! ## Registers -/

/-- Register x_i; x0 reads zero. -/
def regOf (m : Mason) (i : Nat) : Word := if i = 0 then 0 else mapGet m.regs 0 i
def setReg (m : Mason) (i : Nat) (v : Word) : Mason :=
  if i = 0 then m else { m with regs := mapPut m.regs 0 i v }

/-- The mason executes: running, with no push waiting for a release-buffer entry. -/
def runs (m : Mason) : Bool := m.st == .running && m.pusho.isNone

/-- rd is written and the next instruction follows `len` bytes on. -/
def retire (s : State) (m rd : Nat) (v : Word) (len : Nat) : State :=
  modMason s m fun x => { setReg x rd v with pc := x.pc + BitVec.ofNat 64 len }

/-! ## Exceptions (R302) -/

/-- Words of a pallet in its layout (Table 8-10). -/
def slotWords (p : Slot) : List Word := [p.w0, p.w1, p.w2, p.w3]

/-- EV_MSN_FAULT: mason, mcause, mepc, mtval, fault reason and the current pallet, if any. -/
def faultFields (m : Nat) (x : Mason) (reason : Nat) : List (Nat × Nat) :=
  [(1, m), (4, x.mcause.toNat), (8, x.mepc.toNat), (8, x.mtval.toNat), (1, reason)]
    ++ (match x.cur with
        | some p => (slotWords p).map fun w => (8, w.toNat)
        | none => [])

/-- An exception: TRAPPED is set and the trap vector entered; while TRAPPED it halts the mason with
EV_MSN_FAULT. `reason` is the fault reason of an access or hod fault. -/
def trap (s : State) (m cause : Nat) (tval : Word) (reason : Option Nat) : State :=
  let x := masonOf s m
  let s := leafAdd s (leafGroup (m / 16) 2) 1
  let x := { x with reason := reason.getD x.reason, resv := none }
  if x.trapped then
    let y := { x with mepc := x.pc, mcause := BitVec.ofNat 64 cause, mtval := tval, st := .halted }
    let s := setMason s m y
    match x.job with
    | some j => emitJob s 0x0801 j (faultFields m y y.reason)
    | none => emitDev s 0x0801 (faultFields m y y.reason)
  else
    setMason s m { x with trapped := true, mepc := x.pc, mcause := BitVec.ofNat 64 cause,
                          mtval := tval, pc := x.mtvec &&& ~~~3, mpie := x.mie, mie := false }

/-- Illegal instruction: cause 2; what mtval holds is the base architecture's choice, a free value. -/
def illegal (s : State) (m : Nat) : State :=
  let (v, s) := takeFree s 64
  trap s m 2 v none

/-- A hod fault (R299): cause 24, mtval the hod ID. -/
def hodTrap (s : State) (m hod reason : Nat) : State :=
  trap s m 24 (BitVec.ofNat 64 hod) (some reason)

/-- Why a hod instruction faults (R299); `kinds` says whether the hod's kinds admit the mason. -/
def hodFault (s : State) (m hod : Nat) (kinds : Hod → Bool) : Option Nat :=
  let h := hodOf s hod
  if !h.valid || (masonOf s m).job != some h.job then some 7
  else if !kinds h then some 8
  else none

/-! ## Scratch (R286, R287) -/

/-- An uncorrectable scratch word: counted; the third of a physical core within an hour declares it
failed (R311). -/
def scratchUe (s : State) (m : Nat) : State :=
  let p := (masonOf s m).phys
  let s := leafAdd s (leafGroup (m / 16) 1) 1
  let times := (s.nowUs :: mapGet s.msn.ueTimes [] p).filter (fun t => decide (s.nowUs < t + 3600000000))
  modMsnBlk s fun x =>
    { x with ueTimes := mapPut x.ueTimes [] p times,
             failedPhys := if 3 ≤ times.length ∧ !x.failedPhys.contains p then x.failedPhys ++ [p]
               else x.failedPhys }

/-- Read of one 64-bit scratch word: corrected and written back, or none (R287). -/
def scratchWord (s : State) (m w : Nat) : Option Nat × State :=
  match secDecode 8 64 (mapGet (masonOf s m).scratch 0 w).toNat with
  | some (v, fixed) =>
    let s := if fixed then
        leafAdd (modMason s m fun x => { x with scratch := mapPut x.scratch 0 w (BitVec.ofNat 72 v) })
          (leafGroup (m / 16) 0) 1
      else s
    (some (v % 2 ^ 64), s)
  | none => (none, scratchUe s m)

/-- `n` bytes from a local byte address, little-endian; misaligned accesses cover two words. -/
def scratchRead (s : State) (m addr n : Nat) : Option Nat × State :=
  match scratchWord s m (addr / 8) with
  | (none, s) => (none, s)
  | (some lo, s) =>
    if addr % 8 + n ≤ 8 then (some (lo / 2 ^ (8 * (addr % 8)) % 2 ^ (8 * n)), s)
    else match scratchWord s m (addr / 8 + 1) with
      | (none, s) => (none, s)
      | (some hi, s) => (some ((lo + hi * 2 ^ 64) / 2 ^ (8 * (addr % 8)) % 2 ^ (8 * n)), s)

def putScratch (s : State) (m w v : Nat) : State :=
  modMason s m fun x =>
    { x with scratch := mapPut x.scratch 0 w (BitVec.ofNat 72 (secEncode 8 64 (v % 2 ^ 64))) }

/-- The bits of `v` in the low `n` bytes at bit position `sh` of `old`. -/
def patchBits (old v sh n : Nat) : Nat :=
  old % 2 ^ sh + v % 2 ^ n * 2 ^ sh + old / 2 ^ (sh + n) * 2 ^ (sh + n)

/-- Write of `n` bytes; a partly written word is read and checked first. -/
def scratchWrite (s : State) (m addr n v : Nat) : Bool × State :=
  if addr % 8 = 0 ∧ n = 8 then (true, putScratch s m (addr / 8) v)
  else if addr % 8 + n ≤ 8 then
    match scratchWord s m (addr / 8) with
    | (some lo, s) => (true, putScratch s m (addr / 8) (patchBits lo v (8 * (addr % 8)) (8 * n)))
    | (none, s) => (false, s)
  else
    match scratchWord s m (addr / 8) with
    | (none, s) => (false, s)
    | (some lo, s) =>
      match scratchWord s m (addr / 8 + 1) with
      | (none, s) => (false, s)
      | (some hi, s) =>
        let w := patchBits (lo + hi * 2 ^ 64) v (8 * (addr % 8)) (8 * n)
        (true, putScratch (putScratch s m (addr / 8) (w % 2 ^ 64)) m (addr / 8 + 1) (w / 2 ^ 64))

/-- Words that Belic firmware writes by scratch DMA: (word number, value) of a byte string. -/
def loadWords : Nat → Nat → List Byte → List (Nat × Nat)
  | 0, _, _ => []
  | n + 1, w, bs => (w, leNat (bs.take 8)) :: loadWords n (w + 1) (bs.drop 8)

/-! ## Instruction forms -/

/-- Bytes of a load or store by funct3. -/
def opSize (f3 : Nat) : Nat := 2 ^ (f3 % 4)

/-- A loaded value in its register: sign-extended for funct3 0–3, zero-extended for 4–6. -/
def extend (f3 v : Nat) : Word :=
  let bits := 8 * opSize f3
  if f3 < 4 ∧ v.testBit (bits - 1) then BitVec.ofNat 64 (v + (2 ^ 64 - 2 ^ bits))
  else BitVec.ofNat 64 v

/-- Sign extension of the low 32 bits. -/
def sext32 (v : Nat) : Word := (BitVec.ofNat 32 v).signExtend 64

/-- A valid funct3 of a load and of a store. -/
def loadOk (f3 : Nat) : Bool := decide (f3 < 7)
def storeOk (f3 : Nat) : Bool := decide (f3 < 4)

/-- Effective address of a load or store: rs1 plus the sign-extended immediate. -/
def effAddr (x : Mason) (rs1 : Nat) (imm : BitVec 12) : Nat :=
  (regOf x rs1 + imm.signExtend 64).toNat

/-- Result of an atomic memory operation by funct5 on `b` bits (RV64A); none for a code the set does
not define. -/
def amoOp (f5 b old v : Nat) : Option Nat :=
  let sgn (n : Nat) : Int := if n < 2 ^ (b - 1) then (n : Int) else (n : Int) - (2 ^ b : Nat)
  match f5 with
  | 1 => some v
  | 0 => some ((old + v) % 2 ^ b)
  | 4 => some (old ^^^ v)
  | 12 => some (old &&& v)
  | 8 => some (old ||| v)
  | 16 => some (if sgn v < sgn old then v else old)
  | 20 => some (if sgn old < sgn v then v else old)
  | 24 => some (min old v)
  | 28 => some (max old v)
  | _ => none

/-- The address that an operation accesses. -/
def opAddr (x : Mason) : MemOp → Nat
  | .fetch => x.pc.toNat
  | .load _ _ rs1 imm _ => effAddr x rs1 imm
  | .store _ _ rs1 imm _ => effAddr x rs1 imm
  | .lr _ _ rs1 => (regOf x rs1).toNat
  | .sc _ _ rs1 _ => (regOf x rs1).toNat
  | .amo _ _ _ rs1 _ => (regOf x rs1).toNat

/-- Access-fault cause of an operation: 1 fetch, 5 load, 7 store and atomic. -/
def faultCause : MemOp → Nat
  | .fetch => 1
  | .load .. => 5
  | .lr .. => 5
  | .store .. => 7
  | .sc .. => 7
  | .amo .. => 7

def isAtomic : MemOp → Bool
  | .lr .. => true
  | .sc .. => true
  | .amo .. => true
  | .fetch => false
  | .load .. => false
  | .store .. => false

/-- An access fault with its reason (Table 9-4). -/
def accessFault (s : State) (m : Nat) (op : MemOp) (reason : Nat) : State :=
  trap s m (faultCause op) (BitVec.ofNat 64 (opAddr (masonOf s m) op)) (some reason)

/-- An uncorrectable scratch word faults as an instruction access fault for a fetch and as a load
access fault otherwise (R287). -/
def scratchFault (s : State) (m : Nat) (op : MemOp) : State :=
  let cause := match op with
    | .fetch => 1 | .load .. => 5 | .lr .. => 5 | .store .. => 5 | .sc .. => 5 | .amo .. => 5
  trap s m cause (BitVec.ofNat 64 (opAddr (masonOf s m) op)) (some 4)

/-- Length of an encoding. -/
def opLen (c : Bool) : Nat := if c then 2 else 4

/-! ## Flows and the release buffer (R273–R278) -/

def slotFlow (p : Slot) : Nat := field p.w0.toNat 23 8
def slotSeq (p : Slot) : Nat := field p.w0.toNat 35 24
def flowKey (j f : Nat) : Nat := j * 65536 + f
def flowOf (s : State) (j f : Nat) : Flow := mapGet s.pal.flows {} (flowKey j f)
def modFlow (s : State) (j f : Nat) (g : Flow → Flow) : State :=
  modPalBlk s fun p => { p with flows := mapMod p.flows {} (flowKey j f) g }

/-- Every flow of a job starts at 0 again, as after a load (R273). -/
def restartFlows (s : State) (j : Nat) : State :=
  modPalBlk s fun p =>
    { p with flows := p.flows.foldl (fun m e =>
        if e.1 / 65536 = j then mapPut m {} e.1 { e.2 with next := 0 } else m) p.flows }

/-- The next-release seq of a flow is released. -/
def releaseSeq (s : State) (j f : Nat) : State :=
  modFlow (leafAdd s (leafPal j 1) 1) j f fun x =>
    { next := (x.next + 1) % 4096, inflight := x.inflight.filter (· != x.next) }

/-- Entries that the buffer takes at once, and those that wait for one of its 4,096 (R276). -/
def rbFill (p : Pal) : Pal :=
  let n := 4096 - p.rb.length
  { p with rb := p.rb ++ p.rbWait.take n, rbWait := p.rbWait.drop n }

/-- One more entry for the release buffer. -/
def rbAdd (s : State) (e : RbEntry) : State :=
  modPalBlk s fun p => rbFill { p with rbWait := p.rbWait ++ [e] }

def rbFull (s : State) : Bool := decide (4096 ≤ s.pal.rb.length)

/-- Entries that satisfy `out` leave the buffer. -/
def rbDrop (s : State) (out : RbEntry → Bool) : State :=
  modPalBlk s fun p => rbFill { p with rb := p.rb.filter (fun e => !out e) }

/-- A released item is pushed to its hod, if that is still the job's (R278). -/
def releaseItem (s : State) (e : RbEntry) : State :=
  match e.kind with
  | .done => s
  | .item h prio m ws _ =>
    if (hodOf s h).valid && (hodOf s h).job == e.job then hodPushItem s h (.mason m) prio ws 0 else s

/-- A whole buffered item of one seq. -/
def isItemOf (j f q : Nat) (e : RbEntry) : Bool :=
  e.job == j && e.flow == f && e.seq == q
    && (match e.kind with | .item _ _ _ _ done => done | .done => false)

/-- A seq is done: released when it is the flow's next, after the items of it that are still buffered (R278,
R304); buffered as a completion otherwise. Flow 0 is unordered. -/
def completeSeq (s : State) (j f q : Nat) : State :=
  if f = 0 then s
  else if (flowOf s j f).next = q then
    let es := s.pal.rb.filter (isItemOf j f q)
    releaseSeq (each es releaseItem (rbDrop s (isItemOf j f q))) j f
  else rbAdd s { job := j, flow := f, seq := q, kind := .done }

def completeSlot (s : State) (j : Nat) (p : Slot) : State := completeSeq s j (slotFlow p) (slotSeq p)

/-- The mason's own open entry in the release buffer. -/
def isOpenOf (m : Nat) (e : RbEntry) : Bool :=
  match e.kind with
  | .item _ _ k _ done => k == m && !done
  | .done => false

/-- Current and slotted pallets of a mason count as completed by pal.done, and an item it had not
ended leaves the buffer (R304). -/
def completePallets (s : State) (m : Nat) : State :=
  let x := masonOf s m
  let ps := x.cur.toList ++ x.slots
  let s := rbDrop s (isOpenOf m)
  let s := match x.job with
    | some j => each ps (fun s p => completeSlot s j p) s
    | none => s
  modMason s m fun y => { y with cur := none, slots := [], pusho := none }

/-- The first entry of a flow's next-release seq leaves the buffer; its place, if it may leave. -/
def drainable (s : State) : Option Nat :=
  (List.range s.pal.rb.length).find? fun i =>
    match s.pal.rb[i]? with
    | some e =>
      (flowOf s e.job e.flow).next == e.seq
        && (match e.kind with | .item _ _ _ _ done => done | .done => true)
        && !((s.pal.rb.take i).any fun d => d.job == e.job && d.flow == e.flow && d.seq == e.seq)
    | none => false

/-- One buffered entry is released (R278). -/
def drainOne (s : State) : State :=
  match drainable s with
  | none => s
  | some i =>
    match s.pal.rb[i]? with
    | none => s
    | some e =>
      let s := modPalBlk s fun p => rbFill { p with rb := p.rb.eraseIdx i }
      match e.kind with
      | .done => releaseSeq s e.job e.flow
      | .item .. => releaseItem s e

/-! ## Reset, pause -/

/-- A mason goes to STATE 1 (R304); its scratch stays. -/
def resetMason (s : State) (m : Nat) : State :=
  modMason (completePallets s m) m fun x =>
    { x with st := .reset, trapped := false, wait := none, wmSignal := false, pausePending := false,
             resv := none, reason := 0 }

/-- A mason leaves its job (R283, R312). -/
def unassignMason (s : State) (m : Nat) : State :=
  modMason (completePallets s m) m fun x => { x with job := none }

def masonsOfJob (s : State) (j : Nat) : List Nat :=
  s.msn.masons.filterMap fun e => if e.2.job == some j then some e.1 else none

/-- Every mason of the job holds a program that declares replay_safe (R308). -/
def replaySafe (s : State) (j : Nat) : Bool :=
  (masonsOfJob s j).all fun m => (masonOf s m).safe

/-- A mason that counts as paused (R309). -/
def pausedNow (x : Mason) : Bool := x.st == .paused || x.st == .reset || x.st == .halted

/-- A pause is requested of a mason; one in STATE 1, 4 or 5 counts as paused. -/
def askPause (s : State) (m : Nat) : State :=
  modMason s m fun x => { x with pausePending := true }

/-- A mason stops at pal.get, hod.wait or WFI (R309). -/
def pauseMason (s : State) (m : Nat) : State :=
  modMason s m fun x => { x with st := .paused, resumeTo := x.st }

/-- The pause ends: a paused mason goes on in its former state. -/
def resumeMason (s : State) (m : Nat) : State :=
  modMason s m fun x =>
    { x with pausePending := false, st := if x.st = .paused then x.resumeTo else x.st }

/-! ## Waiting (R295) -/

/-- EMPTY as a mason sees it (R255): no complete item that nobody holds, and none it has partly
read. -/
def emptyFor (h : Hod) (m : Nat) : Bool :=
  h.items.isEmpty && !(h.part.any fun e => e.1 == .mason m)

/-- Watch field i of a hod.wait word: the hod watched, if enabled. -/
def watchOf (w : Word) (i : Nat) : Option Nat :=
  let f := w.toNat / 2 ^ (16 * i) % 65536
  if 32768 ≤ f then some (f % 32768) else none

/-- The conditions that hold for a hod.wait (R295). -/
def wakeBits (s : State) (m : Nat) (w : Word) : Nat :=
  let x := masonOf s m
  (List.range 4).foldl (fun n i =>
    match watchOf w i with
    | some h => if emptyFor (hodOf s h) m then n else n + 2 ^ i
    | none => n) 0
  + b2n (!x.slots.isEmpty) * 16 + b2n x.wmSignal * 32 + b2n x.pausePending * 64

/-- hod.wait and WFI: pause, return at once, or halt. -/
def waitOn (s : State) (m rd : Nat) (w : Word) : State :=
  let x := masonOf s m
  if x.pausePending && x.cur.isNone then pauseMason s m
  else
    let n := wakeBits s m w
    if n ≠ 0 then retire s m rd (BitVec.ofNat 64 n) 4
    else modMason s m fun y => { y with st := .waiting, wait := some (rd, w), wmSignal := false }

/-- A waiting mason for which a condition holds goes on with its wake reasons. -/
def wakeMason (s : State) (m : Nat) : State :=
  let x := masonOf s m
  match x.wait with
  | some (rd, w) =>
    let n := wakeBits s m w
    if x.st != .waiting || n = 0 || (x.pausePending && x.cur.isNone) then s
    else retire (modMason s m fun y => { y with st := .running, wait := none, wmSignal := false })
      m rd (BitVec.ofNat 64 n) 4
  | none => s

/-! ## Time -/

/-- Busy and idle SCHED cycles of every assigned mason (R280). -/
def masonTick (n : Nat) (s : State) : State :=
  each (s.msn.masons.filter fun e => e.2.job.isSome) (fun s e =>
    if e.2.cur.isSome then
      leafAdd (modPalBlk s fun p => { p with busy := mapMod p.busy 0 e.1 (· + n) })
        (leafMason e.1 0) n
    else
      leafAdd (modPalBlk s fun p => { p with idle := mapMod p.idle 0 e.1 (· + n) })
        (leafMason e.1 1) n) s

end Sys2Proof.Machine
end

