-- ==== Sys2Proof/Machine/CkptOps.lean ====
section
/-! DEFINITION. The end of a checkpoint capture, whichever way it goes: held-back items, masons,
W_CKPT (R366, R368, R310). -/

namespace Sys2Proof.Machine

/-- W_ bits of FAB_SEQ_STATUS by cause 1–8 of Table 3-6. A cause that sets while the job is held takes its
place in the count of R89; one that clears leaves the stretch up to the next sample counted against it. -/
def setWait (c : Nat) (v : Bool) (j : Job) : Job :=
  let bit := BitVec.ofNat 8 (2 ^ (c - 1))
  if v then { j with waits := j.waits ||| bit, charge := if j.charge = 0 then c else min j.charge c }
  else { j with waits := j.waits &&& ~~~bit }

/-- One input that has waited takes effect. Its record is already in the journal when it waited for a
capture (R366); one that waited for a rollback gets its record now (Table 11-10 step 6). -/
def applyQueued (recorded : Bool) (j : Nat) (s : State) (q : QInput) : State :=
  match q with
  | .item h a prio ws poison =>
    if !((hodOf s h).valid && (hodOf s h).job == j) then s
    else
      let s := if recorded then s
        else addRecord s j (jobOf s j).cycle (.hodArrival h a prio ws poison (hodOf s h).arrivals)
      storeRecorded s h a prio ws poison
  | .write addr data =>
    let s := plainWrite s addr data
    if recorded then s else addRecord s j (jobOf s j).cycle (.hostWrite addr data)

/-- Every waiting input of a job takes effect, in arrival order. -/
def releaseQueued (s : State) (j : Nat) (recorded : Bool) : State :=
  let qs := (jobOf s j).queued
  each qs (applyQueued recorded j) (modJob s j fun x => { x with queued := [] })

/-- The capture is over: W_CKPT clears, held-back items are stored, the masons resume. -/
def endCapture (s : State) (j : Nat) : State :=
  let s := modJob s j fun x => setWait 3 false { x with capturing := none, cutState := none }
  let s := releaseQueued s j true
  each (masonsOfJob s j) resumeMason s

/-- A capture that fails (R368): the earlier checkpoint stays valid, an early checkpoint is tried
again 4,096 user cycles later; an export that waited for it fails. `why`: 1 mason pause timeout, 2 uncorrectable
line, 0 the job's own reset, rollback or end (DESIGN CHOICE, log 136). -/
def failCapture (s : State) (j why : Nat) : State :=
  if (jobOf s j).capturing.isNone then s
  else
    let req := (jobOf s j).exportReq
    let s := emitJob (endCapture s j) 0x0A08 j [(1, why)]
    let s := modJob s j fun x =>
      { x with exportReq := none,
               earlyAt := x.earlyAt.map fun t => if t ≤ x.cycle then t + 4096 else t }
    match req with
    | some h => complete (dropAccOf s 0x070B h) h 0x070B 0x0E02 .hwFault []
    | none => s

end Sys2Proof.Machine
end

