-- ==== Sys2Proof/Machine/SpareOps.lean ====
section
/-! DEFINITION. Course planes, signature stores and tiles as Belic firmware writes them: golden rows,
the repeat rule and spare rows (R151–R155), retirement and relocation (R489–R492), stops (R134). -/

namespace Sys2Proof.Machine

/-! ## The golden copy -/

/-- Rows of one virtual tile in an image, keyed as `Tile.planes`. -/
def planesOf (img : Image) (vt : Nat) : SMap Row :=
  img.rows.filterMap fun e => if e.1 / 262144 = vt then some (e.1 % 262144, e.2) else none

/-- Signature of a zero row, and of any row (R110). -/
def zeroSig : BitVec 32 := rowSig 0
def rowSigOf (r : Row) : BitVec 32 := if r = 0 then zeroSig else rowSig r

/-- A store entry: the signature with its check bits (Table 5-1). -/
def sigEntry (sig : BitVec 32) : BitVec 39 := BitVec.ofNat 39 (secEncode 7 32 sig.toNat)

/-- Signature stores of a tile that holds planes of `n` courses (R138, R140). -/
def storeOf (planes : SMap Row) (n : Nat) : SMap (BitVec 39) :=
  (List.range 512).flatMap fun b =>
    (List.range n).flatMap fun c =>
      (List.range 10).filterMap fun r =>
        let v := sigEntry (rowSigOf (mapGet planes 0 (planeKey c b r)))
        if v = 0 then none else some (storeKey b (c * 10 + r), v)

/-- Rows and entries of a virtual tile written from the golden copy. -/
def writePlanes (img : Image) (vt n : Nat) (t : Tile) : Tile :=
  let p := planesOf img vt
  { t with planes := p, planesLost := false, store := storeOf p n, storeWb := [] }

/-- Links of a virtual tile (R47). -/
def linksOf (img : Image) (vt : Nat) : List Link :=
  img.links.filterMap fun l => if l.1 = vt then some l.2 else none

/-- TRW_CTL of a tile of a job (Table 5-3): RUN, JOB, COURSES, STATIC, SWEEP_EN. -/
def trwWord (j : Nat) (d : Desc) : BitVec 32 :=
  BitVec.ofNat 32 (1 + j % 8 * 2 + d.courseCount % 64 * 16 + b2n d.static * 1024 + 2048)

/-- Belic firmware writes all three copies and its record. -/
def setTrw (w : BitVec 32) (t : Tile) : Tile :=
  { t with trw0 := w, trw1 := w, trw2 := w, trwRecord := w }

/-- What no load, clearing or relocation takes from a physical tile: its retirement, the history of its
trowel and frame faults, and the flags that only software clears (Tables 2-12 and 5-4). Belic firmware
has reloaded its trowel, so STOPPED is clear. -/
def bareTile (x : Tile) : Tile :=
  { retired := x.retired, lastStop := x.lastStop, frameLog := x.frameLog, fault := x.fault,
    trwStatus := x.trwStatus &&& ~~~0x10 }

/-! ## The golden copy in LP5X (R133, R134) -/

/-- Far line that holds line i of a golden copy. -/
def spanLine : List (Nat × Nat) → Nat → Option Nat
  | [], _ => none
  | (a, n) :: r, i => if i < n then some (a + i) else spanLine r (i - n)

/-- Belic firmware reads lines `ls` of the golden-copy region under the system key: true when one fails
its integrity check or cannot be corrected. -/
def readGoldenLines (s : State) (ls : List Nat) : Bool × State :=
  ls.foldl (fun acc l =>
    match readFar acc.2 l acc.2.pwr.sysKey with
    | (.good _, s) => (acc.1, s)
    | (_, s) => (true, s)) (false, s)

/-- Read of `len` bytes from byte `off` of an image. Only lines that the environment has changed, or
whose channel has failed, can fail. -/
def readGolden (s : State) (img : Image) (off len : Nat) : Bool × State :=
  if len = 0 then (false, s)
  else
    let first := off / 128
    let last := (off + len - 1) / 128
    let suspect (l : Nat) : Bool :=
      (mapGet s.mem.far none l).isSome || (chanOf s (lineChannel l)).st == 5
    if !(s.mem.far.any fun e => inSpans img.spans e.1) && !((List.range 32).any fun c => (chanOf s c).st == 5)
    then (false, s)
    else readGoldenLines s
      (((List.range (last + 1 - first)).filterMap fun i => spanLine img.spans (first + i)).filter suspect)

/-- The lines of a golden copy are free again (R131, R133). -/
def freeGolden (s : State) (img : Image) : State :=
  modMemBlk s fun m => { m with far := mapDrop m.far (inSpans img.spans) }

/-- Byte offset of the block of a virtual tile. -/
def blockOffset (bytes : List Byte) : Nat → Nat
  | 0 => 0x200
  | v + 1 => blockOffset bytes v + leAt (bytes.drop (blockOffset bytes v)) 8 8

/-- Offset of a frame, given by its place among the frames of its tile, in the runs that start at byte
`at_`. -/
def runOffset (bytes : List Byte) (k : Nat) : Nat → Nat → Option Nat
  | 0, _ => none
  | n + 1, at_ =>
    let a := leAt (bytes.drop at_) 0 4
    let count := leAt (bytes.drop at_) 4 4
    let i := field a 17 13 * 5120 + field a 12 4 * 10 + field a 3 0
    if i ≤ k ∧ k < i + count then some (at_ + 8 + 64 * (k - i))
    else runOffset bytes k n (at_ + 8 + 64 * count)

/-- The golden frame of a row is read: true when it cannot be. -/
def readFrame (s : State) (j vt b c r : Nat) : Bool × State :=
  match (jobOf s j).image with
  | none => (false, s)
  | some img =>
    let o := blockOffset img.bytes vt
    let bs := img.bytes.drop o
    match runOffset img.bytes (c * 5120 + b * 10 + r) (leAt bs 6 2) (o + 64 + 8 * leAt bs 4 2) with
    | some at_ => readGolden s img at_ 64
    | none => (false, s)

/-- The block of a virtual tile is read whole. -/
def readBlock (s : State) (img : Image) (vt : Nat) : Bool × State :=
  let o := blockOffset img.bytes vt
  readGolden s img o (leAt (img.bytes.drop o) 8 8)

/-- Every block of a job's image, or its slab section, is read. -/
def readPlanes (s : State) (img : Image) : Bool × State :=
  readGolden s img 0x200 (leAt img.bytes 0x18 8 - 0x200)
def readSlabs (s : State) (img : Image) : Bool × State :=
  readGolden s img (leAt img.bytes 0x18 8) (leAt img.bytes 0x20 8 - leAt img.bytes 0x18 8)

/-! ## Stops -/

/-- Relocations of a stopped job are dropped: a target not yet written leaves its reservation. -/
def dropMoves (s : State) (j : Nat) : State :=
  let rs := s.spr.reloc.filter fun r => r.job == j
  let s := rs.foldl (fun s r =>
    if r.copied then s else modTile s r.dst fun x => { x with reserved := false }) s
  let s := modSprBlk s fun m => { m with reloc := m.reloc.filter fun r => r.job != j }
  { s with tileMap := s.tileMap.map fun e =>
      if e.2.valid && e.2.job == j then (e.1, { e.2 with moving := false }) else e }

/-- The job goes to STATE 6: its planned holds, a capture and a replay end; what the replay kept back
takes effect. -/
def stopJob (s : State) (j : Nat) : State :=
  let s := dropMoves (failCapture s j 0) j
  let s := if (jobOf s j).replay.isSome then
      releaseQueued (modJob s j fun x => { x with replay := none }) j false else s
  modJob s j fun x =>
    { x with state := .stopped, faults := [], go := false, rewriting := false,
             wantRollback := false, badRows := [], waits := 0, charge := 0, ahead := 0 }

/-- EV_GOLDEN_LOST (R134). -/
def goldenLost (s : State) (j : Nat) : State := emitJob (stopJob s j) 0x0406 j []

/-! ## Retirement (R489–R492) -/

def freeTiles (s : State) : Nat := ((List.range 400).filter (tileFree s)).length

/-- EV_TILE_RETIRED (Table 16-7). -/
def tileRetired (s : State) (t reason job vt dst : Nat) : State :=
  let fs := [(2, t), (1, reason), (1, job), (2, vt), (2, dst), (2, freeTiles s)]
  if job < 8 then emitJob s 0x0C01 job fs else emitDev s 0x0C01 fs

def setMoving (v : Bool) (j vt : Nat) (s : State) : State :=
  { s with tileMap := s.tileMap.map fun e =>
      if e.2.valid && e.2.job == j && e.2.vt == vt then (e.1, { e.2 with moving := v }) else e }

/-- An in-service sweep of a tile ends before anything is written to it (R116). -/
def endSweepOf (s : State) (t : Nat) : State :=
  if s.spr.sweeping = some (.tile t) then
    modTile (modSprBlk s fun p => { p with sweeping := none }) t fun x => { x with underTest := false }
  else s

/-- Step 1 of Table 16-5: a target is reserved; none leaves the tile where it is. -/
def planMove (s : State) (j vt src : Nat) (retire : Bool) (reason : Nat) : Option State :=
  match pickTile s with
  | none => none
  | some d =>
    let s := setMoving true j vt (modTile (endSweepOf s d) d fun x => { x with reserved := true })
    some (faultHold .relocation
      (modSprBlk s fun p => { p with reloc := p.reloc ++
        [{ job := j, vt := vt, src := src, dst := d, frm := src, retire := retire, reason := reason }] }) j)

/-- A physical tile retires: recorded as a kind 1 entry; a bound one is relocated, and without a free
tile its job stops with EV_TILE_LOST (R492). -/
def retireTile (s : State) (t reason : Nat) : State :=
  if (tileOf s t).retired then s
  else
    let s := modTile (addRepair s 1 t 0) t fun x => { x with retired := true }
    match ownerOf s t with
    | none => tileRetired s t reason 0xFF 0xFFFF 0xFFFF
    | some (j, vt) =>
      match planMove s j vt t true reason with
      | some s => s
      | none =>
        emitJob (stopJob s j) 0x0C02 j [(1, j), (2, vt), (2, t), (2, allocable s)]

/-! ## Spare rows (R153–R155) -/

/-- Location of a bank row (Table 16-3): 0–319 are the rows of the courses, 320–326 the spare rows. -/
def bankRowLoc (t b row : Nat) : Nat := t + b * 2 ^ 9 + row * 2 ^ 18

/-- Spare rows of a bank that live entries use. -/
def bankSpares (s : State) (t b : Nat) : List Nat :=
  (liveRepairs s).filterMap fun e =>
    if e.kind = 4 ∧ e.loc % 2 ^ 18 = t + b * 2 ^ 9 then some e.spare else none

/-- Lowest spare row of a bank that no entry uses. -/
def freeSpare (s : State) (t b : Nat) : Option Nat :=
  (List.range 7).find? fun i => !(bankSpares s t b).contains i

/-- Live entry of a bank row. -/
def rowEntry (s : State) (t b row : Nat) : Option Repair :=
  (liveRepairs s).find? fun e => e.kind == 4 && e.loc == bankRowLoc t b row

/-- Bank row in which a row's contents stand: the row itself, its spare, or the spare of that. -/
def rowHome (s : State) (t b : Nat) : Nat → Nat → Nat
  | 0, row => row
  | n + 1, row => match rowEntry s t b row with
    | some e => rowHome s t b n (320 + e.spare)
    | none => row

/-- The row of a course whose contents stand in a bank row. -/
def rowUser (s : State) (t b row : Nat) : Option Nat :=
  if row < 320 then some row
  else (List.range 320).find? fun r => (rowEntry s t b r).isSome && rowHome s t b 8 r == row

/-- Row r of course c is mapped from bank row `row`, where it stands, to a spare row: recorded, reported,
counted. A spare row that has failed stays out of use. -/
def spareRow (s : State) (t b c r row sp : Nat) : State :=
  let s := addRepair s 4 (bankRowLoc t b row) sp
  let left := 7 - (bankSpares s t b).length
  leafAdd (emitDev s 0x0408 [(2, t), (2, b), (1, c), (1, r), (1, left)]) (leafTile t 5) 1

/-- The mismatch list without entries older than 1 s. -/
def freshList (s : State) : List (Nat × Nat × Nat × Nat × Nat) :=
  s.spr.mismatches.filter fun e => decide (s.nowUs < e.2.2.2.2 + 1000000)

/-- The repeat rule for one mismatched row: true when the bank has no spare row left (R155). -/
def repeatRule (s : State) (t b c r : Nat) : Bool × State :=
  let l := freshList s
  let same (e : Nat × Nat × Nat × Nat × Nat) : Bool :=
    e.1 == t && e.2.1 == b && e.2.2.1 == c && e.2.2.2.1 == r
  let again := l.any same
  let l := l.filter (fun e => !same e) ++ [(t, b, c, r, s.nowUs)]
  let s := modSprBlk s fun m => { m with mismatches := l.drop (l.length - 64) }
  if again then
    match freeSpare s t b with
    | some sp => (false, spareRow s t b c r (rowHome s t b 8 (c * 10 + r)) sp)
    | none => (true, s)
  else (false, s)

/-- Signature that a store entry gives after correction. -/
def storeSig (x : Tile) (b e : Nat) : Option Nat :=
  let w := (mapGet x.store 0 (storeKey b e)).toNat
  (secRead 7 32 (w % 2 ^ 32) (w / 2 ^ 32)).map (·.1)

/-- A bank row is rewritten from the golden copy, after its comparison with the store entry, which
Belic firmware recomputes first where the entry itself failed (Table 5-2 step 3, R157): false when the
golden frame does not match (R152). -/
def rewriteRow (s : State) (j t b c r : Nat) (viaStore : Bool) : Bool × State :=
  match (jobOf s j).image, ownerOf s t with
  | some img, some (_, vt) =>
    let row := mapGet img.rows 0 (vt * 262144 + planeKey c b r)
    let x := tileOf s t
    let x := if viaStore then
        { x with store := mapPut x.store 0 (storeKey b (c * 10 + r)) (sigEntry (rowSigOf row)) }
      else x
    if storeSig x b (c * 10 + r) = some (rowSigOf row).toNat then
      (true, setTile s t { x with planes := mapPut x.planes 0 (planeKey c b r) row })
    else (false, s)
  | _, _ => (true, s)

/-! ## Relocation (Table 16-5) -/

/-- Steps 3 to 5: the target takes planes, stores, TRW_CTL, state, slabs, presented values and links;
the source is left cleared. `readFail` leaves the target's state cleared (R491). -/
def moveTile (s : State) (r : Reloc) (readFail : Bool) : State :=
  let x := jobOf s r.job
  let src := tileOf s r.frm
  let img := x.image.getD {}
  let body : Tile := if readFail then {} else src
  let dst := writePlanes img r.vt x.desc.courseCount
    { bareTile (tileOf s r.dst) with
      ff := body.ff, slabs := body.slabs, slabCfg := body.slabCfg, slabOut := body.slabOut,
      memOut := body.memOut, hodOut := body.hodOut, aside := body.aside, jointIn := body.jointIn,
      active := body.active, gwNow := body.gwNow, links := linksOf img r.vt }
  let s := setTile s r.dst (setTrw (trwWord r.job x.desc) dst)
  let s := setTile s r.frm (bareTile src)
  { s with tileMap := s.tileMap.map fun e =>
      if e.2.valid && e.2.job == r.job && e.2.vt == r.vt
      then (e.1, { e.2 with phys := r.dst, moving := false }) else e }

/-- A target that fails its verdict is cleared and the next free tile is tried (R491, R117); without one
the ordinary handling of Table 5-2 goes on. -/
def retryMove (s : State) (r : Reloc) : State :=
  match pickTile s with
  | none => s
  | some d =>
    let s := setMoving true r.job r.vt (modTile (endSweepOf s d) d fun x => { x with reserved := true })
    modSprBlk s fun p => { p with reloc := p.reloc.map fun q =>
      if q = r then { q with frm := r.dst, dst := d, copied := false } else q }

/-- Relocations of a job, and whether any is not yet copied. -/
def relocsOf (s : State) (j : Nat) : List Reloc := s.spr.reloc.filter (fun r => r.job == j)
def relocsWait (s : State) (j : Nat) : Bool := (relocsOf s j).any (fun r => !r.copied)

/-- Step 7: a good verdict ends the job's relocations. -/
def endRelocs (s : State) (j : Nat) : State :=
  let rs := (relocsOf s j).filter (·.copied)
  let s := modSprBlk s fun m => { m with reloc := m.reloc.filter (fun r => !(r.job == j && r.copied)) }
  each (rs.filter (·.retire)) (fun s r => tileRetired s r.src r.reason j r.vt r.dst) s

/-! ## Tests (R496) -/

/-- Assigned masons of a group. -/
def groupMasons (s : State) (g : Nat) : List Nat :=
  ((List.range 16).map (16 * g + ·)).filter fun m => (masonOf s m).job.isSome

/-- A group test is over: its masons go on, unless a capture of their job holds them. -/
def resumeGroup (s : State) (g : Nat) : State :=
  each (groupMasons s g) (fun s m =>
    match (masonOf s m).job with
    | some j => if (jobOf s j).capturing.isSome then s else resumeMason s m
    | none => s) s

/-- A region's test is aborted: a tile under test waits for clearing. -/
def abortRegion (s : State) : Region → State
  | .tile t => modTile s t fun x => { x with underTest := false, mustClear := x.mustClear || x.underTest }
  | .group g => resumeGroup s g
  | .router _ => s

/-- A die reset or a DEEP HOLD entry aborts every test. -/
def abortTests (s : State) : State :=
  let s := match s.spr.sweeping with
    | some r => abortRegion (modSprBlk s fun p => { p with sweeping := none }) r
    | none => s
  match s.spr.bist with
  | some (h, r) =>
    complete (dropAccOf (abortRegion (modSprBlk s fun p => { p with bist := none }) r) 0x0802 h) h 0x0802
      0x0E02 .hwFault []
  | none => s

end Sys2Proof.Machine
end

