-- ==== Sys2Proof/Machine/TrwOps.lean ====
section
/-! DEFINITION. The trowel as operations: votes, stops and reloads (R159–R162), row checks and what
they find (R141–R145, R156, R157). -/

namespace Sys2Proof.Machine

/-! ## Controller registers -/

/-- Bit-by-bit vote of the three copies. -/
def trwVote (t : Tile) : BitVec 32 :=
  (t.trw0 &&& t.trw1) ||| (t.trw0 &&& t.trw2) ||| (t.trw1 &&& t.trw2)

/-- Copies that differ from the vote. -/
def trwWrong (t : Tile) : Nat :=
  b2n (t.trw0 != trwVote t) + b2n (t.trw1 != trwVote t) + b2n (t.trw2 != trwVote t)

def trwStopped (t : Tile) : Bool := t.trwStatus.getLsbD 4

/-- The controller is running: RUN in the vote, not stopped. -/
def trwRuns (t : Tile) : Bool := (trwVote t).getLsbD 0 && !trwStopped t && decide (trwWrong t < 2)

def setTrwBits (m : BitVec 32) (t : Tile) : Tile := { t with trwStatus := t.trwStatus ||| m }

/-- All three copies from the record; STOPPED clears (R161). -/
def reloadTrowel (t : Tile) : Tile :=
  { setTrw t.trwRecord t with trwStatus := t.trwStatus &&& ~~~0x10 }

/-- A stop of the same trowel within 1 s. -/
def stopRepeats (s : State) (t : Tile) : Bool :=
  match t.lastStop with
  | some u => decide (s.nowUs < u + 1000000)
  | none => false

def noteStop (s : State) (t : Nat) (m : BitVec 32) : State :=
  modTile s t fun x =>
    { x with trwStatus := x.trwStatus ||| m, lastStop := some s.nowUs, stopAgain := stopRepeats s x }

/-- The trowel stops (R160, R162). -/
def trowelStop (s : State) (t : Nat) : State :=
  if trwStopped (tileOf s t) then s
  else
    let s := modTile (noteStop s t 0x10) t fun x => { x with swapOn := false, swapClear := [] }
    let s := leafAdd s (leafTile t 4) 1
    let again := (tileOf s t).stopAgain
    match ownerOf s t with
    | some (j, _) => faultHold .trowelStop (emitJob s 0x0403 j [(2, t), (1, j), (1, b2n again)]) j
    | none =>
      let s := modTile (emitDev s 0x0403 [(2, t), (1, 0xFF), (1, b2n again)]) t reloadTrowel
      if again then retireTile s t 0 else s

/-- The vote of one fabric cycle: one differing copy is rewritten, two stop the trowel. -/
def checkVote (s : State) (t : Nat) : State :=
  let x := tileOf s t
  if trwWrong x = 1 then
    leafAdd (setTile s t (setTrwBits 8 { x with trw0 := trwVote x, trw1 := trwVote x, trw2 := trwVote x }))
      (leafTile t 3) 1
  else if 2 ≤ trwWrong x then trowelStop s t
  else s

/-- Belic firmware's comparison with its record (R159): a difference counts as a stop (R161), on a tile
bound to no job too, where nothing is held. -/
def auditTile (s : State) (t : Nat) : State :=
  let x := tileOf s t
  if trwVote x = x.trwRecord then s
  else match ownerOf s t with
    | none =>
      let s := modTile (noteStop s t 0) t fun x => setTrw x.trwRecord x
      if (tileOf s t).stopAgain then retireTile s t 0 else s
    | some (j, _) =>
      let s := modTile (noteStop s t 0) t fun x =>
        { setTrw x.trwRecord x with swapOn := false, swapClear := [] }
      modJob (faultHold .audit s j) j fun y => { y with wantRollback := true }

/-! ## Row checks -/

/-- What a comparison finds, when it is not plainly equal. -/
structure RowFind where
  course : Nat
  brick  : Nat
  row    : Nat
  bad    : Bool
  ue     : Bool
  fix    : Option (BitVec 39)
  deriving DecidableEq, Repr

def findRow (x : Tile) (c b r : Nat) : Option RowFind :=
  let w := (mapGet x.store 0 (storeKey b (c * 10 + r))).toNat
  match secRead 7 32 (w % 2 ^ 32) (w / 2 ^ 32) with
  | none => some { course := c, brick := b, row := r, bad := false, ue := true, fix := none }
  | some (d, k, fixed) =>
    let bad := (rowSigOf (mapGet x.planes 0 (planeKey c b r))).toNat != d
    if bad || fixed then
      some { course := c, brick := b, row := r, bad := bad, ue := false,
             fix := if fixed then some (BitVec.ofNat 39 (d + k * 2 ^ 32)) else none }
    else none

/-- The findings of one course's rows, in the order they pass: row, then brick. -/
def findRows (x : Tile) (c : Nat) : List RowFind :=
  (List.range 10).flatMap fun r => (List.range 512).filterMap fun b => findRow x c b r

/-- TRW_STATUS after findings: MISMATCH, STORE_CE, STORE_UE, and the FIRST fields while MISMATCH was
clear (R163). -/
def statusAfter (old : BitVec 32) (fs : List RowFind) (sweep : Bool) : BitVec 32 :=
  let bits := b2n (fs.any (·.bad)) + 2 * b2n (fs.any (·.fix.isSome)) + 4 * b2n (fs.any (·.ue))
  let w := old ||| BitVec.ofNat 32 bits
  match fs.find? (·.bad) with
  | some f =>
    if old.getLsbD 0 then w
    else (w &&& 0x1F) ||| BitVec.ofNat 32
      (f.brick * 2 ^ 5 + f.course * 2 ^ 14 + f.row * 2 ^ 19 + b2n sweep * 2 ^ 23)
  | none => w

/-- EV_SIG_MISMATCH for a tile, once per user cycle (R145, Table 5-5). -/
def mismatchEvent (s : State) (j vt t : Nat) (fs : List RowFind) (sweep : Bool) (rollback : Nat) :
    State :=
  let c := (jobOf s j).cycle
  match fs.find? (·.bad) with
  | none => s
  | some f =>
    if (tileOf s t).sigEvCyc = some c then s
    else emitJob (modTile s t fun x => { x with sigEvCyc := some c }) 0x0401 j
      [(1, j), (2, vt), (2, t), (2, f.brick), (1, f.course), (1, f.row), (8, c.toNat),
       (1, b2n sweep), (1, rollback)]

/-- Flags, counts and events of a tile's findings. EV_SIG_STORE_ERROR names no job (Table 5-5), so it goes
to PF0 only (R463). -/
def noteFinds (s : State) (j vt t : Nat) (fs : List RowFind) (sweep : Bool) (rollback : Nat) :
    State :=
  let s := modTile s t fun x =>
    { x with trwStatus := statusAfter x.trwStatus fs sweep,
             storeWb := x.storeWb ++ fs.filterMap fun f =>
               f.fix.map fun w => (storeKey f.brick (f.course * 10 + f.row), w) }
  let s := leafAdd s (leafTile t 0) (fs.filter (·.bad)).length
  let s := leafAdd s (leafTile t 1) (fs.filter (·.fix.isSome)).length
  let s := leafAdd s (leafTile t 2) (fs.filter (·.ue)).length
  let s := each (fs.filter (·.ue)) (fun s f =>
    emitDev s 0x0407 [(2, t), (2, f.brick), (2, f.course * 10 + f.row), (1, b2n sweep)]) s
  mismatchEvent s j vt t fs sweep rollback

/-- One tile's preload of a course: its rows move into the shadow register and the swap enables follow
the verdict. -/
def preloadTile (x : Tile) (c : Nat) (fs : List RowFind) : Tile :=
  let sh := x.planes.filterMap fun e => if e.1 / 8192 = c then some (e.1 % 8192, e.2) else none
  let bad := ((fs.filter fun f => f.bad || f.ue).map (·.brick)).eraseDups
  { x with shadow := sh, gwNext := (rowWords 0 sh).filterMap fun e => if gwClaim e.2 then some e.1 else none,
           holding := false, swapOn := trwRuns x, swapClear := if trwRuns x then bad else [] }

/-- Every tile of the job may swap. -/
def allSwap (s : State) (j : Nat) : Bool :=
  (jobTiles s j).all fun e => (tileOf s e.2).swapOn && (tileOf s e.2).swapClear.isEmpty

/-- Rows to rewrite after a verdict. -/
def badRowsOf (t : Nat) (fs : List RowFind) : List (Nat × Nat × Nat × Nat × Bool) :=
  fs.filterMap fun f => if f.bad || f.ue then some (t, f.brick, f.course, f.row, f.ue) else none

end Sys2Proof.Machine
end

