-- ==== Sys2Proof/Machine/RollOps.lean ====
section
/-! DEFINITION. Checkpoint contents, rollback, the end of a replay, job reset (R364–R382, R427). -/

namespace Sys2Proof.Machine

/-! ## Contents of a checkpoint (Table 11-4) -/

def tileSnap (s : State) (e : Nat × Nat) : TileSnap :=
  let t := tileOf s e.2
  { vt := e.1, ff := t.ff, slabs := t.slabs, slabCfg := t.slabCfg, slabOut := t.slabOut,
    memOut := t.memOut, hodOut := t.hodOut, jointIn := t.jointIn }

/-- A paused mason as it goes on. -/
def awake (x : Mason) : Mason :=
  { x with pausePending := false, st := if x.st = .paused then x.resumeTo else x.st }

def makeCkpt (s : State) (j : Nat) (k : Word) : Ckpt :=
  let x := jobOf s j
  { k := k, imageCrc := (x.image.getD {}).crc, tiles := (jobTiles s j).map (tileSnap s),
    memReqs := x.memReqs.map fun r => { r with arrived := true }, release := x.release,
    resets := x.resets, resetAt := x.resetAt, trig := x.trig, outHold := x.outHold,
    weHold := x.weHold, hods := (hodsOfJob s j).map fun h => (h, hodOf s h),
    masons := (masonsOfJob s j).map fun m => (m, awake (masonOf s m)),
    flows := s.pal.flows.filter (fun e => e.1 / 65536 == j),
    rb := (s.pal.rb ++ s.pal.rbWait).filter (fun e => e.job == j), ppt := s.mem.ppt,
    srcRuns := (originated s j).map fun e => (e.1, srcRunOf s e.1),
    consRuns := (consumed s j).map fun e => (e.1, consRunOf s e.1) }

/-- The latest valid checkpoint of a job. -/
def latestCkpt (x : Job) : Option Ckpt :=
  match x.slotA, x.slotB with
  | some a, some b => if a.k < b.k then some b else some a
  | some a, none => some a
  | none, b => b

def ckptAt (x : Job) (k : Word) : Option Ckpt :=
  ([x.slotA, x.slotB].filterMap id).find? fun c => c.k == k

/-! ## Restoring -/

/-- Undo records of a job from cycle k on, newest first, written back; pages the job no longer holds
keep what they have. -/
def applyUndo (s : State) (j : Nat) (k : Word) : State :=
  let us := (s.arr.undo.filter fun u => u.job == j && decide (k ≤ u.epoch)).reverse
  each us (fun s u =>
    each ((List.range 32).zip u.lines) (fun s l =>
      let dl := u.block * 32 + l.1
      let p := linePage dl
      let e := pptOf s p
      if (pageFail e).isSome ∨ e.job ≠ j then s
      else storePlaced (unlist s dl) p e dl l.2) s) s

/-- A tile as the checkpoint holds it. The pending course is preloaded anew; in static mode every
preload is of course 0 and its verdict stands (R79, R142). -/
def restoreTile (static : Bool) (ck : Ckpt) (s : State) (e : Nat × Nat) : State :=
  modTile s e.2 fun t =>
    let t := if static then t else { t with swapOn := false, swapClear := [] }
    match ck.tiles.find? (fun x => x.vt == e.1) with
    | some x => { t with ff := x.ff, slabs := x.slabs, slabCfg := x.slabCfg, slabOut := x.slabOut,
                         memOut := x.memOut, hodOut := x.hodOut, aside := [], jointIn := x.jointIn }
    | none => t

/-- A hod of the job as the checkpoint holds it; one created since is left empty. -/
def restoreHod (ck : Ckpt) (s : State) (h : Nat) : State :=
  modHod s h fun x =>
    match ck.hods.find? (fun e => e.1 == h) with
    | some e => if e.2.p = x.p ∧ e.2.base = x.base then { e.2 with aside := none }
      else { valid := x.valid, job := x.job, p := x.p, base := x.base }
    | none => { valid := x.valid, job := x.job, p := x.p, base := x.base }

def restoreMason (ck : Ckpt) (s : State) (m : Nat) : State :=
  match ck.masons.find? (fun e => e.1 == m) with
  | some e => modMason s m fun x =>
      if x.st = .failed ∨ x.st = .off then x else { e.2 with phys := x.phys, job := x.job }
  | none => s

/-- Pin and exclude of a page that is the job's in the checkpoint and now (R187). -/
def restorePins (j : Nat) (s : State) (e : Nat × Ppt) : State :=
  if e.2.state = .unbacked ∨ e.2.job ≠ j ∨ (pptOf s e.1).state = .unbacked ∨ (pptOf s e.1).job ≠ j then s
  else modMirror (modPpt s e.1 fun p => { p with pin := e.2.pin, exclude := e.2.exclude }) e.1
    fun m => { m with pin := e.2.pin, exclude := e.2.exclude }

/-- Where a job stands at the boundary before user cycle k. -/
def standAt (k : Word) (x : Job) : Job :=
  { x with cycle := k, course := if k = 0 then 0 else x.desc.courseCount - 1,
           beforeZero := decide (k = 0), endDone := true, late := false, go := false, ahead := 0, pops := [],
           badRows := [], rewriting := false, wantRollback := false, sweepDue := x.sweepDue }

/-- Every part of a checkpoint but design memory and streams. -/
def restoreCkpt (s : State) (j : Nat) (ck : Ckpt) : State :=
  let s := each (jobTiles s j) (restoreTile (jobOf s j).desc.static ck) s
  let s := each (hodsOfJob s j) (restoreHod ck) s
  let s := each (masonsOfJob s j) (restoreMason ck) s
  let s := modPalBlk s fun p =>
    { p with flows := ck.flows.foldl (fun m e => mapPut m {} e.1 e.2)
               (mapDrop p.flows (fun q => q / 65536 == j)),
             rb := p.rb.filter (fun e => e.job != j), rbWait := p.rbWait.filter (fun e => e.job != j),
             stored := ck.hods.foldl (fun n h =>
               h.2.items.foldl (fun n it => max n (it.order + 1)) n) p.stored }
  let s := each ck.rb rbAdd s
  let s := each ck.ppt (restorePins j) s
  modJob s j fun x => standAt ck.k
    { x with memReqs := ck.memReqs, release := ck.release, resets := ck.resets, trig := ck.trig,
             outHold := ck.outHold, weHold := ck.weHold,
             pinVal := if ck.outHold then 0 else x.pinVal, pinOe := if ck.outHold then 0 else x.pinOe }

/-! ## Local rollback (Table 11-10) -/

/-- Items stored from tile ports and masons by each hod bound outward (R377). -/
def latchMarks (s : State) (j : Nat) : List (Nat × Nat) :=
  (hodsOfJob s j).filterMap fun h =>
    if boundOut (hodOf s h) then some (h, (hodOf s h).ownItems) else none

/-- Journal records that a replay from cycle k draws on. -/
def replayRecs (s : State) (j : Nat) (k : Word) : List JEntry :=
  s.arr.journal.filter fun e =>
    e.job == j && (if keptByCycle e.body then decide (k ≤ e.cycle) else decide (k ≤ e.epoch))

/-- Fault causes that a rollback settles; a failed channel and failed records stay (R383, R217). -/
def lasting (c : HoldCause) : Bool := c == .resendFailed || c == .channelFailed

def resetMasons (s : State) (j : Nat) : State := each (masonsOfJob s j) resetMason s

/-- Steps 1 to 4; step 5 is the replay. A rollback during a replay keeps e, b and the marks (R150). -/
def startRollback (s : State) (j : Nat) (hdr : Option Hdr) : State :=
  let x := jobOf s j
  match latestCkpt x with
  | none => s
  | some ck =>
    let s := failCapture s j 0
    let x := jobOf s j
    let marks := match x.replay with | some _ => x.hodHwm | none => latchMarks s j
    let recs := replayRecs s j ck.k
    let r : Replay := match x.replay with
      | some r => { r with k := ck.k, recs := recs, shadow := [], diverged := false }
      | none => { k := ck.k, e := x.cycle, bCourse := if x.beforeZero then 32 else x.course,
                  bEnd := x.endDone, byCommand := hdr.isSome, hdr := hdr, recs := recs,
                  shadow := [], diverged := false }
    let s := modJob (resetMasons s j) j fun y =>
      { y with replay := some r, hodHwm := marks, faults := y.faults.filter lasting, waits := 0,
               state := if y.state = .stopped then .heldCmd else y.state }
    let s := restoreCkpt (applyUndo s j ck.k) j ck
    emitJob s 0x0A03 j [(8, ck.k.toNat), (8, r.e.toNat), (1, 0)]

/-- The replay has reached b (R376). -/
def atB (x : Job) : Bool :=
  match x.replay with
  | none => false
  | some r => x.cycle == r.e && x.endDone == r.bEnd
      && (if r.bCourse = 32 then x.beforeZero else !x.beforeZero && x.course == r.bCourse)

/-! ## Replayed inputs (R378) -/

def dropRec (s : State) (j : Nat) (e : JEntry) : State :=
  modJob s j fun x => { x with replay := x.replay.map fun r => { r with recs := r.recs.erase e } }

/-- HOD_ARRIVAL items in record order: each when its hod's count reaches its index; one whose hod is
gone is passed over. -/
def replayArrivals : Nat → State → Nat → State
  | 0, s, _ => s
  | n + 1, s, j =>
    match (jobOf s j).replay with
    | none => s
    | some r =>
      match r.recs.find? (fun e => match e.body with | .hodArrival .. => true | _ => false) with
      | none => s
      | some e =>
        match e.body with
        | .hodArrival h a prio ws poison idx =>
          let x := hodOf s h
          if !x.valid || x.job != j then replayArrivals n (dropRec s j e) j
          else if x.arrivals < idx then s
          else
            let s := if idx < x.arrivals then diverge s j 1 h (jobOf s j).cycle else s
            replayArrivals n (storeRecorded (dropRec s j e) h a prio ws poison) j
        | _ => s

/-- Every arrival record up to the first that waits for its count. -/
def stepArrivals (s : State) (j : Nat) : State :=
  match (jobOf s j).replay with
  | some r => replayArrivals r.recs.length s j
  | none => s

/-- HOST_WRITE data of a user cycle, applied at the swap into its course 0. -/
def replayWrites (s : State) (j : Nat) (c : Word) : State :=
  match (jobOf s j).replay with
  | none => s
  | some r =>
    each (r.recs.filter fun e => e.cycle == c) (fun s e =>
      match e.body with
      | .hostWrite a d => dropRec (plainWrite s a d) j e
      | _ => s) s

/-- The user resets that a RESET record sets from a cycle on. -/
def replayReset (x : Job) (c : Word) : Option (BitVec 7) :=
  match x.replay with
  | none => none
  | some r => r.recs.findSome? fun e =>
      match e.body with
      | .reset v => if e.cycle = c then some v else none
      | _ => none

def replayTrig (x : Job) (c : Word) : Option (BitVec 16) :=
  match x.replay with
  | none => none
  | some r => r.recs.findSome? fun e =>
      match e.body with
      | .trig v => if e.cycle = c then some v else none
      | _ => none

/-- STATE of a job that no hold stops. -/
def runState (x : Job) : JobState :=
  if x.cmdHeld then .heldCmd else if x.release < 3 then .releasing else .running

/-- Step 6 of Table 11-10: what is left of the journal, then what was queued, take effect; a divergence
leaves STATE 5, a command STATE 4 (R376, R379). -/
def endReplay (s : State) (j : Nat) : State :=
  match (jobOf s j).replay with
  | none => s
  | some r =>
    let s := each (jobOf s j |>.replay.map (·.recs) |>.getD []) (fun s e =>
      match e.body with
      | .hodArrival h a prio ws poison _ =>
        if (hodOf s h).valid && (hodOf s h).job == j then storeRecorded s h a prio ws poison else s
      | .hostWrite a d => plainWrite s a d
      | _ => s) s
    let s := modJob s j fun x =>
      let y : Job := { x with replay := none, hodHwm := [], cmdHeld := x.cmdHeld || r.byCommand }
      { y with faults := if r.diverged then y.faults ++ [.awaitHost] else y.faults,
               state := if r.diverged || !y.faults.isEmpty then .heldFault else runState y }
    let s := releaseQueued s j false
    match r.hdr with
    | some h => complete (dropAccOf s 0x070A h) h 0x070A 0x0A04 .ok []
    | none => emitJob s 0x0A04 j []

/-! ## Global rollback (Table 11-11) -/

/-- Frames of the cycle before k, for the swap into user cycle k: from their JNT_RX records, or as the
checkpoint buffered them (log 25). -/
def refill (s : State) (j : Nat) (ck : Ckpt) (st : Nat) (en : ConsEntry) : List RxFrame :=
  if consIntra en || ck.k == 0 then []
  else match rxRecord s j st (ck.k - 1) with
    | some sl => [{ cycle := ck.k - 1, slices := sl }]
    | none =>
      match ck.consRuns.find? (fun r => r.1 == st) with
      | some r => r.2.buf.filter fun f => f.cycle == ck.k - 1
      | none => []

/-- Stream state at k: marks at k − 1, tokens and last presentation as at the checkpoint. -/
def rewindStreams (s : State) (j : Nat) (ck : Ckpt) : State :=
  let mark : Option Word := if ck.k = 0 then none else some (ck.k - 1)
  let s := each (originated s j) (fun s e => modSrcRun s e.1 fun _ =>
    { sent := mark,
      tokens := match ck.srcRuns.find? (fun r => r.1 == e.1) with
        | some r => r.2.tokens.map fun t => (t.1, if ck.k ≤ t.2 then ck.k - 1 else t.2)
        | none => [] }) s
  each (consumed s j) (fun s e => modConsRun s e.1 fun r =>
    { src := r.src, tokened := mark, buf := refill s j ck e.1 e.2,
      presented := match ck.consRuns.find? (fun r => r.1 == e.1) with
        | some c => c.2.presented
        | none => none }) s

/-- Steps 2 to 4 of Table 11-10 with checkpoint k, then the records and buffers of k and later go. -/
def globalRollback (s : State) (j : Nat) (ck : Ckpt) (epoch : BitVec 4) : State :=
  let x := jobOf s j
  let s := modJob (resetMasons s j) j fun y =>
    { y with hodHwm := if x.imported then [] else latchMarks s j, replay := none,
             faults := y.faults.filter (· == .channelFailed), state := .heldCmd, cmdHeld := true,
             waits := 8, charge := 4 }
  let s := restoreCkpt (applyUndo s j ck.k) j ck
  let s := rewindStreams s j ck
  let keepSlot (c : Option Ckpt) : Option Ckpt := c.filter fun c => decide (c.k ≤ ck.k)
  let s := modArrBlk s fun a =>
    { a with journal := a.journal.filter (fun e => e.job != j || decide (e.cycle < ck.k)),
             undo := a.undo.filter (fun u => u.job != j || decide (u.epoch ≤ ck.k)) }
  let blocks := s.arr.undo.filterMap fun u => if u.job = j ∧ u.epoch = ck.k then some u.block else none
  let s := modJob s j fun y =>
    { y with epoch := epoch, epochK := ck.k, written := blocks, slotA := keepSlot y.slotA,
             slotB := keepSlot y.slotB, nextB := (keepSlot y.slotA).any fun c => c.k == ck.k, resetAt := ck.resetAt, imported := false, earlyAt := [] }
  emitJob s 0x0A03 j [(8, ck.k.toNat), (8, x.cycle.toNat), (1, b2n x.imported)]

/-! ## Job reset (R427) -/

/-- One tile: state files zero, slabs from the golden copy, presented values cleared; the events of the
user cycles to come are new ones (R63, R145). -/
def resetTile (img : Image) (vt : Nat) (t : Tile) : Tile :=
  { t with ff := [], slabOut := [], memOut := [], hodOut := [], aside := [], jointIn := 0,
           swapOn := false, swapClear := [], sigEvCyc := none, frameEvCyc := none,
           slabs := img.slabs.filterMap fun e =>
             if e.1 / 24576 = vt then some (e.1 % 24576, e.2) else none,
           slabCfg := img.slabCfg.filterMap fun e =>
             if e.1 / 48 = vt then some (e.1 % 48, e.2) else none }

/-- Run state of the job's streams: buffers, tokens and marks return to none. -/
def clearStreams (s : State) (j : Nat) : State :=
  let s := each (originated s j) (fun s e => modSrcRun s e.1 fun _ => {}) s
  each (consumed s j) (fun s e => modConsRun s e.1 fun _ => {}) s

def clearFlows (s : State) (j : Nat) : State :=
  modPalBlk s fun p =>
    { p with flows := mapDrop p.flows (fun q => q / 65536 == j), rb := p.rb.filter (fun e => e.job != j),
             rbWait := p.rbWait.filter (fun e => e.job != j) }

/-- Everything of a job back to user cycle 0; `held` leaves it waiting in STATE 4. A golden copy whose slab
section cannot be read stops the job (R134). -/
def jobReset (s : State) (j : Nat) (held : Bool) : State :=
  let s := failCapture s j 0
  let s := if (jobOf s j).replay.isSome then
      let qs := (jobOf s j).queued
      each qs (fun s q => match q with | .write a d => plainWrite s a d | .item .. => s)
        (modJob s j fun x => { x with queued := [] })
    else s
  let img := (jobOf s j).image.getD {}
  let (bad, s) := readSlabs s img
  if bad then goldenLost s j else
  let s := each (jobTiles s j) (fun s e => modTile s e.2 (resetTile img e.1)) s
  let s := each (hodsOfJob s j) hodFlush s
  let s := clearStreams (clearFlows (resetMasons s j) j) j
  let s := dropRecords s j
  modJob s j fun x => standAt 0
    { x with state := if held then .heldCmd else .releasing, cmdHeld := held, release := 0,
             outHold := true, weHold := true, resets := 0x7F, resetAt := [], memReqs := [],
             faults := [], waits := 0, charge := 0, slotA := none, slotB := none, nextB := false,
             recoverable := false, earlyAt := [], journaling := false, epochK := 0, written := [],
             queued := [], replay := none, hodHwm := [], holdAt := [], resetReq := none,
             exportReq := none, capture := {}, skipCkpt := false, imported := false,
             pinVal := 0, pinOe := 0 }

end Sys2Proof.Machine
end

