-- ==== Sys2Proof/Machine/SeqOps.lean ====
section
/-! DEFINITION. The sequencer: stretch causes, samples, the end of a course, the swap, the release steps
(R65–R93, R128–R130, R539). -/

namespace Sys2Proof.Machine

/-! ## Clocks -/

/-- The fabric clock, as granted or halved by the throttle divider (R413), in hundreds of MHz, rounded
up. -/
def fabFloor (s : State) : Nat :=
  if s.clk.throttle then (s.clk.granted + 199) / 200 else (s.clk.granted + 99) / 100

/-- Least length of a user cycle (R93). -/
def leastPeriod (s : State) (x : Job) : Nat := max x.desc.minPeriod (fabFloor s)

/-! ## Who proceeds -/

/-- The job runs user cycles, live or in a replay. -/
def active (x : Job) : Bool := x.state == .running || x.state == .releasing || x.replay.isSome

/-- The dies are powered, the FAB domain runs (R8) and the job's sequencers stand at work. -/
def seqOn (s : State) (x : Job) : Bool :=
  s.pwr.state == .ready && s.clk.domainsOn && x.image.isSome && x.state != .empty && x.state != .loading

/-! ## Causes (Table 3-6) -/

/-- A checkpoint falls due at the commit boundary before user cycle c (R364, R365, R382, R87). -/
def ckptDue (x : Job) (c : Word) : Bool :=
  c != 0 && x.replay.isNone && !x.skipCkpt
    && (c.toNat % 2 ^ x.ckptLog2 == 0 || x.exportReq.isSome
        || x.earlyAt.any fun t => decide (t ≤ c))

/-- A command hold falls due at the commit boundary before user cycle c (R458). -/
def holdDue (x : Job) (c : Word) : Bool :=
  x.replay.isNone && x.holdAt.any fun h => decide (h.atCycle ≤ c)

/-- Causes that wait for a commit boundary: a relocation (a sweep's avoids checkpoint cycles), a die
reset (Tables 16-5 and 13-8). -/
def faultActs (s : State) (j : Nat) (c : HoldCause) : Bool :=
  let x := jobOf s j
  let held := x.state == .heldFault && x.replay.isNone
  match c with
  | .dieReset => held || atCommit x
  | .relocation => held || (atCommit x
      && ((relocsOf s j).any (·.retire) || !ckptDue x (nextCycle x)))
  | c => !(lasting c && x.replay.isSome)

def faultPending (s : State) (j : Nat) : Bool := (jobOf s j).faults.any (faultActs s j)

/-- Causes pending at the boundary ahead, lowest number first. `cycles` is how long the user cycle will
have lasted. At a commit boundary that a checkpoint or a hold takes, the waits are left for after it. -/
def pendingCauses (s : State) (j cycles : Nat) : List Nat :=
  let x := jobOf s j
  let c := nextCycle x
  let stop := atCommit x && !x.endDone && (ckptDue x c || holdDue x c || x.resetReq.isSome)
  [ (1, faultPending s j),
    (2, x.sweepDue || x.sweepRun || x.clockHold),
    (3, x.capturing.isSome),
    (4, x.cmdHeld && x.replay.isNone),
    (5, !stop && !jointMet s j (nextCourse x) c),
    (6, !stop && !memMet s j (nextIndex x)),
    (7, x.endDone && !popsMet s j),
    (8, !stop && atCommit x && !x.beforeZero && decide (cycles < leastPeriod s x)) ].filterMap
    fun e => if e.2 then some e.1 else none

/-- The sample point of R81 for the boundary after those already sampled lies before the next course end:
static courses shorter than 8 fabric cycles only. -/
def sampleAhead (x : Job) : Bool :=
  x.desc.static && decide ((x.ahead + 1) * listAt x.desc.depth 0 0 ≤ 7)

/-- Causes pending at the n-th boundary after the next one of a static job. -/
def causesAhead (s : State) (j n cycles : Nat) : List Nat :=
  pendingCauses (modJob s j fun x => { x with cycle := x.cycle + BitVec.ofNat 64 n }) j cycles

/-- W_ bits of a list of causes. -/
def waitBits (cs : List Nat) : BitVec 8 :=
  cs.foldl (fun b c => b ||| BitVec.ofNat 8 (2 ^ (c - 1))) 0

/-- The cause that counts the stretch from here on, when `c` joins those pending: the one of highest
priority (R89). -/
def chargeOf (old c : Nat) : Nat := if old = 0 then c else min old c

/-- A fault hold pending where a checkpoint is due: the checkpoint is not taken (R87). -/
def enterFault (j : Nat) (s : State) : State :=
  modJob s j fun x =>
    { x with state := if x.replay.isSome || x.state == .stopped then x.state else .heldFault,
             go := false, ahead := 0, skipCkpt := x.skipCkpt || (atCommit x && ckptDue x (nextCycle x)) }

/-- The causes found at a sample become the job's W_ bits; a fault hold is STATE 5. -/
def holdFor (s : State) (j : Nat) (cs : List Nat) : State :=
  let s := modJob s j fun x => { x with waits := waitBits cs, charge := cs.foldl chargeOf 0, ahead := 0 }
  if cs.contains 1 then enterFault j s else s

/-! ## Frame faults (R63) -/

/-- Two frame faults on one brick within 1 s: the tile is to be swept, its virtual tile moved aside
(R488). -/
def frameRepeat (s : State) (j vt t : Nat) (bricks : List Nat) : State :=
  let log := (tileOf s t).frameLog.filter fun e => decide (s.nowUs < e.2 + 1000000)
  let again := bricks.any fun b => log.any fun e => e.1 == b
  let s := modTile s t fun x => { x with frameLog := log ++ bricks.map fun b => (b, s.nowUs) }
  if again && !(relocsOf s j).any (fun r => r.vt == vt) then
    match planMove s j vt t false 0 with
    | some s => modSprBlk s fun p => { p with sweeping := if p.sweeping.isNone then some (.tile t) else p.sweeping }
    | none => s
  else s

/-- The frame faults of a tile (R63, R64). DESIGN CHOICE (log 118): an upset that stays in the active register is a
fault anew at each sample. -/
def frameFault (n : Net) (j : Nat) (s : State) (e : Nat × Nat) : State :=
  let fs := tileFaults n e.1
  if fs.isEmpty then s
  else
    let x := jobOf s j
    let first := (tileOf s e.2).frameEvCyc != some x.cycle
    let s := modTile s e.2 fun t =>
      { t with fault := faultWord t.fault fs x.course, frameEvCyc := some x.cycle }
    let s := leafAdd s (leafTile e.2 7) fs.length
    let s := if first then emitJob s 0x0402 j [] else s
    let s := frameRepeat s j e.1 e.2 ((fs.map (·.2)).eraseDups)
    modJob (faultHold .frameFault s j) j fun x =>
      { x with wantRollback := true,
               badRows := x.badRows ++ ((fs.map (·.2)).eraseDups).flatMap fun b =>
                 (List.range 10).map fun r => (e.2, b, x.course, r, true) }

/-- The job's tiles as they are evaluated. -/
def jobNet (s : State) (j : Nat) : Net :=
  let x := jobOf s j
  mkNet ((jobTiles s j).map fun e => (e.1, tileOf s e.2)) x.course x.desc.courseCount x.trig

def frameFaults (n : Net) (j : Nat) (s : State) : State := each (jobTiles s j) (frameFault n j) s

/-! ## Commit (R33, R71) -/

/-- Cells of a tile that a commit can change: those with state, and those a course configured. -/
def commitCells (t : Tile) : List (Nat × Nat) :=
  let held := t.ff.map fun e => (e.1 / 1024, e.1 / 32 % 32)
  let conf := ((t.ran.map fun e => e.1 % 8192 / 16).eraseDups).flatMap fun b =>
    (List.range 32).map fun c => (b, c)
  (held ++ conf).eraseDups

/-- Rows with which a course of this user cycle ran. -/
def ranRows (t : Tile) (c : Nat) : SMap Row :=
  t.ran.filterMap fun e => if e.1 / 8192 = c then some (e.1 % 8192, e.2) else none

def commitTile (x : Job) (t : Tile) : Tile :=
  let n := x.desc.courseCount
  let ph := listAt x.desc.pattern 0 (x.cycle.toNat % max 1 x.desc.patLen)
  let cells := commitCells t
  { t with ff := (List.range n).foldl (fun ff c =>
      let rows := ranRows t c
      cells.foldl (fun ff bc =>
        commitCell t n c bc.1 bc.2 (cellWord rows bc.1 bc.2) ph x.resets ff) ff) t.ff }

/-- The device samples TRIG (R58): pins granted to the job, or a replay's record. -/
def sampleTrig (s : State) (j : Nat) (pins : BitVec 16) : State :=
  let x := jobOf s j
  match x.replay with
  | some _ => modJob s j fun x => { x with trig := (replayTrig x x.cycle).getD x.trig }
  | none =>
    let v := pins &&& grantedPins s j
    if v = x.trig then s
    else modJob (addRecord s j x.cycle (.trig v)) j fun x => { x with trig := v }

/-- The commit of a user cycle: flip-flops, TRIG, the capture record, the number (R74). -/
def commitJob (s : State) (j : Nat) (pins : BitVec 16) : State :=
  let x := jobOf s j
  let s := each (jobTiles s j) (fun s e => modTile s e.2 (commitTile x)) s
  let s := captureCommit (sampleTrig s j pins) j x.cycle
  modJob (leafAdd s (leafJob j 8) 1) j fun x => { x with cycle := x.cycle + 1 }

/-! ## Checkpoints and holds at a commit boundary -/

/-- Steps 1 and 2 of Table 11-5. -/
def startCapture (s : State) (j : Nat) : State :=
  let s := modJob s j fun x => setWait 3 true { x with capturing := some .pausing }
  each (masonsOfJob s j) askPause s

/-- A command hold is entered: STATE 4, and EV_CMD_DONE of every order that has come due, with the
cycle (R458). In a DEEP HOLD entry its checkpoint follows (Table 14-4). -/
def enterHold (s : State) (j : Nat) : State :=
  let x := jobOf s j
  let due := x.holdAt.filter fun h => decide (h.atCycle ≤ x.cycle)
  let s := modJob s j fun x =>
    setWait 4 true { x with cmdHeld := true, state := .heldCmd,
                            holdAt := x.holdAt.filter fun h => !decide (h.atCycle ≤ x.cycle) }
  let s := each due (fun s h => match h.hdr with
    | some hd => complete (dropAccOf s 0x0401 hd) hd 0x0401 0x0E02 .ok [(8, x.cycle.toNat)]
    | none => s) s
  if s.pwr.entering.isSome then startCapture s j else s

/-- A DEEP HOLD entry stops before step 4: the jobs stay held and the completion carries ST_TIMEOUT
(R437). -/
def stopEntry (s : State) : State :=
  match s.pwr.entering with
  | none => s
  | some h =>
    complete (dropAccOf (modPwrBlk s fun p => { p with entering := none }) 0x0201 h) h 0x0201 0x0205
      .timeout []

/-- What a commit boundary does before its swap: a job reset, a checkpoint, a command hold. -/
def atBoundary (s : State) (j : Nat) : State :=
  let x := jobOf s j
  match x.resetReq with
  | some h =>
    let s := startCapture (jobReset s j false) j
    complete (dropAccOf s 0x0404 h) h 0x0404 0x0E02 .ok []
  | none =>
    if ckptDue x x.cycle then startCapture s j
    else if holdDue x x.cycle then enterHold s j
    else s

/-! ## The swap (R68, R75, R90) -/

/-- EV_LOAD_DONE (R119): a completion, with the held flag and the cycle at which release ends. -/
def loadDone (s : State) (j : Nat) (h : Option Hdr) (st : St) (held : Bool) (c : Nat) : State :=
  let hd := h.getD { fn := 0, mbx := 0, tag := 0, job := j }
  let op := if h.isSome then 0x0301 else 0
  let s := match h with | some hd => dropAccOf s 0x0301 hd | none => s
  emitTo s (if j < 8 then [0, j + 1] else [0]) 0x0404 (if j < 8 then j else 0xFF)
    [(2, op), (2, hd.tag.toNat), (2, stCode st), (1, hd.mbx), (1, hd.fn), (1, b2n held), (8, c)]

/-- The request of a job's load, while its EV_LOAD_DONE is to come. -/
def loadHdr (s : State) (j : Nat) : Option Hdr :=
  (s.hif.accepted.find? fun a => a.opcode == 0x0301 && a.args == [j]).map (·.hdr)

/-- Release steps at the swap into user cycles 1, 2 and 3 (Table 4-8). -/
def releaseStep (s : State) (j : Nat) (c : Word) : State :=
  let x := jobOf s j
  if c = 1 then modJob s j fun x => { x with outHold := false, release := 1 }
  else if c = 2 then modJob s j fun x => { x with weHold := false, release := 2 }
  else if c = 3 then
    let s := modJob s j fun x =>
      { x with resets := 0, release := 3, state := if x.state = .releasing then .running else x.state }
    if x.loadDone || x.replay.isSome then s
    else loadDone (modJob s j fun x => { x with loadDone := true }) j (loadHdr s j) .ok false 3
  else s

/-- User resets that take effect with a user cycle (R73, R460). -/
def swapResets (s : State) (j : Nat) (c : Word) : State :=
  let x := jobOf s j
  match x.replay with
  | some _ => modJob s j fun x => { x with resets := (replayReset x c).getD x.resets }
  | none =>
    match x.resetAt.filter (fun r => decide (r.1 ≤ c)) with
    | [] => s
    | rs =>
      let v := (rs.getLastD (c, 0)).2
      modJob (addRecord s j c (.reset v)) j fun x =>
        { x with resets := v, resetAt := x.resetAt.filter fun r => !decide (r.1 ≤ c) }

/-- The active register takes the shadow; the swap enables are spent. In static mode this follows a
verdict only (R79). -/
def swapTile (static : Bool) (t : Tile) : Tile :=
  if static && !(t.swapOn && t.swapClear.isEmpty) then t
  else { t with active := t.shadow, gwNow := t.gwNext, swapOn := false, swapClear := [] }

/-- The stop of R175. -/
def pageStop (s : State) (j : Nat) (rs : List MemReq) (c : Word) : State :=
  match rs with
  | [] => s
  | r :: _ =>
    let code := if reqStatus r = some .lost then 0x0503 else 0x0502
    emitJob (stopJob s j) code j [(8, c.toNat), (8, r.unit * 64), (4, rs.length)]

/-- The swap that starts the next course. -/
def doSwap (s : State) (j : Nat) : State :=
  let x := jobOf s j
  let k := nextCourse x
  let c := nextCycle x
  let i := nextIndex x
  if !x.desc.static && !allSwap s j then s
  else
    match pageFaults s j i with
    | r :: rs => pageStop s j (r :: rs) c
    | [] =>
      let s := if k = 0 then swapResets (releaseStep (replayWrites s j c) j c) j c else s
      let s := presentHods (presentMem s j i) j k c
      let s := presentJoints s j k c
      let s := each (jobTiles s j) (fun s e => modTile s e.2 (swapTile x.desc.static)) s
      let s := modJob s j fun x =>
        { x with course := k, beforeZero := false, endDone := false, late := false, go := false,
                 ahead := 0, pops := [], waits := 0, charge := 0, skipCkpt := false }
      stepArrivals s j

/-! ## The end of a course (R67) -/

/-- Conditions due at the boundary after a course end that were created at or after its sample point
(R539), as causes. Course end r lies (e − r) courses before course end e, and only static courses
shorter than 8 fabric cycles have more than the last of them after the sample point. -/
def lateCauses (s : State) (j : Nat) (x0 : Job) (blocked : Bool) : List Nat :=
  let x := jobOf s j
  let e := courseIndex x0 x0.cycle x0.course
  let i := nextIndex x
  let mem := (dueReqs s j i).any fun r =>
    decide ((e - r.sampled) * listAt x0.desc.depth 0 x0.course ≤ 7)
  let joint := x.replay.isNone && ((originated s j).any fun o => o.2.sendCourse == x0.course
    && (dueStreams s j (nextCourse x) (nextCycle x)).any fun d => d.1 == o.1)
  (if joint then [5] else []) ++ (if mem then [6] else []) ++ (if blocked then [7] else [])

/-- Hold latches, ports, joint frames and pins of the course that ends; then the commit. -/
def courseEffects (s : State) (j : Nat) (pins : BitVec 16) : State :=
  let n := jobNet s j
  let s := frameFaults n j s
  let (cells, s) := resolveVals n s (evaluate n)
  let x := jobOf s j
  let s := each (jobTiles s j) (fun s e => modTile s e.2 (captureTile cells x.course e.1)) s
  let s := slabsAtEnd cells j s
  let s := memAtEnd cells j s
  let s := hodsAtEnd cells j s
  let s := pinsAtEnd cells j (jointsAtEnd cells j s)
  let s := leafAdd s (leafJob j 9) (listAt x.desc.depth 0 x.course)
  let s := modJob s j fun x => { x with go := false, waits := 0, charge := 0 }
  if lastCourse x then modJob (commitJob s j pins) j fun x => { x with endDone := true }
  else modJob s j fun x => { x with endDone := true }

/-- A boundary sampled in an earlier user cycle is the next one now: its go stands, and its words are set
aside (log 123). -/
def goAhead (n : Nat) (s : State) (j : Nat) : State :=
  let x := jobOf s j
  if n = 0 || x.endDone || !active x || faultPending s j then s
  else modJob (setAsides s j) j fun y => { y with go := true, ahead := n - 1 }

/-- After a course end: the boundary's own actions, a late boundary, or the swap. A replay stops at
b. -/
def courseDone (s : State) (j : Nat) (x0 : Job) (blocked : Bool) : State :=
  let late := lateCauses s j x0 blocked
  let s := if lastCourse x0 && ((jobOf s j).resetReq.isSome || !faultPending s j) then atBoundary s j
    else s
  let x := jobOf s j
  if atB x then s
  else if faultPending s j then enterFault j (modJob s j (setWait 1 true))
  else if x.capturing.isSome || (x.cmdHeld && x.replay.isNone) then s
  else if late.isEmpty then goAhead x.ahead (doSwap s j) j
  else modJob s j fun x =>
    { x with late := true, ahead := 0, waits := x.waits ||| waitBits late,
             charge := late.foldl chargeOf x.charge }

end Sys2Proof.Machine
end

