-- ==== Sys2Proof/Machine/VerdictOps.lean ====
section
/-! DEFINITION. What follows a trowel verdict: faults released, rollbacks started, start-up and die
resets ended (Table 5-2, R117, R147–R150, R425, R426). -/

namespace Sys2Proof.Machine

/-- Fault causes that Belic firmware settles through a repeated preload. -/
def actionable (c : HoldCause) : Bool :=
  !lasting c && c != .awaitHost && c != .dieReset && c != .spareSwitch

/-- A rollback that Belic firmware may start by itself (R375). -/
def mayRollBack (s : State) (j : Nat) : Bool :=
  replaySafe s j && (jobOf s j).recoverable && (latestCkpt (jobOf s j)).isSome

/-- The job leaves a fault hold: STATE 5 ends once no cause is left. -/
def leaveFault (s : State) (j : Nat) (keep : List HoldCause) : State :=
  modJob s j fun x => setWait 1 (!keep.isEmpty)
    { x with faults := keep, badRows := [], rewriting := false, wantRollback := false,
             state := if x.replay.isSome || x.state != .heldFault || !keep.isEmpty then x.state
                      else runState x }

/-- A fault hold that a rollback settles: STATE stays as it is until the replay is done (Table 5-2
step 6). -/
def clearFault (s : State) (j : Nat) (keep : List HoldCause) : State :=
  modJob s j fun x =>
    { x with faults := keep, badRows := [], rewriting := false, wantRollback := false }

/-- Step 5 of Table 5-2: rollback, or STATE 5 until the host chooses; a trowel stop or a store error
alone resumes. A replay starts again from its checkpoint (R150). -/
def releaseFault (s : State) (j : Nat) : State :=
  let x := jobOf s j
  let keep := x.faults.filter fun c => !actionable c
  let s := endRelocs s j
  if !x.wantRollback then leaveFault s j keep
  else if x.replay.isSome || mayRollBack s j then
    startRollback (clearFault s j keep) j (x.replay.bind (·.hdr))
  else leaveFault s j (keep ++ [.awaitHost])

/-- The image is applied and its start-up preload checked (R115, R128, R130). -/
def startedUp (s : State) (j : Nat) : State :=
  let held := (jobOf s j).noRelease
  let s := each (jobTiles s j) (fun s e =>
    modTile s e.2 fun t => { t with holding := false }) s
  let s := modJob { s with load := none } j fun x => standAt 0
    { x with state := if held then .heldCmd else .releasing, cmdHeld := held, outHold := true,
             weHold := true, resets := 0x7F, release := 0, loadDone := held }
  if held then loadDone s j (loadHdr s j) .ok true 3 else startCapture s j

/-! ## Die resets -/

def dieJobs (s : State) : List Nat :=
  (List.range 8).filter fun j => (jobOf s j).faults.contains .dieReset

/-- After a face-die reset a job rolls back if it may, or stops (R426); after a course-die reset it
resumes (R425). -/
def dieRelease (face : Bool) (s : State) (j : Nat) : State :=
  let keep := (jobOf s j).faults.filter (· != .dieReset)
  if !face then leaveFault s j keep
  else if mayRollBack s j then startRollback (clearFault s j keep) j none
  else stopJob s j

/-- Step 6 of Table 13-8: all verdicts good. -/
def dieDone (s : State) : State :=
  let face := s.rst.faceBusy
  if !(face || s.rst.courseBusy) || !((dieJobs s).all (allSwap s)) then s
  else
    let hdr := s.rst.dieHdr
    let s := each (dieJobs s) (dieRelease face) s
    let s := modRstBlk s fun r =>
      { r with faceBusy := false, courseBusy := false, viasEmpty := false, dieHdr := none }
    match hdr with
    | some h => complete (dropAccOf s 0x0212 h) h 0x0212 0x0105 .ok []
    | none => emitDev s 0x0105 []

/-! ## The verdict -/

/-- One tile of a preload: votes, comparisons, swap enables, findings. A controller that is not running
gives no verdict: it finds nothing and its swap enables are clear (R160, Table 5-3). -/
def verdictTile (j c rollback : Nat) (s : State) (e : Nat × Nat) : State :=
  let s := checkVote s e.2
  let x := tileOf s e.2
  let fs := if trwRuns x then findRows x c else []
  let target := (relocsOf s j).any fun r => r.copied && r.dst == e.2
  let s := noteFinds (setTile s e.2 (preloadTile x c fs)) j e.1 e.2 fs false (if target then 0 else rollback)
  let s := if fs.any (·.bad) && !target then
      modJob (faultHold .mismatch s j) j fun y =>
        if y.state = .loading then y else { y with wantRollback := true }
    else s
  let s := if fs.any (·.ue) then faultHold .storeError s j else s
  let s := if trwRuns x then s else faultHold .trowelStop s j
  modJob s j fun y =>
    if y.state = .loading ∨ target then y
    else { y with badRows := y.badRows ++ (badRowsOf e.2 fs).filter fun r => !y.badRows.contains r }

/-- Rows that mismatch at start-up enter the list of repeated mismatches (R117). -/
def listStartup (c : Nat) (s : State) (e : Nat × Nat) : State :=
  each ((findRows (tileOf s e.2) c).filter (·.bad)) (fun s f =>
    modSprBlk s fun m =>
      let l := freshList s ++ [(e.2, f.brick, f.course, f.row, s.nowUs)]
      { m with mismatches := l.drop (l.length - 64) }) s

/-- Relocation targets that the verdict has found bad. -/
def retryMoves (s : State) (j : Nat) : State :=
  each ((relocsOf s j).filter fun r =>
    r.copied && !((tileOf s r.dst).swapOn && (tileOf s r.dst).swapClear.isEmpty)) retryMove s

/-- Verdict on the preload of a course for every tile of a job. -/
def verdict (s : State) (j c : Nat) : State :=
  let x := jobOf s j
  let up := x.state == .loading
  let s := modJob s j fun y => { y with badRows := [] }
  let rb := b2n (!up && mayRollBack s j)
  let s := each (jobTiles s j) (verdictTile j c rb) s
  if !allSwap s j then
    (if up then each (jobTiles s j) (listStartup c) s
     else retryMoves (modJob s j fun y => { y with go := false, rewriting := false }) j)
  else if up then startedUp s j
  else if x.faults.contains .dieReset then dieDone (modJob s j fun y => { y with rewriting := false })
  else if x.rewriting then releaseFault s j
  else s

/-- A preload is to be judged: the pending course's, or a repeated one after firmware has acted. -/
def preloadDue (s : State) (j : Nat) : Bool :=
  let x := jobOf s j
  !relocsWait s j && (x.rewriting
    || (!(x.faults.any actionable) && !(x.faults.contains .dieReset) && !allSwap s j))

/-- The start-up preload of a load is to be judged, once the fabric clock is within fab_max (R115). -/
def startupDue (s : State) (j : Nat) : Bool :=
  (jobOf s j).state == .loading && decide (s.clk.granted ≤ (jobOf s j).desc.fabMax) && (match s.load with
    | some l => l.job == j && l.stage == .starting
    | none => false)

/-! ## Fault holds (Table 5-2) -/

/-- The job stands in a fault hold, or is held where one is pending. -/
def faultHeld (s : State) (x : Job) : Bool :=
  seqOn s x && x.faults.any actionable
    && (x.waits.getLsbD 0 || (x.replay.isNone && (x.state == .heldFault || x.state == .heldCmd)))

/-- A stopped trowel is reloaded; one that stopped twice within 1 s retires its tile (R161). -/
def reloadTile (s : State) (e : Nat × Nat) : State :=
  let x := tileOf s e.2
  let s := if trwStopped x then modTile s e.2 reloadTrowel else s
  if x.stopAgain then retireTile (modTile s e.2 fun t => { t with stopAgain := false }) e.2 0 else s

/-- Steps 2 and 3 for one row, with the golden frame read from LP5X (R134, R152); a tile that relocates is left to Table 16-5. -/
def handleRow (j : Nat) (goldenBad : Bool) (s : State) (r : Nat × Nat × Nat × Nat × Bool) : State :=
  let (t, b, c, row, viaStore) := r
  if (jobOf s j).state = .stopped then s
  else
    let (out, s) := if viaStore then (false, s) else repeatRule s t b c row
    let s := if out then retireTile s t 0 else s
    if (relocsOf s j).any (fun m => m.src == t) then s
    else
      let (bad, s) := match ownerOf s t with
        | some (_, vt) => readFrame s j vt b c row
        | none => (false, s)
      if goldenBad || bad then goldenLost s j else
      let (ok, s) := rewriteRow s j t b c row viaStore
      if ok then s else goldenLost s j

/-- Steps 1 to 4. -/
def handleFaults (s : State) (j : Nat) (goldenBad : Bool) : State :=
  let s := enterFault j (modJob s j (setWait 1 true))
  let s := each (jobTiles s j) (fun s e => auditTile s e.2) s
  let s := each (jobTiles s j) reloadTile s
  let s := each (jobOf s j).badRows (handleRow j goldenBad) s
  if (jobOf s j).state = .stopped then s
  else modJob s j fun x => { x with badRows := [], rewriting := true }

/-! ## Refresh sweeps (R95, R151) -/

/-- One tile of a sweep: every row of courses 0 to N − 1 is read and compared. Tiles that are being
rewritten take holding sweeps in its place, without comparison (R97), and a stopped trowel compares
nothing (R160). -/
def sweepTile (j n : Nat) (s : State) (e : Nat × Nat) : State :=
  let x := tileOf s e.2
  if x.holding || !trwRuns x then s
  else
    let fs := (List.range n).flatMap (findRows x)
    let s := noteFinds s j e.1 e.2 fs true 0
    each (badRowsOf e.2 fs) (handleRow j false) s

/-- One entry of a brick's store, read by the trowel's own sweep (R158); the golden frame that an
uncorrectable one is recomputed from may itself fail its read (R134). -/
def sweepEntry (t e : Nat) (s : State) (b : Nat) : State :=
  let x := tileOf s t
  let w := (mapGet x.store 0 (storeKey b e)).toNat
  match secRead 7 32 (w % 2 ^ 32) (w / 2 ^ 32) with
  | some (d, k, true) =>
    leafAdd (setTile s t { setTrwBits 2 x with
      storeWb := x.storeWb ++ [(storeKey b e, BitVec.ofNat 39 (d + k * 2 ^ 32))] }) (leafTile t 1) 1
  | some _ => s
  | none =>
    let s := leafAdd s (leafTile t 2) 1
    let fs := [(2, t), (2, b), (2, e), (1, 1)]
    match ownerOf s t with
    | some (j, vt) =>
      let img := (jobOf s j).image.getD {}
      let own := decide (e / 10 < (jobOf s j).desc.courseCount)
      let (bad, s) := if own then readFrame s j vt b (e / 10) (e % 10) else (false, s)
      if bad then goldenLost s j else
      let v := if e / 10 < (jobOf s j).desc.courseCount then
          sigEntry (rowSigOf (mapGet img.rows 0 (vt * 262144 + planeKey (e / 10) b (e % 10))))
        else 0
      emitDev (setTile s t { setTrwBits 4 x with store := mapPut x.store 0 (storeKey b e) v }) 0x0407 fs
    | none =>
      emitDev (setTile s t { setTrwBits 4 x with store := mapPut x.store 0 (storeKey b e) 0 }) 0x0407 fs

end Sys2Proof.Machine
end

