-- ==== Sys2Proof/Machine/Arrays.lean ====
section
/-! DEFINITION. Remote hods, array jobs, checkpoints and replay: what each message and command does
(R347, R348, R352–R383). -/

namespace Sys2Proof.Machine

/-! ## Remote hods -/

/-- Item header and words of a remote item (R347). -/
def remoteBody (h prio : Nat) (ws : List Word) (poison : BitVec 16) : List Byte :=
  leBytes 8 (h % 32768 + ws.length % 32 * 2 ^ 15 + prio % 8 * 2 ^ 20 + poison.toNat * 2 ^ 24)
    ++ ws.flatMap fun w => leBytes 8 w.toNat

/-- An item arrives for a hod of this device (R348). -/
def remoteItem (s : State) (port src h prio : Nat) (ws : List Word) (poison : BitVec 16) : State :=
  if isProducer s (hodOf s h) (.remote src) then
    let s := modPalBlk s fun p => { p with rTaken := mapMod p.rTaken 0 h (· + 1) }
    hodPushItem s h (.remote src) prio ws poison
  else
    unroutable (modArrBlk s fun a => { a with itemDrops := mapMod a.itemDrops 0 h (· + 1) }) port

/-- A remote item as it arrives (R347). -/
def remoteItemOf (s : State) (port src : Nat) (body : List Byte) : State :=
  let v := leAt body 0 8
  remoteItem s port src (field v 14 0) (field v 22 20)
    ((List.range (field v 19 15)).map fun i => BitVec.ofNat 64 (leAt body (8 + 8 * i) 8))
    (BitVec.ofNat 16 (field v 39 24))

def execRemoteHodItem (port : Nat) (s : State) : Host.Outcome State Fault Refusal :=
  atUnit (decide (port < 12)) (arriving s port 1 0 fun e body s => remoteItemOf s port e.src body)

/-- B's cumulative grant reaches A. -/
def takeGrant (s : State) (src : Nat) (body : List Byte) : State :=
  let hod := leAt body 0 2
  if isConsumer s (hodOf s hod) (.remote src) then
    modPalBlk s fun p => { p with rCredit := mapPut p.rCredit 0 hod (leAt body 4 4) }
  else s

def execRemoteHodCreditGrant (port : Nat) (s : State) : Host.Outcome State Fault Refusal :=
  atUnit (decide (port < 12)) (arriving s port 1 1 fun e body s => takeGrant s e.src body)

/-- Every word of the item that goes next, taken by a consumer. -/
def takeWholeItem : Nat → State → Nat → Agent → List PortWord × State
  | 0, s, _, _ => ([], s)
  | n + 1, s, h, a =>
    match hodPopWord s h a with
    | (some w, s) =>
      if w.last then ([w], s)
      else
        let (ws, s) := takeWholeItem n s h a
        (w :: ws, s)
    | (none, s) => ([], s)

/-- A sends one complete item while it holds a credit (R348). -/
def execRemoteHodSend (hod : Nat) (ups : List Upset) (s : State) :
    Host.Outcome State Fault Refusal :=
  .next (
    let s := upsets s ups
    let x := hodOf s hod
    let o := x.p.consEp % 1024
    let left := (mapGet s.pal.rCredit 0 hod + 2 ^ 32 - mapGet s.pal.rSent 0 hod % 2 ^ 32) % 2 ^ 32
    if !isConsumer s x (.remote o) || hodEmpty x || left == 0 then s
    else
      let (ws, s) := takeWholeItem 16 s hod (.remote o)
      let s := modPalBlk s fun p => { p with rSent := mapMod p.rSent 0 hod (· + 1) }
      let poison := (ws.zip (List.range ws.length)).foldl (fun (m : BitVec 16) w =>
        if w.1.poison then m ||| BitVec.ofNat 16 (2 ^ w.2) else m) 0
      let prio := match ws with | w :: _ => w.prio | [] => 0
      routeSend s 1 0 o (remoteBody hod prio (ws.map (·.data)) poison))

/-! ## Ordinal, streams, policy -/

def loadedState (st : JobState) : Bool := st != .empty

def execCmdArrOrdinal (h : Hdr) (ordinal : Nat) (s : State) : Host.Outcome State Fault Refusal :=
  .next (runCmd s h 0x0707 .pf0 false fun _ =>
    if (List.range 8).any fun j => loadedState (jobOf s j).state then fail s h 0x0707 .wrongState
    else if 1024 ≤ ordinal then fail s h 0x0707 .badParam
    else answer (modArrBlk s fun a => { a with ordinal := some ordinal, ordFromChain := false })
      h 0x0707 [])

/-- Held before user cycle 0 by NO_RELEASE (R130). -/
def heldBeforeZero (x : Job) : Bool := x.state == .heldCmd && x.beforeZero

/-- vtile_count, course_count and jnt_intra_mask of a job's image, once it is known (R355). -/
def imageParams (s : State) (j : Nat) : Option (Nat × Nat × BitVec 32) :=
  let x := jobOf s j
  match x.image, s.load with
  | some img, _ => some (img.vtCount, x.desc.courseCount, x.desc.intraMask)
  | none, some l =>
    if l.job = j ∧ l.stage ≠ .header ∧ l.stage ≠ .descriptor then
      some (l.vtCount, l.courseCount, l.desc.intraMask)
    else none
  | none, none => none

/-- Tiles that a consumer entry delivers to. -/
def consTiles (e : ConsEntry) : List Nat :=
  (List.range 8).filterMap fun i => if e.mask.getLsbD i then some (listAt e.vts 0 i) else none

/-- The checks of R356 for a source entry against an image's figures. -/
def srcFits (s : State) (j st : Nat) (e : SrcEntry) (vts courses : Nat) : Bool :=
  !e.valid || (e.job == j && e.vts.all (fun v => decide (v < vts)) && decide (e.sendCourse < courses)
    && decide (1 ≤ e.vts.length) && decide (e.vts.length ≤ 8) && decide (1 ≤ e.consumers)
    && decide (e.consumers ≤ 1023)
    && (originated s j).all fun o => o.1 == st || o.2.vts.all fun v => !e.vts.contains v)

/-- The checks of R356 for a consumer entry; `mask` is jnt_intra_mask where the image is known. -/
def consFits (s : State) (j st : Nat) (e : ConsEntry) (vts courses : Nat)
    (mask : Option (BitVec 32)) : Bool :=
  let f := mapGet s.lry.fwd {} st
  !e.valid || ((consTiles e).all (fun v => decide (v < vts)) && decide (e.recvCourse < courses)
    && (match mask with | some m => e.recvCourse == 0 || m.getLsbD e.recvCourse | none => true)
    && (consTiles e).eraseDups.length == (consTiles e).length
    && (consumed s j).all (fun o => o.1 == st || (consTiles o.2).all fun v => !(consTiles e).contains v)
    && f.job == j)

/-- Every stream entry of a job fits an image (Table 4-7 step 2b). -/
def streamsFit (s : State) (j vts courses : Nat) (mask : BitVec 32) : Bool :=
  (originated s j).all (fun e => srcFits s j e.1 e.2 vts courses)
    && (consumed s j).all fun e => consFits s j e.1 e.2 vts courses (some mask)

def execCmdArrStream (h : Hdr) (stream : Nat) (e : StreamEntry) (s : State) :
    Host.Outcome State Fault Refusal :=
  .next (runCmd s h 0x0708 .pf0 true fun j =>
    let x := jobOf s j
    let p := imageParams s j
    let vts := (p.map (·.1)).getD 384
    let courses := (p.map (·.2.1)).getD 32
    let mask := p.map (·.2.2)
    if x.state != .empty && x.state != .loading && !heldBeforeZero x then fail s h 0x0708 .wrongState
    else if 4096 ≤ stream then fail s h 0x0708 .badParam
    else match e with
      | .source e =>
        if srcFits s j stream e vts courses then
          answer (modArrBlk s fun a => { a with src := mapPut a.src {} stream e,
                                                srcRun := mapPut a.srcRun {} stream {} }) h 0x0708 []
        else fail s h 0x0708 .badParam
      | .consumer e =>
        if consFits s j stream e vts courses mask then
          answer (modArrBlk s fun a => { a with cons := mapPut a.cons {} stream e,
                                                consRun := mapPut a.consRun {} stream {} }) h 0x0708 []
        else fail s h 0x0708 .badParam)

/-- The exponent of an interval that is a power of two from 2¹⁰ to 2³². -/
def intervalLog (n : Nat) : Option Nat :=
  (List.range 23).findSome? fun i => if n = 2 ^ (10 + i) then some (10 + i) else none

def execCmdArrCkptPolicy (h : Hdr) (interval : Nat) (s : State) : Host.Outcome State Fault Refusal :=
  .next (runCmd s h 0x0709 .pf0 true fun j =>
    match intervalLog interval with
    | some n => answer (modJob s j fun x => { x with ckptLog2 := n }) h 0x0709 []
    | none => fail s h 0x0709 .badParam)

/-! ## Rollback commands -/

/-- States from which a rollback may be ordered (R375). -/
def rollState (x : Job) : Bool :=
  x.state == .heldCmd || x.state == .heldFault || x.state == .stopped

def execCmdArrRollbackLocal (h : Hdr) (s : State) : Host.Outcome State Fault Refusal :=
  .next (runCmd s h 0x070A .both true fun j =>
    let x := jobOf s j
    if !rollState x || !x.recoverable || x.replay.isSome || s.pwr.state == .deepHold
        || (latestCkpt x).isNone then fail s h 0x070A .wrongState
    else if lp5xBad s then fail s h 0x070A .hwFault
    else accept s h 0x070A [j] fun s => startRollback s j (some h))

/-- Global mode: the checkpoint of k is restored and the job waits in STATE 4 (Table 11-11); the event
that completes the command follows at once, since nothing is replayed (log 26). -/
def execCmdArrRollbackGlobal (h : Hdr) (k : Word) (epoch : BitVec 4) (s : State) :
    Host.Outcome State Fault Refusal :=
  .next (runCmd s h 0x070A .both true fun j =>
    let x := jobOf s j
    if !rollState x || x.replay.isSome || s.pwr.state == .deepHold then fail s h 0x070A .wrongState
    else match ckptAt x k with
      | none => fail s h 0x070A .badParam
      | some ck =>
        if lp5xBad s then fail s h 0x070A .hwFault
        else if 16 ≤ s.hif.accepted.length then fail s h 0x070A .busy
        else
          let s := respond s h 0x070A .accepted []
          complete (globalRollback s j ck epoch) h 0x070A 0x0A04 .ok [])

/-! ## Export and import (R382) -/

def execCmdArrCkptExport (h : Hdr) (b : Bulk) (s : State) : Host.Outcome State Fault Refusal :=
  .next (runCmd s h 0x070B .both true fun j =>
    let x := jobOf s j
    match badBulk b with
    | some i => respond s h 0x070B .badParam (leBytes 4 i)
    | none =>
      if !(x.state == .running || x.state == .releasing || x.state == .heldCmd)
          || x.exportReq.isSome || x.replay.isSome || s.pwr.state == .deepHold then
        fail s h 0x070B .wrongState
      else if lp5xBad s then fail s h 0x070B .hwFault
      else accept s h 0x070B [j] fun s =>
        let s := modJob s j fun x => { x with exportReq := some h }
        if x.state == .heldCmd && x.endDone && atCommit x && x.capturing.isNone then startCapture s j
        else s)

/-- Every line of a page as it stands, in plaintext; lines that read as zero are left out. A line that
fails its read ends it, with the events of R204 and R205. -/
def pageLines (p : Nat) (acc : Bool × SMap Line × State) : Bool × SMap Line × State :=
  (List.range 8192).foldl (fun acc i =>
    if acc.1 then
      match readLine acc.2.2 (p * 8192 + i) with
      | (.ok, d, s) => (true, mapPut acc.2.1 0 (p * 8192 + i) d, s)
      | (_, _, s) => (false, acc.2.1, s)
    else acc) acc

/-- The export of a finished checkpoint (R382). -/
def writeExport (s : State) (j : Nat) (ck : Ckpt) : State :=
  match (jobOf s j).exportReq with
  | none => s
  | some h =>
    let pages := pagesOfJob s j
    let (ok, ls, s) := pages.foldl (fun acc p => pageLines p acc) (true, ([] : SMap Line), s)
    let s := modJob s j fun x => { x with exportReq := none }
    if ok then
      let s := emitOut s (.export_ h.fn { ckpt := ck, pages := pages, lines := ls })
      complete (dropAccOf s 0x070B h) h 0x070B 0x0E02 .ok [(8, ck.k.toNat)]
    else complete (dropAccOf s 0x070B h) h 0x070B 0x0E02 .hwFault []

/-- A hod of an import: one of the same parameters takes its contents, one that is absent is created
under its number. -/
def importHod (j : Nat) (s : State) (e : Nat × Hod) : State :=
  let x := hodOf s e.1
  if x.valid then
    if x.job = j ∧ x.p = e.2.p then setHod s e.1 { e.2 with job := j, base := x.base, aside := none }
    else s
  else match freeBlock s (hodSize e.2) with
    | some b => setHod s e.1 { e.2 with job := j, base := b, aside := none }
    | none => s

/-- Pages of an import that are not yet the job's. -/
def importNew (s : State) (j : Nat) (e : Export) : List Nat :=
  e.pages.filter fun p => !(pagesOfJob s j).contains p

/-- The pages of an import can be mapped. -/
def importFits (s : State) (j : Nat) (e : Export) : Bool :=
  (importNew s j e).all (fun p => decide (p < 131072) && mapGet s.mem.mirror none p == none)
    && (freeFar s (importNew s j e).length).length == (importNew s j e).length

/-- Pages that no write reaches: only CMD_MEM_PAGE_RESET takes a page out of these states (R177). -/
def pageShut (s : State) (p : Nat) : Bool :=
  (pptOf s p).state == .lost || (pptOf s p).state == .quarantined

/-- The job takes the checkpoint's state and the pages' contents; a page that is lost or quarantined stays
so (log 129). -/
def importJob (s : State) (j : Nat) (e : Export) : State :=
  let new := importNew s j e
  let s := each (new.zip (freeFar s new.length)) (takeFrame j) s
  let s := updatePasr (each new finishMap s)
  let s := each (e.pages.filter fun p => !pageShut s p) resetPage s
  let s := each e.lines (fun s l => plainWrite s (l.1 * 128) (leBytes 128 l.2.toNat)) s
  let s := each e.ckpt.hods (importHod j) s
  let s := rewindStreams (restoreCkpt s j e.ckpt) j e.ckpt
  let s := beginEpoch (dropRecords s j) j e.ckpt.k
  modJob s j fun x =>
    { x with slotA := some e.ckpt, slotB := none, nextB := true, recoverable := true,
             resetAt := e.ckpt.resetAt, imported := true, hodHwm := [] }

def execCmdArrCkptImport (h : Hdr) (e : Export) (b : Bulk) (s : State) :
    Host.Outcome State Fault Refusal :=
  .next (runCmd s h 0x070C .pf0 true fun j =>
    let x := jobOf s j
    match badBulk b with
    | some i => respond s h 0x070C .badParam (leBytes 4 i)
    | none =>
      if !heldBeforeZero x || x.capturing.isSome then fail s h 0x070C .wrongState
      else if (x.image.map (·.crc)) != some e.ckpt.imageCrc then fail s h 0x070C .badParam
      else if !importFits s j e then fail s h 0x070C .noResource
      else if lp5xBad s then fail s h 0x070C .hwFault
      else accept s h 0x070C [j] fun s => importJob s j e)

/-- ARR_CKPT_STATUS (Table 11-6). -/
def execCmdArrStatus (h : Hdr) (s : State) : Host.Outcome State Fault Refusal :=
  .next (runCmd s h 0x070D .both true fun j =>
    answer s h 0x070D (leBytes 24 (ckptStatus (jobOf s j) (journalFill s) (undoFill s))))

/-! ## Frames, tokens, markers, resends -/

/-- A frame that arrives on a port (R343, R344, R361). -/
def jointFrame (s : State) (port : Nat) : State :=
  match nextMsg s port 0 0 with
  | none => s
  | some m =>
    let f := frameOf m.body
    handleBy (takeMsg s port m) m.fwd f (some port) (f.hops + 1)

def execJointFrame (port : Nat) (s : State) : Host.Outcome State Fault Refusal :=
  atUnit (decide (port < 12)) (jointFrame s port)

/-- A token as it arrives (R359). -/
def tokenOf (s : State) (src : Nat) (body : List Byte) : State :=
  let v := leAt body 0 4
  takeToken s src (field v 11 0) (BitVec.ofNat 4 (field v 15 12)) (BitVec.ofNat 32 (leAt body 4 4))

def execBarrierToken (port : Nat) (s : State) : Host.Outcome State Fault Refusal :=
  atUnit (decide (port < 12)) (arriving s port 2 1 fun e body s => tokenOf s e.src body)

/-- Job that a stream belongs to on this device. -/
def streamJob (s : State) (st : Nat) : Option Nat :=
  if (srcOf s st).valid then some (srcOf s st).job
  else if (consOf s st).valid then some (mapGet s.lry.fwd {} st).job
  else none

/-- A marker: its checkpoint is scheduled and the marker relayed once; one for a target already passed
is dropped and reported as missed, reason 6 (R365, log 136). -/
def takeMarker (s : State) (src st : Nat) (epoch : BitVec 4) (target : Word) : State :=
  match streamJob s st with
  | none => s
  | some j =>
    let x := jobOf s j
    if epoch != x.epoch then s
    else if target ≤ x.cycle then emitJob s 0x0A08 j [(1, 6)]
    else
      let s := addPeer s j src
      let s := modJob s j fun x =>
        { x with earlyAt := if x.earlyAt.contains target then x.earlyAt else x.earlyAt ++ [target] }
      if s.arr.relayed.contains (j, target) then s
      else sendMarkers (modArrBlk s fun a => { a with relayed := a.relayed ++ [(j, target)] }) j st target

/-- A marker as it arrives (R365). -/
def markerOf (s : State) (src : Nat) (body : List Byte) : State :=
  let v := leAt body 0 8
  takeMarker s src (field v 11 0) (BitVec.ofNat 4 (field v 15 12)) (BitVec.ofNat 64 (leAt body 8 8))

def execCheckpointMarker (port : Nat) (s : State) : Host.Outcome State Fault Refusal :=
  atUnit (decide (port < 12)) (arriving s port 2 2 fun e body s => markerOf s e.src body)

/-- A consumer asks for the frames it lacks; without the records the source's job enters a fault hold
that only the host ends (R383). -/
def takeResend (s : State) (stream : Nat) (firstCycle : Word) : State :=
  if !(srcOf s stream).valid then s
  else match resendFrom s stream firstCycle with
    | some s => s
    | none =>
      let j := (srcOf s stream).job
      faultHold .resendFailed (emitJob s 0x0A09 j []) j

def execResendRequest (port : Nat) (s : State) : Host.Outcome State Fault Refusal :=
  atUnit (decide (port < 12)) (arriving s port 2 3 fun _ body s =>
    takeResend s (leAt body 0 4) (BitVec.ofNat 64 (leAt body 4 8)))

/-! ## Checkpoint capture and replay -/

/-- The cut (Table 11-5 step 3): the masons are paused and every sampled request is complete; both
epochs of cycle k begin, and the job's state is what the checkpoint will hold. -/
def execCheckpointCut (job : Nat) (s : State) : Host.Outcome State Fault Refusal :=
  .next (
    let x := jobOf s job
    if x.capturing != some .pausing || !((masonsOfJob s job).all fun m => pausedNow (masonOf s m))
        || !(x.memReqs.all fun r => r.result.isSome) then s
    else
      let s := beginEpoch s job x.cycle
      modJob s job fun y =>
        { y with capturing := some .cut, cutState := some (makeCkpt s job x.cycle) })

/-- Steps 4 to 7: the area and its header are written and the job goes on, or the capture fails (R366,
R368). A hold due at the same boundary follows (R88). -/
def execCkptDone (job : Nat) (failed : Bool) (s : State) : Host.Outcome State Fault Refusal :=
  .next (
    let x := jobOf s job
    match x.capturing, x.cutState with
    | some .cut, some ck =>
      let s :=
        if failed then stopEntry (failCapture s job 2)
        else
          let s := modJob s job fun y =>
            { y with slotA := if y.nextB then y.slotA else some ck,
                     slotB := if y.nextB then some ck else y.slotB, nextB := !y.nextB,
                     recoverable := true, imported := false,
                     earlyAt := y.earlyAt.filter fun t => decide (ck.k < t) }
          let s := freeRecords (emitJob s 0x0A01 job [(8, ck.k.toNat)]) job
          endCapture (writeExport s job ck) job
      let s := modJob s job fun y => { y with skipCkpt := true }
      if holdDue (jobOf s job) (jobOf s job).cycle then enterHold s job else s
    | _, _ => s)

/-- A shadow pop (R378): the port's next word leaves its hod and is compared with the record. -/
def execShadowPop (job vt port : Nat) (s : State) : Host.Outcome State Fault Refusal :=
  .next (
    match (jobOf s job).replay with
    | none => s
    | some r =>
      let mine (e : JEntry) : Bool := match e.body with
        | .hodDeliver v p _ _ _ => v == vt && p == port
        | _ => false
      match r.shadow.find? mine with
      | none => s
      | some e =>
        match e.body with
        | .hodDeliver _ _ _ h w =>
          let drop (s : State) : State := modJob s job fun x =>
            { x with replay := x.replay.map fun r => { r with shadow := r.shadow.erase e } }
          if !(hodOf s h).valid || (portConsumes s job vt port).isNone then
            diverge (drop s) job 1 h e.cycle
          else match hodPopWord s h (.tile job vt port) with
            | (some v, s) =>
              let s := stepArrivals (drop s) job
              if v = w then s else diverge s job 1 h e.cycle
            | (none, s) => s
        | _ => s)

/-- The job stands at b and every shadow pop is made (Table 11-10 step 6). -/
def execReplayDone (job : Nat) (s : State) : Host.Outcome State Fault Refusal :=
  .next (
    let x := jobOf s job
    match x.replay with
    | some r => if atB x && r.shadow.isEmpty then endReplay s job else s
    | none => s)

end Sys2Proof.Machine
end

