-- ==== Sys2Proof/Machine/ClkOps.lean ====
section
/-! DEFINITION. Clocks: the FAB frequency change (Table 13-4), domain starts, and the loss of REF
(R405–R417). -/

namespace Sys2Proof.Machine

/-! ## FAB frequency -/

/-- The FAB PLL in use, and the other one (R405). -/
def fabPll (s : State) : Nat := b2n s.clk.fabSrc
def idlePll (s : State) : Nat := 1 - b2n s.clk.fabSrc

def pllBit (i : Nat) : BitVec 6 := BitVec.ofNat 6 (2 ^ i)

/-- Smallest fab_max of the loaded jobs, and of an image about to be applied (R100, R115). -/
def fabLimit (s : State) : Nat :=
  (List.range 8).foldl (fun m j =>
    let x := jobOf s j
    if x.image.isSome && x.state != .empty then min m x.desc.fabMax else m)
    (match s.load with
     | some l => if l.stage = .ramping then l.desc.fabMax else 1200
     | none => 1200)

/-- Step 1 of Table 13-4: the idle PLL is programmed and enabled. -/
def startChange (s : State) (mhz : Nat) : State :=
  if s.clk.change.isSome || !s.clk.domainsOn || mhz == s.clk.granted then s
  else
    let p := idlePll s
    modClkBlk s fun c =>
      { c with pllEn := c.pllEn ||| pllBit p, pllStable := c.pllStable &&& ~~~pllBit p,
               pllMhz := mapPut c.pllMhz 0 p mhz,
               change := some { mhz := mhz, stage := .pllWait } }

/-- The fabric clock comes down to what the loaded jobs bear (R100). -/
def settleFab (s : State) : State :=
  if fabLimit s < s.clk.granted then startChange s (fabLimit s) else s

/-- Step 3: every job is held at its next course boundary, at priority 2 (R412). -/
def holdForClock (s : State) : State :=
  each (List.range 8) (fun s j =>
    if (jobOf s j).image.isSome then modJob s j fun x => { x with clockHold := true, go := false, ahead := 0 }
    else s) s

def freeFromClock (s : State) : State :=
  each (List.range 8) (fun s j =>
    if (jobOf s j).clockHold then modJob s j fun x => { x with clockHold := false } else s) s

/-- The job stands at a boundary: held, stopped, or waiting there (R412). -/
def atRest (s : State) (j : Nat) : Bool :=
  let x := jobOf s j
  x.image.isNone || !(active x) || (!x.go && x.charge != 0) || x.endDone || atB x

def allAtRest (s : State) : Bool := (List.range 8).all (atRest s)

/-- Step 7: the jobs go on, the old PLL is disabled, EV_CLK_FAB_CHANGED. -/
def endChange (s : State) (mhz : Nat) : State :=
  let old := idlePll s
  let s := modClkBlk s fun c =>
    { c with granted := mhz, ramping := false, change := none, pllEn := c.pllEn &&& ~~~pllBit old,
             pllStable := c.pllStable &&& ~~~pllBit old }
  settleFab (emitDev (freeFromClock s) 0x0106 [])

/-! ## Domains -/

/-- The PLLs that feed a domain at work: the FAB source and PLL2 to PLL5. -/
def mainPlls (s : State) : BitVec 6 := 0x3C ||| pllBit (fabPll s)

/-- Every domain fed by a PLL starts, FAB at /16 (Table 13-3 step 6). -/
def startDomains (s : State) : State :=
  if s.clk.domainsOn || (s.clk.pllStable &&& mainPlls s) != mainPlls s then s
  else modClkBlk s fun c => { c with domainsOn := true, fabDiv := 4, ramping := true }

/-- A PLL is declared stable (R406). -/
def pllStable (s : State) (p : Nat) : State :=
  if !s.clk.pllEn.getLsbD p || s.clk.pllStable.getLsbD p then s
  else
    let s := startDomains (modClkBlk s fun c => { c with pllStable := c.pllStable ||| pllBit p })
    match s.clk.change with
    | some ch =>
      if ch.stage = .pllWait ∧ p = idlePll s then
        holdForClock (modClkBlk s fun c => { c with change := some { ch with stage := .holding } })
      else s
    | none => s

/-! ## Loss of REF (R417) -/

/-- A job is held where it stands; the host resumes it (R418). -/
def holdHere (s : State) (j : Nat) : State :=
  modJob s j fun x =>
    if active x ∧ x.replay.isNone then
      setWait 4 true { x with state := .heldCmd, cmdHeld := true, go := false, ahead := 0 }
    else x

/-- Self-refresh of every channel that is trained; accesses that waited are discarded (R228). -/
def selfRefresh (s : State) : State :=
  modLpBlk s fun l =>
    { l with training := false, waiting := [],
             chans := l.chans.map fun e =>
               if e.2.st = 5 then e else (e.1, { e.2 with st := 4 }) }

/-- Steps 1 to 4 of R417. -/
def refLoss (s : State) : State :=
  let s := modClkBlk s fun c =>
    { c with refStable := false, refArmed := false, refLost := true, refRun := 0, refLast := none,
             belicOnSafe := true, change := none, ramping := false }
  let s := each (List.range 8) holdHere (freeFromClock s)
  let s := modLpBlk (selfRefresh s) fun l => { l with retainMask := 0xFF }
  let s := tellHv s fun h => { h with refLost := true }
  linkEvent (emitLog s 0x0102 []) 0x0102

/-- Larey ports go down. -/
def portsDown (s : State) : State :=
  each (List.range 12) (fun s p => modPort s p fun q =>
    { q with st := if q.st = .up ∨ q.st = .retrain then .down else q.st, actWidth := 0,
             laneMask := 0 }) s

/-- The course planes lose what they hold (R417). -/
def losePlanes (s : State) : State :=
  each (s.tiles.map (·.1)) (fun s t => modTile s t fun x =>
    { x with planesLost := !x.planes.isEmpty || x.planesLost }) s

end Sys2Proof.Machine
end

