-- ==== Sys2Proof/Machine/LoadOps.lean ====
section
/-! DEFINITION. The loader: sections of a course image, the checks of Table 4-7, binding, applying and
the failure paths (R102–R117, R131). -/

namespace Sys2Proof.Machine

def allZero (bs : List Byte) : Bool := bs.all (· == 0)
def rangeZero (bs : List Byte) (off n : Nat) : Bool := allZero ((bs.drop off).take n)

/-! ## Clearing and failing (R131) -/

/-- Planes, cell words, state files, slabs and links of a tile go to zero, its reservation ends, and it
holds no unfinished test. -/
def clearTile (s : State) (t : Nat) : State :=
  modTile s t bareTile

def dropEntries (s : State) (j : Nat) : State :=
  { s with tileMap := s.tileMap.filter fun e => e.2.job != j }

/-- The job returns to STATE 0 without image. -/
def emptyJob (x : Job) : Job :=
  { x with state := .empty, image := none, desc := {}, noRelease := false, memReqs := [] }

/-- A load ends with a failing status: what it touched is cleared, and EV_LOAD_DONE is raised. The
rest of an image on a chain is discarded (R125); without an ordinal the device keeps none of the
stream (R124). Before step 1 has passed, a request is answered instead (R119); one whose mailbox a PCIe
reset has taken is reported in the device event log only (R132). -/
def failLoad (s : State) (st : St) : State :=
  match s.load with
  | none => s
  | some l =>
    let s := if l.chain then
        { s with load := none, chain := { s.chain with
            keep := false, kept := false, gaveUp := s.chain.gaveUp || s.arr.ordinal.isNone } }
      else { s with load := none }
    if l.stage = .header then
      match l.hdr with
      | some h =>
        let lost := (mbxOf s h.fn h.mbx).orphan
        let s := respond s h 0x0301 st []
        if lost then loadDone s l.job l.hdr st false 0 else s
      | none => loadDone s l.job none st false 0
    else
      let s := each l.bound (fun s e => clearTile s e.2) s
      let s := modJob (dropEntries (freeGolden s l.image) l.job) l.job emptyJob
      loadDone s l.job l.hdr st false 0

/-! ## Header (Table 4-2, steps 1a to 1h) -/

/-- Offsets and lengths agree with Table 4-1. -/
def layoutOk (bs : List Byte) : Bool :=
  let vts := leAt bs 0xA 2
  let slabOff := leAt bs 0x18 8
  let sigOff := leAt bs 0x20 8
  let total := leAt bs 0x28 8
  let n := leAt bs 0x30 2
  leAt bs 0x10 8 == 0x100 && slabOff % 8 == 0 && sigOff % 8 == 0 && decide (0x200 ≤ slabOff)
    && decide (slabOff ≤ sigOff) && decide (n ≤ 18432) && (n == 0) == (slabOff == sigOff)
    && total == sigOff + 16 + 8 * vts + 32

def headerReserved (bs : List Byte) : Bool :=
  leAt bs 0xD 1 < 2 && leAt bs 0xE 2 < 1024 && rangeZero bs 0x32 202

/-- Spans of the golden-copy region in use, lowest first. -/
def goldenUsed (s : State) : List (Nat × Nat) :=
  ((goldenImages s).flatMap (·.spans)).mergeSort fun a b => a.1 ≤ b.1

/-- The lowest free lines from `at_` up to `stop`, `need` of them as far as there are so many. -/
def takeGaps (stop : Nat) : List (Nat × Nat) → Nat → Nat → List (Nat × Nat)
  | [], at_, need => if need = 0 ∨ stop ≤ at_ then [] else [(at_, min need (stop - at_))]
  | (a, n) :: r, at_, need =>
    let k := min need (a - at_)
    (if k = 0 then [] else [(at_, k)]) ++ takeGaps stop r (a + n) (need - k)

/-- Lines for a golden copy of so many bytes; a MiB of a region holds 8,192 lines (log 124). -/
def goldenPlace (s : State) (bytes : Nat) : List (Nat × Nat) :=
  let sp := listAt (regionSpans s.mem.regions) (0, 0) 0
  takeGaps ((sp.1 + sp.2) * 8192) (goldenUsed s) (sp.1 * 8192) ((bytes + 127) / 128)

/-- Room for a golden copy (Table 4-7 step 1h). -/
def goldenRoom (s : State) (bytes : Nat) : Bool :=
  decide (128 * ((goldenUsed s).map (·.2)).sum + bytes ≤ s.mem.regions.golden * 1048576)

def boundCount (s : State) : Nat := (s.tileMap.filter (fun e => e.2.valid)).length

/-- The job an image is for: the commanded one, or by chain the one that job_slot names (1e). -/
def slotJob (s : State) (l : Load) (slot : Nat) : Option Nat :=
  if l.chain then
    if slot = 0xFF then (createdJobs s).find? fun j => (jobOf s j).state == .empty
    else if slot < 8 ∧ (jobOf s slot).created then some slot
    else none
  else if slot = 0xFF ∨ slot = l.job then some l.job else none

/-- Steps 1a to 1h: the job, or the failing status. -/
def headerCheck (s : State) (l : Load) (bs : List Byte) : Except St Nat :=
  let vts := leAt bs 0xA 2
  if leAt bs 0 4 ≠ 0x49435A4B then .error .badParam
  else if leAt bs 0xFC 4 ≠ (crc32c (bs.take 0xFC)).toNat then .error .imageCrc
  else if leAt bs 6 2 ≠ 0x6532 ∨ s.rst.stepping.toNat < leAt bs 8 1 then .error .imageWrongPart
  else if leAt bs 5 1 ≠ 1 ∨ !headerReserved bs ∨ !layoutOk bs then .error .badParam
  else match slotJob s l (leAt bs 9 1) with
    | none => .error .badJob
    | some j =>
      if !(jobOf s j).created || (jobOf s j).state != .empty then .error .wrongState
      else if vts = 0 ∨ 384 < vts ∨ allocable s < vts then .error .imageTooLarge
      else if freeTiles s < vts ∨ 384 < boundCount s + vts
          ∨ !goldenRoom s (leAt bs 0x28 8) then .error .noResource
      else .ok j

/-- The load once its header has passed. -/
def headerLoad (s : State) (l : Load) (j : Nat) (bs : List Byte) : Load :=
  { l with job := j, stage := .descriptor, off := 256, vtCount := leAt bs 0xA 2,
           courseCount := leAt bs 0xC 1, slabOff := leAt bs 0x18 8, sigOff := leAt bs 0x20 8,
           total := leAt bs 0x28 8, slabBlocks := leAt bs 0x30 2, ordinal := leAt bs 0xE 2,
           image := { bytes := bs, vtCount := leAt bs 0xA 2, spans := goldenPlace s (leAt bs 0x28 8) } }

/-- The image header (R119): the failing status, or ST_ACCEPTED and STATE 1. -/
def takeHeader (s : State) (l : Load) (bs : List Byte) : State :=
  match headerCheck s l bs with
  | .error st => failLoad s st
  | .ok j =>
    let start (s : State) : State :=
      modJob { s with load := some (headerLoad s l j bs) } j fun x =>
        { x with state := .loading, noRelease := l.noRelease, loadDone := false, release := 0,
                 outHold := true, weHold := true, resets := 0x7F }
    match l.hdr with
    | some h => if 16 ≤ s.hif.accepted.length then failLoad s .busy
        else accept s h 0x0301 [j] start
    | none => start s

/-! ## Descriptor (Table 3-3, R83) -/

def parseDesc (bs : List Byte) : Desc :=
  { courseCount := leAt bs 0 1, static := bitOf (leAt bs 1 1) 0, patLen := leAt bs 2 1,
    minPeriod := leAt bs 4 2, fabMax := leAt bs 6 2, intraMask := BitVec.ofNat 32 (leAt bs 8 4),
    depth := (List.range 32).map fun k => leAt bs (0x10 + 2 * k) 2 % 4096,
    budget := (List.range 32).map fun k => leAt bs (0x50 + k) 1,
    pattern := (List.range 64).map fun i => BitVec.ofNat 16 (leAt bs (0x70 + 2 * i) 2) }

/-- The refusals of R83. -/
def descOk (d : Desc) : Bool :=
  let n := d.courseCount
  let least := if d.static then 2 else 12
  decide (1 ≤ n) && decide (n ≤ 32) && d.static == decide (n = 1)
    && (List.range 32).all (fun k =>
        if k < n then decide (least ≤ listAt d.depth 0 k) && decide (listAt d.depth 0 k ≤ 4095)
          && decide (1 ≤ listAt d.budget 0 k) && decide (listAt d.budget 0 k ≤ 32)
        else listAt d.depth 0 k == 0)
    && decide (1 ≤ d.patLen) && decide (d.patLen ≤ 64) && decide (400 ≤ d.fabMax)
    && decide (d.fabMax ≤ 1200) && !d.intraMask.getLsbD 0
    && (List.range 32).all fun k => decide (k < n) || !d.intraMask.getLsbD k

/-- Tile endpoints of the job's hods lie below a virtual tile count (R246). -/
def hodsFit (s : State) (j vts : Nat) : Bool :=
  s.pal.hods.all fun e =>
    !e.2.valid || e.2.job != j
      || ((e.2.p.prodKind != 1 || decide (e.2.p.prodEp % 512 < vts))
          && (e.2.p.consKind != 1 || decide (e.2.p.consEp % 512 < vts)))

/-- The load with one more section of its image. -/
def advance (l : Load) (bs : List Byte) : Load :=
  { l with off := l.off + bs.length, image := { l.image with bytes := l.image.bytes ++ bs } }

/-- Bytes beyond what the host's list covers never come (R121). -/
def shortList (l : Load) (n : Nat) : Bool := !l.chain && decide (l.covered < l.off + n)

/-- Steps 2 and 2b. -/
def takeDescriptor (s : State) (l : Load) (bs : List Byte) : State :=
  let d := parseDesc bs
  if !descOk d || d.courseCount != l.courseCount || !hodsFit s l.job l.vtCount
      || !streamsFit s l.job l.vtCount l.courseCount d.intraMask then failLoad s .badParam
  else { s with load := some { advance l bs with stage := .tiles, desc := d } }

/-! ## Tile blocks (Tables 4-3 to 4-5, steps 3a to 3d) -/

def parseLink (w : Nat) : Link :=
  { srcBrick := field w 8 0, srcSeg := field w 13 9, dstVt := field w 22 14,
    dstBrick := field w 31 23, dstSeg := field w 36 32 }

/-- The frame runs of a block: first address and frame bytes; none where a run does not fit. -/
def parseRuns : Nat → List Byte → Option (List (Nat × List Byte))
  | 0, bs => if bs.isEmpty then some [] else none
  | n + 1, bs =>
    let count := leAt bs 4 4
    if bs.length < 8 + 64 * count then none
    else match parseRuns n (bs.drop (8 + 64 * count)) with
      | some rs => some ((leAt bs 0 4, (bs.drop 8).take (64 * count)) :: rs)
      | none => none

/-- Place of a frame address among the frames of its tile. -/
def frameIndex (a : Nat) : Nat := field a 17 13 * 5120 + field a 12 4 * 10 + field a 3 0

/-- A run stays in the tile's courses and in the block's virtual tile. -/
def runOk (vt n : Nat) (r : Nat × List Byte) : Bool :=
  decide (field r.1 3 0 < 10) && field r.1 26 18 == vt && decide (r.1 < 2 ^ 27)
    && decide (field r.1 17 13 < n) && decide (frameIndex r.1 + r.2.length / 64 ≤ n * 5120)

/-- Runs in address order follow one another without gap or overlap from 0 to the end. -/
def covers : Nat → Nat → List (Nat × List Byte) → Bool
  | at_, n, [] => at_ == n
  | at_, n, r :: rs => frameIndex r.1 == at_ && covers (at_ + r.2.length / 64) n rs

/-- Runs in address order. DESIGN CHOICE (log 120): a run of no frames is dropped. -/
def sortRuns (rs : List (Nat × List Byte)) : List (Nat × List Byte) :=
  (rs.filter fun r => !r.2.isEmpty).mergeSort (fun a b => frameIndex a.1 ≤ frameIndex b.1)

def rowOfBytes (bs : List Byte) : Row := BitVec.ofNat 512 (leNat bs)

/-- Rows of a run that are not zero, keyed by plane row. -/
def runRows (r : Nat × List Byte) : SMap Row :=
  (List.range (r.2.length / 64)).filterMap fun i =>
    let k := frameIndex r.1 + i
    let v := rowOfBytes ((r.2.drop (64 * i)).take 64)
    if v = 0 then none else some (planeKey (k / 5120) (k % 5120 / 10) (k % 10), v)

/-- Cell words that are not zero in one course of a tile's rows. -/
def courseWords (rows : SMap Row) (c : Nat) : List (Nat × Nat) :=
  rowWords 0 (rows.filterMap fun e => if e.1 / 8192 = c then some (e.1 % 8192, e.2) else none)

/-- Step 3b: no word raises a frame fault by its encoding, and bit 159 is zero. -/
def wordsOk (rows : SMap Row) (n : Nat) : Bool :=
  (List.range n).all fun c => (courseWords rows c).all fun e => !badEncoding e.2 && !bitOf e.2 159

/-- Step 3c: no segment has two owners (R44). -/
def contended (rows : SMap Row) (n : Nat) : Bool :=
  (List.range n).any fun c =>
    let os := (courseWords rows c).flatMap fun e => (ownersOf [] e.1 e.2).map (·.1)
    os.eraseDups.length != os.length

/-- Gateways that a virtual tile's links end at. -/
def gateways (links : List (Nat × Link)) : List (Nat × Nat) :=
  links.flatMap fun l =>
    [(l.1, segId l.2.srcBrick l.2.srcSeg), (l.2.dstVt, segId l.2.dstBrick l.2.dstSeg)]

/-- Step 3d for the links of a block, with those before it. DESIGN CHOICE (log 66): a destination off the
tile edge is refused as a source is. -/
def linksOk (l : Load) (vt : Nat) (ls : List Link) : Bool :=
  let all := gateways (l.image.links ++ ls.map fun x => (vt, x))
  decide (ls.length ≤ 128)
    && ls.all (fun x => onEdge x.srcBrick x.srcSeg && onEdge x.dstBrick x.dstSeg
        && decide (x.dstVt < l.vtCount) && x.dstVt != vt)
    && all.eraseDups.length == all.length

/-- A tile block as it is read. -/
structure Block where
  words : List Nat
  runs  : List (Nat × List Byte)
  rows  : SMap Row

def parseBlock (bs : List Byte) : Option Block :=
  let n := leAt bs 4 2
  if bs.length < 64 + 8 * n then none
  else match parseRuns (leAt bs 6 2) (bs.drop (64 + 8 * n)) with
    | some rs => some { words := (List.range n).map fun i => leAt bs (64 + 8 * i) 8,
                        runs := sortRuns rs, rows := (sortRuns rs).flatMap runRows }
    | none => none

/-- Step 3a. -/
def blockOk (l : Load) (bs : List Byte) (b : Block) : Bool :=
  leAt bs 0 2 == 1 && leAt bs 2 2 == l.nextVt && decide (1 ≤ leAt bs 6 2)
    && leAt bs 8 8 == bs.length && bs.length % 8 == 0 && rangeZero bs 0x10 48
    && b.words.all (fun w => decide (w < 2 ^ 37))
    && b.runs.all (runOk l.nextVt l.courseCount) && covers 0 (l.courseCount * 5120) b.runs

/-- Steps 3a to 3d in order; the last block ends where the next section begins. -/
def blockCheck (l : Load) (bs : List Byte) (b : Block) : Option St :=
  let last := l.nextVt + 1 == l.vtCount
  if !blockOk l bs b || (last && l.off + bs.length != l.slabOff)
      || (!last && decide (l.slabOff ≤ l.off + bs.length)) then some .badParam
  else if !wordsOk b.rows l.courseCount then some .badParam
  else if contended b.rows l.courseCount then some .imageContention
  else if !linksOk l l.nextVt (b.words.map parseLink) then some .badParam
  else none

/-- Step 5: at most 128 inbound links per tile, and every gw_claim on an edge gateway with an inbound
link (R45, R47). -/
def inboundOk (l : Load) : Bool :=
  (List.range l.vtCount).all (fun v =>
    decide ((l.image.links.filter fun x => x.2.dstVt == v).length ≤ 128))
  && (List.range l.vtCount).all fun v =>
    let rows := planesOf l.image v
    (List.range l.courseCount).all fun c => (courseWords rows c).all fun e =>
      let cell := e.1 % 32
      let b := e.1 / 32 % 512
      !gwClaim e.2 || (onEdge b cell && l.image.links.any fun x =>
        x.2.dstVt == v && x.2.dstBrick == b && x.2.dstSeg == cell)

/-- Lowest Tile Map entry that is not in use. -/
def freeEntry (s : State) : Nat :=
  ((List.range 384).find? fun n => !(s.tileMap.any fun e => e.1 == n)).getD 0

/-- A physical tile is chosen for a virtual tile and reserved (R16, R116). -/
def bindTile (s : State) (l : Load) (vt : Nat) : Option (Nat × State) :=
  match pickTile s with
  | none => none
  | some t =>
    let s := modTile (endSweepOf s t) t fun x => { x with reserved := true }
    some (t, { s with tileMap := mapPut s.tileMap {} (freeEntry s) { phys := t, job := l.job, vt := vt } })

def imageRows (vt : Nat) (rows : SMap Row) : SMap Row := rows.map fun e => (vt * 262144 + e.1, e.2)

/-- A tile block: a tile is chosen and takes the frames into its planes, then the checks decide. -/
def takeBlock (s : State) (l : Load) (bs : List Byte) : State :=
  match bindTile s l l.nextVt with
  | none => failLoad s .noResource
  | some (t, s) =>
    let l1 := { l with bound := l.bound ++ [(l.nextVt, t)] }
    match parseBlock bs with
    | none => failLoad { s with load := some l1 } .badParam
    | some b =>
      let s := modTile s t fun x => { x with planes := b.rows, planesLost := false, holding := true, holdUs := s.nowUs }
      match blockCheck l bs b with
      | some st => failLoad { s with load := some l1 } st
      | none =>
        let l2 := advance l1 bs
        let img := { l2.image with
          rows := l2.image.rows ++ imageRows l.nextVt b.rows,
          links := l2.image.links ++ b.words.map fun w => (l.nextVt, parseLink w) }
        let done := l.nextVt + 1 == l.vtCount
        let l3 : Load := { l2 with
          image := img, nextVt := l.nextVt + 1,
          stage := if !done then .tiles else if l.slabBlocks = 0 then .signatures else .slabs }
        if done && !inboundOk l3 then failLoad { s with load := some l3 } .badParam
        else { s with load := some l3 }

/-! ## Slab blocks (Table 4-6, step 4) -/

/-- Row r of the contents; in ECC mode the loader makes the check bits (R109). -/
def slabContent (bs : List Byte) (ecc : Bool) (r : Nat) : BitVec 72 :=
  let v := leAt bs (16 + 9 * r) 9
  if ecc then BitVec.ofNat 72 (secEncode 8 64 (v % 2 ^ 64)) else BitVec.ofNat 72 v

def slabRows (bs : List Byte) (vt sl : Nat) (init ecc : Bool) : SMap (BitVec 72) :=
  if init then
    (List.range 512).filterMap fun r =>
      let v := slabContent bs ecc r
      if v = 0 then none else some (vt * 24576 + sl * 512 + r, v)
  else []

def slabCheck (l : Load) (bs : List Byte) : Bool :=
  let w := leAt bs 5 1
  let init := bitOf w 5
  let key := leAt bs 2 2 * 48 + leAt bs 4 1
  leAt bs 0 2 == 2 && decide (leAt bs 2 2 < l.vtCount) && decide (leAt bs 4 1 < 48)
    && decide (l.lastSlab ≤ key)
    && leAt bs 8 8 == bs.length && bs.length == (if init then 4624 else 16)
    && (!bitOf w 4 || w % 16 == 0)

def takeSlab (s : State) (l : Load) (bs : List Byte) : State :=
  let w := leAt bs 5 1
  let vt := leAt bs 2 2
  let sl := leAt bs 4 1
  let seen := l.slabSeen + 1
  let last := seen == l.slabBlocks
  if !slabCheck l bs || (last && l.off + bs.length != l.sigOff)
      || (!last && decide (l.sigOff ≤ l.off + bs.length)) then failLoad s .badParam
  else
    let l1 := advance l bs
    let img := { l1.image with
      slabs := l1.image.slabs ++ slabRows bs vt sl (bitOf w 5) (bitOf w 4),
      slabCfg := mapPut l1.image.slabCfg 0 (vt * 48 + sl) (BitVec.ofNat 5 w) }
    { s with load := some { l1 with image := img, slabSeen := seen, lastSlab := vt * 48 + sl + 1,
                                    stage := if last then .signatures else .slabs } }

/-! ## Signature table and end record (steps 5 to 7b) -/

/-- Tile signature (R110): row signatures in the order row, brick, course, 4 bytes each. -/
def tileSig (rows : SMap Row) (n : Nat) : BitVec 32 :=
  ((List.range (n * 5120)).foldl (fun c i =>
    crcRun c (leBytes 4 (rowSigOf (mapGet rows 0
      (planeKey (i / 5120) (i % 5120 / 10) (i % 10)))).toNat)) 0xFFFFFFFF) ^^^ 0xFFFFFFFF

def tableOk (l : Load) (bs : List Byte) : Bool :=
  leAt bs 0 2 == 3 && leAt bs 4 4 == l.vtCount
    && leAt bs 8 8 == bs.length && bs.length == 16 + 8 * l.vtCount
    && (List.range l.vtCount).all fun v => leAt bs (16 + 8 * v) 4 == v

def sigsOk (l : Load) (bs : List Byte) : Bool :=
  (List.range l.vtCount).all fun v =>
    leAt bs (20 + 8 * v) 4 == (tileSig (planesOf l.image v) l.courseCount).toNat

/-- Step 6. DESIGN CHOICE (log 119): a table that is malformed in kind, count, length or order answers
ST_BAD_PARAM. -/
def takeSignatures (s : State) (l : Load) (bs : List Byte) : State :=
  if !tableOk l bs then failLoad s .badParam
  else if !sigsOk l bs then failLoad s .imageCrc
  else { s with load := some { advance l bs with stage := .endRecord } }

def endOk (l : Load) (bs : List Byte) : Bool :=
  leAt bs 0 2 == 4 && leAt bs 16 8 == l.total && bs.length == 32 && l.off + 32 == l.total

def endCrcOk (l : Load) (bs : List Byte) : Bool :=
  leAt bs 8 8 == l.vtCount * l.courseCount * 5120
    && leAt bs 24 4 == (crc32c l.image.bytes).toNat

/-! ## Applying (R115) -/

/-- A tile as the image sets it up, its active register and state file zero. -/
def imageTile (img : Image) (vt j : Nat) (d : Desc) (x : Tile) : Tile :=
  let y := writePlanes img vt d.courseCount
    { bareTile x with
      links := linksOf img vt, holding := true, slabs := img.slabs.filterMap fun e =>
        if e.1 / 24576 = vt then some (e.1 % 24576, e.2) else none,
      slabCfg := img.slabCfg.filterMap fun e => if e.1 / 48 = vt then some (e.1 % 48, e.2) else none }
  setTrw (trwWord j d) y

/-- Steps 2 to 6: the golden signatures, slabs, links, descriptor and Tile Map entries take effect, which
ends the tiles' reservation (R16), and the sequencers start. A device without an ordinal takes the
image's (R124). -/
def applyImage (s : State) (l : Load) : State :=
  let img := l.image
  let s := each l.bound (fun s e => modTile s e.2 (imageTile img e.1 l.job l.desc)) s
  let s := { s with
    tileMap := s.tileMap.map fun e =>
      if e.2.job == l.job then (e.1, { e.2 with valid := true }) else e,
    load := some { l with stage := .starting } }
  let s := restartFlows (modJob s l.job fun x => { x with image := some img, desc := l.desc }) l.job
  if l.chain && s.arr.ordinal.isNone then
    modArrBlk s fun a => { a with ordinal := some l.ordinal, ordFromChain := true }
  else s

/-- The fabric clock stands within a limit, and no change takes it above. -/
def fabWithin (s : State) (mhz : Nat) : Bool :=
  decide (s.clk.granted ≤ mhz)
    && (match s.clk.change with | some ch => decide (ch.mhz ≤ mhz) | none => true)

/-- The image whose checks have all passed is applied once the fabric clock is within its fab_max (R100,
R115); a golden line that cannot be read fails the load (Table 4-9). -/
def applyWaiting (s : State) : State :=
  match s.load with
  | none => s
  | some l =>
    if l.stage ≠ .ramping ∨ !fabWithin s l.desc.fabMax then s
    else
      let (bad, s) := readGolden s l.image 0 l.total
      if bad then failLoad s .hwFault else applyImage s l

/-- Steps 7a and 7b, then the fabric clock ramps down where it must, and the image is applied. -/
def takeEnd (s : State) (l : Load) (bs : List Byte) : State :=
  if !endOk l bs then failLoad s .badParam
  else if !endCrcOk l bs then failLoad s .imageCrc
  else
    let img := { l.image with bytes := l.image.bytes ++ bs, crc := BitVec.ofNat 32 (leAt bs 24 4) }
    applyWaiting (settleFab
      { s with load := some { l with stage := .ramping, off := l.total, image := img } })

/-! ## Sections -/

/-- One whole section of the image at the stage the load has reached. -/
def takeSection (s : State) (l : Load) (bs : List Byte) : State :=
  if shortList l bs.length then failLoad s .imageTruncated
  else match l.stage with
    | .header => takeHeader s l bs
    | .descriptor => takeDescriptor s l bs
    | .tiles => takeBlock s l bs
    | .slabs => takeSlab s l bs
    | .signatures => takeSignatures s l bs
    | .endRecord => takeEnd s l bs
    | .ramping => s
    | .starting => s

/-- A section that the host's image brings: acts when the load stands at it. A section shorter than its
fixed length is the end of a short stream. -/
def hostSection (s : State) (stage : LoadStage) (least : Nat) (bs : List Byte) : State :=
  match s.load with
  | none => s
  | some l =>
    if l.stage ≠ stage ∨ l.chain then s
    else if bs.length < least then failLoad s .imageTruncated
    else takeSection s l bs

/-- Length of the next section, once enough of it has come to tell. -/
def sectionLength (l : Load) (bs : List Byte) : Option Nat :=
  match l.stage with
  | .header => some 256
  | .descriptor => some 256
  | .tiles => if bs.length < 64 then none else some (max 64 (leAt bs 8 8))
  | .slabs => if bs.length < 16 then none else some (max 16 (leAt bs 8 8))
  | .signatures => some (16 + 8 * l.vtCount)
  | .endRecord => some 32
  | .ramping => none
  | .starting => none

/-- Bytes that a chain brings, cut into sections (R123). A section that would reach beyond the image is
malformed. -/
def feedLoad : Nat → State → State
  | 0, s => s
  | n + 1, s =>
    match s.load with
    | none => s
    | some l =>
      match sectionLength l l.buf with
      | none => s
      | some k =>
        if l.stage ≠ .header ∧ l.total < l.off + k then failLoad s .badParam
        else if l.buf.length < k then s
        else feedLoad n (takeSection s { l with buf := l.buf.drop k } (l.buf.take k))

def chainBytes (s : State) (bs : List Byte) : State :=
  match s.load with
  | none => s
  | some l =>
    if !l.chain then s
    else
      let l := { l with buf := l.buf ++ bs }
      feedLoad (l.buf.length / 16 + 1) { s with load := some l }

end Sys2Proof.Machine
end

