-- ==== Sys2Proof/Machine/Clocks.lean ====
section
/-! DEFINITION. The commands and events of the clocks (chapter 13). -/

namespace Sys2Proof.Machine

/-- The always-on island has power and is not held in reset. -/
def islandRuns (s : State) : Bool := s.pwr.rails.getLsbD 0 && !s.rst.held

/-- A window of 2,000 HVOSC cycles: SAFE is stable when it counts 3,750 to 6,250 cycles (R407). -/
def execSafeWindow (count : Nat) (s : State) : Host.Outcome State Fault Refusal :=
  .next (
    if !islandRuns s || s.clk.safeStable || s.clk.safeFailed then s
    else if 3750 ≤ count ∧ count ≤ 6250 then
      modClkBlk s fun c => { c with safeStable := true, belicOnSafe := true }
    else s)

/-- SAFE is not stable within 2 ms: the device is held in reset until PWR_EN toggles or VIN48 is
applied again (R408). -/
def execSafeTimeout (s : State) : Host.Outcome State Fault Refusal :=
  .next (
    if !islandRuns s || s.clk.safeStable then s
    else
      let s := modClkBlk s fun c => { c with safeFailed := true }
      let s := modRstBlk s fun r => { r with held := true }
      linkEvent (tellHv s fun h => { h with safeBad := true }) 0x0103)

/-- Two window counts differ by more than `ppm` parts in a million of the one before. -/
def differs (last : Option Nat) (count ppm : Nat) : Bool :=
  match last with
  | none => false
  | some l => decide (l * ppm < ((count - l) + (l - count)) * 1000000)

/-- A window of 8,192 REF cycles while REF is not stable: eight good ones in a row make it so
(R409). -/
def judgeRef (s : State) (count : Nat) : State :=
  let good := decide (3932 ≤ count) && decide (count ≤ 6554) && !differs s.clk.refLast count 500
  let run := if good then s.clk.refRun + 1 else 0
  modClkBlk s fun c =>
    { c with refLast := some count, refRun := run, refStable := decide (8 ≤ run),
             refArmed := decide (8 ≤ run) }

/-- A window of the REF monitor: toward stability (R409), or a jump of more than 2,000 ppm, which is a
loss (R417). -/
def execRefWindow (count : Nat) (s : State) : Host.Outcome State Fault Refusal :=
  .next (
    if !islandRuns s || !s.clk.safeStable then s
    else if !s.clk.refStable then judgeRef s count
    else if s.clk.refArmed && differs s.clk.refLast count 2000 then refLoss s
    else modClkBlk s fun c => { c with refLast := some count })

/-- 16 SAFE cycles without a REF edge (R417). -/
def execRefMissingEdge (s : State) : Host.Outcome State Fault Refusal :=
  .next (if s.clk.refArmed then refLoss s else s)

/-- A PLL is enabled, none while REF is not stable (R409). Of the FAB PLLs it is the source, at the granted
frequency; a change programs and enables the other one itself (R405, Table 13-4). -/
def execPllEnable (pll mhz : Nat) (s : State) : Host.Outcome State Fault Refusal :=
  atUnit (decide (pll < 6)) (
    if !s.clk.refStable || s.rst.held || s.clk.pllEn.getLsbD pll
        || (decide (pll < 2) && !(pll == fabPll s && mhz == s.clk.granted)) then s
    else
      let s := if pll < 2 then modClkBlk s fun c => { c with pllMhz := mapPut c.pllMhz 0 pll mhz } else s
      modClkBlk s fun c => { c with pllEn := c.pllEn ||| pllBit pll })

def execPllStable (pll : Nat) (s : State) : Host.Outcome State Fault Refusal :=
  atUnit (decide (pll < 6)) (pllStable s pll)

/-- One step of the FAB ramp (R411): down to /16 before a switch, up to /1 after it or after a start. -/
def fabStep (s : State) : State :=
  let c := s.clk
  if !c.domainsOn then s
  else match c.change with
    | some ch =>
      if ch.stage = .rampDown then
        if c.fabDiv < 3 then modClkBlk s fun c => { c with fabDiv := c.fabDiv + 1 }
        else modClkBlk s fun c => { c with fabDiv := 4, change := some { ch with stage := .switching } }
      else if ch.stage = .rampUp then
        let s := modClkBlk s fun c => { c with fabDiv := c.fabDiv - 1 }
        if s.clk.fabDiv = 0 then applyWaiting (endChange s ch.mhz) else s
      else s
    | none =>
      let n := c.fabDiv - 1
      modClkBlk s fun c => { c with fabDiv := n, ramping := c.ramping && decide (0 < n) }

/-- One step of a mason group's divider toward its target (R285, R411). -/
def groupStep (s : State) (g : Nat) : State :=
  let x := groupOf s g
  let d := if x.div < x.target then x.div + 1 else if x.target < x.div then x.div - 1 else x.div
  modGroup s g fun x => { x with div := d }

/-- A ramp divider takes its next step. Domains are numbered from 0 in the order of Table 13-1; only
FAB and the mason groups have a ramp divider. -/
def execDividerStep (domain : Nat) (s : State) : Host.Outcome State Fault Refusal :=
  atUnit (decide (domain < 25)) (
    if domain = 2 then fabStep s
    else if 5 ≤ domain ∧ domain < 17 then groupStep s (domain - 5)
    else s)

/-- Every job is held: the ramp divider starts toward /16 (Table 13-4 step 4). -/
def execFabRampStart (s : State) : Host.Outcome State Fault Refusal :=
  .next (
    match s.clk.change with
    | some ch =>
      if ch.stage = .holding ∧ allAtRest s then
        modClkBlk s fun c => { c with ramping := true, change := some { ch with stage := .rampDown } }
      else s
    | none => s)

/-- A source switch is under way in a domain: FAB in a frequency change, BELIC from SAFE to PLL3. -/
def switchDue (s : State) (domain : Nat) : Bool :=
  if domain = 2 then s.clk.change.any fun ch => ch.stage == .switching
  else domain == 17 && s.clk.belicOnSafe && s.clk.pllStable.getLsbD 3 && !s.clk.refLost

/-- The new clock of a domain passes (R414). -/
def passClock (s : State) (domain : Nat) : State :=
  if !switchDue s domain then s
  else if domain = 2 then
    modClkBlk s fun c =>
      { c with fabSrc := !c.fabSrc, change := c.change.map fun ch => { ch with stage := .rampUp } }
  else modClkBlk s fun c => { c with belicOnSafe := false }

def execSourceSwitch (domain : Nat) (s : State) : Host.Outcome State Fault Refusal :=
  atUnit (decide (domain < 25)) (passClock s domain)

/-- The old clock gives no two edges in 64 cycles of the new one: the switch forces itself (R415). -/
def execForcedSwitch (domain : Nat) (s : State) : Host.Outcome State Fault Refusal :=
  atUnit (decide (domain < 25))
    (if switchDue s domain then
      emitDev (modClkBlk (passClock s domain) fun c => { c with forced := true }) 0x0101 [(1, domain + 1)]
    else s)

def execCmdClkFab (h : Hdr) (mhz : Nat) (s : State) : Host.Outcome State Fault Refusal :=
  .next (runCmd s h 0x0210 .pf0 false fun _ =>
    if mhz < 400 ∨ 1200 < mhz then fail s h 0x0210 .badParam
    else if s.clk.change.isSome then fail s h 0x0210 .busy
    else
      let g := min mhz (fabLimit s)
      startChange (answer (modClkBlk s fun c => { c with target := mhz }) h 0x0210 (leBytes 2 g)) g)

/-! ## Registers (Tables 13-5, 13-6, 13-9) -/

def clkStatus (c : Clk) : Nat :=
  c.pllEn.toNat + c.pllStable.toNat * 2 ^ 6 + b2n c.safeStable * 2 ^ 12 + b2n c.refStable * 2 ^ 13
    + b2n c.refArmed * 2 ^ 14 + b2n c.refLost * 2 ^ 15 + b2n c.belicOnSafe * 2 ^ 16
    + b2n c.fabSrc * 2 ^ 17 + c.fabDiv % 8 * 2 ^ 18 + b2n c.throttle * 2 ^ 21
    + b2n c.ramping * 2 ^ 22 + b2n c.forced * 2 ^ 23

/-- RAMPING also shows a mason group's ramp. -/
def clkWord (s : State) : Nat :=
  clkStatus { s.clk with ramping := s.clk.ramping || s.msn.groups.any fun g => g.2.div != g.2.target }

def clkFabCtl (c : Clk) : Nat := c.target % 2048 + c.granted % 2048 * 2 ^ 11

def rstStatus (r : Rst) : Nat :=
  r.lastCause % 8 + b2n r.perstSeen * 2 ^ 3 + b2n r.faceBusy * 2 ^ 4 + b2n r.courseBusy * 2 ^ 5
    + b2n r.viasEmpty * 2 ^ 6 + r.courseResets % 256 * 2 ^ 7

/-- CMD_CLK_STATUS answers the registers as they stood, then clears the W1C bits of its masks. -/
def execCmdClkStatus (h : Hdr) (clkMask rstMask : BitVec 32) (s : State) :
    Host.Outcome State Fault Refusal :=
  .next (runCmd s h 0x0211 .pf0 false fun _ =>
    let s' := answer s h 0x0211
      (leBytes 4 (clkWord s) ++ leBytes 4 (clkFabCtl s.clk) ++ leBytes 4 (rstStatus s.rst))
    let s' := modClkBlk s' fun c => { c with forced := c.forced && !clkMask.getLsbD 23 }
    modRstBlk s' fun r => { r with perstSeen := r.perstSeen && !rstMask.getLsbD 3 })

end Sys2Proof.Machine
end

