-- ==== Sys2Proof/Machine/Layouts.lean ====
section
/-! DEFINITION. Byte layouts of the structures that the device reads or writes in memory (R4): journal and undo
records (Tables 11-7 to 11-9), DMA descriptors (Table 6-7), firmware images (Table 15-14). Reserved bits are
written as zero and ignored when read (R5). -/

namespace Sys2Proof.Machine

/-- Producer kind and endpoint of an item (Table 8-3). -/
def agentKind : Agent → Nat
  | .tile .. => 1 | .mason _ => 2 | .host _ => 3 | .remote _ => 4 | .belic => 5

def agentEp : Agent → Nat
  | .tile _ vt port => vt % 512 + port % 4 * 512
  | .mason _ => 0
  | .host fn => fn % 16
  | .remote o => o % 1024
  | .belic => 0

/-- Type of a journal record (Table 11-8). -/
def recType : JRec → Nat
  | .jntRx .. => 1 | .jntTx .. => 2 | .hodDeliver .. => 3 | .hodFlags .. => 4 | .hodArrival .. => 5
  | .trig _ => 6 | .reset _ => 7 | .hostWrite .. => 8 | .epochStart _ => 9

/-- Payload of a frame record. -/
def framePayload (stream : Nat) (epoch : BitVec 4) (slices : List (BitVec 192)) : List Byte :=
  leBytes 8 (stream % 4096 + epoch.toNat * 2 ^ 12 + (slices.length - 1) % 8 * 2 ^ 16)
    ++ slices.flatMap fun b => leBytes 24 b.toNat

/-- Payload of a record, without padding (Table 11-8). -/
def recBody : JRec → List Byte
  | .jntRx st _ ep sl => framePayload st ep sl
  | .jntTx st _ ep sl => framePayload st ep sl
  | .hodDeliver vt port course _ w =>
    leBytes 8 (vt % 512 + port % 4 * 2 ^ 9 + course % 32 * 2 ^ 11 + (wordTag (some w)).toNat * 2 ^ 16)
      ++ leBytes 8 w.data.toNat
  | .hodFlags vt port course empty full =>
    leBytes 3 (vt % 512 + port % 4 * 2 ^ 9 + course % 32 * 2 ^ 11 + b2n empty * 2 ^ 16 + b2n full * 2 ^ 17)
  | .hodArrival hod by_ prio words poison index =>
    leBytes 8 (hod % 2 ^ 15 + agentKind by_ * 2 ^ 15 + words.length % 32 * 2 ^ 18 + poison.toNat * 2 ^ 23
        + prio % 8 * 2 ^ 39 + agentEp by_ * 2 ^ 42)
      ++ leBytes 8 (index % 2 ^ 32) ++ words.flatMap fun w => leBytes 8 w.toNat
  | .trig v => leBytes 2 v.toNat
  | .reset v => leBytes 1 v.toNat
  | .hostWrite addr data => leBytes 8 (addr % 2 ^ 37) ++ leBytes 8 (data.length % 8192) ++ data
  | .epochStart k => leBytes 8 k.toNat

/-- A journal record: header (Table 11-7), payload, padding to 16 bytes (R370). -/
def journalRecord (e : JEntry) : List Byte :=
  leBytes 1 (recType e.body) ++ leBytes 1 (e.job % 8 + e.epoch.toNat / 4096 % 16 * 8)
    ++ leBytes 2 (recBody e.body).length ++ leBytes 4 0 ++ leBytes 8 e.cycle.toNat
    ++ padTo 16 (recBody e.body)

/-- An undo record (Table 11-9). -/
def undoRecord (u : Undo) : List Byte :=
  leBytes 8 (u.block * 4096 % 2 ^ 37 + u.job % 8 * 2 ^ 37) ++ leBytes 8 u.epoch.toNat
    ++ u.lines.flatMap fun l => leBytes 128 l.toNat

/-- A DMA descriptor as the channel reads it, with the bytes found at its host address (Table 6-7). -/
def descOf (bs data : List Byte) : DmaDesc :=
  let flags := leAt bs 0x14 4
  { host := BitVec.ofNat 64 (leAt bs 0 8), addr := leAt bs 8 8 % 2 ^ 37, len := leAt bs 0x10 4,
    toHost := bitOf flags 0, irq := bitOf flags 1, data := data }

/-- A firmware image as its header describes it (Table 15-14). -/
def fwImageOf (bs : List Byte) : FwImage :=
  let n := leAt bs 0xC 4
  { magic := BitVec.ofNat 32 (leAt bs 0 4), version := BitVec.ofNat 32 (leAt bs 4 4), secVer := leAt bs 8 1,
    minStep := leAt bs 9 1, bodyLen := n, key := (bs.drop 0x60).take 96, sig := (bs.drop 0xC0).take 96,
    signed := bs.take 0xC0 ++ (bs.drop 0x200).take n }

end Sys2Proof.Machine
end

