-- ==== Sys2Proof/Machine/TelOps.lean ====
section
/-! DEFINITION. The counter tree as operations: checked reads of roots and page nodes, rolls, branch
sums, the restart of INVALID nodes and the snapshot (R502–R513). -/

namespace Sys2Proof.Machine

def rootOf (s : State) (i : Nat) : Root := mapGet s.tel.roots {} i
def setRoot (s : State) (i : Nat) (r : Root) : State :=
  modTelBlk s fun t => { t with roots := mapPut t.roots {} i r }
def nodeOf (s : State) (p : Nat) : PNode := mapGet s.tel.pages {} p
def setNode (s : State) (p : Nat) (n : PNode) : State :=
  modTelBlk s fun t => { t with pages := mapPut t.pages {} p n }

/-- Set or clear frozen on a page (R185). -/
def freezePage (v : Bool) (s : State) (p : Nat) : State :=
  modPpt s p fun e => { e with frozen := v }

/-- A root becomes INVALID: zeroed, reported; a branch node freezes its 256 pages (R510). -/
def rootInvalid (s : State) (i : Nat) : State :=
  let s := setRoot s i { value := 0, sat := false, valid := false, incomplete := true, err := 0 }
  let s := emitDev s 0x0D02 [(1, 0), (4, i)]
  if 7680 ≤ i then each ((List.range 256).map ((i - 7680) * 256 + ·)) (freezePage true) s else s

/-- A page node becomes INVALID: zeroed, reported, its branch INCOMPLETE, its page frozen (R510). -/
def nodeMark (s : State) (p : Nat) : State :=
  let s := setNode s p { value := 0, invalid := true, err := 0 }
  let b := 7680 + p / 256
  let s := setRoot s b { rootOf s b with incomplete := true }
  freezePage true (emitDev s 0x0D02 [(1, 1), (4, p)]) p

/-- The check of a root read (R509). -/
def checkRoot (s : State) (i : Nat) : State :=
  let r := rootOf s i
  if r.err = 0 then s
  else match secDecode 7 48 (secEncode 7 48 r.value.toNat ^^^ r.err.toNat) with
    | some (w, _) => setRoot s i { r with value := BitVec.ofNat 48 w, err := 0 }
    | none => rootInvalid s i

/-- The check of a page-node read (R509). -/
def checkNode (s : State) (p : Nat) : State :=
  let n := nodeOf s p
  if n.err = 0 then s
  else match secDecode 6 16 (secEncode 6 16 n.value ^^^ n.err.toNat) with
    | some (w, _) => setNode s p { n with value := w % 65536, err := 0 }
    | none => nodeMark s p

/-- A roll of n counts into a root: discarded when INVALID, saturating with one event (R507,
R510). -/
def rollInto (s : State) (i n : Nat) : State :=
  let s := checkRoot s i
  let r := rootOf s i
  if !r.valid || r.sat then s
  else if r.value.toNat + n < 2 ^ 48 then
    setRoot s i { r with value := BitVec.ofNat 48 (r.value.toNat + n) }
  else emitDev (setRoot s i { r with value := BitVec.allOnes 48, sat := true }) 0x0D01 [(4, i)]

/-- A leaf's value goes into its root and the leaf is cleared (R502). -/
def rollOne (s : State) (i : Nat) : State :=
  let n := mapGet s.tel.leaves 0 i
  rollInto (modTelBlk s fun t => { t with leaves := mapPut t.leaves 0 i 0 }) i n

/-- A roll into a page node: saturating at 0xFFFF, discarded when INVALID (R505, R510). -/
def rollNode (s : State) (x : Nat × Nat) : State :=
  let s := checkNode s x.1
  let n := nodeOf s x.1
  if n.invalid then s else setNode s x.1 { n with value := min 65535 (n.value + x.2) }

/-- The counts the page leaves hold go into the page nodes. -/
def rollPages (s : State) : State :=
  each s.tel.pageLeaf rollNode (modTelBlk s fun t => { t with pageLeaf := [] })

/-- Sum of the page nodes of a branch, as read for the epoch. -/
def branchSum (s : State) (b : Nat) : Nat :=
  s.tel.pages.foldl (fun n e => if e.1 / 256 = b ∧ !e.2.invalid then n + e.2.value else n) 0

/-- Branch nodes take their sums (R506). -/
def branchRolls (s : State) : State :=
  each ((s.tel.pages.map (fun e => e.1 / 256)).eraseDups) (fun s b =>
    rollInto s (7680 + b) (branchSum s b)) s

/-- Every root that is not INVALID enters the snapshot (R512). -/
def takeSnapshot (s : State) : State :=
  let keep := s.tel.snapshot.filter (fun e => !(rootOf s e.1).valid)
  modTelBlk s fun t =>
    { t with snapshot := t.roots.foldl (fun m e =>
        if e.2.valid then mapPut m 0 e.1 e.2.value else m) keep }

/-- Frozen pages whose nodes count again unfreeze (R185). -/
def unfreeze (s : State) : State :=
  each (s.mem.ppt.filter (fun e => e.2.frozen && !nodeInvalid s e.1)) (fun s e =>
    freezePage false s e.1) s

/-- INVALID nodes start counting again from zero, INCOMPLETE (R511). -/
def restartNodes (s : State) : State :=
  modTelBlk s fun t =>
    { t with
      roots := t.roots.foldl (fun m e =>
        mapPut m {} e.1 (if e.2.valid then e.2 else { e.2 with valid := true, incomplete := true }))
        ([] : SMap Root),
      pages := t.pages.foldl (fun m e =>
        mapPut m {} e.1 { e.2 with invalid := false }) ([] : SMap PNode) }

/-- Page nodes are cleared once the placement engine has read them; INVALID ones stay marked. -/
def clearNodes (s : State) : State :=
  modTelBlk s fun t =>
    { t with pages := t.pages.foldl (fun m e =>
        mapPut m {} e.1 { e.2 with value := 0 }) ([] : SMap PNode) }

/-- The end of a placement epoch: page nodes read and summed, heat and migrations, nodes cleared,
the snapshot, pages unfrozen, nodes restarted (R180–R185, R505–R512). -/
def epochEnd (s : State) : State :=
  let s := each (s.tel.pages.map (·.1)) checkNode s
  let s := branchRolls s
  let s := clearNodes (epochMoves s)
  restartNodes (unfreeze (takeSnapshot s))

/-- A counter record (Table 17-2). -/
def rootRecord (s : State) (i : Nat) : List Byte :=
  let r := rootOf s i
  let v := if r.valid then r.value else mapGet s.tel.snapshot 0 i
  let lacks := r.incomplete || (decide (7680 ≤ i)
    && s.tel.pages.any (fun e => e.2.invalid && e.1 / 256 == i - 7680))
  leBytes 8 (v.toNat + b2n r.sat * 2 ^ 48 + b2n r.valid * 2 ^ 49 + b2n lacks * 2 ^ 50)

end Sys2Proof.Machine
end

