-- ==== Sys2Proof/Machine/Memory.lean ====
section
/-! DEFINITION. The commands and events of design memory and placement (chapter 6), BAR4 and the host
DMA channels (R190–R194, R468). -/

namespace Sys2Proof.Machine

/-- The bed die and the LP5X controllers run; from a trip signal on they take no access (R228). -/
def memUp (s : State) : Bool := s.pwr.state == .ready && !s.pwr.tripping

/-! ## Mapping -/

def pagesFrom (first count : Nat) : List Nat := (List.range count).map (first + ·)

def isMapped (s : State) (p : Nat) : Bool := (mapGet s.mem.mirror none p).isSome

/-- A page is mapped to job j. -/
def mappedTo (s : State) (j p : Nat) : Bool :=
  match mapGet s.mem.mirror none p with
  | some m => m.job == j
  | none => false

/-- CMD_MEM_MAP (R169, R170): the frames are taken at acceptance, zeroed when the work is done. -/
def execCmdMemMap (h : Hdr) (first count : Nat) (s : State) : Host.Outcome State Fault Refusal :=
  .next (runCmd s h 0x0501 .pf0 true fun j =>
    let ps := pagesFrom first count
    if !rangeOk first count 131072 131072 || ps.any (isMapped s) then fail s h 0x0501 .badParam
    else if lp5xBad s then fail s h 0x0501 .hwFault
    else
      let fs := freeFar s count
      if fs.length < count then fail s h 0x0501 .noResource
      else accept s h 0x0501 [j, first, count] fun s =>
        updatePasr (each (ps.zip fs) (takeFrame j) s))

/-- The zeroing of the mapped frames is done: entries in state far, EV_MEM_MAP_DONE. -/
def memMapDone (s : State) : State :=
  match findAcc s 0x0501 with
  | some a =>
    let j := listAt a.args 0 0
    let ps := (pagesFrom (listAt a.args 0 1) (listAt a.args 0 2)).filter (mappedTo s j)
    let st := if (jobOf s j).created then .ok else .badJob
    complete (dropAcc (each ps finishMap s) 0x0501) a.hdr 0x0501 0x0507 st []
  | none => s

def execMemMapDone (s : State) : Host.Outcome State Fault Refusal := .next (memMapDone s)

/-- The job is empty, held or stopped, and replays nothing (R171). -/
def jobQuiet (s : State) (j : Nat) : Bool :=
  (jobOf s j).replay.isNone && match (jobOf s j).state with
  | .empty => true | .heldCmd => true | .heldFault => true | .stopped => true
  | .loading => false | .releasing => false | .running => false

def execCmdMemUnmap (h : Hdr) (first count : Nat) (s : State) : Host.Outcome State Fault Refusal :=
  .next (runCmd s h 0x0502 .pf0 true fun j =>
    let ps := pagesFrom first count
    if !jobQuiet s j then fail s h 0x0502 .wrongState
    else if !rangeOk first count 131072 131072 || !ps.all (mappedTo s j) then
      fail s h 0x0502 .badParam
    else if lp5xBad s then fail s h 0x0502 .hwFault
    else answer (updatePasr (each ps unmapPage s)) h 0x0502 [])

/-! ## Tile memory ports -/

/-- Design line of a 64-byte unit, and which half of it. -/
def unitLine (u : Nat) : Nat := u / 2

/-- Requests sampled at the oldest course end that the memory has not acted on yet (R174). -/
def oldestBatch (rs : List MemReq) : List MemReq :=
  match rs.filter (fun r => r.result.isNone) with
  | [] => []
  | r :: t =>
    let n := t.foldl (fun m x => min m x.sampled) r.sampled
    ((r :: t).filter (fun x => x.sampled == n)).mergeSort
      (fun a b => decide (a.vt < b.vt) || (a.vt == b.vt && decide (a.port ≤ b.port)))

/-- The requester may use the page; otherwise the failure that stops its job (R175). -/
def pageForJob (s : State) (j p : Nat) : Option AccStatus :=
  let e := pptOf s p
  if e.state = .unbacked ∨ e.job ≠ j then some .unmapped
  else if e.state = .lost then some .lost
  else none

def sameReq (a b : MemReq) : Bool := a.vt == b.vt && a.port == b.port && a.sampled == b.sampled

/-- The result of a request: its reply data are zero unless a read succeeded (R173). -/
def setResult (s : State) (j : Nat) (r : MemReq) (st : AccStatus) (d : BitVec 512) : State :=
  modJob s j fun x =>
    let f (q : MemReq) : MemReq := if sameReq q r then { q with result := some (st, d) } else q
    { x with memReqs := x.memReqs.map f }

/-- A 64-byte half of a line. -/
def lineHalf (d : Line) (u : Nat) : BitVec 512 :=
  BitVec.setWidth 512 (if u % 2 = 1 then d >>> 512 else d)

/-- Router under a virtual tile of a job (R15, Table 12-1). -/
def portRouterOf (s : State) (j vt : Nat) : Nat :=
  match physOf s j vt with
  | some t => tileRouter t
  | none => 0

/-- A request of a tile port meets a fence sink. -/
def reqFenced (s : State) (j : Nat) (r : MemReq) : Bool :=
  accessFenced s (portRouterOf s j r.vt) (pptOf s (linePage (unitLine r.unit))) (unitLine r.unit)

def readReq (j : Nat) (s : State) (r : MemReq) : State :=
  let p := linePage (unitLine r.unit)
  if reqFenced s j r then setResult s j r .fenced 0
  else
  let s := countAccess s p 1
  match pageForJob s j p with
  | some st => setResult s j r st 0
  | none =>
    let (st, d, s) := readLine s (unitLine r.unit)
    setResult s j r st (if st = .ok then lineHalf d r.unit else 0)

/-- Byte enables of 64 bytes as line enables. -/
def lineEnables (r : MemReq) : BitVec 128 :=
  let be := BitVec.setWidth 128 r.be
  if r.unit % 2 = 1 then be <<< 64 else be

def lineData (r : MemReq) : Line :=
  let d := BitVec.setWidth 1024 r.data
  if r.unit % 2 = 1 then d <<< 512 else d

/-- Writes to one line merged in order: the last that enables a byte gives it (R206). -/
def mergeReqs (rs : List MemReq) : Line × BitVec 128 :=
  rs.foldl (fun acc r =>
    (mergeLine acc.1 (lineData r) (lineEnables r), acc.2 ||| lineEnables r)) (0, 0)

def writeReqs (j : Nat) (s : State) (rs : List MemReq) : State :=
  match rs with
  | [] => s
  | r :: _ =>
    let dl := unitLine r.unit
    let s := countAccess s (linePage dl) rs.length
    match pageForJob s j (linePage dl) with
    | some st => each rs (fun s q => setResult s j q st 0) s
    | none =>
      let (d, be) := mergeReqs rs
      let (st, s) := writeLine s dl d be
      each rs (fun s q => setResult s j q st 0) s

/-- Every page of a batch can be looked up; the first uncorrectable entry stalls (R179). -/
def fetchAll : List MemReq → State → Bool × State
  | [], s => (true, s)
  | r :: t, s =>
    let (ok, s) := fetchEntry s (linePage (unitLine r.unit))
    if ok then fetchAll t s else (false, s)

/-- The design-memory requests of one course end reach the memory: reads first, then writes merged by
line (R174, R176, R206). -/
def memoryAccess (s : State) (j : Nat) (ups : List Upset) : State :=
  let s := upsets s ups
  if !memUp s then s
  else
    let reqs := oldestBatch (jobOf s j).memReqs
    let (ok, s) := fetchAll reqs s
    if !ok || reqs.any (fun r => lineWaits s (unitLine r.unit)) then s
    else
      let s := each (reqs.filter (fun r => !r.write)) (readReq j) s
      let ws := reqs.filter (fun r => r.write)
      let s := each (ws.filter (reqFenced s j)) (fun s r => setResult s j r .fenced 0) s
      let ws := ws.filter (fun r => !reqFenced s j r)
      each ((ws.map (fun r => unitLine r.unit)).eraseDups) (fun s dl =>
        writeReqs j s (ws.filter (fun r => unitLine r.unit == dl))) s

def execDesignMemoryAccess (job : Nat) (ups : List Upset) (s : State) :
    Host.Outcome State Fault Refusal := .next (memoryAccess s job ups)

/-- The first request of a port whose result has not reached it arrives (R173). -/
def markArrived (vt port : Nat) : List MemReq → List MemReq
  | [] => []
  | r :: t =>
    if r.vt = vt ∧ r.port = port ∧ r.result.isSome ∧ !r.arrived then { r with arrived := true } :: t
    else r :: markArrived vt port t

def execTileMemoryReply (job vt port : Nat) (s : State) : Host.Outcome State Fault Refusal :=
  atUnit (decide (job < 8) && decide (vt < 384) && decide (port < 2))
    (modJob s job fun x => { x with memReqs := markArrived vt port x.memReqs })

/-! ## The encryption engine -/

/-- PCIe completion status of an access (R191, Table 12-3): 0 SC, 1 UR, 2 CA. -/
def cplStatus : AccStatus → Nat
  | .ok => 0 | .unmapped => 1 | .lost => 1 | .quarantined => 1
  | .noRights => 2 | .tagFailed => 2 | .uncorrectable => 2 | .listed => 2 | .fenced => 2

/-- A line is served from the far tier. -/
def servedFar (s : State) (dl : Nat) : Bool :=
  let e := pptOf s (linePage dl)
  (pageFail e).isNone && !servedNear e

/-- A BAR4 access waits for a channel's training, behind those that wait already (R223). -/
def holdAccess (s : State) (a : HostAcc) : State :=
  modLpBlk s fun l => { l with waiting := l.waiting ++ [a] }

/-- A read of one far line by a master; a function gets a completion (R197, R204). -/
def farLineRead (s : State) (master dl : Nat) (ups : List Upset) : State :=
  let s := upsets s ups
  if !memUp s || !servedFar s dl then s
  else if lineWaits s dl then
    if master < 9 then holdAccess s (.read master (dl * 128) 128) else s
  else
    let (st, d, s) := masterReadLine s master dl 2
    if master < 9 then
      emitOut s (.cpl (cplStatus st) (if st = .ok then leBytes 128 d.toNat else []))
    else s

def execFarLineRead (master line : Nat) (ups : List Upset) (s : State) :
    Host.Outcome State Fault Refusal :=
  atUnit (decide (master < 19)) (farLineRead s master line ups)

/-- A write into one far line by a master: whole, or by read-modify-write (R195, R206). -/
def farLineWrite (s : State) (master addr : Nat) (data : List Byte) : State :=
  if !memUp s || !servedFar s (addr / 128) then s
  else if lineWaits s (addr / 128) then
    if master < 9 then holdAccess s (.write master addr (data.take (128 - addr % 128))) else s
  else (masterWrite s master (decide (master < 9)) addr (data.take (128 - addr % 128))).2

def execFarLineWrite (master addr : Nat) (data : List Byte) (s : State) :
    Host.Outcome State Fault Refusal :=
  atUnit (decide (master < 19)) (farLineWrite s master addr data)

/-! ## Placement -/

/-- The rebuild that R179 orders for a stalled page. -/
def execPlcEntryRebuild (page : Nat) (s : State) : Host.Outcome State Fault Refusal :=
  .next (if s.mem.stalled.contains page then rebuildEntry s page else s)

def execPlacementEpochEnd (s : State) : Host.Outcome State Fault Refusal :=
  .next (if memUp s then epochEnd s else s)

def execPageMigrationDone (page : Nat) (ups : List Upset) (s : State) :
    Host.Outcome State Fault Refusal :=
  let s := upsets s ups
  .next (if memUp s && s.lp.chans.all (fun c => c.2.st != 1) then finishMove s page else s)

/-- The ranges of Table 6-5. -/
def knobsOk (k : Knobs) : Bool :=
  decide (k.enable ≤ 1) && decide (1 ≤ k.decay) && decide (k.decay ≤ 8)
    && decide (1 ≤ k.promoteMin) && decide (k.promoteMin ≤ 4095) && decide (k.hysteresis ≤ 4095)
    && decide (1 ≤ k.maxMoves) && decide (k.maxMoves ≤ 64) && decide (k.quota.length = 8)
    && k.quota.all (fun q => decide (q ≤ 992)) && decide (k.pinLimit ≤ 992)

def execCmdPlcPolicy (h : Hdr) (k : Knobs) (s : State) : Host.Outcome State Fault Refusal :=
  .next (runCmd s h 0x0504 .pf0 false fun _ =>
    if !knobsOk k then fail s h 0x0504 .badParam
    else answer (modMemBlk s fun m => { m with knobsNext := some k }) h 0x0504 [])

/-- A VF may name only pages of its own job. -/
def pagesAllowed (s : State) (h : Hdr) (ps : List Nat) : Bool :=
  h.fn == 0 || ps.all (mappedTo s (h.fn - 1))

def execCmdPlcQuery (h : Hdr) (first count : Nat) (s : State) : Host.Outcome State Fault Refusal :=
  .next (runCmd s h 0x0505 .both false fun _ =>
    if !rangeOk first count 131072 30 then fail s h 0x0505 .badParam
    else if !pagesAllowed s h (pagesFrom first count) then fail s h 0x0505 .noRights
    else
      let s := each (pagesFrom first count) (fun s p => (readEntry s p).2) s
      answer s h 0x0505 ((pagesFrom first count).flatMap fun p => leBytes 8 (pptWord (pptOf s p))))

/-- Pin and exclude of a page, in its entry and in the mirror (R178, R182). -/
def setPins (pin exclude : Bool) (s : State) (p : Nat) : State :=
  modMirror (modPpt s p fun e => { e with pin := pin, exclude := exclude }) p fun m =>
    { m with pin := pin, exclude := exclude }

/-- Pinned pages on the device once a list of pages is pinned too. -/
def pinsWith (s : State) (ps : List Nat) : Nat :=
  (s.mem.mirror.filter fun e => match e.2 with
    | some m => m.pin && !ps.contains e.1
    | none => false).length + ps.length

def isPinned (s : State) (p : Nat) : Bool :=
  match mapGet s.mem.mirror none p with | some m => m.pin | none => false

def isExcluded (s : State) (p : Nat) : Bool :=
  match mapGet s.mem.mirror none p with | some m => m.exclude | none => false

/-- What every form of CMD_MEM_PIN checks first: a VF's rights, then the range and its mapping. -/
def pinCheck (s : State) (h : Hdr) (first count : Nat) : Option St :=
  let ps := pagesFrom first count
  if h.fn ≠ 0 ∧ ps.any (fun p => isMapped s p && !mappedTo s (h.fn - 1) p) then some .noRights
  else if !rangeOk first count 131072 131072 || !ps.all (isMapped s) then some .badParam
  else none

def execCmdMemPinPin (h : Hdr) (first count : Nat) (alsoExclude : Bool) (s : State) :
    Host.Outcome State Fault Refusal :=
  .next (runCmd s h 0x0503 .both false fun _ =>
    let ps := pagesFrom first count
    match pinCheck s h first count with
    | some st => fail s h 0x0503 st
    | none =>
      if alsoExclude || ps.any (isExcluded s) then fail s h 0x0503 .badParam
      else if s.mem.knobs.pinLimit < pinsWith s ps then fail s h 0x0503 .noResource
      else answer (each ps (setPins true false) s) h 0x0503 [])

def execCmdMemPinExclude (h : Hdr) (first count : Nat) (s : State) :
    Host.Outcome State Fault Refusal :=
  .next (runCmd s h 0x0503 .both false fun _ =>
    let ps := pagesFrom first count
    match pinCheck s h first count with
    | some st => fail s h 0x0503 st
    | none =>
      if ps.any (isPinned s) then fail s h 0x0503 .badParam
      else answer (each ps (setPins false true) s) h 0x0503 [])

def execCmdMemPinClear (h : Hdr) (first count : Nat) (s : State) :
    Host.Outcome State Fault Refusal :=
  .next (runCmd s h 0x0503 .both false fun _ =>
    match pinCheck s h first count with
    | some st => fail s h 0x0503 st
    | none => answer (each (pagesFrom first count) (setPins false false) s) h 0x0503 [])

/-- CMD_MEM_PAGE_RESET (R177). -/
def execCmdMemPageReset (h : Hdr) (page : Nat) (s : State) : Host.Outcome State Fault Refusal :=
  .next (runCmd s h 0x050A .both true fun j =>
    if h.fn ≠ 0 ∧ isMapped s page ∧ ¬ mappedTo s j page then fail s h 0x050A .noRights
    else if !mappedTo s j page then fail s h 0x050A .badParam
    else if !jobQuiet s j then fail s h 0x050A .wrongState
    else if lp5xBad s then fail s h 0x050A .hwFault
    else accept s h 0x050A [j, page] id)

def pageResetDone (s : State) : State :=
  match findAcc s 0x050A with
  | some a =>
    let ok := mappedTo s (listAt a.args 0 0) (listAt a.args 0 1)
    let s := if ok then resetPage s (listAt a.args 0 1) else s
    complete (dropAcc s 0x050A) a.hdr 0x050A 0x0E02 (if ok then .ok else .badJob) []
  | none => s

def execPageResetDone (s : State) : Host.Outcome State Fault Refusal := .next (pageResetDone s)

/-! ## Regions, rights, quarantine -/

/-- Every size at or above its least value and a multiple of 256 MiB (Table 6-6). -/
def regionsOk (r : Regions) : Bool :=
  decide (2048 ≤ r.golden) && decide (256 ≤ r.slotA) && decide (256 ≤ r.slotB)
    && decide (1024 ≤ r.journal) && decide (1024 ≤ r.undo) && decide (256 ≤ r.capture)
    && decide (256 ≤ r.scratch)
    && [r.golden, r.slotA, r.slotB, r.journal, r.undo, r.capture, r.scratch].all (fun n => n % 256 == 0)

/-- One line of a far frame that moves to another: decrypted under its old address, encrypted under
the new one; a line that fails its check is listed and written as zeros (R234). -/
def moveFarLine (p : Nat) (old new : Nat) (job : Nat) (s : State) (ln : Nat) : State :=
  let dl := p * 8192 + ln
  let key := jobKey s job
  match readFar s (old * 8192 + ln) key with
  | (.good d, s) => writeFar s (new * 8192 + ln) key d
  | (.uncorrectable, s) => writeFar (quarantine s dl job .farUncorrectable) (new * 8192 + ln) key 0
  | (.tag, s) => writeFar (quarantine s dl job .tag) (new * 8192 + ln) key 0

/-- A mapped page takes another far frame with its contents. -/
def moveFrame (s : State) (p new : Nat) : State :=
  match mapGet s.mem.mirror none p with
  | none => s
  | some m =>
    let lines := s.mem.far.filterMap fun x =>
      if x.1 / 8192 = m.farFrame then some (x.1 % 8192) else none
    let s := each lines (moveFarLine p m.farFrame new m.job) (dropFrame s new)
    let s := dropFrame s m.farFrame
    modMirror (modPpt s p fun e => { e with farFrame := new }) p fun m => { m with farFrame := new }

/-- Mapped pages whose frame lies at or above the design backing move down to free frames. -/
def packFrames (s : State) : State :=
  let high := s.mem.mirror.filterMap fun e => match e.2 with
    | some m => if backingFrames s ≤ m.farFrame then some e.1 else none
    | none => none
  each (high.zip (freeFar s high.length)) (fun s x => moveFrame s x.1 x.2) s

def execCmdMemRegions (h : Hdr) (r : Regions) (s : State) : Host.Outcome State Fault Refusal :=
  .next (runCmd s h 0x0506 .pf0 false fun _ =>
    if (List.range 8).any (fun j => (jobOf s j).image.isSome) then fail s h 0x0506 .wrongState
    else if !regionsOk r then fail s h 0x0506 .badParam
    else if lp5xBad s then fail s h 0x0506 .hwFault
    else if 122880 < regionsSum r + (usedFrames s).length then fail s h 0x0506 .noResource
    else
      let s := updatePasr (packFrames (modMemBlk s fun m => { m with regions := r }))
      answer s h 0x0506 (leBytes 4 (backingFrames s)))

/-- Rights that a row of the table may hold (R202). -/
def rightsOk (s : State) (m : Nat) (v : BitVec 16) : Bool :=
  if m = 18 then v == listAt s.mem.rights 0 18
  else if m = 0 ∨ m = 17 then true
  else
    let own := if m < 9 then m - 1 else m - 9
    (List.range 8).all fun j =>
      let x := v.toNat / 2 ^ (2 * j) % 4
      j == own || x == 0 || x == 2

def execCmdMemRights (h : Hdr) (master : Nat) (rights : BitVec 16) (s : State) :
    Host.Outcome State Fault Refusal :=
  .next (runCmd s h 0x0507 .pf0 false fun _ =>
    if 19 ≤ master ∨ !rightsOk s master rights then fail s h 0x0507 .badParam
    else
      let s := modMemBlk s fun m => { m with rights := listMod m.rights master (fun _ => rights) }
      answer (emitDev s 0x0603 []) h 0x0507 [])

def qreasonCode : QReason → Nat
  | .tag => 0 | .farUncorrectable => 1 | .nearUncorrectable => 2

/-- A quarantine-list entry as the response carries it (log 19). -/
def quarBytes (q : QEntry) : List Byte :=
  leBytes 8 (q.line * 128) ++ leBytes 1 q.job ++ leBytes 1 (qreasonCode q.reason)
    ++ List.replicate 6 0 ++ leBytes 8 q.cycle.toNat

def execCmdMemQuarantineRead (h : Hdr) (first : Nat) (s : State) : Host.Outcome State Fault Refusal :=
  .next (runCmd s h 0x0509 .pf0 false fun _ =>
    let from_ := min first s.mem.quar.length
    answer s h 0x0509 (leBytes 4 s.mem.quar.length ++ leBytes 4 from_
      ++ ((s.mem.quar.drop from_).take 9).flatMap quarBytes))

/-- Entries of a page leave the list (R210). -/
def removeQuar (s : State) (p : Nat) : State :=
  modPpt (dropQuar s p) p fun e => { e with qlines := 0 }

def execCmdMemQuarantineRemove (h : Hdr) (page : Nat) (s : State) :
    Host.Outcome State Fault Refusal :=
  .next (runCmd s h 0x0509 .pf0 false fun _ =>
    if 131072 ≤ page then fail s h 0x0509 .badParam
    else
      let gone := s.mem.quar.filter (fun q => linePage q.line == page)
      answer (removeQuar s page) h 0x0509 ((gone.take 10).flatMap quarBytes))

/-! ## Host access -/

/-- Carry out a BAR4 read: all of the data, or the status of the first failing line (R190, R191). -/
def doRead (s : State) (fn addr len : Nat) : State :=
  if !memUp s ∨ 2 ^ 37 < addr + len then emitOut s (.cpl 1 [])
  else
    let (st, bs, s) := masterRead s fn addr len
    emitOut s (.cpl (cplStatus st) (if st = .ok then bs else []))

/-- Carry out a BAR4 write, line by line up to the first failing line; being posted, a failure is only
reported as PCIe prescribes (R191). -/
def doWrite (s : State) (fn addr : Nat) (data : List Byte) : State :=
  if !memUp s ∨ 2 ^ 37 < addr + data.length then emitOut s (.posted fn 1)
  else
    let (st, s) := masterWrite s fn true addr data
    if st = .ok then s else emitOut s (.posted fn (cplStatus st))

def doAccess (s : State) : HostAcc → State
  | .read fn addr len => doRead s fn addr len
  | .write fn addr data => doWrite s fn addr data

def accessWaits (s : State) : HostAcc → Bool
  | .read _ addr len => rangeWaits s addr len
  | .write _ addr data => rangeWaits s addr data.length

/-- Accesses that have waited are carried out in order, up to the first that still waits. -/
def runWaiting : List HostAcc → State → State
  | [], s => modLpBlk s fun l => { l with waiting := [] }
  | a :: t, s =>
    if memUp s && accessWaits s a then modLpBlk s fun l => { l with waiting := a :: t }
    else runWaiting t (doAccess s a)

/-- An access takes effect, or waits: for its own channel, or behind those that wait (R223). -/
def hostAccess (s : State) (a : HostAcc) : State :=
  if memUp s && (!s.lp.waiting.isEmpty || accessWaits s a) then holdAccess s a else doAccess s a

/-- BAR4 read (R190, R191). -/
def bar4Read (s : State) (fn addr len : Nat) (ups : List Upset) : State :=
  let s := upsets s ups
  if s.hif.linkUp then hostAccess s (.read fn addr len) else s

def execBar4Read (fn addr len : Nat) (ups : List Upset) (s : State) :
    Host.Outcome State Fault Refusal :=
  atUnit (decide (fn ≤ 8)) (bar4Read s fn addr len ups)

/-- BAR4 write (R190, R191). -/
def bar4Write (s : State) (fn addr : Nat) (data : List Byte) (ups : List Upset) : State :=
  let s := upsets s ups
  if s.hif.linkUp then hostAccess s (.write fn addr data) else s

def execBar4Write (fn addr : Nat) (data : List Byte) (ups : List Upset) (s : State) :
    Host.Outcome State Fault Refusal :=
  atUnit (decide (fn ≤ 8)) (bar4Write s fn addr data ups)

/-! ## DMA channels (R192, R193, Table 15-8) -/

/-- The channel's NEXT differs from the last doorbell value. -/
def dmaActive (d : DmaChan) : Bool := d.next != d.doorbell

def execCmdMemDmaAssign (h : Hdr) (channel fn : Nat) (s : State) : Host.Outcome State Fault Refusal :=
  .next (runCmd s h 0x0508 .pf0 false fun _ =>
    if 8 ≤ channel ∨ 9 ≤ fn then fail s h 0x0508 .badParam
    else if dmaActive (dmaOf s channel) then fail s h 0x0508 .busy
    else answer (modDma s channel fun d => { d with fn := some fn }) h 0x0508 [])

def execMbxDmaDoorbell (fn channel : Nat) (value : BitVec 16) (s : State) :
    Host.Outcome State Fault Refusal :=
  atUnit (decide (fn ≤ 8) && decide (channel < 8))
    (modDma s channel fun d =>
      if s.hif.linkUp ∧ d.fn = some fn then { d with doorbell := value.toNat % 2 ^ d.log2 } else d)

/-- Descriptor status of an access (Table 6-7). -/
def dmaStatus : AccStatus → Nat
  | .ok => 0x0000 | .noRights => 0x0020
  | .unmapped => 0x0070 | .lost => 0x0070 | .quarantined => 0x0070
  | .tagFailed => 0x0071 | .uncorrectable => 0x0071 | .listed => 0x0071
  | .fenced => 0x0072

/-- Host address of the descriptor that the channel works on. -/
def descAddr (c : DmaChan) : Nat := c.base.toNat + 32 * c.next

/-- The data movement of a descriptor. A length outside 1 to 16,777,216 moves nothing, and its status
is not stated: a free value. -/
def dmaMove (s : State) (fn : Nat) (d : DmaDesc) : Nat × State :=
  if d.len = 0 ∨ 16777216 < d.len then
    let (v, s) := takeFree s 16
    (v.toNat, s)
  else if d.toHost then
    let (st, bs, s) := masterRead s fn d.addr d.len
    (dmaStatus st, emitOut s (.dma fn d.host.toNat bs))
  else
    let (st, s) := masterWrite s fn true d.addr (d.data.take d.len)
    (dmaStatus st, s)

/-- A descriptor that writes pages of a job that replays waits with the job's other host writes, so that
done follows them (R193, Table 11-10 step 2); one whose lines wait for a channel waits too (R223). -/
def dmaWaits (s : State) (d : DmaDesc) : Bool :=
  rangeWaits s d.addr (min d.len 16777216)
    || (!d.toHost && (spansOf d.addr (min d.len 16777216)).any fun sp =>
        match pageJob s (linePage sp.1) with
        | some j => (jobOf s j).replay.isSome
        | none => false)

/-- A channel takes its next descriptor (R193). -/
def dmaDescriptor (s : State) (c : Nat) (d : DmaDesc) (ups : List Upset) : State :=
  let s := upsets s ups
  let ch := dmaOf s c
  match ch.fn with
  | some fn =>
    if !dmaActive ch || ch.stopped || ch.cur.isSome || !memUp s || dmaWaits s d then s
    else
      let (st, s) := dmaMove s fn d
      modDma s c fun x => { x with cur := some (st, d.irq) }
  | none => s

def execDmaDescriptor (channel : Nat) (desc data : List Byte) (ups : List Upset) (s : State) :
    Host.Outcome State Fault Refusal :=
  atUnit (decide (channel < 8)) (dmaDescriptor s channel (descOf desc data) ups)

/-- Status and done are written, MSI-X sent if asked; a failed descriptor stops the channel at it
(R193, R468). -/
def dmaComplete (s : State) (c : Nat) : State :=
  let ch := dmaOf s c
  match ch.fn, ch.cur with
  | some fn, some (st, irq) =>
    let s := emitOut s (.dma fn (descAddr ch + 0x18) (leBytes 8 (st + 2 ^ 16)))
    let s := if irq then emitOut s (.msix fn (2 + c)) else s
    modDma s c fun x =>
      if st = 0 then { x with cur := none, next := (x.next + 1) % 2 ^ x.log2 }
      else { x with cur := none, stopped := true }
  | _, _ => s

def execDmaDescriptorComplete (channel : Nat) (s : State) : Host.Outcome State Fault Refusal :=
  atUnit (decide (channel < 8)) (dmaComplete s channel)

/-- RESTART: STOPPED clears and the channel goes on after the failed descriptor. -/
def execMbxDmaRestart (fn channel : Nat) (s : State) : Host.Outcome State Fault Refusal :=
  atUnit (decide (fn ≤ 8) && decide (channel < 8))
    (modDma s channel fun d =>
      if s.hif.linkUp ∧ d.fn = some fn ∧ d.stopped then
        { d with stopped := false, next := (d.next + 1) % 2 ^ d.log2 }
      else d)

end Sys2Proof.Machine
end

