-- ==== Sys2Proof/Machine/Lp5x.lean ====
section
/-! DEFINITION. The commands and events of the LP5X controllers (chapter 7). -/

namespace Sys2Proof.Machine

/-- Far lines of the data space (R213). -/
def farLines : Nat := 1006632960

/-! ## Refresh, temperature, retraining -/

/-- Every refresh that a channel owes is issued (R222). -/
def payRefresh (c : Chan) : Chan := { c with refreshes := c.refreshes + c.owed, owed := 0 }

/-- A per-bank refresh falls due (R218): issued by a channel that runs with those it owes, owed by one that
trains. -/
def refreshDue (c : Chan) : Chan :=
  if c.st = 2 ∨ c.st = 3 then payRefresh { c with owed := c.owed + 1 }
  else if c.st = 1 then { c with owed := c.owed + 1 } else c

def execLp5xRefresh (channel : Nat) (s : State) : Host.Outcome State Fault Refusal :=
  atUnit (decide (channel < 32)) (modChan s channel refreshDue)

/-- Table 7-3: the action on a refresh-rate reading; none is a failed read or a reserved code. -/
def mr4Act (c : Chan) (code : BitVec 5) : Option Nat → Chan
  | some d =>
    if d ≤ 85 then
      let n := c.coolReads + 1
      { c with rate := code, over105 := false, coolReads := n, hot := c.hot && decide (n < 2) }
    else if d ≤ 105 then { c with rate := code, over105 := false, coolReads := 0, hot := true }
    else { c with rate := code, over105 := true, coolReads := 0, hot := true }
  | none => { c with rate := code, over105 := true, coolReads := 0, hot := true }

/-- The kiln takes an LP5X warning into its warning path: EV_THERM_WARN naming the channel, sent over the
power link as well; it neither throttles nor trips on it (R219). -/
def lp5xWarn (s : State) (ch : Nat) : State :=
  linkEvent (emitDev (tellHv s fun h => { h with otWarn := true }) 0x0301 [(1, ch)]) 0x0301

/-- A reading of mode register 4 (R219); EV_MEM_HOT once per entry to OVER105, and the kiln's warning. -/
def mr4Read (s : State) (ch : Nat) (code : BitVec 5) (degC : Option Nat) : State :=
  let c := chanOf s ch
  if c.st ≠ 2 ∧ c.st ≠ 3 then s
  else
    let c' := mr4Act c code degC
    let s := modChan s ch fun _ => c'
    if c'.over105 && !c.over105 then lp5xWarn (emitDev s 0x0508 []) ch else s

def execMr4Read (channel : Nat) (code : BitVec 5) (degC : Option Nat) (s : State) :
    Host.Outcome State Fault Refusal :=
  atUnit (decide (channel < 32)) (mr4Read s channel code degC)

/-- The pause of the oscillator measurement: owed refreshes first, then the count `osc`, converted to ps.
DRIFT is its distance from the baseline, saturating at 255; above 6 ps a retraining is due (R220–R222). -/
def measureOsc (osc : Nat) (c : Chan) : Chan :=
  if c.st = 2 then
    let d := (osc - c.oscBase) + (c.oscBase - osc)
    { payRefresh c with osc := osc, drift := min 255 d, retrainDue := c.retrainDue || decide (6 < d) }
  else c

def execDqsOscMeasure (channel osc : Nat) (s : State) : Host.Outcome State Fault Refusal :=
  atUnit (decide (channel < 32)) (modChan s channel (measureOsc osc))

/-- The retraining pause: owed refreshes first; the last count becomes the baseline (R221, R222). Outside
its window the channel trains fully, alone (R223). -/
def retrainDq (inWindow : Bool) (c : Chan) : Chan :=
  if c.st = 2 ∧ c.retrainDue then
    { payRefresh c with retrainDue := false, retrains := min 255 (c.retrains + 1), oscBase := c.osc,
                        st := if inWindow then 2 else 1 }
  else c

def execDqRetrainPause (channel : Nat) (inWindow : Bool) (s : State) :
    Host.Outcome State Fault Refusal :=
  atUnit (decide (channel < 32)) (modChan s channel (retrainDq inWindow))

/-- Single-channel training ends (R223): recovered with the baseline `osc` that it measured, or failed
with every job held. The accesses that waited go on. -/
def channelTraining (s : State) (ch : Nat) (ok : Bool) (osc : Nat) : State :=
  if (chanOf s ch).st ≠ 1 ∨ s.lp.training then s
  else
    let s := if ok then
        emitDev (modChan s ch fun c => { c with st := 2, recovered := true, osc := osc, oscBase := osc })
          0x0509 [(1, 1)]
      else
        let s := emitDev (modChan s ch fun c => { c with st := 5 }) 0x050C []
        each (createdJobs s) (faultHold .channelFailed) s
    runWaiting s.lp.waiting s

def execChannelTrainingDone (channel : Nat) (ok : Bool) (osc : Nat) (s : State) :
    Host.Outcome State Fault Refusal :=
  atUnit (decide (channel < 32)) (channelTraining s channel ok osc)

/-- The training starts with the dies' reset: after a power-up or a warm reset, not on wake or on restart,
which leave self-refresh (Table 7-2 step 1). -/
def trainsFromReset (s : State) : Bool := s.pwr.waking.isNone && s.pwr.restart.isNone

/-- Every channel starts the full training of Table 7-2; a failed one only after a reset (R223). -/
def startTraining (s : State) : State :=
  let fresh := trainsFromReset s
  modLpBlk s fun l =>
    { l with training := true,
             chans := (List.range 32).foldl (fun m c =>
               mapPut m {} c (if !fresh && (mapGet l.chans {} c).st == 5 then mapGet l.chans {} c
                 else { st := 1 })) [] }

/-! ## Post-package repair at training (R216 step 8, R231, R233) -/

/-- An entry that the confirmation rule has confirmed (R482). -/
def confirmedEntry (e : Repair) : Bool := e.state == 0 && decide (3 ≤ e.det) && e.last != e.first

/-- Rows of the LP5X entries of the soft repair map that satisfy a test. The dies number a row as Table
16-3 does: channel, bank, row. -/
def repairRows (s : State) (f : Repair → Bool) : List Nat :=
  (s.spr.map.filter fun e => e.kind == 11 && e.state == 0 && f e).map (·.loc)

/-- Hard repairs of the confirmed rows, each in place of its soft-repair entry, then the soft repairs that
the map still holds are replayed. -/
def replayRepairs (s : State) : State :=
  let hard := repairRows s confirmedEntry
  let s := modSprBlk s fun p =>
    { p with hardRows := p.hardRows ++ hard.filter (fun r => !p.hardRows.contains r),
             map := p.map.filter fun e => !(e.kind == 11 && confirmedEntry e) }
  modLpBlk s fun l => { l with softRows := repairRows s fun _ => true }

/-- Full training starts on a powered, running memory domain: at boot, after a warm reset, on wake and
on restart (R216); it repeats nothing that already runs. -/
def execFullTraining (s : State) : Host.Outcome State Fault Refusal :=
  .next (if s.clk.domainsOn ∧ !s.lp.training ∧ s.lp.chans.all (fun c => c.2.st != 2 && c.2.st != 3)
    then startTraining s else s)

/-- A channel at the end of full training, with the oscillator baseline of step 7. -/
def trainedChan (failed : List Nat) (oscs : List Nat) (old : Chan) (c : Nat) : Chan :=
  if old.st = 5 then old
  else if failed.contains c then { st := 5 }
  else { st := 2, osc := listAt oscs 0 c, oscBase := listAt oscs 0 c }

/-- Full training ends: repairs made and replayed if it followed a reset (step 8), channels ready, or
failed after three attempts with EV_MEM_TRAIN_FAIL (R217). -/
def endTraining (s : State) (failed oscs : List Nat) : State :=
  let s := if trainsFromReset s then replayRepairs s else s
  let s := modLpBlk s fun l =>
    { l with training := false,
             chans := (List.range 32).foldl (fun m c =>
               mapPut m {} c (trainedChan failed oscs (mapGet l.chans {} c) c)) [] }
  each ((List.range 32).filter failed.contains) (fun s _ => emitDev s 0x0509 [(1, 0)]) s

/-! ## Repair (R231–R234) -/

/-- Row key of a far line, and the 15 lines of a row. -/
def rowOfLine (l : Nat) : Nat := (lineChannel l * 16 + lineBank l) * 131072 + lineRow l
/-- The row as Table 16-3 locates it: channel, bank, row. -/
def repairLoc (l : Nat) : Nat := lineChannel l + lineBank l * 2 ^ 5 + lineRow l * 2 ^ 9

def linesOfRow (l : Nat) : List Nat :=
  (List.range 15).map fun slot => ((lineRow l * 16 + lineBank l) * 15 + slot) * 32 + lineChannel l

/-- A line of a repaired row: corrected where the check can, kept byte for byte where it cannot
(R232). -/
def repairLine (s : State) (l : Nat) : State :=
  match mapGet s.mem.far none l with
  | some f =>
    match rsCorrect f.errs with
    | some (errs, true) => setFar s l { f with errs := errs }
    | _ => s
  | none => s

/-- The page that a far frame backs. -/
def pageOfFrame (s : State) (f : Nat) : Option Nat :=
  s.mem.mirror.findSome? fun e => match e.2 with
    | some m => if m.farFrame = f then some e.1 else none
    | none => none

/-- A far frame of the design backing is retired; its page moves to a free frame if there is one
(R234). -/
def retireFrame (s : State) (f : Nat) : State :=
  if backingFrames s ≤ f ∨ s.mem.retiredFar.contains f then s
  else
    let s := modMemBlk s fun m => { m with retiredFar := m.retiredFar ++ [f] }
    match pageOfFrame s f, freeFar s 1 with
    | some p, [g] => updatePasr (moveFrame s p g)
    | _, _ => s

def dropCandidate (s : State) (l : Nat) : State :=
  modLpBlk s fun x => { x with candidates := x.candidates.filter (· != rowOfLine l) }

/-- EV_MEM_REPAIRED: the completion of a CMD_MEM_REPAIR that asked for the row, or a plain event. -/
def repairedEvent (s : State) (l : Nat) (spared : Bool) : State :=
  match s.hif.accepted.find? (fun a => a.opcode == 0x050C
      && rowOfLine (listAt a.args 0 0) == rowOfLine l) with
  | some a => complete (dropAccOf s 0x050C a.hdr) a.hdr 0x050C 0x050B .ok [(1, b2n spared)]
  | none => emitDev s 0x050B [(1, b2n spared)]

/-- Soft repair of a candidate row, or the retirement of its frames (R232, R234). -/
def softRepair (s : State) (l : Nat) (resource : Bool) : State :=
  if !s.lp.candidates.contains (rowOfLine l) || (chanOf s (lineChannel l)).st != 2 then s
  else if resource then
    let s := each (linesOfRow l) repairLine s
    let s := modLpBlk s fun x =>
      { x with softRows := if x.softRows.contains (repairLoc l) then x.softRows else x.softRows ++ [repairLoc l] }
    repairedEvent (addRepair (dropCandidate s l) 11 (repairLoc l) 0) l true
  else
    let frames := ((linesOfRow l).map (· / 8192)).eraseDups
    repairedEvent (each frames retireFrame (dropCandidate s l)) l false

def execPprSoftRepair (line : Nat) (resource : Bool) (s : State) :
    Host.Outcome State Fault Refusal :=
  atUnit (decide (line < farLines)) (softRepair s line resource)

/-- CMD_MEM_REPAIR, list: as many entries of kind 11 as a response holds. -/
def execCmdMemRepairList (h : Hdr) (s : State) : Host.Outcome State Fault Refusal :=
  .next (runCmd s h 0x050C .pf0 false fun _ =>
    answer s h 0x050C
      (((s.spr.map.filter (fun r => r.kind == 11)).take 15).flatMap fun r => leBytes 16 (repairWord r)))

/-- CMD_MEM_REPAIR, request: the row of a far line becomes a candidate. -/
def execCmdMemRepairRequest (h : Hdr) (addr : Nat) (s : State) : Host.Outcome State Fault Refusal :=
  .next (runCmd s h 0x050C .pf0 false fun _ =>
    if farLines ≤ addr / 128 then fail s h 0x050C .badParam
    else if lp5xBad s then fail s h 0x050C .hwFault
    else accept s h 0x050C [addr / 128] fun s => noteUncorrectable s (addr / 128))

/-! ## Scrub (R236–R239) -/

def orOnes (x : Option Nat) : Nat := match x with | some n => n | none => 2 ^ 64 - 1

/-- The summary of Table 7-7 as fields. -/
def scrubFields (s : State) (c : Scrub) (status : Nat) : List (Nat × Nat) :=
  [(8, c.lines), (8, c.corrected), (8, c.uncorrectable), (8, c.skipped),
   (8, orOnes c.firstBad), (8, orOnes c.lastBad), (8, s.nowUs - c.started), (2, status), (2, 0), (4, 0)]

/-- A scrub ends: its summary goes to the host buffer and EV_MEM_SCRUB_DONE is raised. -/
def endScrub (s : State) (status : Nat) : State :=
  match s.lp.scrub with
  | none => s
  | some c =>
    let s := emitOut s (.host c.hdr.fn (packFields (scrubFields s c status)))
    let s := modLpBlk s fun l => { l with scrub := none }
    complete (dropAccOf s 0x050B c.hdr) c.hdr 0x050B 0x050A .ok []

/-- A warm reset stops the scrub; its summary goes to the device event log only (R239). -/
def resetScrub (s : State) : State :=
  match s.lp.scrub with
  | none => s
  | some c =>
    emitLog (modLpBlk s fun l => { l with scrub := none }) 0x050A (scrubFields s c 0x0003)

def execCmdMemScrub (h : Hdr) (first bytes share : Nat) (b : Bulk) (s : State) :
    Host.Outcome State Fault Refusal :=
  .next (runCmd s h 0x050B .pf0 false fun _ =>
    if first % 128 ≠ 0 ∨ bytes % 128 ≠ 0 ∨ bytes = 0 ∨ farLines < (first + bytes) / 128 ∨ 50 < share then fail s h 0x050B .badParam
    else match badBulk b with
      | some i => respond s h 0x050B .badParam (leBytes 4 i)
      | none =>
        if s.lp.scrub.isSome then fail s h 0x050B .busy
        else if lp5xBad s then fail s h 0x050B .hwFault
        else accept s h 0x050B [] fun s =>
          modLpBlk s fun l =>
            { l with scrub := some { hdr := h, share := if share = 0 then 5 else share, next := first / 128, stop := (first + bytes) / 128,
                                     started := s.nowUs } })

/-- The abort flag stops a running scrub with status 0x0002; with none running it gives
ST_WRONG_STATE. -/
def execCmdMemScrubAbort (h : Hdr) (s : State) : Host.Outcome State Fault Refusal :=
  .next (runCmd s h 0x050B .pf0 false fun _ =>
    if s.lp.scrub.isNone then fail s h 0x050B .wrongState
    else endScrub (answer s h 0x050B []) 0x0002)

def noteBad (c : Scrub) (l : Nat) : Scrub :=
  { c with firstBad := some (c.firstBad.getD (l * 128)), lastBad := some (l * 128) }

/-- One line of a frame that is mapped or in a system region. -/
def scrubOne (s : State) (c : Scrub) (l : Nat) : Scrub × State :=
  let p := pageOfFrame s (l / 8192)
  let key := match p with | some p => jobKey s (pptOf s p).job | none => s.pwr.sysKey
  let f := farLineOf s l key
  match checkFar s l key with
  | (none, s) =>
    let c := noteBad { c with lines := c.lines + 1, uncorrectable := c.uncorrectable + 1 } l
    match p with
    | some p => (c, quarantine s (p * 8192 + l % 8192) (pptOf s p).job .farUncorrectable)
    | none => (c, s)
  | (some g, s) =>
    if g = f then ({ c with lines := c.lines + 1 }, s)
    else (noteBad { c with lines := c.lines + 1, corrected := c.corrected + 1 } l, s)

/-- The next line of the running scrub (R237, R238). -/
def scrubLine (s : State) (ups : List Upset) : State :=
  let s := upsets s ups
  match s.lp.scrub with
  | none => s
  | some c =>
    let l := c.next
    let used := (pageOfFrame s (l / 8192)).isSome || decide (backingFrames s ≤ l / 8192)
    let (c, s) := if used then scrubOne s c l else ({ c with skipped := c.skipped + 1 }, s)
    let c := { c with next := l + 1 }
    let s := modLpBlk s fun x => { x with scrub := some c }
    if c.stop ≤ c.next then endScrub s 0x0000 else s

def execScrubLine (ups : List Upset) (s : State) : Host.Outcome State Fault Refusal :=
  .next (scrubLine s ups)

/-! ## Diagnostics (R240–R242) -/

/-- The 136 bytes of a far line as its write encoded them: ciphertext, tag, check symbols. -/
def encodedBytes (l : Nat) (f : FarLine) : List Byte :=
  let c := xtsEncrypt (xtsKey f.key) l f.plain
  let ct := leBytes 128 c.toNat ++ leBytes 4 (cmacTag (macKey f.key) l c).toNat
  ct ++ rsCheck ct

def xorErrs (bs : List Byte) (errs : List (Nat × Byte)) : List Byte :=
  errs.foldl (fun l e => listMod l e.1 (· ^^^ e.2)) bs

/-- The 136 bytes of a far line as stored. -/
def storedBytes (s : State) (l : Nat) (key : Option Nat) : List Byte :=
  let f := farLineOf s l key
  xorErrs (encodedBytes l f) f.errs

/-- The 2 KiB row of a far line (R212): 15 line slots, their metadata, eight zero bytes. -/
def rowImage (s : State) (l : Nat) (key : Nat → Option Nat) : List Byte :=
  let stored := (linesOfRow l).map fun m => storedBytes s m (key m)
  (stored.flatMap fun b => b.take 128) ++ (stored.flatMap fun b => b.drop 128) ++ List.replicate 8 0

/-- Line slot k of a row image with its metadata. -/
def slotBytes (row : List Byte) (k : Nat) : List Byte :=
  (row.drop (128 * k)).take 128 ++ (row.drop (1920 + 8 * k)).take 8

/-- Byte differences between what is written and the encoding kept for the line. -/
def diffErrs : Nat → List Byte → List Byte → List (Nat × Byte)
  | i, a :: as, b :: bs =>
    if a = b then diffErrs (i + 1) as bs else (i, a ^^^ b) :: diffErrs (i + 1) as bs
  | _, _, _ => []

/-- Where a far line may be diagnosed (R241). -/
def diagFarCheck (s : State) (addr : Nat) : Option St :=
  let l := addr / 128
  if addr % 128 ≠ 0 ∨ farLines ≤ l ∨ backingFrames s ≤ l / 8192 then some .badParam
  else match pageOfFrame s (l / 8192) with
    | some p => if jobQuiet s (pptOf s p).job then none else some .wrongState
    | none => if s.mem.retiredFar.contains (l / 8192) then some .wrongState else none

def diagKey (s : State) (l : Nat) : Option Nat :=
  match pageOfFrame s (l / 8192) with
  | some p => jobKey s (pptOf s p).job
  | none => none

def execCmdMemEccDiagWriteFar (h : Hdr) (addr : Nat) (cipher : Line) (tag check : BitVec 32)
    (s : State) : Host.Outcome State Fault Refusal :=
  .next (runCmd s h 0x050D .pf0 false fun _ =>
    match diagFarCheck s addr with
    | some st => fail s h 0x050D st
    | none =>
      if lp5xBad s then fail s h 0x050D .hwFault
      else
        let l := addr / 128
        let f := farLineOf s l (diagKey s l)
        let given := leBytes 128 cipher.toNat ++ leBytes 4 tag.toNat ++ leBytes 4 check.toNat
        answer (setFar s l { f with errs := diffErrs 0 given (encodedBytes l f) }) h 0x050D [])

/-- Operation 1 reads the stored bytes as they are. A line that nothing has written in a free frame
holds no stated value. -/
def execCmdMemEccDiagReadFar (h : Hdr) (addr : Nat) (s : State) : Host.Outcome State Fault Refusal :=
  .next (runCmd s h 0x050D .pf0 false fun _ =>
    match diagFarCheck s addr with
    | some st => fail s h 0x050D st
    | none =>
      let l := addr / 128
      if lp5xBad s then fail s h 0x050D .hwFault
      else if (mapGet s.mem.far none l).isNone && (pageOfFrame s (l / 8192)).isNone then
        let (v, s) := takeFree s 1088
        answer s h 0x050D (leBytes 136 v.toNat)
      else
        answer s h 0x050D (slotBytes (rowImage s l (diagKey s)) (lineSlot l)))

/-- The words of Table 7-8 that a diagnostic access may name: word numbers for targets 1, 2 and 4;
(tile × 512 + brick) × 320 + entry for target 3. -/
def diagChipOk (s : State) (target addr : Nat) : Bool :=
  match target with
  | 1 => decide (addr / 131072 < 992) && mapGet s.mem.reverse none (addr / 131072) == none
  | 2 => decide (addr < 16)
  | 3 => decide (addr / 163840 < 400) && tileFree s (addr / 163840)
  | 4 => decide (addr < 16)
  | _ => false

def execCmdMemEccDiagWriteChip (h : Hdr) (target addr : Nat) (data : BitVec 64) (check : BitVec 8)
    (s : State) : Host.Outcome State Fault Refusal :=
  .next (runCmd s h 0x050D .pf0 false fun _ =>
    if !diagChipOk s target addr then fail s h 0x050D .badParam
    else
      let s :=
        if target = 1 then putNear s addr (check ++ data)
        else if target = 3 then
          let v : BitVec 39 := check.setWidth 7 ++ data.setWidth 32
          modTile s (addr / 163840) fun t => { t with store := mapPut t.store 0 (addr % 163840) v }
        else
          let w := if target = 4 then BitVec.setWidth 72 (check.setWidth 7 ++ data.setWidth 48)
            else check ++ data
          modLpBlk s fun l => { l with diag := mapPut l.diag 0 (target * 16 + addr) w }
      answer s h 0x050D [])

def execCmdMemEccDiagReadChip (h : Hdr) (target addr : Nat) (s : State) :
    Host.Outcome State Fault Refusal :=
  .next (runCmd s h 0x050D .pf0 false fun _ =>
    if !diagChipOk s target addr then fail s h 0x050D .badParam
    else
      let w : Nat :=
        if target = 1 then (mapGet s.mem.near 0 addr).toNat
        else if target = 3 then
          (mapGet (tileOf s (addr / 163840)).store 0 (addr % 163840)).toNat
        else (mapGet s.lp.diag 0 (target * 16 + addr)).toNat
      let bits := if target = 3 then 32 else if target = 4 then 48 else 64
      answer s h 0x050D (leBytes 8 (w % 2 ^ bits) ++ leBytes 1 (w / 2 ^ bits)))

/-! ## Retention and status -/

def execCmdMemRetain (h : Hdr) (retain : Bool) (s : State) : Host.Outcome State Fault Refusal :=
  .next (runCmd s h 0x050E .both true fun j =>
    let bit := BitVec.ofNat 8 (2 ^ j)
    let s := modLpBlk s fun l =>
      { l with retainJobs := if retain then l.retainJobs ||| bit else l.retainJobs &&& ~~~bit }
    answer (updatePasr s) h 0x050E [])

def execCmdMemChStatus (h : Hdr) (first count : Nat) (s : State) :
    Host.Outcome State Fault Refusal :=
  .next (runCmd s h 0x050F .pf0 false fun _ =>
    if !rangeOk first count 32 32 then fail s h 0x050F .badParam
    else answer s h 0x050F
      ((List.range count).flatMap fun i => leBytes 4 (chanWord (chanOf s (first + i)))))

end Sys2Proof.Machine
end

