-- ==== Sys2Proof/Machine/Pallets.lean ====
section
/-! DEFINITION. The commands and events of pallets and their scheduler (chapter 8, R265–R280). -/

namespace Sys2Proof.Machine

/-! ## Commands -/

def handlerKey (j t : Nat) : Nat := j * 256 + t

/-- Entries of a handler table from type `first` on. -/
def putHandlers (s : State) (j first : Nat) (es : List (Bool × BitVec 16)) : State :=
  each (es.zip (List.range es.length)) (fun s e =>
    let v := if e.1.1 then some e.1.2 else none
    modPalBlk s fun p =>
      { p with handlers := mapPut p.handlers none (handlerKey j (first + e.2)) v }) s

def execCmdPalHandlers (h : Hdr) (first : Nat) (entries : List (Bool × BitVec 16)) (s : State) :
    Host.Outcome State Fault Refusal :=
  .next (runCmd s h 0x0604 .both true fun j =>
    if !rangeOk first entries.length 256 256 then fail s h 0x0604 .badParam
    else answer (putHandlers s j first entries) h 0x0604 [])

/-- An ordered flow number (R273). -/
def flowOk (f : Nat) : Bool := decide (1 ≤ f) && decide (f ≤ 65535)

/-- In-flight count and next-release number, two bytes each (log 19). -/
def flowBytes (x : Flow) : List Byte := leBytes 2 x.inflight.length ++ leBytes 2 x.next

def execCmdPalFlowRead (h : Hdr) (flow : Nat) (s : State) : Host.Outcome State Fault Refusal :=
  .next (runCmd s h 0x0605 .both true fun j =>
    if !flowOk flow then fail s h 0x0605 .badParam
    else answer s h 0x0605 (flowBytes (flowOf s j flow)))

/-- The flow starts again at 0, with nothing in flight and nothing buffered (R272, R273). -/
def resetFlow (s : State) (j f : Nat) : State :=
  modPalBlk s fun p =>
    rbFill { p with flows := mapPut p.flows {} (flowKey j f) {},
                    rb := p.rb.filter (fun e => !(e.job == j && e.flow == f)),
                    rbWait := p.rbWait.filter (fun e => !(e.job == j && e.flow == f)) }

def execCmdPalFlowReset (h : Hdr) (flow : Nat) (s : State) : Host.Outcome State Fault Refusal :=
  .next (runCmd s h 0x0605 .both true fun j =>
    if !flowOk flow then fail s h 0x0605 .badParam
    else answer (resetFlow s j flow) h 0x0605 (flowBytes (flowOf s j flow)))

def execCmdPalPolicy (h : Hdr) (band : Nat) (s : State) : Host.Outcome State Fault Refusal :=
  .next (runCmd s h 0x0607 .pf0 false fun _ =>
    if 18 < band then fail s h 0x0607 .badParam
    else answer (modPalBlk s fun p => { p with affinity := band }) h 0x0607 [])

/-- The figures of R280: release-buffer entries in use, the flows named, the masons of the job, then
the types that have been dispatched (log 19). -/
def palStats (s : State) (j : Nat) (flows : List Nat) : List Byte :=
  leBytes 2 s.pal.rb.length ++ flows.flatMap (fun f => flowBytes (flowOf s j f))
    ++ (masonsOfJob s j).flatMap (fun m =>
      leBytes 8 (mapGet s.pal.busy 0 m) ++ leBytes 8 (mapGet s.pal.idle 0 m))
    ++ (s.pal.dispatched.filter (fun e => e.1 / 256 == j)).flatMap (fun e =>
      leBytes 1 (e.1 % 256) ++ leBytes 8 e.2)

/-- The report can be longer than a response: its length, then its bytes from `first` on (log 19). -/
def execCmdPalStats (h : Hdr) (flows : List Nat) (first : Nat) (s : State) :
    Host.Outcome State Fault Refusal :=
  .next (runCmd s h 0x0608 .both true fun j =>
    if !flows.all flowOk then fail s h 0x0608 .badParam
    else answer s h 0x0608 (leBytes 4 (palStats s j flows).length ++ (palStats s j flows).drop first))

/-! ## The scheduler -/

/-- Pallet source hods of a job with a complete item: hod, place of its head item, the item. -/
def readyHods (s : State) (j : Nat) : List (Nat × Nat × Item) :=
  s.pal.hods.filterMap fun e =>
    if e.2.valid && e.2.job == j && e.2.p.palletSrc then
      match bestItem e.2.items with
      | some i => some (e.1, i, e.2.items.getD i {})
      | none => none
    else none

/-- The ready list (R267): by the head item's priority, then by the time it became complete. -/
def readyList (s : State) (j : Nat) : List (Nat × Nat × Item) :=
  (readyHods s j).mergeSort fun a b =>
    if a.2.2.prio ≠ b.2.2.prio then decide (b.2.2.prio < a.2.2.prio)
    else decide (a.2.2.order ≤ b.2.2.order)

/-- The scheduler takes the item out of its hod; its wait is counted (R279). -/
def takeItem (s : State) (h i : Nat) : State :=
  let x := hodOf s h
  let before := hodDepth x
  let it := x.items.getD i {}
  let s := claimItem s h i .belic
  let s := modHod s h fun y => { y with part := y.part.filter (fun e => e.1 != .belic) }
  let s := leafAdd s (leafJob x.job 12) it.words.length
  wmCheck (each it.words (fun s w => parityNote s h w) s) h before

/-- A pallet as a slot holds it: priority and source hod written by the scheduler, reserved bits zero
(R5, Table 8-10). -/
def slotOf (h : Nat) (it : Item) (handler : BitVec 16) : Slot :=
  let w (i : Nat) : Word := wordData (it.words.getD i 0)
  { w0 := BitVec.ofNat 64 (patchBits ((w 0).toNat % 2 ^ 54) it.prio 36 3),
    w1 := BitVec.ofNat 64 (h % 2 ^ 15), w2 := w 2, w3 := w 3, handler := handler.toNat }

/-- A pallet that has no handler: discarded, counted, reported; its seq counts as released with no
outputs (R265, R266). -/
def discardBad (s : State) (j h i : Nat) (it : Item) : State :=
  let s := emitJob (leafAdd (takeItem s h i) (leafPal j 2) 1) 0x0705 j []
  if it.words.length = 4 then completeSlot s j (slotOf h it 0) else s

/-- Router that distances are measured from (R269, Table 12-1). -/
def producerRouter (s : State) (x : Hod) : Nat :=
  match x.p.prodKind with
  | 1 => match physOf s x.job (x.p.prodEp % 512) with
    | some t => tileRouter t
    | none => 0
  | 3 => 9
  | 4 => let r := routeOf s (x.p.prodEp % 1024)
         if r < 12 then portRouter r else 0
  | _ => 0

/-- Masons that may take a pallet of the job: assigned, a slot free, no pause pending, not halted
(R269, R303, R309). -/
def freeMasons (s : State) (j : Nat) : List (Nat × Mason) :=
  s.msn.masons.filter fun e =>
    let m := e.2
    m.job == some j && decide (m.slots.length < 2) && !m.pausePending
      && (m.st == .reset || m.st == .running || m.st == .waiting)

/-- Pallets running or in slots in a group. -/
def groupLoad (s : State) (g : Nat) : Nat :=
  s.msn.masons.foldl (fun n e =>
    if e.1 / 16 = g then n + e.2.slots.length + b2n e.2.cur.isSome else n) 0

/-- The element of a list with the least key, the first among equals. -/
def leastBy {α : Type} (f : α → Nat) : List α → Option α
  | [] => none
  | x :: xs => some (xs.foldl (fun b y => if f y < f b then y else b) x)

/-- The mason of R269. -/
def pickMason (s : State) (j : Nat) (x : Hod) : Option Nat :=
  let ms := freeMasons s j
  let from_ := producerRouter s x
  let dist (g : Nat) := hops from_ (groupRouter g)
  let groups := (ms.map (fun e => e.1 / 16)).eraseDups
  match leastBy dist groups with
  | none => none
  | some g0 =>
    let near := groups.filter fun g => decide (dist g ≤ dist g0 + s.pal.affinity)
    match leastBy (groupLoad s) (near.mergeSort (· ≤ ·)) with
    | none => none
    | some g => (leastBy (fun e => e.2.slots.length) (ms.filter fun e => e.1 / 16 == g)).map (·.1)

/-- A pallet enters the slot of a mason. -/
def fillSlot (s : State) (j h i m : Nat) (p : Slot) : State :=
  let s := takeItem s h i
  let s := modMason s m fun x => { x with slots := x.slots ++ [p] }
  let s := if slotFlow p = 0 then s
    else modFlow s j (slotFlow p) fun f => { f with inflight := f.inflight ++ [slotSeq p] }
  let s := modPalBlk s fun q =>
    { q with dispatched := mapMod q.dispatched 0 (handlerKey j (p.w0.toNat % 256)) (· + 1) }
  leafAdd (leafAdd s (leafPal j 0) 1) (leafGroup (m / 16) 3) 1

/-- The head of the ready list that is not held back (R268): discarded, or given to a mason. -/
def dispatchFrom (s : State) (j : Nat) : List (Nat × Nat × Item) → State
  | [] => s
  | (h, i, it) :: rest =>
    match if it.words.length = 4 then
        mapGet s.pal.handlers none (handlerKey j ((it.words.getD 0 0).toNat % 256)) else none with
    | none => discardBad s j h i it
    | some a =>
      let p := slotOf h it a
      let f := flowOf s j (slotFlow p)
      if slotFlow p = 0 then
        match pickMason s j (hodOf s h) with
        | some m => fillSlot s j h i m p
        | none => s
      else if 64 ≤ (slotSeq p + 4096 - f.next) % 4096 then dispatchFrom s j rest
      else if f.inflight.contains (slotSeq p) then
        emitJob (leafAdd (takeItem s h i) (leafPal j 3) 1) 0x0704 j []
      else match pickMason s j (hodOf s h) with
        | some m => fillSlot s j h i m p
        | none => s

/-- One dispatch of a job (R269–R275); none while its checkpoint is being captured (R366). -/
def palletDispatch (s : State) (j : Nat) : State :=
  if (jobOf s j).capturing.isSome then s else dispatchFrom s j (readyList s j)

def execPalletDispatch (job : Nat) (s : State) : Host.Outcome State Fault Refusal :=
  atUnit (decide (job < 8)) (palletDispatch s job)

def execReleaseBufferDrain (s : State) : Host.Outcome State Fault Refusal := .next (drainOne s)

end Sys2Proof.Machine
end

