-- ==== Sys2Proof/Machine/Rv64.lean ====
section
/-! DEFINITION. The base instruction set of a mason: RV64IMC with Zicsr in machine mode, apart from the
instructions that rows of the command table stand for, and the command that a fetched word of those spells
(R2, R286, R292; log 131). -/

namespace Sys2Proof.Machine

/-! ## Fields of a 32-bit instruction -/

def opc (w : Nat) : Nat := w % 128
def rdOf (w : Nat) : Nat := field w 11 7
def f3Of (w : Nat) : Nat := field w 14 12
def rs1Of (w : Nat) : Nat := field w 19 15
def rs2Of (w : Nat) : Nat := field w 24 20
def f7Of (w : Nat) : Nat := field w 31 25

/-- A signed immediate of n bits in 64. -/
def sextN (n v : Nat) : Word := (BitVec.ofNat n v).signExtend 64

def immI (w : Nat) : BitVec 12 := BitVec.ofNat 12 (field w 31 20)
def immS (w : Nat) : BitVec 12 := BitVec.ofNat 12 (f7Of w * 32 + rdOf w)
def immB (w : Nat) : Word :=
  sextN 13 (field w 11 8 * 2 + field w 30 25 * 2 ^ 5 + field w 7 7 * 2 ^ 11 + field w 31 31 * 2 ^ 12)
def immU (w : Nat) : Word := sextN 32 (field w 31 12 * 2 ^ 12)
def immJ (w : Nat) : Word :=
  sextN 21 (field w 30 21 * 2 + field w 20 20 * 2 ^ 11 + field w 19 12 * 2 ^ 12 + field w 31 31 * 2 ^ 20)

/-! ## Compressed instructions: the 32-bit word that each stands for -/

def encR (op rd f3 rs1 rs2 f7 : Nat) : Nat :=
  op + rd * 2 ^ 7 + f3 * 2 ^ 12 + rs1 * 2 ^ 15 + rs2 * 2 ^ 20 + f7 * 2 ^ 25
def encI (op rd f3 rs1 imm : Nat) : Nat := op + rd * 2 ^ 7 + f3 * 2 ^ 12 + rs1 * 2 ^ 15 + imm % 4096 * 2 ^ 20
def encS (op f3 rs1 rs2 imm : Nat) : Nat :=
  op + imm % 32 * 2 ^ 7 + f3 * 2 ^ 12 + rs1 * 2 ^ 15 + rs2 * 2 ^ 20 + imm / 32 % 128 * 2 ^ 25
/-- A branch by an offset of 13 bits. -/
def encB (f3 rs1 imm : Nat) : Nat :=
  0x63 + field imm 11 11 * 2 ^ 7 + field imm 4 1 * 2 ^ 8 + f3 * 2 ^ 12 + rs1 * 2 ^ 15
    + field imm 10 5 * 2 ^ 25 + field imm 12 12 * 2 ^ 31
/-- A jump by an offset of 21 bits. -/
def encJ (rd imm : Nat) : Nat :=
  0x6F + rd * 2 ^ 7 + field imm 19 12 * 2 ^ 12 + field imm 11 11 * 2 ^ 20 + field imm 10 1 * 2 ^ 21
    + field imm 20 20 * 2 ^ 31

/-- v as a signed number of n bits, again as one of m bits. -/
def widen (n m v : Nat) : Nat := ((BitVec.ofNat n v).signExtend m).toNat

/-- Quadrant 0: loads and stores by two short registers. -/
def expand0 (w : Nat) : Option Nat :=
  let a := 8 + field w 9 7
  let b := 8 + field w 4 2
  let i4 := field w 12 10 * 8 + field w 6 6 * 4 + field w 5 5 * 64
  let i8 := field w 12 10 * 8 + field w 6 5 * 64
  let sp := field w 12 11 * 16 + field w 10 7 * 64 + field w 6 6 * 4 + field w 5 5 * 8
  match field w 15 13 with
  | 0 => if sp = 0 then none else some (encI 0x13 b 0 2 sp)
  | 2 => some (encI 0x03 b 2 a i4)
  | 3 => some (encI 0x03 b 3 a i8)
  | 6 => some (encS 0x23 2 a b i4)
  | 7 => some (encS 0x23 3 a b i8)
  | _ => none

/-- The arithmetic of quadrant 1, function 4. -/
def expandAlu (w : Nat) : Option Nat :=
  let a := 8 + field w 9 7
  let b := 8 + field w 4 2
  let sh := field w 12 12 * 32 + field w 6 2
  match field w 11 10 with
  | 0 => some (encI 0x13 a 5 a sh)
  | 1 => some (encI 0x13 a 5 a (sh + 0x400))
  | 2 => some (encI 0x13 a 7 a (widen 6 12 sh))
  | _ =>
    match field w 12 12, field w 6 5 with
    | 0, 0 => some (encR 0x33 a 0 a b 0x20)
    | 0, 1 => some (encR 0x33 a 4 a b 0)
    | 0, 2 => some (encR 0x33 a 6 a b 0)
    | 0, 3 => some (encR 0x33 a 7 a b 0)
    | 1, 0 => some (encR 0x3B a 0 a b 0x20)
    | 1, 1 => some (encR 0x3B a 0 a b 0)
    | _, _ => none

/-- Quadrant 1. -/
def expand1 (w : Nat) : Option Nat :=
  let r := field w 11 7
  let imm := widen 6 12 (field w 12 12 * 32 + field w 6 2)
  let b := field w 4 3 * 2 + field w 11 10 * 8 + field w 2 2 * 32 + field w 6 5 * 64 + field w 12 12 * 256
  match field w 15 13 with
  | 0 => some (encI 0x13 r 0 r imm)
  | 1 => if r = 0 then none else some (encI 0x1B r 0 r imm)
  | 2 => some (encI 0x13 r 0 0 imm)
  | 3 =>
    if field w 12 12 = 0 ∧ field w 6 2 = 0 then none
    else if r = 2 then
      some (encI 0x13 2 0 2 (widen 10 12 (field w 6 6 * 16 + field w 2 2 * 32 + field w 5 5 * 64
        + field w 4 3 * 128 + field w 12 12 * 512)))
    else some (0x37 + r * 2 ^ 7 + widen 6 20 (field w 12 12 * 32 + field w 6 2) * 2 ^ 12)
  | 4 => expandAlu w
  | 5 => some (encJ 0 (widen 12 21 (field w 5 3 * 2 + field w 11 11 * 16 + field w 2 2 * 32
        + field w 7 7 * 64 + field w 6 6 * 128 + field w 10 9 * 256 + field w 8 8 * 1024
        + field w 12 12 * 2048)))
  | 6 => some (encB 0 (8 + field w 9 7) (widen 9 13 b))
  | _ => some (encB 1 (8 + field w 9 7) (widen 9 13 b))

/-- Quadrant 2. -/
def expand2 (w : Nat) : Option Nat :=
  let r := field w 11 7
  let b := field w 6 2
  match field w 15 13 with
  | 0 => some (encI 0x13 r 1 r (field w 12 12 * 32 + b))
  | 2 => if r = 0 then none
         else some (encI 0x03 r 2 2 (field w 6 4 * 4 + field w 12 12 * 32 + field w 3 2 * 64))
  | 3 => if r = 0 then none
         else some (encI 0x03 r 3 2 (field w 6 5 * 8 + field w 12 12 * 32 + field w 4 2 * 64))
  | 4 =>
    if field w 12 12 = 0 then
      if b = 0 then (if r = 0 then none else some (encI 0x67 0 0 r 0))
      else some (encR 0x33 r 0 0 b 0)
    else if b = 0 then (if r = 0 then some 0x00100073 else some (encI 0x67 1 0 r 0))
    else some (encR 0x33 r 0 r b 0)
  | 6 => some (encS 0x23 2 2 b (field w 12 9 * 4 + field w 8 7 * 64))
  | 7 => some (encS 0x23 3 2 b (field w 12 10 * 8 + field w 9 7 * 64))
  | _ => none

/-- The instruction that a 16-bit word stands for; none for one that RV64C without floating point does not
define. -/
def expandC (w : Nat) : Option Nat :=
  match w % 4 with
  | 0 => expand0 w
  | 1 => expand1 w
  | 2 => expand2 w
  | _ => none

/-! ## Arithmetic -/

/-- OP and OP-IMM by funct3; `alt` picks subtraction and the arithmetic shift. -/
def aluOp (f3 : Nat) (alt : Bool) (a b : Word) : Word :=
  match f3 with
  | 0 => if alt then a - b else a + b
  | 1 => a <<< (b.toNat % 64)
  | 2 => BitVec.ofNat 64 (b2n (BitVec.slt a b))
  | 3 => BitVec.ofNat 64 (b2n (BitVec.ult a b))
  | 4 => a ^^^ b
  | 5 => if alt then a.sshiftRight (b.toNat % 64) else a >>> (b.toNat % 64)
  | 6 => a ||| b
  | _ => a &&& b

/-- OP-32 and OP-IMM-32: on the low words, sign-extended. -/
def aluOp32 (f3 : Nat) (alt : Bool) (a b : Word) : Word :=
  let x : BitVec 32 := a.setWidth 32
  let y : BitVec 32 := b.setWidth 32
  (match f3 with
   | 0 => if alt then x - y else x + y
   | 1 => x <<< (y.toNat % 32)
   | _ => if alt then x.sshiftRight (y.toNat % 32) else x >>> (y.toNat % 32)).signExtend 64

/-- Division as RV64M gives it: by zero all ones, and the most negative number by −1 wraps. -/
def divOp {n : Nat} (a b : BitVec n) : BitVec n :=
  if b = 0 then BitVec.allOnes n else BitVec.ofInt n (a.toInt.tdiv b.toInt)
def divuOp {n : Nat} (a b : BitVec n) : BitVec n := if b = 0 then BitVec.allOnes n else a / b
def remOp {n : Nat} (a b : BitVec n) : BitVec n :=
  if b = 0 then a else BitVec.ofInt n (a.toInt.tmod b.toInt)
def remuOp {n : Nat} (a b : BitVec n) : BitVec n := if b = 0 then a else a % b

def mulOp (f3 : Nat) (a b : Word) : Word :=
  match f3 with
  | 0 => a * b
  | 1 => BitVec.ofInt 64 (a.toInt * b.toInt / 2 ^ 64)
  | 2 => BitVec.ofInt 64 (a.toInt * (b.toNat : Int) / 2 ^ 64)
  | 3 => BitVec.ofNat 64 (a.toNat * b.toNat / 2 ^ 64)
  | 4 => divOp a b
  | 5 => divuOp a b
  | 6 => remOp a b
  | _ => remuOp a b

def mulOp32 (f3 : Nat) (a b : Word) : Option Word :=
  let x : BitVec 32 := a.setWidth 32
  let y : BitVec 32 := b.setWidth 32
  match f3 with
  | 0 => some ((x * y).signExtend 64)
  | 4 => some ((divOp x y).signExtend 64)
  | 5 => some ((divuOp x y).signExtend 64)
  | 6 => some ((remOp x y).signExtend 64)
  | 7 => some ((remuOp x y).signExtend 64)
  | _ => none

/-- Whether a branch is taken, by funct3. -/
def branchTaken (f3 : Nat) (a b : Word) : Option Bool :=
  match f3 with
  | 0 => some (a == b)
  | 1 => some (a != b)
  | 4 => some (BitVec.slt a b)
  | 5 => some (!BitVec.slt a b)
  | 6 => some (BitVec.ult a b)
  | 7 => some (!BitVec.ult a b)
  | _ => none

/-! ## CSRs -/

/-- mstatus: MIE, MPIE, and MPP fixed at machine mode. -/
def mstatusWord (x : Mason) : Word := BitVec.ofNat 64 (0x1800 + b2n x.mie * 8 + b2n x.mpie * 128)

/-- Machine-mode CSRs whose value the base architecture leaves to the implementation: identification, misa,
the counters with their controls, configuration pointer. -/
def freeCsr (c : Nat) : Bool :=
  c == 0x301 || c == 0x320 || (decide (0x323 ≤ c) && decide (c ≤ 0x33F))
    || c == 0xB00 || (decide (0xB02 ≤ c) && decide (c ≤ 0xB1F))
    || (decide (0xC03 ≤ c) && decide (c ≤ 0xC1F)) || (decide (0xF11 ≤ c) && decide (c ≤ 0xF15))

/-- Value of a CSR of mason m; none for one it does not have. mie and mip read zero: masons take no interrupts
(R295). -/
def csrRead (s : State) (m c : Nat) : Option (Word × State) :=
  let x := masonOf s m
  match c with
  | 0x300 => some (mstatusWord x, s)
  | 0x304 => some (0, s)
  | 0x305 => some (x.mtvec, s)
  | 0x340 => some (x.mscratch, s)
  | 0x341 => some (x.mepc, s)
  | 0x342 => some (x.mcause, s)
  | 0x343 => some (x.mtval, s)
  | 0x344 => some (0, s)
  | _ => if freeCsr c then some (takeFree s 64) else none

/-- A CSR written; legal values only where the base architecture limits them. -/
def csrWrite (x : Mason) (c : Nat) (v : Word) : Mason :=
  match c with
  | 0x300 => { x with mie := v.getLsbD 3, mpie := v.getLsbD 7 }
  | 0x305 => { x with mtvec := v &&& ~~~2 }
  | 0x340 => { x with mscratch := v }
  | 0x341 => { x with mepc := v &&& ~~~1 }
  | 0x342 => { x with mcause := v }
  | 0x343 => { x with mtval := v }
  | _ => x

/-- CSRRW, CSRRS, CSRRC and their immediate forms. A write to a read-only CSR is illegal. -/
def csrInstr (s : State) (m w : Nat) : State :=
  let c := field w 31 20
  let f3 := f3Of w
  let v : Word := if 4 ≤ f3 then BitVec.ofNat 64 (rs1Of w) else regOf (masonOf s m) (rs1Of w)
  let writes := f3 % 4 == 1 || rs1Of w != 0
  match csrRead s m c with
  | none => illegal s m
  | some (old, s1) =>
    if writes && decide (3072 ≤ c) then illegal s m
    else
      let new := if f3 % 4 = 1 then v else if f3 % 4 = 2 then old ||| v else old &&& ~~~v
      let s1 := if writes then modMason s1 m fun x => csrWrite x c new else s1
      retire s1 m (rdOf w) old 4

/-! ## One instruction -/

/-- The pc moves to `target`, and rd takes `v`. -/
def jumpTo (s : State) (m rd : Nat) (v target : Word) : State :=
  modMason s m fun x => { setReg x rd v with pc := target }

/-- ECALL and EBREAK: what mtval holds is the base architecture's choice, a free value. -/
def envTrap (s : State) (m cause : Nat) : State :=
  let (v, s) := takeFree s 64
  trap s m cause v none

def opInstr (s : State) (m w len : Nat) : State :=
  let x := masonOf s m
  let a := regOf x (rs1Of w)
  let b := regOf x (rs2Of w)
  if f7Of w = 1 then retire s m (rdOf w) (mulOp (f3Of w) a b) len
  else if f7Of w = 0 then retire s m (rdOf w) (aluOp (f3Of w) false a b) len
  else if f7Of w = 0x20 ∧ (f3Of w = 0 ∨ f3Of w = 5) then retire s m (rdOf w) (aluOp (f3Of w) true a b) len
  else illegal s m

def op32Instr (s : State) (m w len : Nat) : State :=
  let x := masonOf s m
  let a := regOf x (rs1Of w)
  let b := regOf x (rs2Of w)
  let f3 := f3Of w
  if f7Of w = 1 then
    match mulOp32 f3 a b with
    | some v => retire s m (rdOf w) v len
    | none => illegal s m
  else if f7Of w = 0 ∧ (f3 = 0 ∨ f3 = 1 ∨ f3 = 5) then retire s m (rdOf w) (aluOp32 f3 false a b) len
  else if f7Of w = 0x20 ∧ (f3 = 0 ∨ f3 = 5) then retire s m (rdOf w) (aluOp32 f3 true a b) len
  else illegal s m

def opImmInstr (s : State) (m w len : Nat) : State :=
  let a := regOf (masonOf s m) (rs1Of w)
  let f3 := f3Of w
  let hi := field w 31 26
  if f3 = 1 ∧ hi ≠ 0 ∨ f3 = 5 ∧ hi ≠ 0 ∧ hi ≠ 0x10 then illegal s m
  else
    let b : Word := if f3 = 1 ∨ f3 = 5 then BitVec.ofNat 64 (field w 25 20) else (immI w).signExtend 64
    retire s m (rdOf w) (aluOp f3 (f3 == 5 && hi == 0x10) a b) len

def opImm32Instr (s : State) (m w len : Nat) : State :=
  let a := regOf (masonOf s m) (rs1Of w)
  let f3 := f3Of w
  if f3 = 0 then retire s m (rdOf w) (aluOp32 0 false a ((immI w).signExtend 64)) len
  else if f3 = 1 ∧ f7Of w = 0 ∨ f3 = 5 ∧ (f7Of w = 0 ∨ f7Of w = 0x20) then
    retire s m (rdOf w) (aluOp32 f3 (f7Of w == 0x20) a (BitVec.ofNat 64 (rs2Of w))) len
  else illegal s m

/-- cycle, time, instret. -/
def isCounterCsr (csr : Nat) : Bool := csr == 0xC00 || csr == 0xC01 || csr == 0xC02

/-- SYSTEM: the CSR instructions, ECALL and EBREAK; WFI, mret and plain reads of the counters have rows of
their own. -/
def systemInstr (s : State) (m w : Nat) : State :=
  if f3Of w = 0 then
    if w = 0x73 then envTrap s m 11
    else if w = 0x100073 then envTrap s m 3
    else if w = 0x10500073 ∨ w = 0x30200073 then s
    else illegal s m
  else if f3Of w = 4 then illegal s m
  else if isCounterCsr (field w 31 20) then
    if f3Of w % 4 ≠ 1 ∧ rs1Of w = 0 then s else illegal s m
  else csrInstr s m w

/-- One instruction of a mason: a word of 32 bits and the length of its encoding. Loads, stores, atomics and
the custom instructions are left to the commands that stand for them. -/
def baseInstr (s : State) (m w len : Nat) : State :=
  let x := masonOf s m
  let rd := rdOf w
  let next := x.pc + BitVec.ofNat 64 len
  match opc w with
  | 0x37 => retire s m rd (immU w) len
  | 0x17 => retire s m rd (x.pc + immU w) len
  | 0x6F => jumpTo s m rd next (x.pc + immJ w)
  | 0x67 =>
    if f3Of w = 0 then jumpTo s m rd next ((regOf x (rs1Of w) + (immI w).signExtend 64) &&& ~~~1)
    else illegal s m
  | 0x63 =>
    match branchTaken (f3Of w) (regOf x (rs1Of w)) (regOf x (rs2Of w)) with
    | some t => jumpTo s m 0 0 (if t then x.pc + immB w else next)
    | none => illegal s m
  | 0x13 => opImmInstr s m w len
  | 0x1B => opImm32Instr s m w len
  | 0x33 => opInstr s m w len
  | 0x3B => op32Instr s m w len
  | 0x0F => if f3Of w = 0 then retire s m 0 0 len else illegal s m
  | 0x73 => systemInstr s m w
  | 0x03 => s
  | 0x23 => s
  | 0x2F => if f3Of w = 2 ∨ f3Of w = 3 then s else illegal s m
  | 0x0B => s
  | _ => illegal s m

/-! ## The command that a word spells -/

/-- The memory operation of a load, store or atomic word; `c` marks a 2-byte encoding. -/
def memOpOf (w : Nat) (c : Bool) : Option MemOp :=
  match opc w with
  | 0x03 => some (.load (f3Of w) (rdOf w) (rs1Of w) (immI w) c)
  | 0x23 => some (.store (f3Of w) (rs2Of w) (rs1Of w) (immS w) c)
  | 0x2F =>
    if f3Of w = 2 ∨ f3Of w = 3 then
      let dbl := f3Of w == 3
      match field w 31 27 with
      | 2 => some (.lr dbl (rdOf w) (rs1Of w))
      | 3 => some (.sc dbl (rdOf w) (rs1Of w) (rs2Of w))
      | f5 => some (.amo dbl f5 (rdOf w) (rs1Of w) (rs2Of w))
    else none
  | _ => none

/-- The command of mason m that a custom-0 word spells (Table 9-5). -/
def customOf (m w : Nat) : Option Instr :=
  let f7 := BitVec.ofNat 7 (f7Of w)
  let rd := rdOf w
  let a := rs1Of w
  let b := rs2Of w
  if opc w ≠ 0x0B then none
  else match f3Of w with
    | 0 => some (.hodPush m f7 b a rd)
    | 1 => some (.hodPushl m f7 b a rd)
    | 2 => some (.hodPopInstruction m f7 a rd [])
    | 3 => some (.hodStat m f7 a rd)
    | 4 => some (.hodWait m f7 a rd)
    | 5 => some (.palGet m f7 a rd)
    | 6 => some (.palDone m f7 rd)
    | _ => some (.palPusho m f7 b a rd)

end Sys2Proof.Machine
end

