-- ==== Sys2Proof/Machine/Masons.lean ====
section
/-! DEFINITION. The commands, custom instructions and events of masons (chapter 9). -/

namespace Sys2Proof.Machine

/-! ## Assignment (R283, R284) -/

/-- Logical mason numbers of a command. -/
def masonsOk (ms : List Nat) : Bool := !ms.isEmpty && ms.all (fun m => decide (m < 192))

/-- STATE 0, 1 or 5: a mason that an assignment may move. -/
def movable (x : Mason) : Bool := x.st == .off || x.st == .reset || x.st == .halted

def moveMason (j : Nat) (s : State) (m : Nat) : State :=
  if (masonOf s m).job = some j then s
  else modMason (unassignMason s m) m fun x => { x with job := some j }

def groupsOf (ms : List Nat) : List Nat := (ms.map (· / 16)).eraseDups

/-- The rails of groups that are off come on and their scratches clear. -/
def powerGroups (s : State) (gs : List Nat) : State :=
  each gs (fun s g =>
    if (groupOf s g).on then s else modGroup s g fun x => { x with clearing := true }) s

/-- Assignments whose groups have all come up are made and answered. -/
def finishAssign (s : State) : State :=
  let leaving (g : Nat) : Bool := (s.spn.down.map (·.group)) == some g
  let ready (e : Hdr × Nat × List Nat) := (groupsOf e.2.2).all fun g => (groupOf s g).on && !leaving g
  let todo := s.msn.assigning.filter ready
  let s := modMsnBlk s fun x => { x with assigning := x.assigning.filter (fun e => !ready e) }
  each todo (fun s e => answer (each e.2.2 (moveMason e.2.1) s) e.1 0x0609 []) s

def assignMasons (s : State) (h : Hdr) (j : Nat) (ms : List Nat) : State :=
  finishAssign (powerGroups (modMsnBlk s fun x => { x with assigning := x.assigning ++ [(h, j, ms)] })
    (groupsOf ms))

def execCmdMsnAssign (h : Hdr) (masons : List Nat) (s : State) : Host.Outcome State Fault Refusal :=
  .next (runCmd s h 0x0609 .pf0 true fun j =>
    if !masonsOk masons then fail s h 0x0609 .badParam
    else if masons.any (fun m => (masonOf s m).job != some j && !movable (masonOf s m)) then
      fail s h 0x0609 .wrongState
    else assignMasons s h j masons)

/-- The group of the list that its last mason has left, if the spine can take it down now. -/
def emptied (s : State) (ms : List Nat) : Option Nat :=
  (groupsOf ms).find? (canPowerDown s)

def execCmdMsnUnassign (h : Hdr) (masons : List Nat) (s : State) : Host.Outcome State Fault Refusal :=
  .next (runCmd s h 0x0609 .pf0 false fun _ =>
    if !masonsOk masons then fail s h 0x0609 .badParam
    else if masons.any (fun m => (masonOf s m).job.isSome && !movable (masonOf s m)) then
      fail s h 0x0609 .wrongState
    else
      let s := each masons unassignMason s
      match emptied s masons with
      | some g => startPowerDown s g (some h)
      | none => answer s h 0x0609 [])

/-- The group's scratches are clear: every mason but a failed one comes up in STATE 1, the fence
clears, and assignments that waited are made (R284, R398). -/
def groupCleared (s : State) (g : Nat) : State :=
  if !(groupOf s g).clearing then s
  else
    let s := each (List.range 16) (fun s i =>
      modMason s (16 * g + i) fun m =>
        { phys := m.phys, job := m.job, safe := m.safe,
          st := if m.st = .failed then .failed else .reset }) s
    let s := modGroup s g fun x => { x with on := true, clearing := false }
    finishAssign (unfenceGroup s g)

/-! ## CMD_MSN_CONTROL -/

/-- Rights, range and job of the masons that a command names. -/
def namedCheck (s : State) (h : Hdr) (j : Nat) (ms : List Nat) : Option St :=
  if h.fn ≠ 0 ∧ ms.any (fun m => (masonOf s m).job != some j) then some .noRights
  else if !masonsOk ms || ms.any (fun m => (masonOf s m).job != some j) then some .badParam
  else none

/-- Execution begins at the program's entry with every integer register and mtvec at 0. -/
def startMason (s : State) (m : Nat) : State :=
  modMason s m fun x =>
    { x with st := .running, regs := [], mtvec := 0, pc := BitVec.ofNat 64 (0x10000 + x.entry),
             trapped := false, wait := none, resv := none }

def execCmdMsnControlStart (h : Hdr) (masons : List Nat) (s : State) :
    Host.Outcome State Fault Refusal :=
  .next (runCmd s h 0x060B .both true fun j =>
    match namedCheck s h j masons with
    | some st => fail s h 0x060B st
    | none =>
      if masons.any (fun m => (masonOf s m).st != .reset) then fail s h 0x060B .wrongState
      else answer (each masons startMason s) h 0x060B [])

/-- The masons that a reset names: those of the list, or every mason of a group (R304). A failed mason of the
group is not one it can reset. -/
def resetTargets (s : State) (group : Option Nat) (ms : List Nat) : List Nat :=
  match group with
  | some g => ((List.range 16).map (16 * g + ·)).filter fun m => (masonOf s m).st != .failed
  | none => ms

/-- Rights and range of a reset: a group is PF0's to reset, whoever its masons serve. -/
def resetCheck (s : State) (h : Hdr) (j : Nat) (group : Option Nat) (ms : List Nat) : Option St :=
  match group with
  | some g =>
    if 12 ≤ g then some .badParam
    else if h.fn ≠ 0 ∧ (resetTargets s group ms).any (fun m => (masonOf s m).job != some j) then some .noRights
    else none
  | none => namedCheck s h j ms

def execCmdMsnControlReset (h : Hdr) (group : Option Nat) (masons : List Nat) (s : State) :
    Host.Outcome State Fault Refusal :=
  .next (runCmd s h 0x060B .both group.isNone fun j =>
    match resetCheck s h j group masons with
    | some st => fail s h 0x060B st
    | none =>
      if (resetTargets s group masons).any
          (fun m => (masonOf s m).st == .off || (masonOf s m).st == .failed) then
        fail s h 0x060B .wrongState
      else answer (each (resetTargets s group masons) resetMason s) h 0x060B [])

/-- Ramp divider exponent of a group clock (R285). -/
def clockDiv (mhz : Nat) : Option Nat :=
  if mhz = 2000 then some 0 else if mhz = 1000 then some 1 else if mhz = 500 then some 2 else none

def execCmdMsnControlClock (h : Hdr) (group mhz : Nat) (s : State) :
    Host.Outcome State Fault Refusal :=
  .next (runCmd s h 0x060B .pf0 false fun _ =>
    match clockDiv mhz with
    | none => fail s h 0x060B .badParam
    | some d =>
      if 12 ≤ group then fail s h 0x060B .badParam
      else answer (modGroup s group fun x => { x with target := d }) h 0x060B [])

def execCmdMsnControlPauseTimeout (h : Hdr) (us : Nat) (s : State) :
    Host.Outcome State Fault Refusal :=
  .next (runCmd s h 0x060B .pf0 false fun _ =>
    if us < 10 ∨ 10000 < us then fail s h 0x060B .badParam
    else answer (modMsnBlk s fun x => { x with pauseUs := us }) h 0x060B [])

/-! ## Programs (R305) -/

def progInst (img : List Byte) : Nat := leAt img 0x0C 4
def progData (img : List Byte) : Nat := leAt img 0x10 4

/-- A well-formed header, and lengths inside the scratch and inside the image (Table 9-8). -/
def progOk (img : List Byte) : Bool :=
  decide (leAt img 0 4 = 0x504D5A4B) && decide (leAt img 4 1 = 1)
    && decide (leAt img 8 4 % 2 = 0) && decide (leAt img 8 4 < 65536)
    && decide (4 ≤ progInst img) && decide (progInst img ≤ 65536) && decide (progInst img % 4 = 0)
    && decide (progData img ≤ 262144)
    && decide (64 + progInst img + progData img ≤ img.length)

/-- CRC-32C of the image with the crc field taken as zero. -/
def progCrcOk (img : List Byte) : Bool :=
  let all := img.take (64 + progInst img + progData img)
  leAt img 0x14 4 == (crc32c (all.take 0x14 ++ [0, 0, 0, 0] ++ all.drop 0x18)).toNat

/-- Scratch after a load: instructions, data, zeros elsewhere. -/
def progScratch (img : List Byte) : SMap (BitVec 72) :=
  let inst := (img.drop 64).take (progInst img)
  let data := (img.drop (64 + progInst img)).take (progData img)
  (loadWords ((inst.length + 7) / 8) 0x2000 inst ++ loadWords ((data.length + 7) / 8) 0x8000 data).filterMap
    fun e => if e.2 = 0 then none else some (e.1, BitVec.ofNat 72 (secEncode 8 64 e.2))

def loadable (x : Mason) : Bool := x.st == .reset || x.st == .halted

def execCmdMsnLoad (h : Hdr) (masons : List Nat) (b : Bulk) (s : State) :
    Host.Outcome State Fault Refusal :=
  .next (runCmd s h 0x060A .both true fun j =>
    match namedCheck s h j masons with
    | some st => fail s h 0x060A st
    | none =>
      if !masons.all (fun m => loadable (masonOf s m)) then fail s h 0x060A .wrongState
      else match badBulk b with
        | some i => respond s h 0x060A .badParam (leBytes 4 i)
        | none =>
          if !progOk b.data then fail s h 0x060A .badParam
          else if !progCrcOk b.data then fail s h 0x060A .imageCrc
          else accept s h 0x060A [] fun s =>
            modMsnBlk s fun x => { x with loads := x.loads ++ [(h, masons, b.data)] })

/-- A loaded mason is in STATE 1. -/
def writeProgram (img : List Byte) (s : State) (m : Nat) : State :=
  modMason (resetMason s m) m fun x =>
    { x with scratch := progScratch img, entry := leAt img 8 4, safe := bitOf (leAt img 5 1) 0,
             loaded := true }

def msnLoadDone (s : State) : State :=
  match s.msn.loads with
  | [] => s
  | (h, ms, img) :: rest =>
    let s := dropAccOf (modMsnBlk s fun x => { x with loads := rest }) 0x060A h
    if ms.all (fun m => loadable (masonOf s m)) then
      complete (each ms (writeProgram img) s) h 0x060A 0x0805 .ok []
    else complete s h 0x060A 0x0805 .wrongState []

def execMsnLoadDone (s : State) : Host.Outcome State Fault Refusal := .next (msnLoadDone s)

def execCmdMsnStatus (h : Hdr) (masons : List Nat) (s : State) : Host.Outcome State Fault Refusal :=
  .next (runCmd s h 0x060C .both true fun j =>
    if h.fn ≠ 0 ∧ masons.any (fun m => (masonOf s m).job != some j) then fail s h 0x060C .noRights
    else if !masonsOk masons || decide (59 < masons.length) then fail s h 0x060C .badParam
    else answer s h 0x060C
      (masons.flatMap (fun m => leBytes 4 (msnStatus (masonOf s m) (groupOf s (m / 16))))
        ++ [BitVec.ofNat 8 (b2n (replaySafe s j))]))

/-! ## Hod instructions (R292–R295, R299) -/

/-- Hod ID in a register. -/
def hodIdOf (x : Mason) (r : Nat) : Nat := (regOf x r).toNat % 32768

/-- A push instruction of an executing mason. -/
def pushInstr (s : State) (m : Nat) (funct7 : BitVec 7) (last : Bool) (rs2 rs1 rd : Nat) : State :=
  let x := masonOf s m
  if !runs x then s
  else if 32 ≤ funct7.toNat then illegal s m
  else
    let h := hodIdOf x rs1
    match hodFault s m h (fun y => y.p.prodKind == 2) with
    | some r => hodTrap s m h r
    | none =>
      let (r, s) := hodPushWord s h (.mason m) (funct7.getLsbD 3) last (funct7.toNat % 8)
        (regOf x rs2) false
      retire s m rd (BitVec.ofNat 64 r) 4

def execHodPush (m : Nat) (funct7 : BitVec 7) (rs2 rs1 rd : Nat) (s : State) :
    Host.Outcome State Fault Refusal :=
  atUnit (decide (m < 192)) (pushInstr s m funct7 (funct7.getLsbD 4) rs2 rs1 rd)

def execHodPushl (m : Nat) (funct7 : BitVec 7) (rs2 rs1 rd : Nat) (s : State) :
    Host.Outcome State Fault Refusal :=
  atUnit (decide (m < 192)) (pushInstr s m funct7 true rs2 rs1 rd)

def popInstr (s : State) (m : Nat) (funct7 : BitVec 7) (rs1 rd : Nat) (ups : List Upset) : State :=
  let s := upsets s ups
  let x := masonOf s m
  if !runs x then s
  else if funct7 ≠ 0 then illegal s m
  else
    let h := hodIdOf x rs1
    match hodFault s m h (fun y => y.p.consKind == 2) with
    | some r => hodTrap s m h r
    | none =>
      let (w, s) := hodPopWord s h (.mason m)
      let v := match w with | some w => w.data | none => 0
      retire (modMason s m fun y => { y with popTag := wordTag w }) m rd v 4

def execHodPopInstruction (m : Nat) (funct7 : BitVec 7) (rs1 rd : Nat) (ups : List Upset) (s : State) :
    Host.Outcome State Fault Refusal :=
  atUnit (decide (m < 192)) (popInstr s m funct7 rs1 rd ups)

def statInstr (s : State) (m : Nat) (funct7 : BitVec 7) (rs1 rd : Nat) : State :=
  let x := masonOf s m
  if !runs x then s
  else if funct7 ≠ 0 then illegal s m
  else
    let h := hodIdOf x rs1
    match hodFault s m h (fun _ => true) with
    | some r => hodTrap s m h r
    | none =>
      let y := hodOf s h
      retire s m rd (BitVec.ofNat 64 (hodStatWord y (emptyFor y m) x.popTag)) 4

def execHodStat (m : Nat) (funct7 : BitVec 7) (rs1 rd : Nat) (s : State) :
    Host.Outcome State Fault Refusal := atUnit (decide (m < 192)) (statInstr s m funct7 rs1 rd)

/-- The first watched hod that faults (R299). -/
def watchFault (s : State) (m : Nat) (w : Word) : Option (Nat × Nat) :=
  (List.range 4).findSome? fun i =>
    match watchOf w i with
    | some h => (hodFault s m h (fun y => y.p.consKind == 2 || y.p.prodKind == 2)).map fun r => (h, r)
    | none => none

def waitInstr (s : State) (m : Nat) (funct7 : BitVec 7) (rs1 rd : Nat) : State :=
  let x := masonOf s m
  if !runs x then s
  else if funct7 ≠ 0 then illegal s m
  else match watchFault s m (regOf x rs1) with
    | some (h, r) => hodTrap s m h r
    | none => waitOn s m rd (regOf x rs1)

def execHodWait (m : Nat) (funct7 : BitVec 7) (rs1 rd : Nat) (s : State) :
    Host.Outcome State Fault Refusal := atUnit (decide (m < 192)) (waitInstr s m funct7 rs1 rd)

def execHodWaitWake (m : Nat) (s : State) : Host.Outcome State Fault Refusal :=
  atUnit (decide (m < 192)) (wakeMason s m)

/-- WFI behaves as hod.wait with no watch enabled (R295). -/
def execWfi (m : Nat) (s : State) : Host.Outcome State Fault Refusal :=
  atUnit (decide (m < 192)) (if runs (masonOf s m) then waitOn s m 0 0 else s)

/-! ## Pallet instructions (R296–R298) -/

/-- Data scratch and exchange window, where the pallet's 32 bytes go. -/
def palletRoom (a : Nat) : Bool := decide (0x40000 ≤ a) && decide (a + 32 ≤ 0x80000)

/-- The pallet of the earlier-filled slot becomes the current one. -/
def takePallet (s : State) (m rd addr : Nat) (p : Slot) (rest : List Slot) : State :=
  let s := each ((slotWords p).zip (List.range 4)) (fun s w =>
    putScratch s m (addr / 8 + w.2) w.1.toNat) s
  retire (modMason s m fun y => { y with cur := some p, slots := rest }) m rd
    (BitVec.ofNat 64 p.handler) 4

def getInstr (s : State) (m : Nat) (funct7 : BitVec 7) (rs1 rd : Nat) : State :=
  let x := masonOf s m
  if !runs x then s
  else if funct7 ≠ 0 ∨ x.cur.isSome then illegal s m
  else if x.pausePending then pauseMason s m
  else match x.slots with
    | [] => retire s m rd (BitVec.allOnes 64) 4
    | p :: rest =>
      let a := (regOf x rs1).toNat
      if a % 32 ≠ 0 then trap s m 6 (regOf x rs1) none
      else if !palletRoom a then trap s m 7 (regOf x rs1) (some 6)
      else takePallet s m rd a p rest

def execPalGet (m : Nat) (funct7 : BitVec 7) (rs1 rd : Nat) (s : State) :
    Host.Outcome State Fault Refusal := atUnit (decide (m < 192)) (getInstr s m funct7 rs1 rd)

/-- The completion of a current pallet must wait for a release-buffer entry. -/
def doneWaits (s : State) (j : Nat) (p : Slot) : Bool :=
  slotFlow p != 0 && (flowOf s j (slotFlow p)).next != slotSeq p && rbFull s

def doneInstr (s : State) (m : Nat) (funct7 : BitVec 7) (rd : Nat) : State :=
  let x := masonOf s m
  if !runs x then s
  else if funct7 ≠ 0 then illegal s m
  else match x.cur, x.job with
    | some p, some j =>
      let s := rbDrop s (isOpenOf m)
      if doneWaits s j p then s
      else retire (modMason (completeSlot s j p) m fun y => { y with cur := none }) m rd 0 4
    | _, _ => illegal s m

def execPalDone (m : Nat) (funct7 : BitVec 7) (rd : Nat) (s : State) :
    Host.Outcome State Fault Refusal := atUnit (decide (m < 192)) (doneInstr s m funct7 rd)

/-- The mason's unfinished entry for a hod. -/
def isOpenFor (m h : Nat) (e : RbEntry) : Bool :=
  match e.kind with
  | .item h' _ k _ done => k == m && h' == h && !done
  | .done => false

def dropOpenFor (s : State) (m h : Nat) : State :=
  if s.pal.rb.any (isOpenFor m h) then
    setFlushed (rbDrop s (isOpenFor m h)) h
  else s

/-- A word joins the mason's unfinished entry (R277, with the sequencing of R250). -/
def bufferWord (s : State) (m h : Nat) (last : Bool) (data : Word) : Nat × State :=
  match s.pal.rb.find? (isOpenFor m h) with
  | none => discardWord s h (.mason m)
  | some e =>
    match e.kind with
    | .item _ _ _ ws _ =>
      if 16 ≤ ws.length then discardWord (dropOpenFor s m h) h (.mason m)
      else
        let add (x : RbEntry) : RbEntry :=
          if isOpenFor m h x then
            match x.kind with
            | .item h' pr k ws _ => { x with kind := .item h' pr k (ws ++ [data]) last }
            | .done => x
          else x
        (0, modPalBlk s fun q => { q with rb := q.rb.map add })
    | .done => (0, s)

/-- Release-ordered push of one word for the current pallet (R277, R298). -/
def pushOrdered (s : State) (m h j : Nat) (p : Slot) (start last : Bool) (prio : Nat) (data : Word)
    (rd : Nat) : State :=
  let direct := slotFlow p == 0
    || ((flowOf s j (slotFlow p)).next == slotSeq p && !s.pal.rb.any (isOpenFor m h))
  if direct then
    let (r, s) := hodPushWord s h (.mason m) start last prio data false
    retire s m rd (BitVec.ofNat 64 r) 4
  else if start then
    let s := dropOpenFor s m h
    if rbFull s then modMason s m fun y => { y with pusho := some (h, prio, data, last, rd) }
    else
      retire (rbAdd s { job := j, flow := slotFlow p, seq := slotSeq p,
                        kind := .item h prio m [data] last }) m rd 0 4
  else
    let (r, s) := bufferWord s m h last data
    retire s m rd (BitVec.ofNat 64 r) 4

def pushoInstr (s : State) (m : Nat) (funct7 : BitVec 7) (rs2 rs1 rd : Nat) : State :=
  let x := masonOf s m
  if !runs x then s
  else if 32 ≤ funct7.toNat then illegal s m
  else match x.cur, x.job with
    | some p, some j =>
      let h := hodIdOf x rs1
      match hodFault s m h (fun y => y.p.prodKind == 2) with
      | some r => hodTrap s m h r
      | none => pushOrdered s m h j p (funct7.getLsbD 3) (funct7.getLsbD 4) (funct7.toNat % 8)
          (regOf x rs2) rd
    | _, _ => illegal s m

def execPalPusho (m : Nat) (funct7 : BitVec 7) (rs2 rs1 rd : Nat) (s : State) :
    Host.Outcome State Fault Refusal :=
  atUnit (decide (m < 192)) (pushoInstr s m funct7 rs2 rs1 rd)

/-- A waiting pal.pusho goes on once an entry is free, or its seq is the flow's next. -/
def pushoRetry (s : State) (m : Nat) : State :=
  let x := masonOf s m
  match x.pusho, x.cur, x.job with
  | some (h, prio, data, last, rd), some p, some j =>
    if rbFull s && (flowOf s j (slotFlow p)).next != slotSeq p then s
    else pushOrdered (modMason s m fun y => { y with pusho := none }) m h j p true last prio data rd
  | _, _, _ => s

def execPalPushoEntryFree (m : Nat) (s : State) : Host.Outcome State Fault Refusal :=
  atUnit (decide (m < 192)) (pushoRetry s m)

/-! ## The design window (R300) -/

def designBase : Nat := 0x2000000000

/-- An access of n bytes inside the design window. -/
def inDesign (a n : Nat) : Bool := decide (designBase ≤ a) && decide (a + n ≤ 2 * designBase)

/-- Fault reason of a design-memory status (Table 9-4, Table 12-3). -/
def accReason : AccStatus → Nat
  | .ok => 0 | .noRights => 1 | .fenced => 1
  | .unmapped => 2 | .lost => 2 | .quarantined => 2
  | .tagFailed => 3 | .uncorrectable => 3 | .listed => 3

/-- Atomics in the design window: store access fault, reason 5. -/
def designAtomic (s : State) (m : Nat) (op : MemOp) : State :=
  trap s m 7 (BitVec.ofNat 64 (opAddr (masonOf s m) op)) (some 5)

def designLoad (s : State) (m : Nat) (op : MemOp) (ups : List Upset) : State :=
  let s := upsets s ups
  let x := masonOf s m
  match op, x.job with
  | .load f3 rd rs1 imm c, some j =>
    let a := effAddr x rs1 imm
    if !runs x || !memUp s || !inDesign a (opSize f3) || rangeWaits s (a - designBase) (opSize f3) then s
    else if !loadOk f3 then illegal s m
    else
      let (st, bs, s) := masterRead s (9 + j) (a - designBase) (opSize f3)
      if st = .ok then retire s m rd (extend f3 (leNat bs)) (opLen c)
      else accessFault s m op (accReason st)
  | op, _ =>
    if runs x && isAtomic op && inDesign (opAddr x op) 4 then designAtomic s m op else s

def execMasonDesignLoad (m : Nat) (op : MemOp) (ups : List Upset) (s : State) :
    Host.Outcome State Fault Refusal := atUnit (decide (m < 192)) (designLoad s m op ups)

def designStore (s : State) (m : Nat) (op : MemOp) (ups : List Upset) : State :=
  let s := upsets s ups
  let x := masonOf s m
  match op, x.job with
  | .store f3 rs2 rs1 imm c, some j =>
    let a := effAddr x rs1 imm
    if !runs x || !memUp s || !inDesign a (opSize f3) || rangeWaits s (a - designBase) (opSize f3) then s
    else if !storeOk f3 then illegal s m
    else
      let (st, s) := masterWrite s (9 + j) false (a - designBase)
        (leBytes (opSize f3) (regOf x rs2).toNat)
      if st = .ok then retire s m 0 0 (opLen c) else accessFault s m op (accReason st)
  | op, _ =>
    if runs x && isAtomic op && inDesign (opAddr x op) 4 then designAtomic s m op else s

def execMasonDesignStore (m : Nat) (op : MemOp) (ups : List Upset) (s : State) :
    Host.Outcome State Fault Refusal := atUnit (decide (m < 192)) (designStore s m op ups)

/-! ## Peer windows (R291) -/

def peerBase : Nat := 0x1000000

/-- An access of n bytes inside the peer windows. -/
def inPeer (a n : Nat) : Bool := decide (peerBase ≤ a) && decide (a + n ≤ peerBase + 0x600000)

/-- Owner of a peer address, and its local address there. -/
def peerOwner (a : Nat) : Nat := (a - peerBase) / 0x8000
def peerLocal (a : Nat) : Nat := 0x78000 + (a - peerBase) % 0x8000

/-- The windows that an access of n bytes touches: owner, local address, bytes. -/
def peerParts (a n : Nat) : List (Nat × Nat × Nat) :=
  let k := min n (0x8000 - (a - peerBase) % 0x8000)
  (peerOwner a, peerLocal a, k) :: (if k < n then [(peerOwner (a + k), peerLocal (a + k), n - k)] else [])

/-- A window of the mason's own job, not behind a fence. -/
def peerAllowed (s : State) (m p : Nat) : Bool :=
  (masonOf s m).job.isSome && (masonOf s p).job == (masonOf s m).job && !groupFenced s (p / 16)

def peerRead (s : State) (parts : List (Nat × Nat × Nat)) : Option Nat × State :=
  parts.foldr (fun w (acc : Option Nat × State) =>
    let (v, s) := scratchRead acc.2 w.1 w.2.1 w.2.2
    (match v, acc.1 with
     | some lo, some hi => some (lo + hi * 2 ^ (8 * w.2.2))
     | _, _ => none, s)) (some 0, s)

/-- A store into peers' windows ends reservations on the words it touches. -/
def peerWrite (s : State) (parts : List (Nat × Nat × Nat)) (v : Nat) : Bool × State :=
  let r := parts.foldl (fun (acc : Bool × State × Nat) w =>
    let (ok, s) := scratchWrite acc.2.1 w.1 w.2.1 w.2.2 acc.2.2
    let s := modMason s w.1 fun x =>
      { x with resv := x.resv.filter (fun a => !(decide (a < w.2.1 + w.2.2) && decide (w.2.1 < a + 8))) }
    (acc.1 && ok, s, acc.2.2 / 2 ^ (8 * w.2.2))) (true, s, v)
  (r.1, r.2.1)

def peerAccess (s : State) (m : Nat) (op : MemOp) : State :=
  let x := masonOf s m
  if !runs x then s
  else match op with
    | .load f3 rd rs1 imm c =>
      let a := effAddr x rs1 imm
      let parts := peerParts a (opSize f3)
      if !inPeer a (opSize f3) then s
      else if !loadOk f3 then illegal s m
      else if !parts.all (fun w => peerAllowed s m w.1) then accessFault s m op 1
      else match peerRead s parts with
        | (some v, s) => retire s m rd (extend f3 v) (opLen c)
        | (none, s) => scratchFault s m op
    | .store f3 rs2 rs1 imm c =>
      let a := effAddr x rs1 imm
      let parts := peerParts a (opSize f3)
      if !inPeer a (opSize f3) then s
      else if !storeOk f3 then illegal s m
      else if !parts.all (fun w => peerAllowed s m w.1) then accessFault s m op 1
      else match peerWrite s parts ((regOf x rs2).toNat % 2 ^ (8 * opSize f3)) with
        | (true, s) => retire s m 0 0 (opLen c)
        | (false, s) => scratchFault s m op
    | op => if isAtomic op && inPeer (opAddr x op) 4 then accessFault s m op 6 else s

def execPeerWindowAccess (m : Nat) (op : MemOp) (s : State) : Host.Outcome State Fault Refusal :=
  atUnit (decide (m < 192)) (peerAccess s m op)

/-! ## CSRs and mret -/

/-- A counter CSR of a replay-safe program is illegal (R307); elsewhere its value is timing, free. -/
def counterRead (s : State) (m csr rd : Nat) : State :=
  let x := masonOf s m
  if !runs x || !isCounterCsr csr then s
  else if x.safe then illegal s m
  else
    let (v, s) := takeFree s 64
    retire s m rd v 4

def execCounterCsrRead (m csr rd : Nat) (s : State) : Host.Outcome State Fault Refusal :=
  atUnit (decide (m < 192)) (counterRead s m csr rd)

def execMret (m : Nat) (s : State) : Host.Outcome State Fault Refusal :=
  atUnit (decide (m < 192))
    (if runs (masonOf s m) then modMason s m fun x =>
      { x with trapped := false, pc := x.mepc, mie := x.mpie, mpie := true }
    else s)

/-! ## Pause and substitution (R309–R312) -/

/-- A mason with a pause pending and no current pallet reaches its stopping point. -/
def execMasonPaused (m : Nat) (s : State) : Host.Outcome State Fault Refusal :=
  let x := masonOf s m
  atUnit (decide (m < 192))
    (if x.pausePending && x.cur.isNone && x.pusho.isNone && (x.st == .running || x.st == .waiting)
      then pauseMason s m else s)

/-- No checkpoint at this boundary: the masons resume, and the next cycle tries again. -/
def pauseTimeout (s : State) (j : Nat) : State :=
  if (jobOf s j).capturing = some .pausing
      ∧ (masonsOfJob s j).any (fun m => !pausedNow (masonOf s m)) then
    failCapture (emitJob s 0x0804 j []) j 1
  else s

/-- A group test whose masons have not paused in time is skipped, and they resume (R494). -/
def skipGroupTest (s : State) (j : Nat) : State :=
  let late (g : Nat) : Bool :=
    (groupMasons s g).any (fun m => (masonOf s m).job == some j)
      && (groupMasons s g).any (fun m => !pausedNow (masonOf s m))
  let s1 := match s.spr.sweeping with
    | some (.group g) =>
      if late g then
        resumeGroup (modSprBlk s fun p => { p with sweeping := none, skipped := p.skipped + 1 }) g
      else s
    | _ => s
  match s.spr.bist with
  | some (h, .group g) =>
    if late g then
      complete (dropAccOf (resumeGroup (modSprBlk s1 fun p => { p with bist := none }) g) 0x0802 h) h 0x0802
        0x0E02 .timeout []
    else s1
  | _ => s1

def execMasonPauseTimeout (job : Nat) (s : State) : Host.Outcome State Fault Refusal :=
  atUnit (decide (job < 8)) (pauseTimeout (skipGroupTest s job) job)

/-- Steps 2 to 4 of Table 9-9: the position moves to the group's spare core. -/
def sparedMason (s : State) (m core : Nat) : State :=
  let g := m / 16
  let s := addRepair s 9 (masonOf s m).phys 0
  let s := modGroup s g fun x => { x with spare := none }
  let s := modMason s m fun x => { x with phys := 17 * g + core }
  let s := match (masonOf s m).job with
    | some j => if (jobOf s j).capturing.isSome then s else resumeMason s m
    | none => resumeMason s m
  emitDev s 0x0802 [(1, m)]

/-- No spare is left: STATE 6, unassigned, its pallets completed (R312). -/
def failMason (s : State) (m : Nat) : State :=
  let s := modMason (unassignMason s m) m fun x => { x with st := .failed, pausePending := false }
  emitDev s 0x0803 [(1, m)]

/-- Substitution of a mason whose core has failed: its pause first, then the copy. -/
def substitute (s : State) (m : Nat) : State :=
  let x := masonOf s m
  if !s.msn.failedPhys.contains x.phys || x.st == .failed then s
  else match (groupOf s (m / 16)).spare with
    | none => failMason s m
    | some core =>
      if pausedNow x || x.st == .off then sparedMason s m core else askPause s m

def execMasonSubstitution (m : Nat) (s : State) : Host.Outcome State Fault Refusal :=
  atUnit (decide (m < 192)) (substitute s m)

/-! ## Own scratch and local registers (R286, R287, Table 9-3) -/

def inInst (a n : Nat) : Bool := decide (0x10000 ≤ a) && decide (a + n ≤ 0x20000)
def inData (a n : Nat) : Bool := decide (0x40000 ≤ a) && decide (a + n ≤ 0x80000)
def inLocal (a n : Nat) : Bool := decide (0x100000 ≤ a) && decide (a + n ≤ 0x101000)

/-- MSN_SELF and MSN_FAULTINFO as 16 bytes; every other local register reads zero. -/
def localBits (m : Nat) (x : Mason) : Nat :=
  m + (m / 16) * 2 ^ 8 + (x.job.getD 0) % 8 * 2 ^ 12 + b2n x.safe * 2 ^ 15
    + (x.reason % 16 + b2n x.trapped * 16) * 2 ^ 64

def localRead (m : Nat) (x : Mason) (a n : Nat) : Nat :=
  localBits m x / 2 ^ (8 * (a - 0x100000)) % 2 ^ (8 * n)

/-- An instruction fetch: the word is checked and carried out; one that another command stands for waits for
that command (log 131). -/
def fetchAccess (s : State) (m : Nat) : State :=
  let a := (masonOf s m).pc.toNat
  if !inInst a 2 then accessFault s m .fetch 6
  else match scratchRead s m a 2 with
    | (none, s) => scratchFault s m .fetch
    | (some v, s) =>
      if v % 4 ≠ 3 then
        match expandC v with
        | some w => baseInstr s m w 2
        | none => illegal s m
      else if !inInst a 4 then accessFault s m .fetch 6
      else match scratchRead s m a 4 with
        | (none, s) => scratchFault s m .fetch
        | (some w, s) => baseInstr s m w 4

def loadAccess (s : State) (m : Nat) (op : MemOp) (f3 rd a : Nat) (c : Bool) : State :=
  let n := opSize f3
  if inDesign a n || inPeer a n then s
  else if !loadOk f3 then illegal s m
  else if inInst a n || inData a n then
    match scratchRead s m a n with
    | (some v, s) => retire s m rd (extend f3 v) (opLen c)
    | (none, s) => scratchFault s m op
  else if inLocal a n then retire s m rd (extend f3 (localRead m (masonOf s m) a n)) (opLen c)
  else accessFault s m op 6

def storeAccess (s : State) (m : Nat) (op : MemOp) (f3 rs2 a : Nat) (c : Bool) : State :=
  let n := opSize f3
  if inDesign a n || inPeer a n then s
  else if !storeOk f3 then illegal s m
  else if inData a n then
    match scratchWrite s m a n (regOf (masonOf s m) rs2).toNat with
    | (true, s) => retire s m 0 0 (opLen c)
    | (false, s) => scratchFault s m op
  else if inLocal a n then retire s m 0 0 (opLen c)
  else accessFault s m op 6

/-- Bytes of an atomic, and its address-misaligned cause (RV64A). -/
def amoSize (dbl : Bool) : Nat := if dbl then 8 else 4
def amoVal (dbl : Bool) (v : Nat) : Word := if dbl then BitVec.ofNat 64 v else sext32 v

def atomicAccess (s : State) (m : Nat) (op : MemOp) : State :=
  let x := masonOf s m
  match op with
  | .lr dbl rd rs1 =>
    let a := (regOf x rs1).toNat
    let n := amoSize dbl
    if inDesign a 4 || inPeer a 4 then s
    else if a % n ≠ 0 then trap s m 4 (BitVec.ofNat 64 a) none
    else if !inData a n then accessFault s m op 6
    else match scratchRead s m a n with
      | (some v, s) =>
        retire (modMason s m fun y => { y with resv := some a }) m rd (amoVal dbl v) 4
      | (none, s) => scratchFault s m op
  | .sc dbl rd rs1 rs2 =>
    let a := (regOf x rs1).toNat
    let n := amoSize dbl
    if inDesign a 4 || inPeer a 4 then s
    else if a % n ≠ 0 then trap s m 6 (BitVec.ofNat 64 a) none
    else if !inData a n then accessFault s m op 6
    else if x.resv ≠ some a then retire (modMason s m fun y => { y with resv := none }) m rd 1 4
    else match scratchWrite s m a n (regOf x rs2).toNat with
      | (true, s) => retire (modMason s m fun y => { y with resv := none }) m rd 0 4
      | (false, s) => scratchFault s m op
  | .amo dbl f5 rd rs1 rs2 =>
    let a := (regOf x rs1).toNat
    let n := amoSize dbl
    if inDesign a 4 || inPeer a 4 then s
    else if (amoOp f5 (8 * n) 0 0).isNone then illegal s m
    else if a % n ≠ 0 then trap s m 6 (BitVec.ofNat 64 a) none
    else if !inData a n then accessFault s m op 6
    else match scratchRead s m a n with
      | (some old, s) =>
        match amoOp f5 (8 * n) old ((regOf x rs2).toNat % 2 ^ (8 * n)) with
        | some v =>
          match scratchWrite s m a n v with
          | (true, s) => retire s m rd (amoVal dbl old) 4
          | (false, s) => scratchFault s m op
        | none => illegal s m
      | (none, s) => scratchFault s m op
  | .fetch => s
  | .load .. => s
  | .store .. => s

/-- An access of the executing mason to its own memories and registers, or outside its map. -/
def scratchAccess (s : State) (m : Nat) (op : MemOp) (ups : List Upset) : State :=
  let s := upsets s ups
  let x := masonOf s m
  if !runs x then s
  else match op with
    | .fetch => fetchAccess s m
    | .load f3 rd rs1 imm c => loadAccess s m op f3 rd (effAddr x rs1 imm) c
    | .store f3 rs2 rs1 imm c => storeAccess s m op f3 rs2 (effAddr x rs1 imm) c
    | op => atomicAccess s m op

def execScratchAccess (m : Nat) (op : MemOp) (ups : List Upset) (s : State) :
    Host.Outcome State Fault Refusal := atUnit (decide (m < 192)) (scratchAccess s m op ups)

end Sys2Proof.Machine
end

