-- ==== Sys2Proof/Machine/ResetOps.lean ====
section
/-! DEFINITION. Resets: what each level clears and keeps (Table 13-7), the PCIe reset (R424, R449),
golden planes rewritten (Table 13-8), segments lost (R230). -/

namespace Sys2Proof.Machine

/-! ## PCIe -/

/-- The job holds at its next commit boundary (R424, R449, Table 14-4). -/
def holdNext (s : State) (j : Nat) : State :=
  modJob s j fun x =>
    if (x.state == .running || x.state == .releasing) && x.replay.isNone then
      { x with holdAt := x.holdAt ++ [{ atCycle := x.cycle + 1 }] }
    else x

/-- A mailbox after its reset; the command it holds completes into the device event log. -/
def resetMbx (m : Mbx) : Mbx := { copy := m.copy, orphan := m.orphan || m.busy || m.late }

/-- A channel with descriptors before it stops with descriptor status 0x0072. -/
def stopDma (s : State) (c : Nat) : State :=
  let d := dmaOf s c
  match d.fn with
  | some fn =>
    if dmaActive d && !d.stopped then
      modDma (emitOut s (.dma fn (descAddr d + 0x18) (leBytes 8 (0x72 + 2 ^ 16)))) c fun d =>
        { d with cur := none, stopped := true }
    else s
  | none => s

/-- PERST_N, a reset of PF0, or VF Enable cleared (R424, R449): PCIe core, mailboxes, channels. -/
def perstReset (s : State) : State :=
  let s := each (List.range 8) stopDma s
  let s := modHifBlk s fun h =>
    { h with mbx := h.mbx.map fun e => (e.1, resetMbx e.2), rings := [], msix := [],
             dma := (List.range 8).foldl (fun m c => mapPut m {} c { fn := (mapGet h.dma {} c).fn }) [],
             linkUp := false, linkTraining := false }
  each (List.range 8) holdNext (modRstBlk s fun r => { r with perstSeen := true })

/-- A reset of VFn: its mailboxes and ring, its channels, a hold for its job (R449). -/
def flrVf (s : State) (fn : Nat) : State :=
  let s := each (List.range 8) (fun s c => if (dmaOf s c).fn = some fn then stopDma s c else s) s
  let s := modHifBlk s fun h =>
    { h with mbx := h.mbx.map fun e => if e.1 / 4 = fn then (e.1, resetMbx e.2) else e,
             rings := mapPut h.rings {} fn {} }
  holdNext s (fn - 1)

/-! ## Keys -/

/-- The key store zeroizes every key (R431, R432, R439, R446). -/
def zeroize (s : State) : State :=
  let s := modPwrBlk s fun p => { p with sysKey := none }
  each (List.range 8) (fun s j =>
    if (jobOf s j).key.isSome then modJob s j fun x => { x with key := none } else s) s

/-! ## Warm and cold -/

/-- What a tile keeps when everything on it is cleared: that the soft repair map records its
retirement (R481). -/
def keepTiles (s : State) : SMap Tile :=
  s.tiles.filterMap fun e =>
    if e.2.retired && s.spr.map.any (fun r => r.kind == 1 && r.loc == e.1 && r.state != 2) then
      some (e.1, { retired := true })
    else none

/-- Masons that repairs have bound to another core, or that have failed (R311). -/
def keepMasons (ms : SMap Mason) : SMap Mason :=
  ms.filterMap fun e =>
    let m : Mason := { phys := e.2.phys, st := if e.2.st = .failed then .failed else .off }
    if m = masonInit e.1 then none else some (e.1, m)

def keepGroups (gs : SMap MGroup) : SMap MGroup :=
  gs.filterMap fun e =>
    let g : MGroup := { spare := e.2.spare }
    if g = {} then none else some (e.1, g)

/-- The stack after a warm reset: the event log, the HV controller's side, flash, eFuses and what the
soft repair map records stay; everything else is as after power-up (Table 13-7). -/
def clearStack (s : State) (cause : Nat) : State :=
  { pending := s.pending, nowUs := s.nowUs, sched := s.sched, draws := s.draws,
    freeCtr := s.freeCtr, out := s.out, tiles := keepTiles s,
    mem := { retiredFar := s.mem.retiredFar, nearOut := s.mem.nearOut },
    pal := { blocksOut := s.pal.blocksOut },
    msn := { masons := keepMasons s.msn.masons, groups := keepGroups s.msn.groups,
             failedPhys := s.msn.failedPhys },
    lry := { ports := (List.range 12).foldl (fun m p =>
               mapPut m {} p { failed := (portOf s p).failed }) [] },
    hif := { log := s.hif.log, logLost := s.hif.logLost, seq := s.hif.seq },
    fw := { s.fw with running := false, recovery := false, updating := none },
    spr := { map := s.spr.map, fuses := s.spr.fuses, fusesUsed := s.spr.fusesUsed, hardRows := s.spr.hardRows,
             mapFull := s.spr.mapFull, fusesFull := s.spr.fusesFull, session := s.spr.session,
             swept := s.spr.swept,
             poweredHours := s.spr.poweredHours, hotHours := s.spr.hotHours },
    hv := s.hv, jtag := {},
    rst := { lastCause := cause, held := false, courseResets := s.rst.courseResets,
             stepping := s.rst.stepping, serial := s.rst.serial },
    pwr := { s.pwr with state := .standby, booting := true, sysKey := none, presentN := true,
                        alertN := true, thermtripN := true, kill := false, entering := none,
                        waking := none, restart := none, cooling := false, tripping := false,
                        throtTherm := false, throtPower := false, warn := false } }

/-- Each port draws a new link generation (R341). -/
def drawGenerations (s : State) : State := each (List.range 12) freshPort s

/-- A warm reset: keys zeroized, every job and all three dies cleared (R421); a running scrub leaves its
summary in the log (R239). A trip that has begun goes on (R443). -/
def warmReset (s : State) (cause : Nat) : State :=
  modPwrBlk (drawGenerations (clearStack (resetScrub s) cause)) fun p =>
    { p with tripping := s.pwr.tripping, thermtripN := !s.pwr.tripping }

/-- A cold power-up: the log, its numbers and the time restart as well (R467, Table 15-11). -/
def coldReset (s : State) (cause : Nat) : State :=
  let s := clearStack s cause
  let s := modSprBlk s fun p => { p with session := p.session + 1, swept := [] }
  let s := { s with nowUs := 0, hif := {}, rst := { s.rst with courseResets := 0 } }
  drawGenerations (modClkBlk s fun _ => {})

/-- The trip record of the HV controller goes too: a cold power-up by VIN48 (Table 14-6), or the
PWR_EN sequence of R446. -/
def clearTrips (s : State) : State :=
  modPwrBlk s fun p => { p with tripTimes := [], lastTrip := 0, lockout := false }

/-! ## Golden planes (Table 13-8 steps 4 and 5) -/

/-- One tile of a job from its golden copy: planes, signature stores, trowel registers, links. It runs
holding sweeps until its start-up preload (R97). -/
def goldenTile (j : Nat) (img : Image) (d : Desc) (s : State) (e : Nat × Nat) : State :=
  modTile s e.2 fun t =>
    setTrw (trwWord j d)
      { writePlanes img e.1 d.courseCount t with
        links := linksOf img e.1, swapOn := false, swapClear := [], holding := true,
        trwStatus := t.trwStatus &&& ~~~0x10 }

/-- The planes of a job's tiles, or its stop when its golden copy fails its read (R134). -/
def goldenPlanes (bad : List Nat) (s : State) (j : Nat) : State :=
  match (jobOf s j).image with
  | none => s
  | some img =>
    if (jobOf s j).state = .loading then s
    else
      let (lost, s) := readPlanes s img
      if lost || bad.contains j then goldenLost s j else
      modJob (each (jobTiles s j) (goldenTile j img (jobOf s j).desc) s) j fun x => { x with go := false, ahead := 0 }

/-- The course die is empty. -/
def clearCourseDie (s : State) : State :=
  each (s.tiles.map (·.1)) (fun s t => modTile s t fun x =>
    { x with planes := [], planesLost := false, store := [], storeWb := [], sweepPos := 0, trw0 := 0,
             trw1 := 0, trw2 := 0, trwStatus := 0, lastStop := none, stopAgain := false,
             gwNext := [], gwNow := [], links := [], swapOn := false, swapClear := [],
             mustClear := false }) s

/-- The face die is empty: state files, slabs, active and shadow registers (R426). -/
def clearFaceDie (s : State) : State :=
  each (s.tiles.map (·.1)) (fun s t => modTile s t fun x =>
    { x with ff := [], slabs := [], slabOut := [], active := [], shadow := [], ran := [], memOut := [],
             hodOut := [], aside := [], jointIn := 0, fault := 0, swapOn := false, swapClear := [],
             mustClear := false }) s

/-! ## Segments that were not retained (R230) -/

/-- Segment of a far frame. -/
def frameSeg (f : Nat) : Nat := f / 15360

def dropped (s : State) : BitVec 8 := ~~~s.lp.retainMask

/-- Some byte of a record of `n` bytes at byte `pos` of a region lies in a dropped segment; the region's
end continues at its start. -/
def bytesDropped (s : State) (sp : Nat × Nat) (pos n : Nat) : Bool :=
  let size := sp.2 * 1048576
  let gone (a b : Nat) : Bool :=
    (segsOf (sp.1 + a / 1048576, (b - 1) / 1048576 - a / 1048576 + 1) &&& dropped s) != 0
  if pos + n ≤ size then gone pos (pos + n) else gone pos size || gone 0 (pos + n - size)

/-- Spans of the undo log and the capture ring (Table 7-5). -/
def undoSpan (s : State) : Nat × Nat := listAt (regionSpans s.mem.regions) (0, 0) 5
def captureSpan (s : State) : Nat × Nat := listAt (regionSpans s.mem.regions) (0, 0) 6

/-- Undo records that a dropped segment held. -/
def lostUndo (s : State) : List Undo := s.arr.undo.filter fun u => bytesDropped s (undoSpan s) u.pos 4112

/-- First byte of a job's share of the capture ring: the shares lie one after another by job (log 130). -/
def shareBase (s : State) (j : Nat) : Nat :=
  (List.range j).foldl (fun n i => n + (jobOf s i).capture.cfg.ringBytes) 0

/-- Capture records of a job that a dropped segment did not hold. -/
def keptRecords (s : State) (j : Nat) : List CapRec :=
  let c := (jobOf s j).capture
  let n := capRecBytes c.cfg.taps.length
  let k := c.records.length
  ((List.range k).zip c.records).filterMap fun e =>
    let slot := (c.written - k + e.1) % max 1 (capRoom c.cfg)
    if bytesDropped s (captureSpan s) (shareBase s j + slot * n) n then none else some e.2

/-- Mapped pages whose far frame lies in a dropped segment, and that have no near frame. -/
def lostPages (s : State) : List Nat :=
  s.mem.ppt.filterMap fun e =>
    if e.2.state ≠ .unbacked ∧ (dropped s).getLsbD (frameSeg e.2.farFrame) then some e.1 else none

def losePage (s : State) (p : Nat) : State :=
  modMirror (dropFrame (modPpt (freeNearOf s p) p fun e => { e with state := .lost })
    (pptOf s p).farFrame) p fun m => { m with lost := true }

/-- Belic firmware marks what self-refresh did not keep, with EV_MEM_SEGMENTS_LOST: the dropped
segments and the lost pages of each job. -/
def segmentsLost (s : State) : State :=
  let pages := lostPages s
  let counts := (List.range 8).map fun j =>
    (4, (pages.filter fun p => (pptOf s p).job == j).length)
  let mask := dropped s
  let s := each pages losePage s
  let gone := lostUndo s
  let s := each ((gone.map (·.job)).eraseDups) (fun s j => modJob s j fun x => { x with recoverable := false })
    (modArrBlk s fun a => { a with undo := a.undo.filter fun u => !gone.contains u })
  let s := each (List.range 8) (fun s j =>
    if (jobOf s j).capture.records.isEmpty then s
    else modJob s j fun x => { x with capture := { x.capture with records := keptRecords s j } }) s
  if mask = 0 then s else emitDev s 0x050D ((1, mask.toNat) :: counts)

end Sys2Proof.Machine
end

