-- ==== Sys2Proof/Machine/FwOps.lean ====
section
/-! DEFINITION. Firmware slots, the boot ROM's checks and trials (R473–R477). -/

namespace Sys2Proof.Machine

def fwSlot (s : State) (b : Bool) : Option FwImage := if b then s.fw.slotB else s.fw.slotA

/-- A public key whose hash is burned in the eFuses and not revoked. -/
def keyKnown (s : State) (key : List Byte) : Bool :=
  (s.fw.keyHashes.zip (List.range s.fw.keyHashes.length)).any fun e =>
    e.1 == sha384 key && !s.fw.revoked.getLsbD e.2

/-- The signature and key check. -/
def signedOk (s : State) (i : FwImage) : Bool :=
  i.magic == 0x57465A4B && keyKnown s i.key && ecdsaOk i.key i.sig i.signed

/-- The boot ROM accepts a slot (R473). -/
def acceptsImage (s : State) (i : FwImage) : Bool :=
  signedOk s i && decide (i.minStep ≤ s.rst.stepping.toNat) && decide (s.fw.secCount ≤ i.secVer)

def acceptsSlot (s : State) (b : Bool) : Bool :=
  match fwSlot s b with
  | some i => acceptsImage s i
  | none => false

/-- Version and security version of a slot, as the firmware events carry them. -/
def slotFields (s : State) (b : Bool) : List (Nat × Nat) :=
  match fwSlot s b with
  | some i => [(4, i.version.toNat), (1, i.secVer)]
  | none => [(4, 0), (1, 0)]

def startSlot (s : State) (b : Bool) : State :=
  modFwBlk s fun f => { f with running := true, recovery := false, runningB := b }

/-- The boot ROM: the preferred slot, then the other with EV_FW_FALLBACK, else recovery (R473, R474).
A trial that fails its check is abandoned with a warm reset (R477). -/
def bootRom (s : State) : State :=
  let p := s.fw.preferB
  if acceptsSlot s p then startSlot s p
  else
    let s := if s.fw.trial then
        modFwBlk (modRstBlk s fun r => { r with lastCause := 6 }) fun f =>
          { f with trial := false, preferB := !p }
      else s
    if acceptsSlot s (!p) then emitDev (startSlot s (!p)) 0x0E04 (slotFields s (!p))
    else modFwBlk s fun f => { f with recovery := true }

/-- The conditions under which the boot ROM starts (Tables 13-3 and 14-2). -/
def mayBoot (s : State) : Bool :=
  s.pwr.booting && !s.fw.running && !s.rst.held && s.pwr.rails.getLsbD 1 && s.clk.safeStable

end Sys2Proof.Machine
end

