-- ==== Sys2Proof/Machine/Resets.lean ====
section
/-! DEFINITION. Die, job, warm and PCIe resets, and the restoration after a loss of REF (chapter 13). -/

namespace Sys2Proof.Machine

/-! ## Loss of REF: its end (R417, R418) -/

/-- 1 ms after the loss: every domain fed by a PLL stops, the links go down, the planes lose what they
hold. A load does not outlive its planes. -/
def execRefHoldoverEnd (s : State) : Host.Outcome State Fault Refusal :=
  .next (
    if !s.clk.refLost || s.clk.restoring || !s.clk.domainsOn then s
    else
      let s := losePlanes (portsDown (failLoad s .hwFault))
      let s := modHifBlk s fun h => { h with linkUp := false, linkTraining := false }
      modClkBlk s fun c =>
        { c with domainsOn := false, pllEn := 0, pllStable := 0, fabDiv := 4, restoring := true })

/-- Every channel is trained, or has failed its training. -/
def chansTrained (s : State) : Bool :=
  !s.lp.training && (List.range 32).all fun c => (chanOf s c).st == 2 || (chanOf s c).st == 5

/-- The PCIe core and mailboxes come back as after PERST_N, without PERST_N. -/
def pcieAgain (s : State) : State :=
  let seen := s.rst.perstSeen
  let s := modRstBlk (perstReset s) fun r => { r with perstSeen := seen }
  modHifBlk s fun h => { h with linkTraining := s.pwr.perstN }

/-- Steps 3 to 5 of R418, once the domains run again and the channels are trained. -/
def execRefRestore (s : State) : Host.Outcome State Fault Refusal :=
  .next (
    if !s.clk.refLost || !s.clk.refStable || !s.clk.restoring || !s.clk.domainsOn || !chansTrained s
      then s
    else
      let s := each (List.range 8) (goldenPlanes []) (updatePasr s)
      let s := each (List.range 12) (fun s p => modPort s p fun q =>
        if q.st = .down then { q with st := .retrain } else q) s
      let s := modClkBlk (pcieAgain s) fun c => { c with refLost := false, restoring := false }
      emitDev s 0x0104 [])

/-! ## RESET_N and PERST_N -/

/-- RESET_N is timed while the stack is powered and not tripped (Table 18-3). -/
def timesReset (s : State) : Bool :=
  s.pwr.rails.getLsbD 1 && s.pwr.pwrEn && s.pwr.state != .trip && s.pwr.state != .off

/-- RESET_N low: 380 HVOSC cycles start a warm reset, in which the device stays (R422). -/
def execResetNLow (cycles : Nat) (s : State) : Host.Outcome State Fault Refusal :=
  .next (
    let s := modPwrBlk s fun p => { p with resetN := false }
    if timesReset s && decide (380 ≤ cycles) then
      modRstBlk (warmReset s 2) fun r => { r with held := true }
    else s)

/-- RESET_N high: the clocks start as in Table 13-3. -/
def execResetNRise (s : State) : Host.Outcome State Fault Refusal :=
  .next (
    let s := modPwrBlk s fun p => { p with resetN := true }
    modRstBlk s fun r => { r with held := r.held && (s.clk.safeFailed || !s.pwr.rails.getLsbD 0) })

/-- PERST_N acts from READY to DEEP HOLD (Table 18-3, R424). -/
def execPerstNLow (s : State) : Host.Outcome State Fault Refusal :=
  .next (
    let s := modPwrBlk s fun p => { p with perstN := false }
    if s.pwr.state == .ready || s.pwr.state == .deepHold then perstReset s else s)

/-- PERST_N rises: link training starts (R527). -/
def execPerstNRise (s : State) : Host.Outcome State Fault Refusal :=
  .next (
    let s := modPwrBlk s fun p => { p with perstN := true }
    if s.pwr.state == .ready && s.clk.domainsOn then
      modHifBlk s fun h => { h with linkTraining := !h.linkUp }
    else s)

/-! ## Die resets (R425, R426) -/

/-- A job reset that has not taken effect ends with a reset of a higher level, and its command with it (R423,
log 137). -/
def dropJobReset (s : State) (j : Nat) : State :=
  match (jobOf s j).resetReq with
  | some h => modJob (dropAccOf s 0x0404 h) j fun x => { x with resetReq := none }
  | none => s

/-- Step 1 of Table 13-8: every job with tiles is to hold; a load fails with a course-die reset. -/
def startDie (s : State) (h : Hdr) (face : Bool) : State :=
  let s := abortTests (if face then s else failLoad s .hwFault)
  let s := modRstBlk s fun r =>
    { r with dieHdr := some h, faceBusy := face, courseBusy := !face,
             courseResets := if face then r.courseResets else min 255 (r.courseResets + 1) }
  each (List.range 8) (fun s j =>
    if (jobTiles s j).isEmpty then s else faultHold .dieReset (dropJobReset s j) j) s

def rstDie (s : State) (h : Hdr) (face : Bool) : State :=
  runCmd s h 0x0212 .pf0 false fun _ =>
    if s.rst.faceBusy || s.rst.courseBusy then fail s h 0x0212 .busy
    else if s.pwr.state == .deepHold then fail s h 0x0212 .wrongState
    else accept s h 0x0212 [b2n face] fun s => startDie s h face

def execCmdRstDieCourse (h : Hdr) (s : State) : Host.Outcome State Fault Refusal :=
  .next (rstDie s h false)

def execCmdRstDieFace (h : Hdr) (s : State) : Host.Outcome State Fault Refusal :=
  .next (rstDie s h true)

/-- The job stands still for the die reset. -/
def dieHeld (s : State) (j : Nat) : Bool :=
  let x := jobOf s j
  !active x || x.waits.getLsbD 0

/-- The jobs' preloads are to be judged again; without a job the reset is over. -/
def preloadAgain (s : State) : State :=
  let js := dieJobs s
  let s := each js (fun s j => modJob s j fun x => { x with rewriting := true }) s
  if js.isEmpty then dieDone s else s

/-- The vias are empty: a face-die reset clears the face die and preloads every bound tile (R426). -/
def execViasEmpty (s : State) : Host.Outcome State Fault Refusal :=
  .next (
    if !(s.rst.faceBusy || s.rst.courseBusy) || s.rst.viasEmpty || !(dieJobs s).all (dieHeld s) then s
    else
      let s := modRstBlk s fun r => { r with viasEmpty := true }
      if s.rst.faceBusy then preloadAgain (clearFaceDie s) else s)

/-- Steps 3 to 5: the course die is clear and is written again from the golden copies. -/
def execCourseDieCleared (goldenBad : List Nat) (s : State) : Host.Outcome State Fault Refusal :=
  .next (
    if !(s.rst.courseBusy && s.rst.viasEmpty) then s
    else preloadAgain (each (List.range 8) (goldenPlanes goldenBad) (clearCourseDie s)))

/-! ## Job reset (R427) -/

/-- A held or stopped job is reset at once, and its command completes with it. -/
def resetNow (s : State) (h : Hdr) (j : Nat) : State :=
  if 16 ≤ s.hif.accepted.length then fail s h 0x0404 .busy
  else complete (jobReset (respond s h 0x0404 .accepted []) j true) h 0x0404 0x0E02 .ok []

def execCmdJobReset (h : Hdr) (s : State) : Host.Outcome State Fault Refusal :=
  .next (runCmd s h 0x0404 .both true fun j =>
    let x := jobOf s j
    if x.state == .empty || x.state == .loading || s.pwr.state == .deepHold then
      fail s h 0x0404 .wrongState
    else if s.rst.faceBusy || s.rst.courseBusy || x.resetReq.isSome then fail s h 0x0404 .busy
    else if x.state == .running || x.state == .releasing then
      accept s h 0x0404 [j] fun s => modJob s j fun x => { x with resetReq := some h, go := false }
    else resetNow s h j)

end Sys2Proof.Machine
end

