-- ==== Sys2Proof/Machine/PowerOps.lean ====
section
/-! DEFINITION. Power: rails, READY, trips and restarts, DEEP HOLD (chapter 14). -/

namespace Sys2Proof.Machine

def railBit (r : Nat) : BitVec 9 := BitVec.ofNat 9 (2 ^ r)
def railOn (s : State) (r : Nat) : Bool := s.pwr.rails.getLsbD r

/-- READY, RUN and HOLD follow the jobs (R434): 0 READY, 1 RUN, 2 HOLD. -/
def readyKind (s : State) : Nat :=
  let js := (List.range 8).map (jobOf s)
  if js.any (fun x => x.state == .running) then 1
  else if js.any (fun x => x.image.isSome) then 2
  else 0

/-- The power state in the order of Table 14-3. -/
def powerState (s : State) : Nat :=
  match s.pwr.state with
  | .off => 0 | .standby => 1 | .deepHold => 5 | .trip => 6
  | _ => 2 + readyKind s

/-! ## READY -/

/-- The image in the slot that runs. -/
def runningImage (s : State) : Option FwImage := if s.fw.runningB then s.fw.slotB else s.fw.slotA

/-- A trial image that reaches READY stays, and its security version is burned (R477). -/
def trialGood (s : State) : State :=
  if s.fw.trial then
    modFwBlk s fun f =>
      { f with trial := false,
               secCount := max f.secCount ((runningImage s).map (·.secVer) |>.getD 0) }
  else s

/-- The system key is drawn unless the key store holds one (R198, R435). -/
def drawSysKey (s : State) : State :=
  if s.pwr.sysKey.isSome then s
  else
    let (n, s) := takeDraw s
    modPwrBlk s fun p => { p with sysKey := some n }

/-- A tile bound anew and set up from the golden copy (R445). -/
def rebindOne (j : Nat) (img : Image) (d : Desc) (s : State) (vt : Nat) : State :=
  match pickTile s with
  | none => s
  | some t =>
    let e : TmEntry := { phys := t, valid := true, job := j, vt := vt }
    modTile { s with tileMap := mapPut s.tileMap {} (freeEntry s) e } t fun x =>
      { imageTile img vt j d x with holding := false }

/-- After a restart a job with an image is reloaded and left in STATE 6. -/
def reloadJob (bad : List Nat) (s : State) (j : Nat) : State :=
  match (jobOf s j).image with
  | none => s
  | some img =>
    let s := each (List.range img.vtCount) (rebindOne j img (jobOf s j).desc) s
    let (lost, s) := readPlanes s img
    if lost || bad.contains j then goldenLost s j else modJob s j fun x => { x with state := .stopped }

/-- Groups that hold assigned masons are powered up again. -/
def wakeGroups (s : State) : State :=
  powerGroups s ((List.range 12).filter fun g => !groupEmpty s g)

/-- The end of a restart (R444, R445, R526). -/
def endRestart (s : State) (bad : List Nat) : State :=
  let s := segmentsLost s
  let s := each (List.range 8) (reloadJob bad) (wakeGroups s)
  let s := linkEvent (emitDev (modPwrBlk s fun p => { p with restart := none }) 0x0305 []) 0x0305
  if s.pwr.resetN then s else modRstBlk (warmReset s 2) fun r => { r with held := true }

/-- Step 10 of Table 14-2: READY once firmware runs, every rail is on, the domains run and the channels
have been trained. -/
def tryReady (s : State) : State :=
  if s.pwr.booting && s.fw.running && !s.rst.held && s.pwr.rails == 0x1FF && s.clk.domainsOn
      && chansTrained s then
    let s := drawSysKey (trialGood s)
    let s := modPwrBlk s fun p => { p with state := .ready, booting := false, presentN := false }
    let s := updatePasr (modHifBlk s fun h => { h with linkTraining := s.pwr.perstN })
    match s.pwr.restart with
    | some bad => endRestart s bad
    | none => s
  else s

/-! ## Rails -/

/-- The rails that must be on before a rail (Table 14-2; VC and VF on firmware's request). -/
def railReady (s : State) (r : Nat) : Bool :=
  let on := railOn s
  match r with
  | 0 => s.pwr.smbusOn
  | 1 => on 0 && s.pwr.pwrEn && !s.pwr.lockout
  | 2 => on 1
  | 3 => on 2
  | 6 => on 3
  | 7 => on 6
  | 8 => on 7
  | 4 => on 8 && s.fw.running && (s.pwr.state != .deepHold || s.pwr.waking.isSome)
  | 5 => on 4
  | _ => false

/-- A rail comes within range. VAO starts the island (R430), unless RESET_N holds the device. -/
def railUp (s : State) (r : Nat) : State :=
  if railOn s r || !railReady s r then s
  else
    let s := modPwrBlk s fun p => { p with rails := p.rails ||| railBit r }
    if r = 0 then
      modRstBlk (modPwrBlk s fun p => { p with state := .standby, booting := true }) fun x =>
        { x with held := !s.pwr.resetN }
    else tryReady s

/-- The warning action is in force: by a diode, or by an LP5X die above 105 °C (R219, R442). -/
def warnNow (s : State) : Bool := s.pwr.warn || s.lp.chans.any fun c => c.2.over105

/-! ## Trips (R443–R446) -/

/-- A bed-memory page after its memory has lost power: dirty pages are lost (R186). -/
def tripPage (e : Ppt) : Ppt :=
  let near := e.state == .near || (e.state == .migrating && e.dir)
  if e.state = .near ∨ e.state = .migrating then
    { e with state := if near && e.dirty then .lost else .far, dirty := false, nearFrame := 0 }
  else e

def tripMemory (s : State) : State :=
  let s := each (s.mem.ppt.map (·.1)) (fun s p => modPpt s p tripPage) s
  let s := each (s.mem.ppt.filter fun e => e.2.state == .lost) (fun s e =>
    modMirror s e.1 fun m => { m with lost := true }) s
  modMemBlk s fun m =>
    { m with near := [], reverse := [], moves := [], stalled := [], pptErr := [] }

/-- A job after the stack has lost its rails: its image, pages, key and checkpoints stay, but for one in a
slot that was being written (R228). -/
def tripJob (s : State) (j : Nat) : State :=
  modJob s j fun x =>
    let writing := x.capturing == some .cut
    let y : Job := if x.state = .loading then emptyJob x
      else if x.image.isSome then { x with state := .stopped } else x
    { y with slotA := if writing && !x.nextB then none else y.slotA,
             slotB := if writing && x.nextB then none else y.slotB,
             waits := 0, charge := 0, ahead := 0, go := false, late := false, pops := [], pinVal := 0, pinOe := 0,
             badRows := [], faults := [], sweepDue := false, sweepRun := false, clockHold := false,
             cmdHeld := false, holdAt := [], resetReq := none, memReqs := [], capturing := none,
             cutState := none, queued := [], replay := none, exportReq := none, capture := {},
             rewriting := false, wantRollback := false, skipCkpt := false }

/-- A hod keeps its descriptor and loses its contents. -/
def tripHod (x : Hod) : Hod := { valid := x.valid, job := x.job, p := x.p, base := x.base }

/-- Rails of the stack off: what needed them is gone; what LP5X, the always-on island and flash hold
stays (Table 14-3, R436, R445). -/
def tripLoss (s : State) : State :=
  let s := each (List.range 8) tripJob (tripMemory s)
  { s with
    tiles := keepTiles s, tileMap := [], load := none, chain := {},
    lp := { s.lp with training := false, scrub := none, waiting := [] },
    pal := { hods := s.pal.hods.map fun e => (e.1, tripHod e.2), handlers := s.pal.handlers,
             affinity := s.pal.affinity, blocksOut := s.pal.blocksOut },
    msn := { s.msn with
      masons := s.msn.masons.map fun e =>
        (e.1, { phys := e.2.phys, job := e.2.job, safe := e.2.safe,
                st := if e.2.st = .failed then .failed else .off }),
      groups := keepGroups s.msn.groups, loads := [], assigning := [] },
    lry := { s.lry with
      ports := (List.range 12).foldl (fun m p =>
        let q := portOf s p
        mapPut m {} p
          { failed := q.failed, width := q.width, minWidth := q.minWidth, spareEn := q.spareEn,
            enable := q.enable, txQuiet := q.txQuiet, quietIdle := q.quietIdle,
            precode := q.precode }) [],
      lanes := [] },
    spn := {}, tel := {}, jtag := {},
    clk := { safeStable := s.clk.safeStable, refStable := s.clk.refStable,
             refArmed := s.clk.refArmed, refLast := s.clk.refLast, target := s.clk.target },
    hif := { log := s.hif.log, logLost := s.hif.logLost, seq := s.hif.seq },
    fw := { s.fw with running := false, recovery := false, updating := none },
    spr := { s.spr with sweeping := none, bist := none, reloc := [], toSwitch := [],
                        mismatches := [] },
    rst := { s.rst with faceBusy := false, courseBusy := false, viasEmpty := false, dieHdr := none },
    pwr := { s.pwr with entering := none, waking := none, presentN := true, alertN := true,
                        throtTherm := false, throtPower := false, warn := false } }

/-- Trips of the last 60 minutes. -/
def recentTrips (s : State) : List Nat :=
  s.pwr.tripTimes.filter fun t => decide (s.pwr.hvUs < t + 3600000000)

/-- The trip signal (Table 14-5 steps 1 and 2): THERMTRIP_N low, LP5X into self-refresh. The HV
controller keeps the times of the last three trips; three within 60 minutes lock the device out, an
over-power trip at once (R433, R446). -/
def startTrip (s : State) (cause : Nat) : State :=
  if s.pwr.tripping || s.pwr.state == .trip || s.pwr.state == .off then s
  else
    let times := (s.pwr.hvUs :: s.pwr.tripTimes).take 3
    let s := modPwrBlk s fun p =>
      { p with tripping := true, thermtripN := false, lastTrip := BitVec.ofNat 2 cause,
               tripTimes := times }
    let s := modPwrBlk s fun p =>
      { p with lockout := p.lockout || cause == 3 || decide (3 ≤ (recentTrips s).length) }
    selfRefresh (endScrub s 0x0003)

/-- KILL (steps 3 and 4), a line of its own that needs no link (R429): the stack rails go off; in lockout
the retention rails and the keys go too. -/
def killRails (s : State) : State :=
  let s := modHvBlk (tripLoss s) fun h => { h with otFault := true }
  let s := modPwrBlk s fun p =>
    { p with kill := true, rails := p.rails &&& 0x1C1, state := .trip, booting := false,
             tripping := false, cooling := !p.lockout }
  if s.pwr.lockout then
    let s := zeroize (modPwrBlk s fun p => { p with rails := p.rails &&& 1 })
    linkEvent (emitLog s 0x0306 []) 0x0306
  else s

/-! ## DEEP HOLD (Table 14-4) -/

/-- A loaded job. -/
def loaded (x : Job) : Bool := x.image.isSome && x.state != .empty

/-- The entry checkpoint of a held job has been taken. -/
def entryDone (x : Job) : Bool :=
  x.state == .stopped || (x.state == .heldCmd && x.capturing.isNone
    && (match latestCkpt x with | some c => c.k == x.cycle | none => false))

def entryReady (s : State) : Bool :=
  (List.range 8).all fun j => !loaded (jobOf s j) || entryDone (jobOf s j)

/-- Jobs that stand where no checkpoint can be taken. -/
def entryStuck (x : Job) : Bool :=
  loaded x && (x.state == .heldFault || x.state == .loading || x.replay.isSome
    || (x.state == .heldCmd && !((x.endDone && atCommit x) || x.beforeZero)))

/-- Steps 1 and 2: running jobs hold at their next commit boundary, held ones take their entry
checkpoint. -/
def startEntry (s : State) (h : Hdr) : State :=
  let s := modPwrBlk (abortTests s) fun p => { p with entering := some h }
  let s := each (List.range 8) holdNext s
  each (List.range 8) (fun s j =>
    let x := jobOf s j
    if loaded x && x.state == .heldCmd && x.capturing.isNone then startCapture s j else s) s

/-- Step 4: groups, hod store, bed memory and the dies lose their power, LP5X is in self-refresh. -/
def enterDeepHold (s : State) (h : Hdr) : State :=
  let s := endScrub (demoteAll s) 0x0003
  let s := { s with msn := { s.msn with
    masons := s.msn.masons.map fun e =>
      (e.1, { phys := e.2.phys, job := e.2.job, safe := e.2.safe,
              st := if e.2.st = .failed then .failed else .off }),
    groups := s.msn.groups.map fun e => (e.1, { e.2 with on := false, clearing := false }) } }
  let s := modPalBlk s fun p => { p with hods := p.hods.map fun e => (e.1, tripHod e.2) }
  let s := modSpnBlk s fun x => { x with trcBuf := [], trcQueue := [] }
  let s := clearFaceDie (clearCourseDie s)
  let s := modPwrBlk (selfRefresh s) fun p =>
    { p with state := .deepHold, rails := p.rails &&& 0x1CF, entering := none }
  complete (dropAccOf s 0x0201 h) h 0x0201 0x0205 .ok []

/-- Steps 7 and 8 for one job. -/
def wakeJob (bad : List Nat) (s : State) (j : Nat) : State :=
  let x := jobOf s j
  if !loaded x then s
  else
    let was := x.state
    let s := goldenPlanes bad s j
    if (jobOf s j).state = .stopped ∧ was ≠ .stopped then s
    else match latestCkpt x with
      | some ck =>
        if was = .stopped then s
        else
          let s := restoreCkpt s j ck
          modJob s j fun x => setWait 4 true { x with state := .heldCmd, cmdHeld := true }
      | none => s

end Sys2Proof.Machine
end

