-- ==== Sys2Proof/Machine/Power.lean ====
section
/-! DEFINITION. The commands and events of power, the kiln and thermal protection (chapter 14), and the
end of full training (R217). -/

namespace Sys2Proof.Machine

/-! ## Power-up and power-down -/

/-- VIN48 reaches 40 V: a cold power-up begins, which clears the trip record too (Table 14-6). -/
def execVin48Apply (s : State) : Host.Outcome State Fault Refusal :=
  .next (
    if s.pwr.vin48 then s
    else
      let s := clearTrips (modHvBlk (coldReset s 0) fun _ => {})
      let s := modPwrBlk s fun p =>
        { p with vin48 := true, smbusOn := false, state := .off, booting := false, rails := 0,
                 linkEvs := [], linkLost := false, hvUs := 0, temps := [0, 0, 0], broken := 0, brokenEv := 0,
                 atWarn := [0, 0, 0], atThrot := [0, 0, 0], atTrip := [0, 0, 0] }
      modRstBlk s fun r => { r with held := true })

/-- VIN48 has stayed at 40 V for 1 ms: SMBus answers, VAO ramps (R11). -/
def execVin48Qualified (s : State) : Host.Outcome State Fault Refusal :=
  .next (if s.pwr.vin48 then modPwrBlk s fun p => { p with smbusOn := true } else s)

def execRailInRange (rail : Nat) (s : State) : Host.Outcome State Fault Refusal :=
  atUnit (decide (rail < 9)) (railUp s rail)

/-- VIN48 below 38 V for 2 µs (R432): keys zeroized, every rail off; nothing on the stack survives. -/
def execVin48Fail (s : State) : Host.Outcome State Fault Refusal :=
  .next (
    let s := clearStack (zeroize s) s.rst.lastCause
    let s := modPwrBlk { s with hif := {} } fun p =>
      { p with vin48 := false, smbusOn := false, state := .off, booting := false, rails := 0 }
    modRstBlk s fun r => { r with held := true })

/-- PWR_EN rises with VAO on: VAO is cycled and the power-up is cold (R430). After at least 1 ms low the
trip times and LOCKOUT clear; in lockout a shorter pulse does nothing (R446). -/
def execPwrEnRise (lowUs : Nat) (s : State) : Host.Outcome State Fault Refusal :=
  .next (
    let s := modPwrBlk s fun p => { p with pwrEn := true }
    if !s.pwr.smbusOn || (s.pwr.lockout && decide (lowUs < 1000)) then s
    else
      let s := if 1000 ≤ lowUs then clearTrips s else s
      let s := modPwrBlk (coldReset s 1) fun p => { p with rails := 0 }
      modRstBlk s fun r => { r with held := true })

/-- PWR_EN falls (R431, R526): keys zeroized, every rail but VAO off, STANDBY. No restart follows
(R446). -/
def execPwrEnFall (s : State) : Host.Outcome State Fault Refusal :=
  .next (
    let s := modPwrBlk s fun p => { p with pwrEn := false }
    if s.pwr.state == .off then s
    else
      let safe := s.clk.safeStable
      let s := clearStack (zeroize s) s.rst.lastCause
      let s := modClkBlk s fun c => { c with safeStable := safe }
      modPwrBlk s fun p =>
        { p with rails := p.rails &&& 1, booting := false, thermtripN := !p.lockout })

/-- A returned domain is clear: a mason group comes up (R436, R284). -/
def execDomainClearDone (group : Nat) (s : State) : Host.Outcome State Fault Refusal :=
  atUnit (decide (group < 12)) (groupCleared s group)

def execBootRomStart (s : State) : Host.Outcome State Fault Refusal :=
  .next (if mayBoot s then bootRom s else s)

/-- Full training ends (R217); with it the power-up may reach READY (Table 14-2). -/
def execFullTrainingDone (failed oscs : List Nat) (s : State) : Host.Outcome State Fault Refusal :=
  .next (if s.lp.training then tryReady (endTraining s failed oscs) else s)

/-! ## The power link (R429) -/

/-- No frame for 10 ms while VB is on: the rails stay as they stand. -/
def execPowerLinkLoss (s : State) : Host.Outcome State Fault Refusal :=
  .next (
    if !railOn s 1 || s.pwr.linkLost then s
    else
      let s := modHvBlk s fun h => { h with linkLost := true }
      emitDev (modPwrBlk s fun p => { p with linkLost := true }) 0x0206 [])

/-- Nominal rail voltages in mV (Table 14-1). -/
def railNominal : List Nat := [750, 750, 900, 1200, 700, 700, 1800, 1050, 500]

/-- Rails that are on and off their nominal value by more than one part in `n`. -/
def railsOff (s : State) (mv : List Nat) (n : Nat) : BitVec 9 :=
  (List.range 9).foldl (fun m r =>
    let nom := listAt railNominal 0 r
    let v := listAt mv 0 r
    if railOn s r && decide (nom < ((v - nom) + (nom - v)) * n) then m ||| railBit r else m) 0

/-- Rail telemetry crosses the link: voltages in mV and currents in mA, with the kiln's conditions as they
stand; a frame ends a loss. -/
def execPowerTelemetry (rails : List (Nat × Nat)) (s : State) : Host.Outcome State Fault Refusal :=
  .next (
    let mv := (List.range 9).map fun r => (listAt rails (0, 0) r).1
    let ma := (List.range 9).map fun r => (listAt rails (0, 0) r).2
    let w := railsOff s mv 20
    let f := railsOff s mv 10
    let s := modHvBlk s fun h =>
      { h with vWarnNow := w, vFaultNow := f, vWarn := h.vWarn ||| w, vFault := h.vFault ||| f,
               otWarn := h.otWarn || warnNow s, refLost := h.refLost || s.clk.refLost,
               broken := h.broken || s.pwr.broken != 0 }
    modPwrBlk s fun p => { p with railMv := mv, railMa := ma, linkLost := false })

/-- Whether the throttle divider stands at /2: by temperature or by power (R413, R433). -/
def setThrottle (s : State) : State :=
  modClkBlk s fun c => { c with throttle := s.pwr.throtTherm || s.pwr.throtPower }

/-- Input power (R433): throttle above 850 W until below 800 W; a trip above 1,050 W for 10 ms or
1,300 W for 20 µs. The HV controller asks the kiln over the power link: a lost one carries no request
(R10). -/
def execInputPowerMeasure (vinMv iinMa avgW instW : Nat) (over1050ms10 over1300us20 : Bool)
    (s : State) : Host.Outcome State Fault Refusal :=
  .next (
    if !s.pwr.smbusOn then s
    else
      let s := modPwrBlk s fun p => { p with vinMv := vinMv, iinMa := iinMa, inW := instW }
      let s := if vinMv < 40000 then modHvBlk s fun h => { h with vinUv := true } else s
      let excess := over1050ms10 || over1300us20
      let s := if 850 < avgW ∨ excess then modHvBlk s fun h => { h with pinOver := true } else s
      if s.pwr.linkLost then s
      else
      let start := decide (850 < avgW) && !s.pwr.throtPower
      let s := modPwrBlk s fun p =>
        { p with throtPower := decide (850 < avgW) || (p.throtPower && decide (800 ≤ avgW)) }
      let s := setThrottle s
      let s := if start then emitDev s 0x0204 [] else s
      if excess && !s.pwr.tripping && s.pwr.state != .trip then
        let s := modHvBlk s fun h => { h with otFault := true }
        startTrip (linkEvent (emitDev s 0x0203 []) 0x0203) 3
      else s)

/-! ## Supply monitors (R439, R440) -/

/-- A monitor is masked while its rail is off, but for VAO and SAFE (source 9). -/
def monitored (s : State) (source : Nat) : Bool :=
  s.pwr.state != .off && (source == 9 || source == 0 || railOn s source)

def execRailWarn (rail : Nat) (s : State) : Host.Outcome State Fault Refusal :=
  atUnit (decide (rail < 9)) (
    if !monitored s rail then s
    else
      let s := tellHv s fun h =>
        { h with vWarn := h.vWarn ||| railBit rail, vWarnNow := h.vWarnNow ||| railBit rail }
      emitDev s 0x0207 [(1, rail)])

/-- A glitch: keys zeroized, a warm reset with LAST_CAUSE 5, EV_PWR_GLITCH in the log after it. In TRIP
the rails stay as they are. -/
def glitch (s : State) (source : Nat) : State :=
  let trip := s.pwr.state == .trip
  let cool := s.pwr.cooling
  let s := if source < 9 then tellHv s fun h => { h with vFault := h.vFault ||| railBit source } else s
  let s := warmReset (zeroize s) 5
  let s := if trip then
      modPwrBlk s fun p =>
        { p with state := .trip, booting := false, cooling := cool, thermtripN := false }
    else s
  emitLog s 0x0201 [(1, source)]

def execSupplyGlitch (source : Nat) (s : State) : Host.Outcome State Fault Refusal :=
  atUnit (decide (source < 10)) (if monitored s source then glitch s source else s)

/-! ## The kiln (R441–R444) -/

/-- A conversion in quarter degrees as KLN_STATUS encodes it (Table 14-6); none is a broken diode. -/
def kilnCode : Option Int → Option Nat
  | some v => if -160 ≤ v ∧ v ≤ 600 then some (v + 256).toNat else none
  | none => none

/-- Consecutive conversions at or above a threshold, up to two. -/
def kilnCount (old : List Nat) (temps : List Nat) (thr : Nat) : List Nat :=
  (List.range 3).map fun i =>
    if thr ≤ listAt temps 0 i then min 2 (listAt old 0 i + 1) else 0

/-- The first diode that has stood at or above a threshold twice. -/
def kilnHit (counts : List Nat) : Option Nat := counts.findIdx? (fun n => decide (2 ≤ n))

/-- Readings, broken diodes and counts of one conversion. -/
def kilnRead (s : State) (codes : List (Option Nat)) : State :=
  let temps := codes.map fun c => c.getD 756
  let broken := (List.range 3).foldl (fun (m : BitVec 3) i =>
    if (listAt codes none i).isNone then m ||| BitVec.ofNat 3 (2 ^ i) else m) 0
  modPwrBlk s fun p =>
    { p with temps := temps.map (BitVec.ofNat 10), broken := broken,
             atWarn := kilnCount p.atWarn temps 636, atThrot := kilnCount p.atThrot temps 656,
             atTrip := kilnCount p.atTrip temps 696 }

/-- EV_SENSOR_BROKEN once per diode. -/
def kilnBroken (s : State) : State :=
  let new := s.pwr.broken &&& ~~~s.pwr.brokenEv
  if new = 0 then s
  else
    let s := tellHv (modPwrBlk s fun p => { p with brokenEv := p.brokenEv ||| new }) fun h =>
      { h with broken := true }
    each (List.range 3) (fun s i =>
      if new.getLsbD i then linkEvent (emitDev s 0x0304 []) 0x0304 else s) s

/-- Every action that the conversion makes due. -/
def kilnActs (s : State) : State :=
  let s := if (kilnHit s.pwr.atWarn).isSome && !s.pwr.warn then
      let s := tellHv (modPwrBlk s fun p => { p with warn := true }) fun h => { h with otWarn := true }
      linkEvent (emitDev s 0x0301 []) 0x0301
    else s
  let s := if (kilnHit s.pwr.atThrot).isSome && !s.pwr.throtTherm then
      let s := setThrottle (modPwrBlk s fun p => { p with throtTherm := true })
      linkEvent (emitDev s 0x0302 []) 0x0302
    else s
  match kilnHit s.pwr.atTrip with
  | some d =>
    if s.pwr.tripping || s.pwr.state == .trip then s
    else startTrip (tellHv s fun h => { h with otFault := true }) d
  | none => s

/-- The kiln converts while SAFE runs (R441). -/
def kilnRuns (s : State) : Bool := s.pwr.rails.getLsbD 0 && s.clk.safeStable

def execKilnConversion (face course bed : Option Int) (s : State) :
    Host.Outcome State Fault Refusal :=
  .next (
    if !kilnRuns s then s
    else kilnActs (kilnBroken (kilnRead s [kilnCode face, kilnCode course, kilnCode bed])))

/-- Every diode reads below a level. -/
def allBelow (s : State) (level : Nat) : Bool := s.pwr.temps.all fun t => decide (t.toNat < level)

/-- 1 ms below the clear level ends an action: warning below 90 °C, throttle below 95 °C. -/
def execKilnClear (s : State) : Host.Outcome State Fault Refusal :=
  .next (
    let s := if allBelow s 616 then modPwrBlk s fun p => { p with warn := false } else s
    if allBelow s 636 then setThrottle (modPwrBlk s fun p => { p with throtTherm := false }) else s)

def execKillAssert (s : State) : Host.Outcome State Fault Refusal :=
  .next (if s.pwr.tripping then killRails s else s)

/-- EV_THERM_TRIP, with the die and its reading, over the power link and into the log (Table 14-5
step 5). -/
def execThermTripEvent (s : State) : Host.Outcome State Fault Refusal :=
  .next (
    let d := s.pwr.lastTrip.toNat
    if s.pwr.state != .trip || d == 3 then s
    else linkEvent (emitLog s 0x0303 [(1, d), (2, (listAt s.pwr.temps 0 d).toNat)]) 0x0303)

/-- 30 s below 80 °C: the power-up runs again from VB, THERMTRIP_N rises, LAST_CAUSE 4 (R444). -/
def execCoolingWaitEnd (goldenBad : List Nat) (s : State) : Host.Outcome State Fault Refusal :=
  .next (
    if s.pwr.state != .trip || !s.pwr.cooling || s.pwr.lockout || !s.pwr.pwrEn || !allBelow s 576 then s
    else
      let s := modPwrBlk s fun p =>
        { p with state := .standby, booting := true, cooling := false, kill := false,
                 thermtripN := true, restart := some goldenBad }
      drawGenerations (modRstBlk s fun r => { r with lastCause := 4, held := false }))

/-! ## DEEP HOLD (R437, R438) -/

/-- A load, a die reset or another state change is in progress. -/
def pwrBusy (s : State) : Bool :=
  s.load.isSome || s.rst.faceBusy || s.rst.courseBusy || s.pwr.entering.isSome || s.pwr.waking.isSome

def execCmdPwrStateEnter (h : Hdr) (s : State) : Host.Outcome State Fault Refusal :=
  .next (runCmd s h 0x0201 .pf0 false fun _ =>
    if pwrBusy s then fail s h 0x0201 .busy
    else if s.pwr.state != .ready then fail s h 0x0201 .wrongState
    else
      let t := accept s h 0x0201 [0] fun s => startEntry s h
      if t.pwr.entering.isSome && (List.range 8).any (fun j => entryStuck (jobOf t j)) then stopEntry t
      else t)

/-- Step 3 is done, every job is held with its entry checkpoint: step 4. -/
def execDeepHoldDemotionDone (s : State) : Host.Outcome State Fault Refusal :=
  .next (
    match s.pwr.entering with
    | none => s
    | some h =>
      if (List.range 8).any (fun j => entryStuck (jobOf s j)) then stopEntry s
      else if entryReady s then enterDeepHold s h else s)

/-- Step 5: VC and VF are to return, and the mason groups with assigned masons. -/
def execCmdPwrStateWake (h : Hdr) (s : State) : Host.Outcome State Fault Refusal :=
  .next (runCmd s h 0x0201 .pf0 false fun _ =>
    if pwrBusy s then fail s h 0x0201 .busy
    else if s.pwr.state != .deepHold then fail s h 0x0201 .wrongState
    else accept s h 0x0201 [1] fun s =>
      wakeGroups (modPwrBlk s fun p => { p with waking := some h }))

/-- Steps 6 to 8, once rails, groups and channels are back: each job stands in STATE 4 where it held. -/
def execWakeRestore (goldenBad : List Nat) (s : State) : Host.Outcome State Fault Refusal :=
  .next (
    match s.pwr.waking with
    | none => s
    | some h =>
      if s.pwr.rails != 0x1FF || !chansTrained s || s.msn.groups.any (fun g => g.2.clearing) then s
      else
        let s := modPwrBlk (segmentsLost s) fun p => { p with state := .ready, waking := none }
        let s := each (List.range 8) (wakeJob goldenBad) s
        complete (dropAccOf s 0x0201 h) h 0x0201 0x0205 .ok [])

/-! ## Status -/

/-- CMD_PWR_STATUS: the power state, nine rails as voltage and current, input voltage, current and
power. -/
def execCmdPwrStatus (h : Hdr) (s : State) : Host.Outcome State Fault Refusal :=
  .next (runCmd s h 0x0202 .pf0 false fun _ =>
    answer s h 0x0202 (leBytes 4 (powerState s)
      ++ ((List.range 9).flatMap fun r =>
            leBytes 4 (listAt s.pwr.railMv 0 r) ++ leBytes 4 (listAt s.pwr.railMa 0 r))
      ++ leBytes 4 s.pwr.vinMv ++ leBytes 4 s.pwr.iinMa ++ leBytes 4 s.pwr.inW))

/-- KLN_STATUS (Table 14-6). -/
def kilnWord (s : State) : Nat :=
  let p := s.pwr
  (listAt p.temps 0 0).toNat + (listAt p.temps 0 1).toNat * 2 ^ 10 + (listAt p.temps 0 2).toNat * 2 ^ 20
    + p.broken.toNat * 2 ^ 30 + b2n (warnNow s) * 2 ^ 33 + b2n (p.throtTherm || p.throtPower) * 2 ^ 34
    + b2n p.cooling * 2 ^ 35 + min 3 (recentTrips s).length * 2 ^ 36 + p.lastTrip.toNat * 2 ^ 38
    + b2n p.lockout * 2 ^ 40

def execCmdKlnStatus (h : Hdr) (s : State) : Host.Outcome State Fault Refusal :=
  .next (runCmd s h 0x0203 .pf0 false fun _ => answer s h 0x0203 (leBytes 8 (kilnWord s)))

end Sys2Proof.Machine
end

