-- ==== Sys2Proof/Machine/BoardOps.lean ====
section
/-! DEFINITION. SMBus and JTAG as operations: LINEAR formats, status registers (Table 18-7), the TAP
(R531–R535). -/

namespace Sys2Proof.Machine

/-! ## LINEAR11 and LINEAR16 (R532) -/

/-- The value num / den at exponent e, rounded down; e runs over `es`, and the first mantissa that fits
in 11 bits is taken. -/
def linearAt (num : Int) (den : Nat) : List Int → Int × Int
  | [] => (0, 0)
  | e :: es =>
    let m := if e < 0 then num * 2 ^ (-e).toNat / den else num / (den * 2 ^ e.toNat)
    if -1024 ≤ m ∧ m ≤ 1023 then (e, m) else linearAt num den es

/-- Exponents −16 to 15. -/
def linearExps : List Int := (List.range 32).map fun i => Int.ofNat i - 16

def linear11 (num : Int) (den : Nat) : Nat :=
  let (e, m) := linearAt num den linearExps
  (e % 32).toNat * 2048 + (m % 2048).toNat

/-- LINEAR16 at exponent −12 of a voltage in mV. -/
def linear16 (mv : Nat) : Nat := mv * 4096 / 1000 % 65536

/-! ## SMBus -/

/-- The HV controller answers once VIN48 is qualified (R11, Table 18-3). -/
def smbusRead (s : State) (data : List Byte) : State :=
  if s.pwr.smbusOn then emitOut s (.smbus data) else s

/-- A block is sent with its length first. -/
def smbusBlock (s : State) (data : List Byte) : State :=
  smbusRead s (leBytes 1 data.length ++ data)

/-- NACK, and CML is set. -/
def smbusNack (s : State) : State :=
  if s.pwr.smbusOn then emitOut (modHvBlk s fun h => { h with cml := true }) .smbusNack else s

/-! ## Status registers -/

def pageBit (s : State) (m : BitVec 9) : Bool := m.getLsbD s.hv.page

/-- The rail of PAGE last read at or above its nominal voltage. -/
def pageHigh (s : State) : Bool :=
  decide (listAt railNominal 0 s.hv.page ≤ listAt s.hv.rMv 0 s.hv.page)

/-- STATUS_VOUT: bits 7 and 6 above, bits 4 and 5 below the nominal voltage. -/
def statusVout (s : State) : Nat :=
  let f := b2n (pageBit s s.hv.vFault)
  let w := b2n (pageBit s s.hv.vWarn)
  if pageHigh s then f * 128 + w * 64 else f * 16 + w * 32

def statusInput (s : State) : Nat := b2n s.hv.vinUv * 32 + b2n s.hv.pinOver

def statusTemp (s : State) : Nat := b2n s.hv.otFault * 128 + b2n s.hv.otWarn * 64

/-- STATUS_MFR_SPECIFIC: [0] SAFE, [1] REF, [2] power link, [3] lockout, [4] diode. -/
def statusMfr (s : State) : Nat :=
  b2n s.hv.safeBad + b2n s.hv.refLost * 2 + b2n s.hv.linkLost * 4 + b2n s.pwr.lockout * 8
    + b2n s.hv.broken * 16

/-- STATUS_WORD, with STATUS_BYTE as its low byte: VOUT [15], INPUT [13], MFR [12], TEMPERATURE [2],
CML [1], NONE OF THE ABOVE [0]. -/
def statusWord (s : State) : Nat :=
  let v := s.hv.vWarn != 0 || s.hv.vFault != 0
  let i := statusInput s != 0
  let m := statusMfr s != 0
  b2n v * 2 ^ 15 + b2n i * 2 ^ 13 + b2n m * 2 ^ 12 + b2n (statusTemp s != 0) * 4 + b2n s.hv.cml * 2
    + b2n (v || i || m)

/-- Latched bits whose condition has ended clear; the lockout bit is not latched here (R532). -/
def clearLatched (s : State) : State :=
  let p := s.pwr
  modHvBlk s fun h =>
    { h with cml := false, vWarn := h.vWarn &&& h.vWarnNow, vFault := h.vFault &&& h.vFaultNow,
             vinUv := h.vinUv && decide (p.vinMv < 40000), pinOver := h.pinOver && p.throtPower,
             otWarn := h.otWarn && warnNow s, otFault := h.otFault && (p.tripping || p.state == .trip),
             safeBad := h.safeBad && !s.clk.safeStable, refLost := h.refLost && s.clk.refLost,
             linkLost := h.linkLost && p.linkLost, broken := h.broken && p.broken != 0 }

/-- One refresh of all readings; those that cross the power link hold while it is lost. -/
def refreshReadings (s : State) : State :=
  let p := s.pwr
  let kln := if p.linkLost then s.hv.rKln else BitVec.ofNat 64 (kilnWord s)
  modHvBlk s fun h =>
    { h with rVin := p.vinMv, rIin := p.iinMa, rPin := p.inW, rMv := p.railMv, rMa := p.railMa,
             rKln := kln }

/-- The hottest diode of the last refresh, in quarter degrees (Table 14-6). -/
def hottest (s : State) : Int :=
  let k := s.hv.rKln.toNat
  ((max (field k 9 0) (max (field k 19 10) (field k 29 20)) : Nat) : Int) - 256

/-- Stepping as text: a letter and a digit. -/
def steppingText (st : Nat) : List Byte :=
  [BitVec.ofNat 8 (0x40 + st / 16), BitVec.ofNat 8 (0x30 + st % 16)]

def textBytes (t : List Char) : List Byte := t.map fun c => BitVec.ofNat 8 c.toNat

/-! ## JTAG (R533–R535) -/

/-- The TAP is active from READY to DEEP HOLD (Table 18-3). -/
def tapOn (s : State) : Bool := s.pwr.state == .ready || s.pwr.state == .deepHold

def locked (s : State) : Bool := !(createdJobs s).isEmpty

/-- IDCODE (R534). -/
def idcodeWord (s : State) : Nat :=
  let st := s.rst.stepping.toNat
  1 + 0x4F5 * 2 + 0x6532 * 2 ^ 12 + (4 * (st / 16 - 1) + st % 16) % 16 * 2 ^ 28

/-- An instruction scan: the capture value comes out, the instruction takes effect. -/
def scanIr (s : State) (ir : BitVec 8) : State :=
  if !tapOn s then s
  else
    let cap : BitVec 8 := if locked s then 5 else 1
    emitOut { s with jtag := { s.jtag with ir := ir, capture := cap } } (.jtag (BitVec.setWidth 128 cap))

/-- EXTEST, CLAMP and HIGHZ act as BYPASS while any job exists. -/
def scanPins (s : State) (ir : BitVec 8) : State := scanIr s (if locked s then 0xFF else ir)

/-- Test-Logic-Reset selects IDCODE. -/
def tapReset (s : State) : State := { s with jtag := { s.jtag with ir := 0x02 } }

/-- Status of a debug access (R535): 0 done, 1 no right, 2 unavailable or check failed. -/
def dbgStatus : AccStatus → Nat
  | .ok => 0 | .noRights => 1
  | .unmapped => 2 | .lost => 2 | .quarantined => 2 | .tagFailed => 2 | .uncorrectable => 2
  | .listed => 2 | .fenced => 2

/-- The access itself, as master 17, on a page of the job that it names. -/
def dbgRun (s : State) (dr : Nat) : AccStatus × List Byte × State :=
  let a := field dr 36 3 * 8
  if !memUp s then (.unmapped, [], s)
  else match pageJob s (linePage (a / 128)) with
    | none => (.unmapped, [], s)
    | some j =>
      if j ≠ field dr 39 37 then (.noRights, [], denied s 17)
      else if bitOf dr 40 then
        let (st, s) := masterWrite s 17 false a (leBytes 8 (field dr 127 64))
        (st, [], s)
      else masterRead s 17 a 8

/-- The data field: what was read; after a write or a failure it is not stated, so it is free. -/
def dbgData (st : AccStatus) (write : Bool) (bs : List Byte) (s : State) : Nat × State :=
  if st = .ok ∧ !write then (leNat bs, s)
  else
    let (v, s) := takeFree s 64
    (v.toNat, s)

/-- The access waits for a channel's training (R223): status 3, still in progress. -/
def dbgWaits (s : State) (dr : Nat) : Bool := memUp s && rangeWaits s (field dr 36 3 * 8) 8

/-- What the next Capture-DR returns: data above, status below. -/
def dbgAccess (s : State) (dr : BitVec 128) : State :=
  let wait := dbgWaits s dr.toNat
  let (st, bs, s) := if wait then (.unmapped, [], s) else dbgRun s dr.toNat
  let (data, s) := dbgData st (dr.getLsbD 40) bs s
  let out := BitVec.ofNat 128 (data * 2 ^ 64 + if wait then 3 else dbgStatus st)
  emitOut { s with jtag := { s.jtag with ir := 0x10, dr := out } } (.jtag out)

end Sys2Proof.Machine
end

