-- ==== Sys2Proof/Machine/Board.lean ====
section
/-! DEFINITION. The board side: PCIe link training, PMBus commands, JTAG (chapter 18). -/

namespace Sys2Proof.Machine

/-- The link comes up: PERST_N is high and the endpoint trains, in recovery too (R527, R474). -/
def execPcieLinkTraining (s : State) : Host.Outcome State Fault Refusal :=
  .next (
    if s.pwr.perstN && (s.hif.linkTraining || (s.fw.recovery && !s.hif.linkUp)) then
      modHifBlk s fun h => { h with linkUp := true, linkTraining := false }
    else s)

/-! ## PMBus (Table 18-7) -/

def execPmbusReadingRefresh (s : State) : Host.Outcome State Fault Refusal :=
  .next (if s.pwr.smbusOn then refreshReadings s else s)

/-- PAGE: written with 0–8, or read. -/
def execPage (value : Option (BitVec 8)) (s : State) : Host.Outcome State Fault Refusal :=
  .next (
    match value with
    | none => smbusRead s (leBytes 1 s.hv.page)
    | some v =>
      if !s.pwr.smbusOn then s
      else if v.toNat ≤ 8 then modHvBlk s fun h => { h with page := v.toNat }
      else smbusNack s)

def execClearFaults (s : State) : Host.Outcome State Fault Refusal :=
  .next (if s.pwr.smbusOn then clearLatched s else s)

def execCapability (s : State) : Host.Outcome State Fault Refusal := .next (smbusRead s (leBytes 1 0xB0))

def execVoutMode (s : State) : Host.Outcome State Fault Refusal := .next (smbusRead s (leBytes 1 0x14))

def execStatusByte (s : State) : Host.Outcome State Fault Refusal :=
  .next (smbusRead s (leBytes 1 (statusWord s % 256)))

def execStatusWord (s : State) : Host.Outcome State Fault Refusal :=
  .next (smbusRead s (leBytes 2 (statusWord s)))

def execStatusVout (s : State) : Host.Outcome State Fault Refusal :=
  .next (smbusRead s (leBytes 1 (statusVout s)))

def execStatusInput (s : State) : Host.Outcome State Fault Refusal :=
  .next (smbusRead s (leBytes 1 (statusInput s)))

def execStatusTemperature (s : State) : Host.Outcome State Fault Refusal :=
  .next (smbusRead s (leBytes 1 (statusTemp s)))

def execStatusMfrSpecific (s : State) : Host.Outcome State Fault Refusal :=
  .next (smbusRead s (leBytes 1 (statusMfr s)))

def execReadVin (s : State) : Host.Outcome State Fault Refusal :=
  .next (smbusRead s (leBytes 2 (linear11 s.hv.rVin 1000)))

def execReadIin (s : State) : Host.Outcome State Fault Refusal :=
  .next (smbusRead s (leBytes 2 (linear11 s.hv.rIin 1000)))

def execReadVout (s : State) : Host.Outcome State Fault Refusal :=
  .next (smbusRead s (leBytes 2 (linear16 (listAt s.hv.rMv 0 s.hv.page))))

def execReadIout (s : State) : Host.Outcome State Fault Refusal :=
  .next (smbusRead s (leBytes 2 (linear11 (Int.ofNat (listAt s.hv.rMa 0 s.hv.page)) 1000)))

def execReadTemperature1 (s : State) : Host.Outcome State Fault Refusal :=
  .next (smbusRead s (leBytes 2 (linear11 (hottest s) 4)))

def execReadPin (s : State) : Host.Outcome State Fault Refusal :=
  .next (smbusRead s (leBytes 2 (linear11 s.hv.rPin 1)))

def execPmbusRevision (s : State) : Host.Outcome State Fault Refusal :=
  .next (smbusRead s (leBytes 1 0x33))

def execMfrId (s : State) : Host.Outcome State Fault Refusal :=
  .next (smbusBlock s (textBytes ['F', 'J', 'A', 'R', 'I', 'R']))

def execMfrModel (s : State) : Host.Outcome State Fault Refusal :=
  .next (smbusBlock s (textBytes ['K', 'Z', '6', '5', '3', '2', '-', 'M', '4', '8']))

def execMfrRevision (s : State) : Host.Outcome State Fault Refusal :=
  .next (smbusBlock s (steppingText s.rst.stepping.toNat))

def execMfrKlnStatus (s : State) : Host.Outcome State Fault Refusal :=
  .next (smbusBlock s (leBytes 8 s.hv.rKln.toNat))

/-- Four entries of a code and the low half of its time, newest first. -/
def execMfrEvent (s : State) : Host.Outcome State Fault Refusal :=
  .next (smbusBlock s ((List.range 4).flatMap fun i =>
    let e := listAt s.pwr.linkEvs (0, 0) i
    leBytes 2 e.1 ++ leBytes 2 e.2))

def execPmbusUnsupported (_code : BitVec 8) (s : State) : Host.Outcome State Fault Refusal :=
  .next (smbusNack s)

/-! ## JTAG (Table 18-8) -/

def execTrstNLow (s : State) : Host.Outcome State Fault Refusal := .next (tapReset s)

def execExtest (s : State) : Host.Outcome State Fault Refusal := .next (scanPins s 0x00)

/-- SAMPLE/PRELOAD; the order of the boundary cells is not stated, so what they capture is free. -/
def execSamplePreload (s : State) : Host.Outcome State Fault Refusal :=
  .next (
    if !tapOn s then s
    else
      let (v, s) := takeFree s 128
      let s := scanIr s 0x01
      { s with jtag := { s.jtag with dr := v } })

def execIdcode (s : State) : Host.Outcome State Fault Refusal :=
  .next (
    if !tapOn s then s
    else
      let s := scanIr s 0x02
      let w := BitVec.ofNat 128 (idcodeWord s)
      emitOut { s with jtag := { s.jtag with dr := w } } (.jtag w))

def execClamp (s : State) : Host.Outcome State Fault Refusal := .next (scanPins s 0x03)

def execHighz (s : State) : Host.Outcome State Fault Refusal := .next (scanPins s 0x04)

def execBypass (s : State) : Host.Outcome State Fault Refusal := .next (scanIr s 0xFF)

def execDbgAccess (dr : BitVec 128) (ups : List Upset) (s : State) :
    Host.Outcome State Fault Refusal :=
  .next (if tapOn s then dbgAccess (upsets s ups) dr else s)

end Sys2Proof.Machine
end

