-- ==== Sys2Proof/Machine/Counters.lean ====
section
/-! DEFINITION. The commands and events of the counter tree and of signal capture (chapter 17). -/

namespace Sys2Proof.Machine

/-! ## The roll engine -/

/-- One leaf of the walk; the page leaves roll as the walk ends (R502, R505, R514). -/
def rollWalk (s : State) : State :=
  let i := s.tel.walk
  let s := if i < 7680 then rollOne s i else s
  if i + 1 < 8192 then modTelBlk s fun t => { t with walk := i + 1 }
  else modTelBlk (rollPages s) fun t => { t with walk := 0, walkEndUs := s.nowUs }

def execRollLeaf (ups : List Upset) (s : State) : Host.Outcome State Fault Refusal :=
  .next (if s.clk.domainsOn then rollWalk (upsets s ups) else upsets s ups)

/-- A leaf at 0x8000 is rolled ahead of the walk (R503), while the TEL domain runs. -/
def execEarlyRoll (root : Nat) (s : State) : Host.Outcome State Fault Refusal :=
  atUnit (decide (root < 7680))
    (if s.clk.domainsOn ∧ 32768 ≤ mapGet s.tel.leaves 0 root then rollOne s root else s)

/-! ## Reading and clearing (R508, R514) -/

/-- Roots that the VF of job j may read. -/
def vfRoot (s : State) (j i : Nat) : Bool :=
  (decide (3200 + 16 * j ≤ i) && decide (i ≤ 3215 + 16 * j))
    || (decide (6044 + 4 * j ≤ i) && decide (i ≤ 6047 + 4 * j))
    || (decide (3328 ≤ i) && decide (i < 3712) && (masonOf s ((i - 3328) / 2)).job == some j)

/-- The 16-byte head: the time at which the last walk ended. -/
def telHead (s : State) : List Byte := leBytes 8 s.tel.walkEndUs ++ List.replicate 8 0

/-- CMD_TEL_READ: at most 28 records inline, more by list. -/
def execCmdTelRead (h : Hdr) (first count : Nat) (b : Bulk) (s : State) :
    Host.Outcome State Fault Refusal :=
  .next (runCmd s h 0x0901 .both false fun _ =>
    let is := (List.range count).map (first + ·)
    if h.fn ≠ 0 ∧ !is.all (vfRoot s (h.fn - 1)) then fail s h 0x0901 .noRights
    else if !rangeOk first count 8192 8192 then fail s h 0x0901 .badParam
    else
      let s := each is checkRoot s
      if count ≤ 28 then answer s h 0x0901 (telHead s ++ is.flatMap (rootRecord s))
      else bulkOut s h 0x0901 b (telHead s :: is.map (rootRecord s)))

/-- Pages under a cleared branch node unfreeze, unless their own node is INVALID (R185). -/
def unfreezeUnder (s : State) (b : Nat) : State :=
  each (s.mem.ppt.filter (fun e => e.1 / 256 == b && e.2.frozen && !nodeInvalid s e.1)) (fun s e =>
    freezePage false s e.1) s

def clearRoot (s : State) (i : Nat) : State :=
  let s := setRoot s i {}
  if 7680 ≤ i then unfreezeUnder s (i - 7680) else s

def execCmdTelClear (h : Hdr) (first count : Nat) (s : State) : Host.Outcome State Fault Refusal :=
  .next (runCmd s h 0x0902 .pf0 false fun _ =>
    if !rangeOk first count 8192 8192 then fail s h 0x0902 .badParam
    else answer (each ((List.range count).map (first + ·)) clearRoot s) h 0x0902 [])

/-! ## Capture (R515–R522) -/

/-- A tap names a state-file bit of the job (R515, Table 17-3). -/
def tapOk (x : Job) (t : Tap) : Bool :=
  decide (t.vt < (x.image.map (·.vtCount)).getD 0) && decide (t.brick < 512) && decide (t.cell < 32)
    && decide (t.course < x.desc.courseCount) && decide (t.bit < 3)

/-- No tile carries more than 2,048 taps. -/
def tapsSpread (ts : List Tap) : Bool :=
  (ts.map (·.vt)).eraseDups.all fun v => decide ((ts.filter fun t => t.vt == v).length ≤ 2048)

/-- The parameters of R517 that are checked for ST_BAD_PARAM. -/
def capCfgOk (s : State) (j : Nat) (c : CapCfg) : Bool :=
  let x := jobOf s j
  decide (c.taps.length ≤ 65536) && c.taps.all (tapOk x) && tapsSpread c.taps
    && c.ringBytes % 1048576 == 0 && decide (c.pre < 2 ^ 32) && decide (c.post < 2 ^ 32)
    && decide (1 ≤ c.every) && decide (c.every ≤ 65535) && decide (1 ≤ c.n) && decide (c.n ≤ 65535)
    && decide (c.cmps.length ≤ 4) && c.cmps.all (fun e => decide (e.window < 1024))
    && (c.trigMask &&& ~~~(grantedPins s j)) == 0
    && decide (c.pre + c.post + 1 ≤ capRoom c)

/-- Ring shares of the other jobs. -/
def capBytes (s : State) (j : Nat) : Nat :=
  ((List.range 8).filter (· != j)).foldl (fun n k => n + (jobOf s k).capture.cfg.ringBytes) 0

/-- The capture writes records. -/
def capOn (c : Capture) : Bool := c.st == .armed || c.st == .triggered

def setCapture (s : State) (j : Nat) (f : Capture → Capture) : State :=
  modJob s j fun x => { x with capture := f x.capture }

def execCmdCaptureCfg (h : Hdr) (c : CapCfg) (s : State) : Host.Outcome State Fault Refusal :=
  .next (runCmd s h 0x0903 .both true fun j =>
    if capOn (jobOf s j).capture then fail s h 0x0903 .wrongState
    else if !capCfgOk s j c then fail s h 0x0903 .badParam
    else if s.mem.regions.capture * 1048576 < capBytes s j + c.ringBytes then
      fail s h 0x0903 .noResource
    else answer (setCapture s j fun _ => { cfg := c }) h 0x0903 [])

/-- Arming starts a new capture of a configured job. -/
def execCmdCaptureCtlArm (h : Hdr) (s : State) : Host.Outcome State Fault Refusal :=
  .next (runCmd s h 0x0904 .both true fun j =>
    let c := (jobOf s j).capture
    if capOn c || c.cfg.ringBytes == 0 then fail s h 0x0904 .wrongState
    else answer (setCapture s j fun c => { cfg := c.cfg, st := .armed }) h 0x0904 [])

/-- The command trigger matches in a named user cycle, or in the next one (R518). -/
def execCmdCaptureCtlTrigger (h : Hdr) (atCycle : Word) (s : State) :
    Host.Outcome State Fault Refusal :=
  .next (runCmd s h 0x0904 .both true fun j =>
    let x := jobOf s j
    if x.capture.st != .armed then fail s h 0x0904 .wrongState
    else answer (setCapture s j fun c =>
      { c with cmdAt := some (if atCycle = 0 then firstCycle x else atCycle) }) h 0x0904 [])

/-- A stopped capture is DONE with what it holds. -/
def execCmdCaptureCtlStop (h : Hdr) (s : State) : Host.Outcome State Fault Refusal :=
  .next (runCmd s h 0x0904 .both true fun j =>
    if !capOn (jobOf s j).capture then fail s h 0x0904 .wrongState
    else
      let s := setCapture s j fun c => if c.st == .triggered then capDone c else { c with st := .done }
      emitJob (answer s h 0x0904 []) 0x0D04 j [])

/-- Disarmed: IDLE, without records; the configuration stays. -/
def execCmdCaptureCtlDisarm (h : Hdr) (s : State) : Host.Outcome State Fault Refusal :=
  .next (runCmd s h 0x0904 .both true fun j =>
    answer (setCapture s j fun c => { cfg := c.cfg }) h 0x0904 [])

def execCmdCaptureRead (h : Hdr) (b : Bulk) (s : State) : Host.Outcome State Fault Refusal :=
  .next (runCmd s h 0x0905 .both true fun j =>
    let c := (jobOf s j).capture
    if capOn c then fail s h 0x0905 .wrongState
    else if lp5xBad s then fail s h 0x0905 .hwFault
    else bulkOut s h 0x0905 b (c.records.map (capRecOut j)))

end Sys2Proof.Machine
end

