-- ==== Sys2Proof/Machine/Courses.lean ====
section
/-! DEFINITION. Courses and user cycles: what each sequencer, trowel and refresh event does. -/

namespace Sys2Proof.Machine

/-- The first sample for a boundary: words are set aside, and go is sent or the job holds (R81, R92).
With go sent for the next boundary, the sample is that of a later one, as far ahead as the sample point
of a static course shorter than 8 fabric cycles lies; when a cause is pending there, that boundary is
sampled again once it is the next. -/
def execSequencerSample (job cycles : Nat) (ups : List Upset) (s : State) :
    Host.Outcome State Fault Refusal :=
  .next (
    let x := jobOf s job
    if !seqOn s x || !active x || x.endDone || x.charge != 0 || atB x then s
    else if x.go then
      (if sampleAhead x && (causesAhead s job (x.ahead + 1) cycles).isEmpty then
        modJob (upsets s ups) job fun y => { y with ahead := y.ahead + 1 }
       else upsets s ups)
    else
      let s := upsets s ups
      let s := setAsides (frameFaults (jobNet s job) job s) job
      match pendingCauses s job cycles with
      | [] => modJob s job fun y => { y with go := true }
      | cs => holdFor s job cs)

/-- A further sample while held: the stretch since the last one is counted against the cause of highest
priority that was pending (R89); when no cause is left the course ends 8 fabric cycles later, or, after
its end, a command hold due at the boundary is taken (R86, R88), or the swap follows. -/
def execBoundaryConditionsMet (job cycles waited : Nat) (ups : List Upset) (s : State) :
    Host.Outcome State Fault Refusal :=
  .next (
    let x := jobOf s job
    if !seqOn s x || (x.state == .stopped && x.replay.isNone) || x.go
        || (x.charge == 0 && !x.endDone) || atB x then s
    else
      let s := if x.charge = 0 then s else leafAdd s (leafJob job (x.charge - 1)) waited
      let s := upsets s ups
      let s := if x.endDone then s else frameFaults (jobNet s job) job s
      let s := setAsides s job
      match pendingCauses s job cycles with
      | [] =>
        if !active (jobOf s job) then s
        else if x.endDone then
          (if atCommit x && holdDue (jobOf s job) x.cycle then enterHold s job else doSwap s job)
        else modJob s job fun y => { y with go := true, waits := 0, charge := 0 }
      | cs => holdFor s job cs)

/-- The end of a course (R67): see `courseEffects` and `courseDone`. -/
def execCourseEnd (job : Nat) (trig : BitVec 16) (ups : List Upset) (s : State) :
    Host.Outcome State Fault Refusal :=
  .next (
    let x := jobOf s job
    if !seqOn s x || !active x || !x.go || x.endDone || atB x
        || !(x.desc.static || allSwap s job) then s
    else
      let blocked := mayBlock s job
      courseDone (courseEffects (upsets s ups) job trig) job x blocked)

/-- The verdict on the pending course's preload, or on a load's start-up preload (R141, R145). -/
def execTrowelVerdict (job : Nat) (ups : List Upset) (s : State) :
    Host.Outcome State Fault Refusal :=
  .next (
    let x := jobOf s job
    if s.pwr.state == .ready && s.clk.domainsOn && startupDue s job then verdict (upsets s ups) job 0
    else if seqOn s x && x.state != .stopped && !x.desc.static && preloadDue s job then
      verdict (upsets s ups) job (nextCourse x)
    else s)

/-- Corrected entries of a brick are written back to its store (R156). -/
def execStoreWriteback (tile brick : Nat) (s : State) : Host.Outcome State Fault Refusal :=
  atUnit (decide (tile < 400)) (modTile s tile fun t =>
    { t with store := (t.storeWb.filter fun e => e.1 / 320 == brick).foldl
               (fun m e => mapPut m 0 e.1 e.2) t.store,
             storeWb := t.storeWb.filter fun e => e.1 / 320 != brick })

/-- The preload of static mode, checked as any other (R79, R142). -/
def execStaticPreload (job : Nat) (ups : List Upset) (s : State) :
    Host.Outcome State Fault Refusal :=
  .next (
    let x := jobOf s job
    if seqOn s x && x.state != .stopped && x.desc.static && !relocsWait s job
        && (x.rewriting || !(x.faults.any actionable || x.faults.contains .dieReset)) then
      verdict (upsets s ups) job 0
    else s)

/-- A refresh sweep is due (R94). -/
def execRefreshTimerExpiry (job : Nat) (s : State) : Host.Outcome State Fault Refusal :=
  .next (if seqOn s (jobOf s job) then modJob s job fun x => { x with sweepDue := true } else s)

/-- The sweep runs at the boundary where the job holds for it, or at once while the job is held
(R94, R143, R151). -/
def execRefreshSweep (job : Nat) (ups : List Upset) (s : State) :
    Host.Outcome State Fault Refusal :=
  .next (
    let x := jobOf s job
    if !seqOn s x || !x.sweepDue
        || !(x.waits.getLsbD 1 || x.capturing.isSome || x.state == .stopped
             || (x.replay.isNone && (x.state == .heldCmd || x.state == .heldFault))) then s
    else
      let s := modJob (upsets s ups) job fun y =>
        { y with sweepDue := false, sweepRun := true, waits := y.waits ||| 2 }
      each (jobTiles s job) (sweepTile job x.desc.courseCount) s)

/-- The sweep ends, and W_SWEEP with it unless a clock change holds the job at the same priority; the
boundary is sampled again. -/
def execRefreshSweepEnd (job : Nat) (s : State) : Host.Outcome State Fault Refusal :=
  .next (modJob s job fun x =>
    { x with sweepRun := false, waits := if x.clockHold then x.waits else x.waits &&& ~~~2 })

/-- A holding sweep of a tile that is being written reads every row written so far: the rows keep what
they hold, nothing is compared, no job is held, and the sweep's own timer starts again (R97). -/
def execHoldingSweep (tile : Nat) (s : State) : Host.Outcome State Fault Refusal :=
  atUnit (decide (tile < 400))
    (if (tileOf s tile).holding && s.clk.domainsOn then modTile s tile fun t => { t with holdUs := s.nowUs }
     else s)

/-- Belic firmware's part of a fault hold (Table 5-2, R157, R159, R161). -/
def execFaultHoldHandling (job : Nat) (goldenBad : Bool) (s : State) :
    Host.Outcome State Fault Refusal :=
  .next (if faultHeld s (jobOf s job) then handleFaults s job goldenBad else s)

/-- Entries older than 1 s leave the list (R153). -/
def execMismatchListExpiry (s : State) : Host.Outcome State Fault Refusal :=
  .next (modSprBlk s fun m => { m with mismatches := freshList s })

/-- Every brick of a tile reads the next entry of its store (R158). -/
def execStoreSweepRead (tile : Nat) (ups : List Upset) (s : State) :
    Host.Outcome State Fault Refusal :=
  atUnit (decide (tile < 400)) (
    let s := upsets s ups
    let x := tileOf s tile
    if trwStopped x || !(trwVote x).getLsbD 11 then s
    else
      let s := each (List.range 512) (sweepEntry tile x.sweepPos) s
      modTile s tile fun t => { t with sweepPos := (x.sweepPos + 1) % 320 })

/-- Belic firmware compares every voted register with its record (R159). -/
def execTrwRegisterAudit (ups : List Upset) (s : State) : Host.Outcome State Fault Refusal :=
  .next (each (List.range 400) auditTile (upsets s ups))

/-- The vote of a fabric cycle in which one copy differs (R159). -/
def execVoteFix (tile : Nat) (ups : List Upset) (s : State) : Host.Outcome State Fault Refusal :=
  atUnit (decide (tile < 400)) (checkVote (upsets s ups) tile)

/-- The vote of a fabric cycle in which two copies differ (R160). -/
def execTrowelStop (tile : Nat) (ups : List Upset) (s : State) : Host.Outcome State Fault Refusal :=
  atUnit (decide (tile < 400)) (checkVote (upsets s ups) tile)

end Sys2Proof.Machine
end

