-- ==== Sys2Proof/Machine/Hods.lean ====
section
/-! DEFINITION. The commands and events of hods and of their host windows (chapter 8). -/

namespace Sys2Proof.Machine

/-! ## Creation -/

/-- The bound on virtual tiles of a job's endpoints and stream entries: its image's count, the count
of a load that has passed step 2b, otherwise 384 (R246, R355). -/
def vtLimit (s : State) (j : Nat) : Nat :=
  match s.load with
  | some l =>
    if l.job = j ∧ l.stage ≠ .header ∧ l.stage ≠ .descriptor then l.vtCount
    else match (jobOf s j).image with | some i => i.vtCount | none => 384
  | none => match (jobOf s j).image with | some i => i.vtCount | none => 384

/-- An endpoint field of Table 8-3 is in range for its kind. -/
def endpointOk (s : State) (j kind ep : Nat) : Bool :=
  match kind with
  | 1 => decide (ep < 2048) && decide (ep % 512 < vtLimit s j)
  | 3 => ep == 0 || ep == j + 1
  | 4 => decide (ep < 1024)
  | 0 => ep == 0
  | 2 => ep == 0
  | 5 => ep == 0
  | _ => false

/-- The msix field (R448): checked only with a host-window endpoint. -/
def msixOk (p : HodParams) : Bool :=
  let vf := (p.prodKind == 3 && p.prodEp != 0) || (p.consKind == 3 && p.consEp != 0)
  if p.prodKind ≠ 3 ∧ p.consKind ≠ 3 then true
  else decide (16 ≤ p.msix) && decide (p.msix ≤ if vf then 255 else 2047)

/-- A tile port is bound in the same direction already (R246). -/
def portTaken (s : State) (j : Nat) (p : HodParams) : Bool :=
  (p.prodKind == 1 && (portProduces s j (p.prodEp % 512) (p.prodEp / 512)).isSome)
  || (p.consKind == 1 && (portConsumes s j (p.consEp % 512) (p.consEp / 512)).isSome)

/-- The checks of R245 and R246. -/
def hodParamsOk (s : State) (j : Nat) (p : HodParams) : Bool :=
  decide (4 ≤ p.sizeLog2) && decide (p.sizeLog2 ≤ 16)
    && endpointOk s j p.prodKind p.prodEp && endpointOk s j p.consKind p.consEp
    && (!p.blocking || p.consKind == 1) && (!p.palletSrc || p.consKind == 2)
    && decide (1 ≤ p.highWm) && decide (p.highWm ≤ 2 ^ p.sizeLog2)
    && decide (p.lowWm < 2 ^ p.sizeLog2) && msixOk p && !portTaken s j p

def execCmdHodCreate (h : Hdr) (p : HodParams) (s : State) : Host.Outcome State Fault Refusal :=
  .next (runCmd s h 0x0601 .both true fun j =>
    if !hodParamsOk s j p then fail s h 0x0601 .badParam
    else match freeHodId s, freeBlock s (2 ^ p.sizeLog2) with
      | some id, some base =>
        let s := setHod s id { valid := true, job := j, p := p, base := base }
        answer (grantCredits s id) h 0x0601 (leBytes 2 id)
      | _, _ => fail s h 0x0601 .noResource)

/-- The hod that a command names: it exists, and a VF's job owns it. -/
def hodCheck (s : State) (h : Hdr) (hod : Nat) : Option St :=
  let x := hodOf s hod
  if !x.valid then some .badParam
  else if h.fn ≠ 0 ∧ x.job ≠ h.fn - 1 then some .noRights
  else none

/-- A tile port of the hod belongs to a job in STATE 1, 2 or 3 (R247). -/
def hodPortBusy (s : State) (x : Hod) : Bool :=
  (x.p.prodKind == 1 || x.p.consKind == 1) && !jobQuiet s x.job

def execCmdHodDestroy (h : Hdr) (hod : Nat) (s : State) : Host.Outcome State Fault Refusal :=
  .next (runCmd s h 0x0602 .both false fun _ =>
    match hodCheck s h hod with
    | some st => fail s h 0x0602 st
    | none =>
      if hodPortBusy s (hodOf s hod) then fail s h 0x0602 .wrongState
      else answer (hodDestroy s hod) h 0x0602 [])

def execCmdHodFlush (h : Hdr) (hod : Nat) (s : State) : Host.Outcome State Fault Refusal :=
  .next (runCmd s h 0x0603 .both false fun _ =>
    match hodCheck s h hod with
    | some st => fail s h 0x0603 st
    | none => answer (hodFlush s hod) h 0x0603 [])

/-- Descriptor, flags and statistics (R279; log 19). -/
def hodReport (x : Hod) : List Byte :=
  leBytes 16 (hodDesc x) ++ leBytes 8 (hodStatus x) ++ leBytes 8 x.maxDepth ++ leBytes 8 x.itemCount
    ++ leBytes 8 x.sumWait ++ leBytes 8 x.maxWait

def execCmdHodQuery (h : Hdr) (hod : Nat) (s : State) : Host.Outcome State Fault Refusal :=
  .next (runCmd s h 0x0606 .both false fun _ =>
    match hodCheck s h hod with
    | some st => fail s h 0x0606 st
    | none => answer s h 0x0606 (hodReport (hodOf s hod)))

def execCmdHodQueryClear (h : Hdr) (hod : Nat) (s : State) : Host.Outcome State Fault Refusal :=
  .next (runCmd s h 0x0606 .both false fun _ =>
    match hodCheck s h hod with
    | some st => fail s h 0x0606 st
    | none =>
      let x := hodOf s hod
      answer (setHod s hod { x with maxDepth := hodDepth x, itemCount := 0, sumWait := 0, maxWait := 0 })
        h 0x0606 (hodReport x))

/-! ## Words -/

/-- A word from any producer; one that is not the hod's producer is ignored. -/
def execHodPushWord (src : Agent) (hod : Nat) (start last : Bool) (prio : Nat) (data : Word)
    (poison : Bool) (s : State) : Host.Outcome State Fault Refusal :=
  atUnit (decide (hod < 32768))
    (if isProducer s (hodOf s hod) src then (hodPushWord s hod src start last prio data poison).2
    else s)

/-- A host write to a push register (R263, R264): 8 bytes, from the producer function, with the link
up. -/
def hostPush (s : State) (fn hod size : Nat) (start last : Bool) (value : Word) : State :=
  let x := hodOf s hod
  if !s.hif.linkUp || size != 8 || !isProducer s x (.host fn) then s
  else
    let (r, s) := hodPushWord s hod (.host fn) start last x.pushPrio value false
    modHod s hod fun x => { x with lastResult := r }

def execHodPushMid (fn hod size : Nat) (value : Word) (s : State) :
    Host.Outcome State Fault Refusal :=
  atUnit (decide (fn ≤ 8) && decide (hod < 32768)) (hostPush s fn hod size false false value)

def execHodPushFirst (fn hod size : Nat) (value : Word) (s : State) :
    Host.Outcome State Fault Refusal :=
  atUnit (decide (fn ≤ 8) && decide (hod < 32768)) (hostPush s fn hod size true false value)

def execHodPushLast (fn hod size : Nat) (value : Word) (s : State) :
    Host.Outcome State Fault Refusal :=
  atUnit (decide (fn ≤ 8) && decide (hod < 32768)) (hostPush s fn hod size false true value)

def execHodPushOnly (fn hod size : Nat) (value : Word) (s : State) :
    Host.Outcome State Fault Refusal :=
  atUnit (decide (fn ≤ 8) && decide (hod < 32768)) (hostPush s fn hod size true true value)

/-- A host read of HOD_POP: the next word, or zero; another function's read leaves HOD_POP_TAG
alone (R263, R264). -/
def hostPop (s : State) (fn hod : Nat) (ups : List Upset) : State :=
  let s := upsets s ups
  if !s.hif.linkUp then s
  else if !isConsumer s (hodOf s hod) (.host fn) then emitOut s (.cpl 0 (leBytes 8 0))
  else
    let (w, s) := hodPopWord s hod (.host fn)
    let s := modHod s hod fun x => { x with popTag := wordTag w }
    emitOut s (.cpl 0 (leBytes 8 (match w with | some w => w.data.toNat | none => 0)))

def execHodPop (fn hod : Nat) (ups : List Upset) (s : State) : Host.Outcome State Fault Refusal :=
  atUnit (decide (fn ≤ 8) && decide (hod < 32768)) (hostPop s fn hod ups)

/-- A function that may clear a hod's flags and flush it: its producer, its consumer, PF0; its window
lies in the BAR2 of PF0 and of the owning job's VF. -/
def hodControls (s : State) (fn hod : Nat) : Bool :=
  let x := hodOf s hod
  s.hif.linkUp && x.valid
    && (fn == 0 || (x.job + 1 == fn && (isProducer s x (.host fn) || isConsumer s x (.host fn))))

def execHodCtlFlush (fn hod : Nat) (s : State) : Host.Outcome State Fault Refusal :=
  atUnit (decide (fn ≤ 8) && decide (hod < 32768))
    (if hodControls s fn hod then hodFlush s hod else s)

end Sys2Proof.Machine
end

