-- ==== Sys2Proof/Machine/HostOps.lean ====
section
/-! DEFINITION. The host side as operations: mailboxes and the checks of R454, event rings, register
writes by access code (R7, Tables 15-4 to 15-8, 8-8, 8-9), the end of a job (R470). -/

namespace Sys2Proof.Machine

/-! ## Mailboxes (R452–R455) -/

/-- Mailboxes of a function; recovery brings up mailbox 0 of PF0 alone (Table 15-3, R474). -/
def hasMbx (s : State) (fn m : Nat) : Bool :=
  s.hif.linkUp && (if s.fw.recovery then fn == 0 && m == 0 else decide (m < if fn = 0 then 4 else 2))

/-- A doorbell with bit 0 set (R452). -/
def ringDoorbell (s : State) (fn m : Nat) : State :=
  let b := mbxOf s fn m
  if !hasMbx s fn m then s
  else if b.busy || b.done then modMbx s fn m fun b => { b with ignored := true }
  else
    modHifBlk (modMbx s fn m fun b => { b with copy := b.req, busy := true }) fun h =>
      { h with submitted := h.submitted ++ [(fn, m)] }

/-- The host frees the mailbox. DESIGN CHOICE (log 87): TIMED_OUT clears with DONE; no rule says when it does. -/
def clearDone (s : State) (fn m : Nat) : State :=
  if hasMbx s fn m then modMbx s fn m fun b => { b with done := false, timedOut := false } else s

/-- Each opcode of Table 15-9 with the functions that it is open to and whether it names a job that
must exist. -/
def commandTable : List (Nat × From × Bool) :=
  [(0x0101, .any, false), (0x0102, .pf0, false), (0x0103, .pf0, false), (0x0104, .both, true),
   (0x0105, .pf0, false), (0x0110, .pf0, false), (0x0111, .pf0, false), (0x0201, .pf0, false),
   (0x0202, .pf0, false), (0x0203, .pf0, false), (0x0210, .pf0, false), (0x0211, .pf0, false),
   (0x0212, .pf0, false), (0x0301, .pf0, true), (0x0302, .pf0, false), (0x0303, .pf0, true),
   (0x0304, .pf0, false), (0x0401, .both, true), (0x0402, .both, true), (0x0403, .both, true),
   (0x0404, .both, true), (0x0405, .pf0, true)]
  ++
  [(0x0501, .pf0, true), (0x0502, .pf0, true), (0x0503, .both, false), (0x0504, .pf0, false),
   (0x0505, .both, false), (0x0506, .pf0, false), (0x0507, .pf0, false), (0x0508, .pf0, false),
   (0x0509, .pf0, false), (0x050A, .both, true), (0x050B, .pf0, false), (0x050C, .pf0, false),
   (0x050D, .pf0, false), (0x050E, .both, true), (0x050F, .pf0, false), (0x0601, .both, true),
   (0x0602, .both, false), (0x0603, .both, false), (0x0604, .both, true), (0x0605, .both, true),
   (0x0606, .both, false), (0x0607, .pf0, false), (0x0608, .both, true), (0x0609, .pf0, false),
   (0x060A, .both, true), (0x060B, .both, false), (0x060C, .both, true)]
  ++
  [(0x0701, .pf0, false), (0x0702, .pf0, false), (0x0703, .pf0, false), (0x0704, .pf0, false),
   (0x0705, .pf0, false), (0x0706, .pf0, false), (0x0707, .pf0, false), (0x0708, .pf0, true),
   (0x0709, .pf0, true), (0x070A, .both, true), (0x070B, .both, true), (0x070C, .pf0, true),
   (0x070D, .both, true), (0x0801, .pf0, false), (0x0802, .pf0, false), (0x0803, .pf0, false),
   (0x0804, .pf0, false), (0x0901, .both, false), (0x0902, .pf0, false), (0x0903, .both, true),
   (0x0904, .both, true), (0x0905, .both, true), (0x0920, .pf0, false), (0x0921, .pf0, false),
   (0x0922, .pf0, false), (0x0A01, .pf0, false), (0x0A02, .pf0, true)]

/-- The header of a request message (Table 15-5). -/
def hdrOf (fn m req : Nat) : Hdr :=
  { fn := fn, mbx := m, tag := BitVec.ofNat 16 (field req 31 16), job := field req 71 64 }

/-- The checks of R454 that need no parameter of the command: the first that fails. -/
def requestCheck (s : State) (h : Hdr) (op len : Nat) : Option St :=
  if s.fw.recovery ∧ op ≠ 0x0101 ∧ op ≠ 0x0110 then some .wrongState
  else match commandTable.find? (fun e => e.1 == op) with
    | none => some .badOpcode
    | some (_, who, need) =>
      if 240 < len then some .badLength else headCheck s h op who need

/-- Belic firmware takes the command whose doorbell came first (R453, R454). -/
def takeCommand (s : State) : State :=
  match s.hif.submitted with
  | [] => s
  | (fn, m) :: rest =>
    let s := modHifBlk s fun h => { h with submitted := rest }
    let req := (mbxOf s fn m).copy.toNat
    match requestCheck s (hdrOf fn m req) (field req 15 0) (field req 47 32) with
    | some st => fail s (hdrOf fn m req) (field req 15 0) st
    | none => s

/-- 100 ms without a response (R455). -/
def mbxTimeout (s : State) (fn m : Nat) : State :=
  let b := mbxOf s fn m
  if !b.busy || b.late then s
  else
    let req := b.copy.toNat
    let h := hdrOf fn m req
    emitOut (modMbx s fn m fun b =>
      { b with rsp := BitVec.ofNat 2048 (leNat (rspBytes (field req 15 0) h.tag .timeout h.job [])),
               busy := false, done := true, timedOut := true, late := true }) (.msix fn 1)

/-! ## Event rings (R464–R466) -/

/-- EN written from 0 to 1. -/
def enableRing (s : State) (fn : Nat) : State :=
  let r := ringOf s fn
  if r.en then s
  else setRing s fn { r with en := true, head := 0, tail := 0, lost := 0, lostSince := 0, phase := true,
                             waiting := false, running := false }

/-- A TAIL write; EV_RING_OVERFLOW follows when records have been lost. -/
def writeTail (s : State) (fn : Nat) (v : Nat) : State :=
  let r := ringOf s fn
  ringOverflow (setRing s fn { r with tail := v % 2 ^ r.log2 }) fn

/-- A coalescing interval ends; what has been written in it is signalled, which begins another. -/
def coalesceEnd (s : State) (fn : Nat) : State :=
  let r := ringOf s fn
  if !r.running then s
  else if r.waiting then
    setRing (emitOut s (.msix fn 0)) fn { r with waiting := false, running := decide (r.coalesce ≠ 0) }
  else setRing s fn { r with running := false }

/-! ## Register writes (R7, R451) -/

/-- Value and mask of a write within its aligned 8 bytes. -/
def lane64 (offset size : Nat) (v : BitVec 64) : BitVec 64 × BitVec 64 :=
  let sh := 8 * (offset % 8)
  let m : BitVec 64 := BitVec.ofNat 64 (2 ^ (8 * size) - 1) <<< sh
  ((v <<< sh) &&& m, m)

/-- A register with the bytes of a write in it. -/
def merge64 (old : BitVec 64) (w : BitVec 64 × BitVec 64) : BitVec 64 := (old &&& ~~~w.2) ||| w.1

/-- Bits of MBX_REQ that hold a field: bytes 7 and 9–15 are reserved (Table 15-5, R5). -/
def reqFields : BitVec 2048 := ~~~(0xFF00000000000000#2048 ||| 0xFFFFFFFFFFFFFF000000000000000000#2048)

/-- Mailbox m, offset o (Table 15-4). MBX_RSP is read-only. -/
def writeMbx (s : State) (fn m o size : Nat) (v : BitVec 64) : State :=
  let w := lane64 o size v
  if o < 0x100 then
    modMbx s fn m fun b =>
      let msk := BitVec.setWidth 2048 w.2 <<< (8 * (o - o % 8))
      { b with req := ((b.req &&& ~~~msk) ||| (BitVec.setWidth 2048 w.1 <<< (8 * (o - o % 8)))) &&& reqFields }
  else if o = 0x200 then if w.1.getLsbD 0 then ringDoorbell s fn m else s
  else if o = 0x208 then
    let s := if w.1.getLsbD 1 then clearDone s fn m else s
    if w.1.getLsbD 2 then modMbx s fn m fun b => { b with ignored := false } else s
  else s

/-- MBX_EVR_LOG2, EN and COALESCE (Table 15-7); BASE and LOG2 stand while EN is 1 (R465). -/
def writeRingCtl (s : State) (fn : Nat) (w : BitVec 64 × BitVec 64) : State :=
  let r := ringOf s fn
  let v := (merge64 (BitVec.ofNat 64 (r.log2 + b2n r.en * 32 + r.coalesce * 64)) w).toNat
  let n := field v 4 0
  let s := setRing s fn { r with
    log2 := if !r.en && decide (6 ≤ n) && decide (n ≤ 16) then n else r.log2,
    coalesce := field v 15 6 }
  if bitOf v 5 then enableRing s fn
  else setRing s fn { ringOf s fn with en := false, waiting := false, running := false }

/-- The event-ring registers, offset o from 0x1000. -/
def writeRing (s : State) (fn o size : Nat) (v : BitVec 64) : State :=
  let w := lane64 o size v
  let r := ringOf s fn
  if o / 8 = 0 then
    if r.en then s else setRing s fn { r with base := merge64 r.base w &&& ~~~0xFFF }
  else if o / 8 = 1 then writeRingCtl s fn w
  else if o / 8 = 3 ∧ w.2.getLsbD 0 then writeTail s fn (w.1.toNat % 65536)
  else s

/-- DMA channel c, offset o (Table 15-8, R468). -/
def writeDma (s : State) (fn c o size : Nat) (v : BitVec 64) : State :=
  let w := lane64 o size v
  let d := dmaOf s c
  if d.fn ≠ some fn then s
  else if o / 8 = 0 then
    if dmaActive d then s else modDma s c fun d => { d with base := merge64 d.base w }
  else if o / 8 = 1 then
    let n := field (merge64 (BitVec.ofNat 64 d.log2) w).toNat 4 0
    if dmaActive d || decide (n < 4) || decide (16 < n) then s
    else modDma s c fun d => { d with log2 := n }
  else if o / 8 = 2 then
    if w.2.getLsbD 0 then modDma s c fun d => { d with doorbell := w.1.toNat % 65536 % 2 ^ d.log2 } else s
  else if o / 8 = 3 ∧ w.1.getLsbD 18 ∧ d.stopped then
    modDma s c fun d => { d with stopped := false, next := (d.next + 1) % 2 ^ d.log2 }
  else s

/-- The MSI-X table: 32 KiB in PF0, 4 KiB in a VF, 8 bytes to a word of the state. -/
def writeMsix (s : State) (fn o size : Nat) (v : BitVec 64) : State :=
  modHifBlk s fun h =>
    let k := fn * 4096 + o / 8
    { h with msix := mapMod h.msix 0 k fun x => merge64 x (lane64 o size v) }

/-- BAR0 (Table 15-3): naturally aligned 4-byte and 8-byte writes. -/
def writeBar0 (s : State) (fn offset size : Nat) (v : BitVec 64) : State :=
  if !s.hif.linkUp || (size != 4 && size != 8) || offset % size != 0 then s
  else if offset < 0x1000 then
    if hasMbx s fn (offset / 0x400) then writeMbx s fn (offset / 0x400) (offset % 0x400) size v else s
  else if s.fw.recovery then s
  else if offset < 0x1080 then writeRing s fn (offset - 0x1000) size v
  else if 0x2000 ≤ offset ∧ offset < 0x2200 then
    writeDma s fn ((offset - 0x2000) / 0x40) (offset % 0x40) size v
  else if 0x8000 ≤ offset ∧ offset < (if fn = 0 then 0x10000 else 0x9000) then
    writeMsix s fn (offset - 0x8000) size v
  else s

/-- HOD_STATUS: OVERRUN, FLUSHED_PARTIAL and POISON_SEEN clear where a 1 is written (Table 8-8). -/
def writeHodStatus (s : State) (hod : Nat) (w : BitVec 64) : State :=
  modHod s hod fun x =>
    { x with overrun := x.overrun && !w.getLsbD 36, flushed := x.flushed && !w.getLsbD 37,
             poisonSeen := x.poisonSeen && !w.getLsbD 38 }

/-- A function has a window for a hod: PF0 for every one, VFn for those of job n − 1 (R263). -/
def hodWindow (s : State) (fn hod : Nat) : Bool :=
  s.hif.linkUp && (hodOf s hod).valid && (fn == 0 || (hodOf s hod).job + 1 == fn)

/-- BAR2 (Table 8-6). -/
def writeBar2 (s : State) (fn offset size : Nat) (v : BitVec 64) : State :=
  let hod := offset / 64
  let w := lane64 offset size v
  if (size != 4 && size != 8) || offset % size != 0 then s
  else match offset % 64 / 8 with
    | 0 => hostPush s fn hod size false false v
    | 1 => hostPush s fn hod size true false v
    | 2 => hostPush s fn hod size false true v
    | 3 => hostPush s fn hod size true true v
    | 6 => if hodControls s fn hod then writeHodStatus s hod w.1 else s
    | 7 =>
      let s := if hodWindow s fn hod && w.2.getLsbD 0 then
          modHod s hod fun x => { x with pushPrio := w.1.toNat % 8 }
        else s
      if w.1.getLsbD 3 && hodControls s fn hod then hodFlush s hod else s
    | _ => s

/-! ## The end of a job (R470) -/

/-- Accepted commands of a job that nothing will complete any more. -/
def failOutstanding (s : State) (j : Nat) : State :=
  let mine := s.hif.accepted.filter fun a =>
    namedJob a.hdr == j && [0x0401, 0x0404, 0x070A, 0x070B].contains a.opcode
  each mine (fun s a => complete (dropAccOf s a.opcode a.hdr) a.hdr a.opcode
    (if a.opcode = 0x070A then 0x0A04 else 0x0E02) .badJob []) s

/-- Step 1: the load, a capture and a replay of the job end. -/
def endJobWork (s : State) (j : Nat) : State :=
  let s := match s.load with
    | some l => if l.job = j then failLoad s .badJob else s
    | none => s
  let s := failCapture s j 0
  let s := failOutstanding s j
  modJob s j fun x => { x with replay := none, queued := [], state := .stopped }

/-- Relocations of the job end with it; a tile on its way out retires unbound. -/
def dropRelocs (s : State) (j : Nat) : State :=
  let rs := relocsOf s j
  let s := modSprBlk s fun m => { m with reloc := m.reloc.filter (fun r => r.job != j) }
  each rs (fun s r =>
    let s := if r.copied then s else modTile s r.dst fun x => { x with reserved := false }
    if r.retire then tileRetired s r.src r.reason 0xFF 0xFFFF 0xFFFF else s) s

/-- Steps 2 and 3: tiles, hods, masons, streams, handlers and pins. -/
def freeUnits (s : State) (j : Nat) : State :=
  let s := each (jobTiles s j) (fun s e => clearTile s e.2) s
  let s := dropRelocs (dropEntries s j) j
  let s := each (hodsOfJob s j) hodDestroy s
  let s := each (masonsOfJob s j) (fun s m => unassignMason (resetMason s m) m) s
  let src := (originated s j).map (·.1)
  let con := (consumed s j).map (·.1)
  let s := modArrBlk (clearFlows s j) fun a =>
    { a with src := mapDrop a.src src.contains, srcRun := mapDrop a.srcRun src.contains,
             cons := mapDrop a.cons con.contains, consRun := mapDrop a.consRun con.contains,
             peers := a.peers.filter (fun p => p.1 != j),
             relayed := a.relayed.filter (fun p => p.1 != j) }
  let s := modPalBlk s fun p =>
    { p with handlers := mapDrop p.handlers (fun k => k / 256 == j),
             dispatched := mapDrop p.dispatched (fun k => k / 256 == j) }
  { s with trigPin := s.trigPin.filter fun e => e.2 != some j }

/-- Steps 4 and 5: pages, records, golden copy, checkpoints and the key. -/
def freeMemory (s : State) (j : Nat) : State :=
  let s := each (pagesOfJob s j) unmapPage s
  let s := match (jobOf s j).image with | some img => freeGolden s img | none => s
  let s := modLpBlk s fun l => { l with retainJobs := l.retainJobs &&& ~~~(BitVec.ofNat 8 (2 ^ j)) }
  updatePasr (setJob (dropRecords s j) j {})

/-- The whole of CMD_JOB_DESTROY after its answer. -/
def destroyJob (s : State) (j : Nat) : State :=
  let s := freeMemory (freeUnits (endJobWork s j) j) j
  if s.rst.faceBusy && s.rst.viasEmpty && (dieJobs s).isEmpty then dieDone s else s

end Sys2Proof.Machine
end

