-- ==== Sys2Proof/Machine/HostReads.lean ====
section
/-! DEFINITION. What a host read of a register of BAR0 or BAR2 returns, by its access code (R7, R263, R451, Tables
8-6 to 8-9 and 15-3 to 15-8). These reads change nothing; the one that does, of HOD_POP, is a command of its own. -/

namespace Sys2Proof.Machine

/-- MBX_FN_POWER (Table 15-7). -/
def fnPower (s : State) : Nat :=
  if s.fw.recovery then 4 else if s.pwr.state = .deepHold then 3 else readyKind s

/-- Eight aligned bytes of mailbox m (Table 15-4); MBX_DOORBELL reads as zero. -/
def readMbx (s : State) (fn m o : Nat) : Nat :=
  let b := mbxOf s fn m
  if o < 0x100 then b.req.toNat / 2 ^ (8 * o)
  else if o < 0x200 then b.rsp.toNat / 2 ^ (8 * (o - 0x100))
  else if o = 0x208 then b2n b.busy + b2n b.done * 2 + b2n b.ignored * 4 + b2n b.timedOut * 8
  else 0

/-- The event-ring and function registers (Table 15-7). -/
def readRing (s : State) (fn o : Nat) : Nat :=
  let r := ringOf s fn
  if o = 0 then r.base.toNat
  else if o = 8 then r.log2 + b2n r.en * 2 ^ 5 + r.coalesce * 2 ^ 6
  else if o = 0x10 then r.head + b2n r.phase * 2 ^ 16
  else if o = 0x18 then r.tail
  else if o = 0x20 then min r.lost (2 ^ 32 - 1)
  else if o = 0x40 then
    fnPower s + b2n (fn == 0 || (jobOf s (fn - 1)).created) * 2 ^ 3 + b2n (fn == 0 && !s.pwr.alertN) * 2 ^ 4
  else 0

/-- DMA channel c (Table 15-8): DOORBELL and RESTART read as zero, a channel of another function too. -/
def readDma (s : State) (fn c o : Nat) : Nat :=
  let d := dmaOf s c
  if d.fn ≠ some fn then 0
  else if o = 0 then d.base.toNat
  else if o = 8 then d.log2
  else if o = 0x18 then d.next + b2n (dmaActive d) * 2 ^ 16 + b2n d.stopped * 2 ^ 17
  else 0

/-- Eight aligned bytes of BAR0 (Table 15-3). The MSI-X pending bits read as zero: a vector is sent at once
(log 134). -/
def readBar0Word (s : State) (fn o : Nat) : Nat :=
  if o < 0x1000 then if hasMbx s fn (o / 0x400) then readMbx s fn (o / 0x400) (o % 0x400) else 0
  else if o < 0x1080 then
    if s.fw.recovery && o != 0x1040 then 0 else readRing s fn (o - 0x1000)
  else if s.fw.recovery then 0
  else if 0x2000 ≤ o ∧ o < 0x2200 then readDma s fn ((o - 0x2000) / 0x40) (o % 0x40)
  else if 0x8000 ≤ o ∧ o < (if fn = 0 then 0x10000 else 0x9000) then
    (mapGet s.hif.msix 0 (fn * 4096 + (o - 0x8000) / 8)).toNat
  else 0

/-- Eight aligned bytes of BAR2 (Table 8-6), HOD_POP apart: the push registers read as zero. -/
def readBar2Word (s : State) (fn o : Nat) : Nat :=
  let x := hodOf s (o / 64)
  if !hodWindow s fn (o / 64) then 0
  else match o % 64 / 8 with
    | 5 => x.popTag.toNat
    | 6 => hodStatus x
    | 7 => x.pushPrio % 8
    | _ => 0

/-- A naturally aligned read of 4 or 8 bytes out of the words of a BAR; any other reads zero (R451). -/
def readWindow (word : Nat → Nat) (up : Bool) (o size : Nat) : Nat :=
  if !up || (size != 4 && size != 8) || o % size != 0 then 0
  else word (o - o % 8) / 2 ^ (8 * (o % 8)) % 2 ^ (8 * size)

def readBar0 (s : State) (fn o size : Nat) : Nat := readWindow (readBar0Word s fn) s.hif.linkUp o size
def readBar2 (s : State) (fn o size : Nat) : Nat := readWindow (readBar2Word s fn) s.hif.linkUp o size

end Sys2Proof.Machine
end

