-- ==== Sys2Proof/Machine/HostIf.lean ====
section
/-! DEFINITION. The commands and events of the host interface (chapter 15): mailboxes, rings, resets of a
function, status, firmware, run control, jobs, and register writes. -/

namespace Sys2Proof.Machine

/-! ## Mailboxes and rings -/

def execMbxDoorbell (fn mbx : Nat) (value : BitVec 32) (s : State) :
    Host.Outcome State Fault Refusal :=
  atUnit (decide (fn ≤ 8)) (if value.getLsbD 0 then ringDoorbell s fn mbx else s)

def execMbxDoneClear (fn mbx : Nat) (s : State) : Host.Outcome State Fault Refusal :=
  atUnit (decide (fn ≤ 8)) (clearDone s fn mbx)

def execCommandTaken (s : State) : Host.Outcome State Fault Refusal := .next (takeCommand s)

def execMbxTimeout (fn mbx : Nat) (s : State) : Host.Outcome State Fault Refusal :=
  atUnit (decide (fn ≤ 8)) (mbxTimeout s fn mbx)

def execMbxEvrEnable (fn : Nat) (s : State) : Host.Outcome State Fault Refusal :=
  atUnit (decide (fn ≤ 8)) (if s.hif.linkUp then enableRing s fn else s)

def execMbxEvrTail (fn : Nat) (value : BitVec 16) (s : State) : Host.Outcome State Fault Refusal :=
  atUnit (decide (fn ≤ 8)) (if s.hif.linkUp then writeTail s fn value.toNat else s)

def execMbxEvrCoalesceExpiry (fn : Nat) (s : State) : Host.Outcome State Fault Refusal :=
  atUnit (decide (fn ≤ 8)) (coalesceEnd s fn)

def execRegisterWrite (fn offset size : Nat) (value : BitVec 64) (s : State) :
    Host.Outcome State Fault Refusal :=
  atUnit (decide (fn ≤ 8))
    (if offset < 0x200000 then writeBar0 s fn offset size value
     else if offset < 0x400000 then writeBar2 s fn (offset - 0x200000) size value else s)

/-! ## Function resets (R449) -/

def execFlrVf (fn : Nat) (s : State) : Host.Outcome State Fault Refusal :=
  atUnit (decide (1 ≤ fn) && decide (fn ≤ 8)) (flrVf s fn)

def execFlrPf0 (s : State) : Host.Outcome State Fault Refusal := .next (perstReset s)

/-! ## Device and status -/

def ordinalOf (s : State) : Nat := s.arr.ordinal.getD 0xFFFF

/-- Masons that have not failed (R311). -/
def usableMasons (s : State) : Nat := 192 - (s.msn.masons.filter fun e => e.2.st == .failed).length

def fwVersion (i : Option FwImage) : Nat := (i.map (·.version.toNat)).getD 0

def execCmdIdentify (h : Hdr) (s : State) : Host.Outcome State Fault Refusal :=
  .next (runCmd s h 0x0101 .any false fun _ =>
    answer s h 0x0101 (packFields
      [(2, 0x6532), (1, s.rst.stepping.toNat), (8, s.rst.serial.toNat), (4, fwVersion s.fw.slotA),
       (4, fwVersion s.fw.slotB), (1, b2n s.fw.runningB), (2, ordinalOf s), (2, allocable s),
       (2, usableMasons s), (1, h.fn)]))

def devStatus (s : State) : List Byte :=
  packFields ([(1, powerState s)] ++ ((List.range 8).map fun j => (1, jobStateCode (jobOf s j).state))
    ++ [(1, b2n !s.pwr.alertN)])

def execCmdDevStatus (h : Hdr) (s : State) : Host.Outcome State Fault Refusal :=
  .next (runCmd s h 0x0102 .pf0 false fun _ => answer s h 0x0102 (devStatus s))

/-- The state is reported as read before the clear (R472). -/
def execCmdDevStatusClearAlert (h : Hdr) (integrityNow : Bool) (s : State) :
    Host.Outcome State Fault Refusal :=
  .next (runCmd s h 0x0102 .pf0 false fun _ =>
    modPwrBlk (answer s h 0x0102 (devStatus s)) fun p => { p with alertN := !integrityNow })

/-- Tile Map word, FAB_TILE_FAULT, TRW_CTL and TRW_STATUS of a tile. DESIGN CHOICE (log 92): a tile that no valid
entry binds answers a zero word as its Tile Map entry. -/
def tileRecord (s : State) (t : Nat) : List Byte :=
  let x := tileOf s t
  let e := ((s.tileMap.find? fun e => e.2.valid && e.2.phys == t).map (·.2)).getD {}
  leBytes 4 (tmWord e) ++ leBytes 4 x.fault.toNat ++ leBytes 4 (trwVote x).toNat
    ++ leBytes 4 x.trwStatus.toNat

/-- Bits written as 1 clear: FAB_TILE_FAULT [2:0], TRW_STATUS [3:0] (R7). -/
def clearTileBits (faultMask trwMask : BitVec 32) (s : State) (t : Nat) : State :=
  modTile s t fun x =>
    { x with fault := x.fault &&& ~~~(faultMask &&& 7), trwStatus := x.trwStatus &&& ~~~(trwMask &&& 15) }

def execCmdTileStatus (h : Hdr) (first count : Nat) (faultMask trwMask : BitVec 32) (s : State) :
    Host.Outcome State Fault Refusal :=
  .next (runCmd s h 0x0103 .pf0 false fun _ =>
    if !rangeOk first count 400 15 then fail s h 0x0103 .badParam
    else
      let ts := (List.range count).map (first + ·)
      each ts (clearTileBits faultMask trwMask) (answer s h 0x0103 (ts.flatMap (tileRecord s))))

def execCmdJobStatus (h : Hdr) (s : State) : Host.Outcome State Fault Refusal :=
  .next (runCmd s h 0x0104 .both true fun j =>
    answer s h 0x0104 (packFields
      [(4, seqStatus (jobOf s j)), (8, (jobOf s j).cycle.toNat), (1, b2n (replaySafe s j)),
       (2, (grantedPins s j).toNat)]))

/-- CMD_EVENT_LOG: the records oldest first; the completion carries the lost count. -/
def execCmdEventLog (h : Hdr) (b : Bulk) (s : State) : Host.Outcome State Fault Refusal :=
  .next (runCmd s h 0x0105 .pf0 false fun _ =>
    match badBulk b with
    | some i => respond s h 0x0105 .badParam (leBytes 4 i)
    | none => accept s h 0x0105 [s.hif.logLost] fun s =>
        emitOut s (.records 0 (s.hif.log.map fun e => evRecord e.1 false e.2)))

/-- Bulk commands whose completion is their DMA's end. -/
def bulkOpcodes : List Nat := [0x0105, 0x0303, 0x0804, 0x0901, 0x0905, 0x0921, 0x070C]

def bulkDone (s : State) (opcode : Nat) (bad : Option Nat) : State :=
  match findAcc s opcode with
  | none => s
  | some a =>
    let s := dropAcc s opcode
    match bad with
    | some i => complete s a.hdr opcode 0x0E02 .badParam [(4, i)]
    | none => complete s a.hdr opcode 0x0E02 .ok
        (if opcode = 0x0105 then [(4, sat32 (listAt a.args 0 0))] else [])

/-- BULK_TRANSFER_DONE (R456); `bad` is the descriptor whose host access failed. A failed read of a
firmware image ends its update. -/
def execBulkTransferDone (opcode : Nat) (bad : Option Nat) (s : State) :
    Host.Outcome State Fault Refusal :=
  .next (
    if bulkOpcodes.contains opcode then bulkDone s opcode bad
    else match bad, s.fw.updating with
      | some i, some (h, _) =>
        if opcode = 0x0110 then
          complete (dropAccOf (modFwBlk s fun f => { f with updating := none }) 0x0110 h) h 0x0110 0x0E03
            .badParam [(4, i)]
        else s
      | _, _ => s)

/-! ## Firmware (R475–R477) -/

/-- CMD_FW_UPDATE; `bytes`: the image as the bulk transfer reads it. -/
def execCmdFwUpdate (h : Hdr) (bytes : List Byte) (b : Bulk) (s : State) :
    Host.Outcome State Fault Refusal :=
  .next (runCmd s h 0x0110 .pf0 false fun _ =>
    let img := fwImageOf bytes
    match badBulk b with
    | some i => respond s h 0x0110 .badParam (leBytes 4 i)
    | none =>
      if s.fw.updating.isSome then fail s h 0x0110 .busy
      else if 32505856 < bulkBytes b ∨ 32505344 < img.bodyLen then fail s h 0x0110 .imageTooLarge
      else accept s h 0x0110 [] fun s => modFwBlk s fun f => { f with updating := some (h, img) })

/-- What the checks of R473 give a written image. -/
def updateStatus (s : State) (i : FwImage) : St :=
  if s.rst.stepping.toNat < i.minStep then .imageWrongPart
  else if !signedOk s i then .imageCrc
  else if i.secVer < s.fw.secCount then .badParam
  else .ok

/-- The slot that does not run is written. -/
def writeSlot (s : State) (b : Bool) (i : FwImage) : State :=
  modFwBlk s fun f => if b then { f with slotB := some i } else { f with slotA := some i }

def fwUpdateDone (s : State) : State :=
  match s.fw.updating with
  | none => s
  | some (h, img) =>
    let b := s.fw.running && !s.fw.runningB
    let st := updateStatus s img
    let s := modFwBlk (writeSlot s b img) fun f =>
      { f with updating := none,
               goodUpdate := if st = .ok then some b
                 else if f.goodUpdate = some b then none else f.goodUpdate }
    let s := complete (dropAccOf s 0x0110 h) h 0x0110 0x0E03 st
      [(4, img.version.toNat), (1, img.secVer)]
    if s.fw.recovery && st == .ok then startSlot s b else s

def execFwUpdateDone (s : State) : Host.Outcome State Fault Refusal := .next (fwUpdateDone s)

/-- The slot of the last good update is preferred, on trial. -/
def activate (s : State) (b : Bool) : State :=
  modFwBlk s fun f => { f with preferB := b, trial := true }

def execCmdFwActivate (h : Hdr) (s : State) : Host.Outcome State Fault Refusal :=
  .next (runCmd s h 0x0111 .pf0 false fun _ =>
    match s.fw.goodUpdate with
    | none => fail s h 0x0111 .wrongState
    | some b => answer (activate s b) h 0x0111 [])

/-- With RESET_NOW a warm reset follows the response. -/
def execCmdFwActivateResetNow (h : Hdr) (s : State) : Host.Outcome State Fault Refusal :=
  .next (runCmd s h 0x0111 .pf0 false fun _ =>
    match s.fw.goodUpdate with
    | none => fail s h 0x0111 .wrongState
    | some b =>
      if (createdJobs s).isEmpty then warmReset (answer (activate s b) h 0x0111 []) 6
      else fail s h 0x0111 .wrongState)

/-- A trial image that is not READY in time is abandoned (R477). -/
def trialTimeout (s : State) : State :=
  if s.fw.trial && s.fw.running && s.pwr.state != .ready then
    let b := !s.fw.preferB
    let s := warmReset (modFwBlk s fun f => { f with trial := false, preferB := b }) 6
    emitDev s 0x0E04 (slotFields s b)
  else s

def execTrialTimeout (s : State) : Host.Outcome State Fault Refusal := .next (trialTimeout s)

/-! ## Run control (R458–R461) -/

/-- An order for a command hold. -/
def orderHold (s : State) (j : Nat) (c : Word) (h : Option Hdr) : State :=
  modJob s j fun x => { x with holdAt := x.holdAt ++ [{ atCycle := c, hdr := h }] }

def execCmdRunHold (h : Hdr) (atCycle : Word) (s : State) : Host.Outcome State Fault Refusal :=
  .next (runCmd s h 0x0401 .both true fun j =>
    let x := jobOf s j
    if x.state == .heldCmd then answer s h 0x0401 []
    else if x.state != .running then fail s h 0x0401 .wrongState
    else if atCycle ≠ 0 ∧ atCycle ≤ x.cycle then fail s h 0x0401 .badParam
    else accept s h 0x0401 [j] fun s =>
      orderHold s j (if atCycle = 0 then x.cycle + 1 else atCycle) (some h))

/-- Causes that only the host's choice ends (R147, R363, R379). -/
def hostEnds (c : HoldCause) : Bool := c == .awaitHost || lasting c

/-- The command hold of a job ends. -/
def endHold (x : Job) : Job :=
  let y : Job := { x with cmdHeld := false }
  setWait 4 false { y with state := runState y }

/-- A job in STATE 4 goes on, or starts user cycle 0 with its checkpoint. -/
def resumeHeld (s : State) (j : Nat) : State :=
  let t := modJob s j endHold
  if (jobOf s j).beforeZero then startCapture t j else t

/-- A job in STATE 5 goes on without rollback. -/
def resumeFault (s : State) (j : Nat) : State :=
  modJob s j fun x =>
    let keep := x.faults.filter fun c => !hostEnds c
    setWait 1 (!keep.isEmpty)
      { x with faults := keep, wantRollback := false,
               state := if keep.isEmpty then runState x else x.state }

def execCmdRunResume (h : Hdr) (stopCycle : Word) (noRollback : Bool) (s : State) :
    Host.Outcome State Fault Refusal :=
  .next (runCmd s h 0x0402 .both true fun j =>
    let x := jobOf s j
    if s.pwr.state == .deepHold || x.replay.isSome || (x.state != .heldCmd && x.state != .heldFault)
        || (x.state == .heldFault && !noRollback) then fail s h 0x0402 .wrongState
    else if stopCycle ≠ 0 ∧ stopCycle ≤ x.cycle then fail s h 0x0402 .badParam
    else
      let s := if x.state == .heldCmd then resumeHeld s j else resumeFault s j
      let s := if stopCycle = 0 then s else orderHold s j stopCycle none
      answer s h 0x0402 [])

def execCmdRunResets (h : Hdr) (atCycle : Word) (resets : BitVec 7) (s : State) :
    Host.Outcome State Fault Refusal :=
  .next (runCmd s h 0x0403 .both true fun j =>
    let x := jobOf s j
    let c := if atCycle = 0 then firstCycle x else atCycle
    if x.release < 3 then fail s h 0x0403 .wrongState
    else if c < firstCycle x then fail s h 0x0403 .badParam
    else answer (modJob s j fun x => { x with resetAt := x.resetAt ++ [(c, resets)] }) h 0x0403
      (leBytes 8 c.toNat))

/-- The pins of a mask. -/
def pinsOf (m : BitVec 16) : List Nat := (List.range 16).filter fun p => m.getLsbD p

def pinOwner (s : State) (p : Nat) : Option Nat := mapGet s.trigPin none p

def setPin (v : Option Nat) (s : State) (p : Nat) : State :=
  { s with trigPin := mapPut s.trigPin none p v }

def execCmdTrigGrant (h : Hdr) (pins : BitVec 16) (s : State) : Host.Outcome State Fault Refusal :=
  .next (runCmd s h 0x0405 .pf0 true fun j =>
    if (pinsOf pins).any (fun p => (pinOwner s p).isSome && pinOwner s p != some j) then
      fail s h 0x0405 .noResource
    else answer (each (pinsOf pins) (setPin (some j)) s) h 0x0405 [])

/-- Pins of the job are released and no longer driven; others stay as they are. -/
def releasePins (s : State) (j : Nat) (pins : BitVec 16) : State :=
  let s := each ((pinsOf pins).filter fun p => pinOwner s p == some j) (setPin none) s
  modJob s j fun x => { x with pinVal := x.pinVal &&& ~~~pins, pinOe := x.pinOe &&& ~~~pins }

def execCmdTrigRelease (h : Hdr) (pins : BitVec 16) (s : State) : Host.Outcome State Fault Refusal :=
  .next (runCmd s h 0x0405 .pf0 true fun j => answer (releasePins s j pins) h 0x0405 [])

/-! ## Jobs (R469, R470) -/

/-- Rights of one master on a new job (R201): the job's VF, its masons and Belic read and write. -/
def newRights (j m : Nat) (w : BitVec 16) : BitVec 16 :=
  let r : BitVec 16 := if m = j + 1 ∨ m = j + 9 ∨ m = 18 then 3 else 0
  (w &&& ~~~((3 : BitVec 16) <<< (2 * j))) ||| (r <<< (2 * j))

/-- Job j begins in STATE 0 with a fresh key. -/
def createJob (s : State) (j : Nat) : State :=
  let (n, s) := takeDraw s
  let s := modMemBlk s fun m =>
    { m with rights := m.rights.zipIdx.map fun e => newRights j e.2 e.1 }
  updatePasr (setJob s j { created := true, key := some n })

def lowestFree (s : State) : Option Nat := (List.range 8).find? fun j => !(jobOf s j).created

def execCmdJobCreate (h : Hdr) (s : State) : Host.Outcome State Fault Refusal :=
  .next (runCmd s h 0x0A01 .pf0 false fun j =>
    match lowestFree s with
    | none => fail s h 0x0A01 .noResource
    | some low =>
      let k := if j < 8 then j else low
      if (jobOf s k).created || s.pwr.state == .deepHold then fail s h 0x0A01 .wrongState
      else respondJ (createJob s k) h 0x0A01 .ok k (leBytes 1 k))

def execCmdJobDestroy (h : Hdr) (s : State) : Host.Outcome State Fault Refusal :=
  .next (runCmd s h 0x0A02 .pf0 true fun j =>
    if 16 ≤ s.hif.accepted.length then fail s h 0x0A02 .busy
    else complete (destroyJob (respond s h 0x0A02 .accepted []) j) h 0x0A02 0x0E05 .ok [])

end Sys2Proof.Machine
end

