-- ==== Sys2Proof/Machine/Loader.lean ====
section
/-! DEFINITION. Loading over PCIe and along a chain, readback (R118–R136, R349–R351). -/

namespace Sys2Proof.Machine

/-! ## Chains -/

/-- Largest number of stream bytes in one class 2 kind 0 message (Table 10-8, R350). -/
def chainChunk : Nat := 3708

def sendChunks : Nat → State → List Byte → State
  | 0, s, _ => s
  | n + 1, s, bs =>
    if bs.isEmpty then s
    else sendChunks n (sendMsg s 1 2 0 (envelope 0 0 0 ++ bs.take chainChunk)) (bs.drop chainChunk)

def chainOutUp (s : State) : Bool := (portOf s 1).st == .chain && portUp (portOf s 1)

/-- Bytes leave on chain-out, or are discarded while it is down (R127). -/
def forwardBytes (s : State) (bs : List Byte) : State :=
  if bs.isEmpty then s
  else if chainOutUp s then sendChunks (bs.length / chainChunk + 1) s bs
  else { s with chain := { s.chain with outLost := true } }

/-- A head device's request without an image for it is answered (log 125). -/
def answerReq (s : State) : State :=
  match s.chain.req with
  | some (h, _) => respond { s with chain := { s.chain with req := none } } h 0x0301 .imageTruncated []
  | none => s

/-- The session is over: unless an image was kept, EV_CHAIN_NO_IMAGE. -/
def chainOver (s : State) (endPassed : Bool) : State :=
  let s := answerReq (if s.chain.kept then s else emitDev s 0x0405 [])
  { s with chain := { outLost := s.chain.outLost, discarded := s.chain.discarded,
                      endPassed := endPassed } }

/-- The session ends by silence, abort or disarm (R122, R126): a load inside its own image fails, and
the abort goes downstream. -/
def endSession (s : State) : State :=
  let s := match s.load with
    | some l => if l.chain ∧ l.stage ≠ .starting ∧ l.stage ≠ .ramping then failLoad s .imageTruncated else s
    | none => s
  let s := if chainOutUp s then sendMsg s 1 2 3 (envelope 0 0 0) else s
  chainOver s false


/-- The device keeps the image that begins (R123, R124), or discards it because it is loading already
(R125). -/
def keepImage (s : State) (hd : List Byte) : State :=
  if s.load.isSome then
    loadDone { s with chain := { s.chain with keep := false, forward := false } }
      (leAt hd 9 1) none .busy false 0
  else
    let l : Load := { job := 0xFF, hdr := s.chain.req.map (·.1),
                      noRelease := (s.chain.req.map (·.2)).getD false, chain := true }
    chainBytes { s with load := some l,
                        chain := { s.chain with keep := true, forward := false, kept := true,
                                                req := none } } hd

/-- A device image's header has come whole: keep, forward or discard (R123). DESIGN CHOICE (log 121): an
image with chain bit 0 is placed by its device_ordinal as any other. -/
def beginImage (s : State) (hd : List Byte) : State :=
  let ord := leAt hd 0xE 2 % 1024
  let s := { s with chain := { s.chain with hdrBuf := [], remaining := leAt hd 0x28 8 - 256 } }
  let mine := match s.arr.ordinal with
    | some o => ord == o
    | none => !s.chain.kept && !s.chain.gaveUp
  if mine && !s.chain.kept then keepImage s hd
  else if mine then
    { s with chain := { s.chain with keep := false, forward := false,
                                     discarded := s.chain.discarded + 1 } }
  else forwardBytes { s with chain := { s.chain with keep := false, forward := true } } hd

/-- Bytes of the image that passes. -/
def passBytes (s : State) (bs : List Byte) : State :=
  let s := { s with chain := { s.chain with remaining := s.chain.remaining - bs.length } }
  if s.chain.forward then forwardBytes s bs
  else if s.chain.keep then chainBytes s bs
  else s

/-- The array end record passes and is forwarded last. -/
def passEnd (s : State) (bs : List Byte) : State := chainOver (forwardBytes s bs) true

/-- Stream bytes in order: headers and the end record are collected whole, images pass through. -/
def feedChain : Nat → State → List Byte → State
  | 0, s, _ => s
  | n + 1, s, bs =>
    if !s.chain.armed || bs.isEmpty then s
    else if 0 < s.chain.remaining then
      let k := min s.chain.remaining bs.length
      feedChain n (passBytes s (bs.take k)) (bs.drop k)
    else
      let buf := s.chain.hdrBuf
      let all := buf ++ bs
      let want := if leAt all 0 2 = 5 ∧ 2 ≤ all.length then 32 else 256
      if all.length < want then { s with chain := { s.chain with hdrBuf := all } }
      else
        let s := { s with chain := { s.chain with hdrBuf := [] } }
        let s := if want = 32 then passEnd s (all.take 32) else beginImage s (all.take 256)
        feedChain n s (all.drop want)

/-- Stream bytes that reach an armed device. -/
def chainStream (s : State) (bs : List Byte) : State :=
  if !s.chain.armed || bs.isEmpty then s
  else feedChain (2 * bs.length + 2) { s with chain := { s.chain with session := true } } bs

/-! ## Loading over PCIe -/

/-- CMD_IMAGE_LOAD: the answer follows the header (R119). On an armed device the stream is taken as if
it had come on chain-in, and the answer follows the header of the device's own image (R122). -/
def execCmdImageLoad (h : Hdr) (noRelease : Bool) (b : Bulk) (s : State) :
    Host.Outcome State Fault Refusal :=
  .next (runCmd s h 0x0301 .pf0 true fun j =>
    match badBulk b with
    | some i => respond s h 0x0301 .badParam (leBytes 4 i)
    | none =>
      if s.load.isSome then fail s h 0x0301 .busy
      else if lp5xBad s then fail s h 0x0301 .hwFault
      else if s.chain.armed then
        answerReq (chainStream { s with chain := { s.chain with req := some (h, noRelease) } } b.data)
      else { s with load := some { job := j, hdr := some h, noRelease := noRelease,
                                   covered := bulkBytes b } })

def execImageHeader (bytes : List Byte) (s : State) : Host.Outcome State Fault Refusal :=
  .next (hostSection s .header 256 bytes)

def execImageDescriptor (bytes : List Byte) (s : State) : Host.Outcome State Fault Refusal :=
  .next (hostSection s .descriptor 256 bytes)

def execImageTileBlock (bytes : List Byte) (s : State) : Host.Outcome State Fault Refusal :=
  .next (hostSection s .tiles 64 bytes)

def execImageSlabBlock (bytes : List Byte) (s : State) : Host.Outcome State Fault Refusal :=
  .next (hostSection s .slabs 16 bytes)

def execImageSignatureTable (bytes : List Byte) (s : State) : Host.Outcome State Fault Refusal :=
  .next (hostSection s .signatures 16 bytes)

def execImageEndRecord (bytes : List Byte) (s : State) : Host.Outcome State Fault Refusal :=
  .next (hostSection s .endRecord 32 bytes)

/-- Rows of a virtual tile that the load has written, on a tile that takes its place (R117). -/
def rebindTile (l : Load) (vt : Nat) (x : Tile) : Tile :=
  if l.stage = .starting then imageTile l.image vt l.job l.desc x
  else { x with planes := planesOf l.image vt, planesLost := false, holding := true, reserved := true }

/-- TILE_REBIND: the next free tile takes the virtual tile, the failed one is cleared and returns to the
pool; without a free tile, or when a golden line cannot be read (Table 4-9), the load fails (R117). -/
def execTileRebind (vt : Nat) (s : State) : Host.Outcome State Fault Refusal :=
  .next (
    match s.load with
    | none => s
    | some l =>
      match l.bound.find? (fun e => e.1 == vt) with
      | none => s
      | some (_, old) =>
        match pickTile s with
        | none => failLoad s .noResource
        | some t =>
          let (bad, s) := readBlock s l.image vt
          if bad then failLoad s .hwFault else
          let s := modTile (clearTile (endSweepOf s t) old) t (rebindTile l vt)
          { s with
            tileMap := s.tileMap.map fun e =>
              if e.2.job == l.job && e.2.vt == vt then (e.1, { e.2 with phys := t }) else e,
            load := some { l with bound := l.bound.map fun e => if e.1 = vt then (vt, t) else e } })

/-- 100 ms without an image byte before the end record (R121). -/
def execLoadSilenceTimeout (s : State) : Host.Outcome State Fault Refusal :=
  .next (
    match s.load with
    | none => s
    | some l => if l.chain ∨ l.stage = .starting ∨ l.stage = .ramping then s else failLoad s .imageTruncated)

/-- CMD_IMAGE_ABORT. DESIGN CHOICE (log 69): with no load in progress it answers ST_WRONG_STATE. -/
def execCmdImageAbort (h : Hdr) (s : State) : Host.Outcome State Fault Refusal :=
  .next (runCmd s h 0x0302 .pf0 false fun _ =>
    if s.load.isNone then fail s h 0x0302 .wrongState
    else failLoad (answer s h 0x0302 []) .imageTruncated)

/-! ## Readback (R135, R136) -/

/-- Ranges of a readback lie inside the image. -/
def readbackOk (x : Job) (vfirst vcount cfirst ccount : Nat) : Bool :=
  match x.image with
  | none => false
  | some img => rangeOk vfirst vcount img.vtCount 384 && rangeOk cfirst ccount x.desc.courseCount 32

def execCmdImageReadbackGolden (h : Hdr) (vfirst vcount cfirst ccount : Nat) (b : Bulk) (s : State) :
    Host.Outcome State Fault Refusal :=
  .next (runCmd s h 0x0303 .pf0 true fun j =>
    match badBulk b with
    | some i => respond s h 0x0303 .badParam (leBytes 4 i)
    | none =>
      match (jobOf s j).image with
      | none => fail s h 0x0303 .wrongState
      | some img =>
        if !readbackOk (jobOf s j) vfirst vcount cfirst ccount then fail s h 0x0303 .badParam
        else if lp5xBad s then fail s h 0x0303 .hwFault
        else accept s h 0x0303 [j] fun s => emitOut s (.host h.fn img.bytes))

/-- Address and rows of one run: rows cfirst to cfirst + ccount − 1 of a virtual tile as its planes hold
them (R106). Planes that have lost their charge hold no stated value. -/
def planeRun (j cfirst ccount : Nat) (acc : List Byte × State) (vt : Nat) : List Byte × State :=
  let s := acc.2
  match physOf s j vt with
  | none => acc
  | some t =>
    let x := tileOf s t
    let head := leBytes 4 (cfirst * 8192 + vt * 262144) ++ leBytes 4 (ccount * 5120)
    (List.range (ccount * 5120)).foldl (fun acc i =>
      let k := cfirst * 5120 + i
      let (w, s) : Row × State :=
        if x.planesLost then takeFree acc.2 512
        else (mapGet x.planes 0 (planeKey (k / 5120) (k % 5120 / 10) (k % 10)), acc.2)
      (acc.1 ++ leBytes 64 w.toNat, s)) (acc.1 ++ head, s)

def execCmdImageReadbackPlanes (h : Hdr) (vfirst vcount cfirst ccount : Nat) (b : Bulk) (s : State) :
    Host.Outcome State Fault Refusal :=
  .next (runCmd s h 0x0303 .pf0 true fun j =>
    let x := jobOf s j
    match badBulk b with
    | some i => respond s h 0x0303 .badParam (leBytes 4 i)
    | none =>
      if s.pwr.state == .deepHold || x.state == .loading || x.image.isNone then
        fail s h 0x0303 .wrongState
      else if !readbackOk x vfirst vcount cfirst ccount then fail s h 0x0303 .badParam
      else accept s h 0x0303 [j] fun s =>
        let (bs, s) := ((List.range vcount).map (· + vfirst)).foldl (planeRun j cfirst ccount) ([], s)
        emitOut s (.host h.fn bs))

/-! ## Chain commands and events -/

/-- A port enters chain mode on its lanes 0–3; its other lanes go OFF (R349). -/
def chainPort (s : State) (p : Nat) : State :=
  let s := setPort s p { restartPort (portOf s p) with st := .chain, actWidth := 0, laneMask := 0 }
  each [4, 5, 6, 7, 8] (fun s i => modLane s (9 * p + i) fun x =>
    { x with txPower := .off, rxPower := .off }) s

/-- Ports 0 and 1 are named in a valid forwarding entry or a route-table entry. -/
def chainPortsUsed (s : State) : Bool :=
  s.lry.fwd.any (fun e => e.2.valid && (e.2.out.getLsbD 0 || e.2.out.getLsbD 1))
    || s.lry.route.any fun e => decide (e.2 < 2)

def execCmdChainArm (h : Hdr) (s : State) : Host.Outcome State Fault Refusal :=
  .next (runCmd s h 0x0304 .pf0 false fun _ =>
    if chainPortsUsed s then fail s h 0x0304 .wrongState
    else if s.chain.armed then answer s h 0x0304 []
    else
      let s := each [0, 1] chainPort (answer s h 0x0304 [])
      { s with chain := { armed := true } })

/-- A disarm ends the session at once, and with it any load of the device's own image (R122). -/
def execCmdChainDisarm (h : Hdr) (s : State) : Host.Outcome State Fault Refusal :=
  .next (runCmd s h 0x0304 .pf0 false fun _ =>
    let s := answer s h 0x0304 []
    if !s.chain.armed then s
    else
      let s := match s.load with
        | some l => if l.chain then failLoad s .imageTruncated else s
        | none => s
      endSession s)

/-- A chain-data message that port 0 has delivered (R123, R350); an unarmed device takes none (R122). -/
def execChainData (s : State) : Host.Outcome State Fault Refusal :=
  .next (
    match nextMsg s 0 2 0 with
    | none => s
    | some m =>
      let s := takeMsg s 0 m
      if (portOf s 0).st == .chain then chainStream s (m.body.drop 4) else s)

def execChainSessionSilence (s : State) : Host.Outcome State Fault Refusal :=
  .next (if s.chain.armed && s.chain.session then endSession s else s)

def execChainAbort (s : State) : Host.Outcome State Fault Refusal :=
  .next (
    match nextMsg s 0 2 3 with
    | none => s
    | some m =>
      let s := takeMsg s 0 m
      if s.chain.armed then endSession s else s)

/-- A port returns to its configuration and trains again from step 1 (R351). -/
def restorePort (s : State) (p : Nat) : State :=
  if (portOf s p).st = .chain then
    let s := setPort s p { restartPort (portOf s p) with
      st := if (portOf s p).enable then .training else .disabled, actWidth := 0, laneMask := 0 }
    each (List.range 9) (fun s i => modLane s (9 * p + i) fun x =>
      { x with txPower := .active, rxPower := .active, signal := false, ready := false }) s
  else s

def execChainPortsRestore (s : State) : Host.Outcome State Fault Refusal :=
  .next (
    if s.chain.armed then s
    else each [0, 1] restorePort { s with chain := { s.chain with endPassed := false } })

end Sys2Proof.Machine
end

