-- ==== Sys2Proof/Machine/SpineOps.lean ====
section
/-! DEFINITION. Packets on the spine: nodes (Table 12-1), routes, fence sinks, probes and the trace
(R386–R402). -/

namespace Sys2Proof.Machine

/-! ## Nodes -/

/-- Routers with an attached block (Table 12-1). -/
def blockRouters : List Nat :=
  (List.range 12).map portRouter ++ [30, 39, 60, 69, 9, 1, 33, 36, 63, 66, 0, 45]

def groupRouters : List Nat := (List.range 12).map groupRouter

/-- A node ID that Table 12-1 assigns. -/
def nodeKnown (node : Nat) : Bool := decide (node < 122)

/-- A sub-address has a block behind it. -/
def subKnown (node sub : Nat) : Bool :=
  if node < 100 then
    (decide (sub < 4)) || (sub % 8 == 4 && groupRouters.contains node && decide (sub / 8 < 16))
      || (sub == 5 && blockRouters.contains node)
  else if node = 116 then decide (sub ≤ 8)
  else if node = 118 ∨ node = 119 then decide (sub < 4)
  else sub == 0

/-- Router at which a node attaches; nodes 118 and 119 have one per hub. -/
def nodeRouter (node sub : Nat) : Nat :=
  if node = 118 ∨ node = 119 then listAt [33, 36, 63, 66] 33 (sub % 4) else attachRouter node

/-- Entry of a routing bank for a destination (R392). -/
def routeEntry (node sub : Nat) : Nat :=
  if node = 118 ∨ node = 119 then 128 + 4 * (node - 118) + sub % 4 else node

/-- Slot of the local fence mask that a destination lies behind. -/
def fenceSlot (node sub : Nat) : Nat := if node < 100 then sub % 8 else 5

/-- The local attachment that a drain counter belongs to (R396). -/
def drainKey (node sub : Nat) : Nat :=
  if node < 100 then node * 8 + sub % 8
  else if node = 118 ∨ node = 119 then node * 8 + sub % 4 else node * 8

def drainOf (s : State) (node sub : Nat) : Nat := mapGet s.spn.drains 0 (drainKey node sub)

def groupDrain (s : State) (g : Nat) : Nat := drainOf s (groupRouter g) 4

/-! ## Headers (Table 12-2) -/

def hDst (h : BitVec 128) : Nat := field h.toNat 6 0
def hDstSub (h : BitVec 128) : Nat := field h.toNat 14 7
def hSrc (h : BitVec 128) : Nat := field h.toNat 21 15
def hSrcSub (h : BitVec 128) : Nat := field h.toNat 29 22
def hVn (h : BitVec 128) : Nat := field h.toNat 32 30
def hStatus (h : BitVec 128) : Nat := field h.toNat 63 60
def hEpoch (h : BitVec 128) : Bool := h.getLsbD 33

/-- The injection epoch is stamped (R393). -/
def stamp (s : State) (h : BitVec 128) : BitVec 128 :=
  (h &&& ~~~((1 : BitVec 128) <<< 33)) ||| (BitVec.ofNat 128 (b2n s.spn.inject) <<< 33)

/-- The reply to a request: source and destination change places, VN 1, the job, op and tag echoed, a
status; one beat. -/
def replyTo (h : BitVec 128) (status : Nat) : BitVec 128 :=
  BitVec.ofNat 128 (hSrc h + hSrcSub h * 2 ^ 7 + hDst h * 2 ^ 15 + hDstSub h * 2 ^ 22 + 1 * 2 ^ 30
    + field h.toNat 57 34 * 2 ^ 34 + status * 2 ^ 60)

/-! ## Probes and trace (R400, R401) -/

def probeOf (s : State) (i : Nat) : Probe := mapGet s.spn.probes {} i

/-- A probe matches a packet at a point of a router. -/
def probeHit (p : Probe) (router point : Nat) (h : BitVec 128) : Bool :=
  let c := p.cfg.toNat
  bitOf c 0 && field c 7 1 == router && field c 10 8 == point && bitOf (field c 15 11) (hVn h)
    && ((BitVec.setWidth 64 h ^^^ p.mtch) &&& p.mask) == 0

/-- Trace record (Table 12-8). -/
def traceRecord (s : State) (i router point : Nat) (h : BitVec 128) : BitVec 256 :=
  BitVec.ofNat 256 (h.toNat + s.spn.cycles % 2 ^ 64 * 2 ^ 128 + i * 2 ^ 192 + router * 2 ^ 196
    + point * 2 ^ 203)

/-- A record enters the queue of 64, or is dropped and counted. -/
def putTrace (s : State) (r : BitVec 256) : State :=
  modSpnBlk s fun x =>
    if x.trcQueue.length < 64 then { x with trcQueue := x.trcQueue ++ [r] }
    else { x with trcLost := sat32 (x.trcLost + 1) }

def probeAt (router point : Nat) (h : BitVec 128) (s : State) (i : Nat) : State :=
  let p := probeOf s i
  if probeHit p router point h then
    let s := leafAdd s (leafProbe i) 1
    if p.cfg.getLsbD 16 && s.spn.trcEn then putTrace s (traceRecord s i router point h) else s
  else s

/-- Every probe looks at a packet that passes a point. -/
def probesAt (s : State) (router point : Nat) (h : BitVec 128) : State :=
  each (List.range 16) (probeAt router point h) s

/-! ## Ways a packet ends -/

/-- Why a packet did not reach its block. -/
inductive Bounce where
  | fenced | badDest | routeError
  deriving DecidableEq, Repr

def bounceStatus : Bounce → Nat
  | .fenced => 1 | .badDest => 2 | .routeError => 3

/-- A destination that no block answers: counted, EV_SPN_BAD_DEST once per source node and ms. -/
def noteBadDest (s : State) (src : Nat) : State :=
  let raise := mayRaise (mapGet s.spn.badDestEv none src) s.nowUs 1000
  let s := modSpnBlk s fun x =>
    { x with badDest := mapMod x.badDest 0 src (· + 1),
             badDestEv := if raise then mapPut x.badDestEv none src (some s.nowUs) else x.badDestEv }
  if raise then emitDev s 0x0B01 [] else s

/-- A discard at a fence sink: counted, EV_FENCE_DISCARD with the source (R398). -/
def noteDiscard (s : State) (src : Nat) : State :=
  let raise := mayRaise (mapGet s.spn.fenceEv none src) s.nowUs 1000
  let s := modSpnBlk s fun x =>
    { x with fenceDisc := mapMod x.fenceDisc 0 src (· + 1),
             fenceEv := if raise then mapPut x.fenceEv none src (some s.nowUs) else x.fenceEv }
  if raise then emitDev s 0x0B02 [(1, src)] else s

/-- Drain counters at a delivery (R396): a request opens work at both ends, its reply closes it. A reply that the
spine gives itself (Table 12-3, values 1–3) closes nothing, since its request was never delivered. -/
def noteDelivery (s : State) (h : BitVec 128) : State :=
  let d := drainKey (hDst h) (hDstSub h)
  let r := drainKey (hSrc h) (hSrcSub h)
  modSpnBlk s fun x =>
    if hVn h = 0 then { x with drains := mapMod (mapMod x.drains 0 d (· + 1)) 0 r (· + 1) }
    else if hVn h = 1 ∧ ¬ (1 ≤ hStatus h ∧ hStatus h ≤ 3) then { x with drains := mapMod (mapMod x.drains 0 d (· - 1)) 0 r (· - 1) }
    else x

/-- The neighbour that an entry value 1–4 leads to. -/
def neighbour (r v : Nat) : Option Nat :=
  match v with
  | 1 => if r / 10 < 9 then some (r + 10) else none
  | 2 => if r % 10 < 9 then some (r + 1) else none
  | 3 => if 10 ≤ r then some (r - 10) else none
  | 4 => if 0 < r % 10 then some (r - 1) else none
  | _ => none

/-- The packet is at its destination's router. -/
def deliverAt (s : State) (r : Nat) (h : BitVec 128) : State × Option (Bounce × Nat) :=
  if nodeRouter (hDst h) (hDstSub h) ≠ r ∨ !subKnown (hDst h) (hDstSub h) then
    (noteBadDest s (hSrc h), some (.badDest, r))
  else if (fenceMask s (hEpoch h) r).getLsbD (fenceSlot (hDst h) (hDstSub h)) then (s, some (.fenced, r))
  else
    let s := leafAdd s (leafRouter r (hVn h)) 1
    (noteDelivery (probesAt s r 4 h) h, none)

/-- A read of a routing entry (R395, R538): corrected and written back, or none when SEC-DED cannot correct it;
Belic firmware then rewrites it from its own copy and raises EV_SPN_TABLE_ERROR. -/
def readRoute (s : State) (bank r e : Nat) : Option Nat × State :=
  let k := routeKey bank r e
  let v := routeAt s bank r e
  let mend (s : State) : State := modSpnBlk s fun x => { x with routeErr := mapPut x.routeErr 0 k 0 }
  match secDecode 4 3 (secEncode 4 3 v ^^^ (mapGet s.spn.routeErr 0 k).toNat) with
  | some (w, fixed) =>
    let s := if fixed then modSpnBlk s fun x =>
        { x with routes := mapPut x.routes 0 k (w % 8 + 1), routeErr := mapPut x.routeErr 0 k 0 } else s
    (some (w % 8), s)
  | none => (none, emitDev (mend s) 0x0B04 [])

/-! ## Output arbitration (R391) -/

/-- The virtual networks other than JNT in round-robin order after the one served last. -/
def rrOrder (last : Nat) : List Nat :=
  (([0, 1, 2, 4].filter fun v => decide (last < v)) ++ [0, 1, 2, 4].filter fun v => decide (v ≤ last))

/-- The virtual network that takes a cycle of an output, of those that hold a packet and a credit: one passed
over for 16 cycles, then JNT, then the next in turn. -/
def arbGrant (a : Arb) (ready : BitVec 5) : Option Nat :=
  let order := (rrOrder a.last).filter fun v => ready.getLsbD v
  match order.find? (fun v => decide (16 ≤ listAt a.passed 0 v)) with
  | some v => some v
  | none => if ready.getLsbD 3 then some 3 else order.head?

/-- The arbiter after a cycle in which `ready` held packets and credits. -/
def arbNext (a : Arb) (ready : BitVec 5) : Arb :=
  match arbGrant a ready with
  | none => { a with passed := [0, 0, 0, 0, 0] }
  | some g =>
    { last := if g = 3 then a.last else g,
      passed := (List.range 5).map fun v =>
        if v = g ∨ !ready.getLsbD v then 0 else listAt a.passed 0 v + 1 }

/-- A packet of virtual network `vn` waits at an output until it is granted: `busy` gives, cycle by cycle, which
other networks hold a packet and a credit there. -/
def arbWait (vn : Nat) : Arb → List (BitVec 5) → Arb
  | a, [] => arbNext a (BitVec.ofNat 5 (2 ^ vn))
  | a, b :: rest =>
    let ready := b ||| BitVec.ofNat 5 (2 ^ vn)
    if arbGrant a ready = some vn then arbNext a ready else arbWait vn (arbNext a ready) rest

/-- The packet takes output `out` of router r: 0–3 to a neighbour, 4 local. -/
def takeOutput (s : State) (r out vn : Nat) (busy : List (BitVec 5)) : State :=
  modSpnBlk s fun x => { x with arb := mapMod x.arb {} (r * 5 + out) fun a => arbWait vn a busy }

/-- The packet moves from router r by the bank of its epoch; `busy` gives the load of each output it takes. The
result names the router at which it bounced. -/
def walk : Nat → State → Nat → BitVec 128 → List (List (BitVec 5)) → State × Option (Bounce × Nat)
  | 0, s, _, _, _ => (s, none)
  | n + 1, s, r, h, busy =>
    match readRoute s (bankOf (hEpoch h)) r (routeEntry (hDst h) (hDstSub h)) with
    | (none, s) => (s, some (.routeError, r))
    | (some v, s) =>
      if v = 0 then deliverAt (takeOutput s r 4 (hVn h) (busy.headD [])) r h
      else match neighbour r v with
        | none => (s, none)
        | some t =>
          walk n (probesAt (leafAdd (takeOutput s r (v - 1) (hVn h) (busy.headD []))
            (leafRouter r (hVn h)) 1) r (v - 1) h) t h busy.tail

/-- A packet is injected at router r. -/
def inject (s : State) (r : Nat) (h : BitVec 128) (busy : List (List (BitVec 5))) :
    State × Option (Bounce × Nat) :=
  let h := stamp s h
  let s := probesAt s r 5 h
  if nodeKnown (hDst h) then walk 400 s r h busy
  else (noteBadDest s (hSrc h), some (.badDest, r))

/-- A packet that a sink discards because it is no request. -/
def discardOrKeep (s : State) (h : BitVec 128) : Bounce → State
  | .badDest => s
  | _ => noteDiscard s (hSrc h)

/-- A packet from injection to its end; a request that bounces is answered from the router where it did, with the
status of R399. The flag says that Belic firmware met ROUTE_ERROR on a request of its own. -/
def sendOnce (s : State) (h : BitVec 128) (busy : List (List (BitVec 5))) : State × Bool :=
  match inject s (nodeRouter (hSrc h) (hSrcSub h)) h busy with
  | (s, none) => (s, false)
  | (s, some (b, r)) =>
    if hVn h = 0 then
      (match inject s r (replyTo h (bounceStatus b)) [] with
       | (s, none) => s
       | (s, some (c, _)) => discardOrKeep s (replyTo h (bounceStatus b)) c, b == .routeError && hSrc h == 117)
    else (discardOrKeep s h b, false)

/-- A packet, with the one retry that Belic firmware makes of its own requests (Table 12-3). -/
def sendPacket (s : State) (h : BitVec 128) (busy : List (List (BitVec 5))) : State :=
  match sendOnce s h busy with
  | (s, true) => (sendOnce s h []).1
  | (s, false) => s

/-! ## Trace buffer -/

def traceSize : Nat := 524288

/-- One queued record into the buffer; a full buffer without WRAP stops the trace (Table 12-9). -/
def writeTrace (s : State) : State :=
  match s.spn.trcQueue with
  | [] => s
  | r :: rest =>
    let last := s.spn.trcNext + 1 == traceSize
    let stop := last && !s.spn.trcWrap
    let s := modSpnBlk s fun x =>
      { x with trcBuf := mapPut x.trcBuf 0 x.trcNext r,
               trcNext := (x.trcNext + 1) % traceSize,
               trcQueue := if stop then [] else rest,
               trcLost := if stop then sat32 (x.trcLost + rest.length) else x.trcLost,
               trcFull := x.trcFull || stop, trcEn := x.trcEn && !stop }
    if stop then emitDev s 0x0B05 [] else s

/-- A group's rails go off; in a DEEP HOLD entry its masons stay assigned (Table 14-4 step 4). -/
def groupDown (s : State) (g : Nat) : State :=
  if s.pwr.entering.isSome then
    let s := each (List.range 16) (fun s i => modMason s (16 * g + i) fun m =>
      { phys := m.phys, job := m.job, safe := m.safe,
        st := if m.st = .failed then .failed else .off }) s
    modGroup s g fun x => { x with on := false, clearing := false }
  else groupOff s g

/-- Power-down may start: for an empty group, or for any in a DEEP HOLD entry whose jobs are ready. -/
def mayPowerDown (s : State) (g : Nat) : Bool :=
  canPowerDown s g
    || (s.pwr.entering.isSome && entryReady s && (groupOf s g).on && s.spn.down.isNone && !epochBusy s)

end Sys2Proof.Machine
end

