-- ==== Sys2Proof/Machine/Spares.lean ====
section
/-! DEFINITION. Spares, tests, sweeps and repairs (chapter 16). -/

namespace Sys2Proof.Machine

/-! ## Bringing in a spare (R486) -/

/-- What a test names exists: the bonds, vias, rows and columns of a tile, the cores of a group (R12, R13,
Table 16-3). -/
def findingOk : TestFail → Bool
  | .rowBond b n => decide (b < 512) && decide (n < 528)
  | .expressBond b n => decide (b < 512) && decide (n < 96)
  | .via v => decide (v < 6336)
  | .courseRow b row => decide (b < 512) && decide (row < 327)
  | .slabRow sl row => decide (sl < 48) && decide (row < 512)
  | .slabCol sl col => decide (sl < 48) && decide (col < 72)
  | .masonCore c => decide (c < 17)
  | .logic => true
  | .routerBad => true

/-- Kind and location of what a test found (Table 16-3); none has no record of its kind. -/
def failRecord (r : Region) (f : TestFail) : Option (Nat × Nat) :=
  if !findingOk f then none else
  match r, f with
  | .tile t, .rowBond b n => some (2, t + b * 2 ^ 9 + n * 2 ^ 18)
  | .tile t, .via v => some (3, t + v * 2 ^ 9)
  | .tile t, .courseRow b row => some (4, t + b * 2 ^ 9 + row * 2 ^ 18)
  | .tile t, .slabRow sl row => some (5, t + sl * 2 ^ 9 + row * 2 ^ 15)
  | .tile t, .slabCol sl col => some (6, t + sl * 2 ^ 9 + col * 2 ^ 15)
  | .group g, .masonCore c => some (9, 17 * g + c)
  | _, _ => none

/-- Group of a via: 32 signal vias 0–6,143 with one spare, and the spares after them in the order of the
groups (R13; log 126). -/
def viaGroup (v : Nat) : Nat := if v < 6144 then v / 32 else v - 6144

/-- Part of a location that shares spares: tile with brick, with group of 32 vias, with slab. -/
def spareGroup (kind loc : Nat) : Nat :=
  if kind = 3 then loc % 2 ^ 9 + viaGroup (loc / 2 ^ 9) * 2 ^ 9
  else if kind = 2 ∨ kind = 4 then loc % 2 ^ 18
  else if kind = 7 then loc % 4
  else if kind = 8 then 0
  else loc % 2 ^ 15

/-- Spares of a kind in one such part (Table 16-1). -/
def spareCount : Nat → Nat
  | 2 => 16 | 3 => 1 | 4 => 7 | 5 => 2 | 6 => 2 | 7 => 512 | 8 => 64 | _ => 0

/-- A resource that is itself a spare: bonds 512–527, vias 6,144–6,335, bank rows 320–326 (R12, R13,
Table 16-3). -/
def ownSpare (kind loc : Nat) : Option Nat :=
  if kind = 2 ∧ 512 ≤ loc / 2 ^ 18 then some (loc / 2 ^ 18 - 512)
  else if kind = 3 ∧ 6144 ≤ loc / 2 ^ 9 then some 0
  else if kind = 4 ∧ 320 ≤ loc / 2 ^ 18 then some (loc / 2 ^ 18 - 320)
  else none

/-- The spare that a failed resource takes. DESIGN CHOICE (log 114): the lowest that no live entry uses. A
spare that fails before any entry uses it goes out of use under its own index. -/
def lowestSpare (s : State) (kind loc : Nat) : Option Nat :=
  let used := (liveRepairs s).filterMap fun e =>
    if e.kind = kind ∧ spareGroup kind e.loc = spareGroup kind loc then some e.spare else none
  match ownSpare kind loc with
  | some i => if used.contains i then (List.range (spareCount kind)).find? fun i => !used.contains i
              else some i
  | none => (List.range (spareCount kind)).find? fun i => !used.contains i

/-- The job is held, so that a switch can be made. -/
def standsHeld (s : State) (j : Nat) : Bool :=
  let x := jobOf s j
  x.image.isNone || x.state == .stopped || x.waits.getLsbD 0
    || (x.replay.isNone && (x.state == .heldCmd || x.state == .heldFault))

/-- A repair takes effect; a course-die row is rewritten from the golden copy (R134). -/
def switchIn (s : State) (r : Repair) : State :=
  if r.kind = 4 then
    let t := r.loc % 2 ^ 9
    let b := r.loc / 2 ^ 9 % 2 ^ 9
    match rowUser s t b (r.loc / 2 ^ 18) with
    | none => addRepair s r.kind r.loc r.spare
    | some row =>
      let s := spareRow s t b (row / 10) (row % 10) (r.loc / 2 ^ 18) r.spare
      match ownerOf s t with
      | some (j, vt) =>
        let (bad, s) := readFrame s j vt b (row / 10) (row % 10)
        if bad then goldenLost s j else (rewriteRow s j t b (row / 10) (row % 10) true).2
      | none => s
  else addRepair s r.kind r.loc r.spare

/-- A repair of a tile: at once, or at the owning job's next boundary when it runs. -/
def bringIn (s : State) (t : Nat) (r : Repair) : State :=
  match ownerOf s t with
  | some (j, _) =>
    if standsHeld s j then switchIn s r
    else faultHold .spareSwitch
      (modSprBlk s fun p => { p with toSwitch := p.toSwitch ++ [(j, r)] }) j
  | none => switchIn s r

/-- A core has failed its BIST (R311): its position is substituted; a failed spare is a spare no more. -/
def coreFailed (s : State) (g c : Nat) : State :=
  let p := 17 * g + c
  let s := modMsnBlk s fun x =>
    { x with failedPhys := if x.failedPhys.contains p then x.failedPhys else x.failedPhys ++ [p] }
  match ((List.range 16).map (16 * g + ·)).find? fun m => (masonOf s m).phys == p with
  | some m => substitute s m
  | none =>
    if (groupOf s g).spare = some c then
      modGroup (addRepair s 9 p 0) g fun x => { x with spare := none }
    else s

/-- What one finding leads to. A resource that is repaired already is not new. -/
def takeFinding (r : Region) (s : State) (f : TestFail) : State :=
  if !findingOk f then s else
  match r, f with
  | .group g, .masonCore c => if repaired s 9 (17 * g + c) then s else coreFailed s g c
  | .tile t, .logic => retireTile s t 1
  | .tile t, .expressBond _ _ => retireTile s t 1
  | .tile t, f =>
    match failRecord r f with
    | none => s
    | some (kind, loc) =>
      if repaired s kind loc then s
      else match lowestSpare s kind loc with
        | some i => bringIn s t { kind := kind, loc := loc, spare := i }
        | none => retireTile s t kind
  | _, _ => s

/-! ## Retests (R485) -/

/-- The region that holds the resource of an entry. -/
def inRegion (r : Region) (e : Repair) : Bool :=
  match r with
  | .tile t => decide (2 ≤ e.kind) && decide (e.kind ≤ 6) && e.loc % 2 ^ 9 == t
  | .group g => e.kind == 9 && e.loc / 17 == g
  | .router _ => false

/-- A released resource is used again, and its spare is free. -/
def releaseEntry (s : State) (e : Repair) : State :=
  if e.kind = 9 then
    let g := e.loc / 17
    modGroup (modMsnBlk s fun x => { x with failedPhys := x.failedPhys.filter (· != e.loc) }) g fun x =>
      { x with spare := if x.spare.isNone then some (e.loc % 17) else x.spare }
  else s

/-- One soft entry at the first sweep of its region in a session. -/
def retestEntry (found : List (Nat × Nat)) (s : State) (e : Repair) : State :=
  let put (s : State) (f : Repair → Repair) : State :=
    modSprBlk s fun p => { p with map := p.map.map fun q => if q = e then f q else q }
  if found.contains (e.kind, e.loc) then addRepair s e.kind e.loc e.spare
  else if e.passed = s.spr.session ∧ e.passed ≠ 0 then
    releaseEntry (put s fun q => { q with state := 2 }) e
  else put s fun q => { q with passed := s.spr.session + 1 }

/-- The findings of a sweep: retests first, then what is new. -/
def sweepFindings (s : State) (r : Region) (fails : List TestFail) : State :=
  let first := !s.spr.swept.contains r
  let found := fails.filterMap (failRecord r)
  let s := if first then
      each (s.spr.map.filter fun e => e.state == 0 && inRegion r e) (retestEntry found) s
    else s
  let s := if first then modSprBlk s fun p => { p with swept := p.swept ++ [r] } else s
  each fails (takeFinding r) s

/-! ## Starting and ending tests -/

/-- The device state forbids sweeps (R499). -/
def sweepsWait (s : State) : Bool :=
  s.pwr.state != .ready || s.pwr.entering.isSome || s.pwr.waking.isSome || s.rst.faceBusy
    || s.rst.courseBusy || (powerState s == 4 && (createdJobs s).any fun j => (jobOf s j).cmdHeld)

/-- A load, capture, rollback or state change is in progress on a job. -/
def jobBusy (s : State) (j : Nat) : Bool :=
  let x := jobOf s j
  x.state == .loading || x.capturing.isSome || x.replay.isSome || x.resetReq.isSome

/-- The rotation: region p of tiles 0–399, then groups 0–11; none where it takes no part. -/
def rotationAt (s : State) (p : Nat) : Option Region :=
  if p < 400 then
    if s.spr.tilesEn && !(tileOf s p).retired && !(tileOf s p).mustClear then some (.tile p) else none
  else if s.spr.groupsEn then some (.group (p - 400)) else none

/-- The next place of the rotation that takes part, from place `p` on. -/
def nextRegion (s : State) (p : Nat) : Option (Nat × Region) :=
  (List.range 412).findSome? fun i =>
    (rotationAt s ((p + i) % 412)).map fun r => ((p + i) % 412, r)

def deferSweep (s : State) (p : Nat) : State :=
  modSprBlk s fun x => { x with deferred := x.deferred + 1, pos := p }

/-- A region's test begins: a bound tile is moved aside first; none when no free tile exists. -/
def beginTest (s : State) (r : Region) : Option State :=
  match r with
  | .tile t =>
    match ownerOf s t with
    | some (j, vt) => planMove s j vt t false 0
    | none => some (modTile s t fun x => { x with underTest := true })
  | .group g => some (each (groupMasons s g) askPause s)
  | .router _ => some s

/-- Jobs that a region belongs to. -/
def regionJobs (s : State) : Region → List Nat
  | .tile t => match ownerOf s t with | some (j, _) => [j] | none => []
  | .group g => (groupMasons s g).filterMap fun m => (masonOf s m).job
  | .router _ => []

/-- A sweep whose tile has stayed bound after its move was dropped is over. -/
def dropStale (s : State) : State :=
  match s.spr.sweeping with
  | some (.tile t) =>
    if tileBound s t && !(s.spr.reloc.any fun m => m.src == t) then
      modSprBlk s fun x => { x with sweeping := none, skipped := x.skipped + 1 }
    else s
  | _ => s

/-- A slot of the rotation (R497–R499). -/
def sweepSlot (s : State) : State :=
  let s := dropStale s
  if s.spr.sweeping.isSome || s.spr.bist.isSome then s
  else match nextRegion s s.spr.pos with
    | none => s
    | some (p, r) =>
      let reserved := match r with | .tile t => (tileOf s t).reserved | _ => false
      if sweepsWait s || reserved || (regionJobs s r).any (jobBusy s) then deferSweep s p
      else match beginTest s r with
        | some s => modSprBlk s fun x => { x with sweeping := some r, pos := (p + 1) % 412 }
        | none => modSprBlk s fun x => { x with skipped := x.skipped + 1, pos := (p + 1) % 412 }

/-- The region stands ready: its tile in the spare pool or bound again to nobody by the move, its masons
paused. -/
def testReady (s : State) : Region → Bool
  | .tile t => !(s.spr.reloc.any fun m => m.frm == t || m.src == t && !m.copied)
  | .group g => (groupMasons s g).all fun m => pausedNow (masonOf s m)
  | .router _ => true

/-- The test of a region is over. -/
def endTest (s : State) : Region → State
  | .tile t => modTile s t fun x => { x with underTest := false }
  | .group g => resumeGroup s g
  | .router _ => s

def execSweepSlot (s : State) : Host.Outcome State Fault Refusal := .next (sweepSlot s)

def execSweepTestsDone (fails : List TestFail) (s : State) : Host.Outcome State Fault Refusal :=
  .next (
    match s.spr.sweeping with
    | none => s
    | some r =>
      let bound := match r with | .tile t => tileBound s t || (tileOf s t).reserved | _ => false
      if bound || !testReady s r then s
      else endTest (sweepFindings (modSprBlk s fun p => { p with sweeping := none }) r fails) r)

/-! ## CMD_BIST_RUN (R500, R493–R495) -/

def regionOk : Region → Bool
  | .tile t => decide (t < 400) | .group g => decide (g < 12) | .router r => decide (r < 100)

/-- Any job is loaded or loading. -/
def anyLoaded (s : State) : Bool := (createdJobs s).any fun j => (jobOf s j).state != .empty

/-- A tile that cannot be tested: retired, waiting for clearing, or reserved. -/
def tileAway (s : State) : Region → Bool
  | .tile t => (tileOf s t).retired || (tileOf s t).mustClear || (tileOf s t).reserved
  | _ => false

def execCmdBistRun (h : Hdr) (r : Region) (s : State) : Host.Outcome State Fault Refusal :=
  .next (runCmd s h 0x0802 .pf0 false fun _ =>
    if !regionOk r then fail s h 0x0802 .badParam
    else if s.spr.sweeping.isSome || s.spr.bist.isSome then fail s h 0x0802 .busy
    else if tileAway s r || (match r with | .router _ => anyLoaded s | _ => false) then
      fail s h 0x0802 .wrongState
    else match beginTest s r with
      | none => fail s h 0x0802 .noResource
      | some t =>
        if 16 ≤ s.hif.accepted.length then fail s h 0x0802 .busy
        else accept t h 0x0802 [] fun s => modSprBlk s fun p => { p with bist := some (h, r) })

/-- One flag per test of Table 16-6, 1 for pass, in the order of R498. -/
def testFlags (r : Region) (fails : List TestFail) : List (Nat × Nat) :=
  let none_ (p : TestFail → Bool) : Nat × Nat := (1, b2n (!fails.any p))
  match r with
  | .tile _ =>
    [ none_ fun f => match f with | .rowBond _ _ => true | .expressBond _ _ => true | _ => false,
      none_ fun f => match f with | .via _ => true | _ => false,
      none_ fun f => match f with | .logic => true | _ => false,
      none_ fun f => match f with
        | .courseRow _ _ => true | .slabRow _ _ => true | .slabCol _ _ => true | _ => false ]
  | _ => [none_ fun _ => true]

/-- A failed router: the four tiles above it retire; the way around it is a later EPOCH_CHANGE
(R495). -/
def routerFailed (s : State) (r : Nat) : State :=
  each ((List.range 400).filter fun t => tileRouter t == r) (fun s t => retireTile s t 1) s

def bistDone (s : State) (h : Hdr) (r : Region) (fails : List TestFail) : State :=
  let s := modSprBlk s fun p => { p with bist := none }
  let bad := fails.contains .routerBad
  let s := match r with
    | .router n => if bad then routerFailed s n else s
    | r => endTest (each fails (takeFinding r) s) r
  let st : St := match r with
    | .router n => if bad && blockRouters.contains n then .hwFault else .ok
    | _ => .ok
  complete (dropAccOf s 0x0802 h) h 0x0802 0x0E02 st (testFlags r fails)

def execBistDone (fails : List TestFail) (s : State) : Host.Outcome State Fault Refusal :=
  .next (
    match s.spr.bist with
    | some (h, r) => if testReady s r then bistDone s h r fails else s
    | none => s)

/-! ## Status and policy -/

/-- Repairs of a kind in effect. -/
def usedOf (s : State) (kind : Nat) : Nat := ((liveRepairs s).filter fun e => e.kind == kind).length

/-- Spares of Table 16-1 by kind, whole device; LP5X repair resources are the dies' own. -/
def spareTotals : List (Nat × Nat) :=
  [(2, 3276800), (3, 76800), (4, 1433600), (5, 38400), (6, 38400), (7, 2048), (8, 64), (9, 12), (10, 12)]

/-- CMD_SPARE_STATUS (Table 16-8). -/
def execCmdSpareStatus (h : Hdr) (s : State) : Host.Outcome State Fault Refusal :=
  .next (runCmd s h 0x0801 .pf0 false fun _ =>
    let p := s.spr
    answer s h 0x0801 (packFields (
      [(4, retiredCount s), (4, freeTiles s)]
      ++ (spareTotals.flatMap fun k => [(4, usedOf s k.1), (4, k.2 - usedOf s k.1)])
      ++ [(4, usedOf s 11), (2, allocable s), (2, p.map.length), (1, p.fusesUsed), (1, b2n p.mapFull),
          (1, b2n p.fusesFull), (4, p.deferred), (4, p.skipped), (4, p.poweredHours), (4, p.hotHours)])))

def execCmdSweepPolicy (h : Hdr) (hours : Nat) (tiles groups : Bool) (s : State) :
    Host.Outcome State Fault Refusal :=
  .next (runCmd s h 0x0803 .pf0 false fun _ =>
    if hours < 1 ∨ 168 < hours then fail s h 0x0803 .badParam
    else answer (modSprBlk s fun p => { p with hours := hours, tilesEn := tiles, groupsEn := groups })
      h 0x0803 [])

/-- A fuse entry: bits [40:0] of the map entry under SEC-DED check bits (R483). What an entry that failed
its read-back holds is not stated, so it is free. -/
def fuseEntry (acc : List (List Byte) × State) (r : Repair) : List (List Byte) × State :=
  if r.kind = 0 then
    let (v, s) := takeFree acc.2 48
    (acc.1 ++ [leBytes 6 v.toNat], s)
  else (acc.1 ++ [leBytes 6 (secEncode 7 41 (repairWord r % 2 ^ 41))], acc.2)

/-- CMD_REPAIR_MAP: the soft map, then the fuse entries. -/
def execCmdRepairMap (h : Hdr) (b : Bulk) (s : State) : Host.Outcome State Fault Refusal :=
  .next (runCmd s h 0x0804 .pf0 false fun _ =>
    let (fuses, s) := s.spr.fuses.foldl fuseEntry ([], s)
    bulkOut s h 0x0804 b ((s.spr.map.map fun r => leBytes 16 (repairWord r)) ++ fuses))

/-! ## Relocation (Table 16-5) -/

/-- Every sampled request of a virtual tile has been answered. -/
def requestsDone (x : Job) (vt : Nat) : Bool := x.memReqs.all fun r => r.vt != vt || r.result.isSome

/-- A source that has been moved aside for a test is now under test. -/
def markTest (s : State) (t : Nat) : State :=
  let on := s.spr.sweeping == some (.tile t) || (s.spr.bist.map (·.2)) == some (.tile t)
  if on then modTile s t fun x => { x with underTest := true } else s

def copyOne (readFail : Bool) (s : State) (r : Reloc) : State :=
  let s := markTest (moveTile s r readFail) r.frm
  modSprBlk s fun p => { p with reloc := p.reloc.map fun q => if q = r then { q with copied := true } else q }

/-- Steps 3 to 5, all relocations pending for the job. A failed copy leads to a rollback after the
verdict, or to STATE 6 (R491). -/
def relocate (s : State) (j : Nat) (goldenBad readFail : Bool) : State :=
  let rs := (relocsOf s j).filter fun r => !r.copied
  let img := (jobOf s j).image.getD {}
  let (bad, s) := rs.foldl (fun acc r =>
    let (b, s) := readBlock acc.2 img r.vt
    (acc.1 || b, s)) (goldenBad, s)
  if bad then goldenLost s j
  else
    let s := each rs (copyOne readFail) s
    if readFail && !((jobOf s j).replay.isSome || mayRollBack s j) then stopJob (endRelocs s j) j
    else modJob s j fun x =>
      { x with go := false, rewriting := true, wantRollback := x.wantRollback || readFail }

def execRelocationCopy (job : Nat) (goldenBad readFail : Bool) (s : State) :
    Host.Outcome State Fault Refusal :=
  atUnit (decide (job < 8)) (
    let x := jobOf s job
    let rs := (relocsOf s job).filter fun r => !r.copied
    if rs.isEmpty || !faultHeld s x || !rs.all (fun r => requestsDone x r.vt) then s
    else relocate s job goldenBad readFail)

/-! ## Switching (R486, R487) -/

/-- The job's repairs are made, and their hold ends. -/
def switchJob (s : State) (j : Nat) : State :=
  let mine := s.spr.toSwitch.filter fun e => e.1 == j
  let s := modSprBlk s fun p => { p with toSwitch := p.toSwitch.filter fun e => e.1 != j }
  let s := each mine (fun s e => switchIn s e.2) s
  modJob s j fun x =>
    let keep := x.faults.filter (· != .spareSwitch)
    setWait 1 (!keep.isEmpty)
      { x with faults := keep,
               state := if x.state = .heldFault ∧ keep.isEmpty ∧ x.replay.isNone then runState x else x.state }

def execSpareSwitch (job : Nat) (s : State) : Host.Outcome State Fault Refusal :=
  atUnit (decide (job < 8))
    (if s.spr.toSwitch.any (fun e => e.1 == job) && standsHeld s job then switchJob s job else s)

/-- A near frame leaves use after its page is demoted (R487). -/
def nearFrameOut (s : State) (f : Nat) : State :=
  let into := s.mem.moves.filterMap fun m =>
    if (pptOf s m.1).state = .migrating ∧ !(pptOf s m.1).dir ∧ (pptOf s m.1).nearFrame = f then some m.1 else none
  let s := each (into ++ (mapGet s.mem.reverse none f).toList) (fun s p => demoteNow (cancelMoves s p) p) s
  modMemBlk s fun m => { m with nearOut := if m.nearOut.contains f then m.nearOut else m.nearOut ++ [f] }

/-- A bed-memory row of 128 bytes: frame n lies in bank n mod 4 (R387), 8,192 rows to a frame. -/
def bedRow (s : State) (bank row : Nat) : State :=
  let loc := bank + row * 4
  if repaired s 7 loc then s
  else match lowestSpare s 7 loc with
    | some i => addRepair s 7 loc i
    | none => if row / 8192 * 4 + bank < 992 then nearFrameOut s (row / 8192 * 4 + bank) else s

/-- A hod-store row of 16 words; without a spare its block leaves the free pool. -/
def hodStoreRow (s : State) (row : Nat) : State :=
  if repaired s 8 row then s
  else match lowestSpare s 8 row with
    | some i => addRepair s 8 row i
    | none => modPalBlk s fun p =>
        { p with blocksOut := if p.blocksOut.contains row then p.blocksOut else p.blocksOut ++ [row] }

def execBedRowSpare (hodStore : Bool) (bank row : Nat) (s : State) :
    Host.Outcome State Fault Refusal :=
  atUnit (if hodStore then decide (row < 65536) else decide (bank < 4) && decide (row < 2 ^ 21))
    (if hodStore then hodStoreRow s row else bedRow s bank row)

/-! ## eFuses (R482–R484) -/

/-- A confirmed entry, to be burned: not one of kind 11, which hard repair makes permanent (R233, R482). -/
def confirmed (e : Repair) : Bool :=
  confirmedEntry e && e.kind != 11 && e.kind != 0

/-- One entry is burned and read back; a bad read-back leaves a dead fuse entry. -/
def burn (s : State) (i : Nat) (ok : Bool) : State :=
  match s.spr.map[i]? with
  | none => s
  | some e =>
    if !confirmed e then s
    else if 128 ≤ s.spr.fusesUsed then modSprBlk s fun p => { p with fusesFull := true }
    else modSprBlk s fun p =>
      { p with fusesUsed := p.fusesUsed + 1, fuses := p.fuses ++ [if ok then e else {}],
               map := listMod p.map i fun q => if ok then { q with state := 1 } else q }

def execEfuseBurn (index : Nat) (readBackOk : Bool) (s : State) : Host.Outcome State Fault Refusal :=
  .next (burn s index readBackOk)

end Sys2Proof.Machine
end

