-- ==== Sys2Proof/Machine/Spine.lean ====
section
/-! DEFINITION. The commands and events of the spine network (chapter 12). -/

namespace Sys2Proof.Machine

/-- A packet from injection to delivery, fence sink or BAD_DEST; nothing moves while the SPINE domain is
stopped (R8, R417). -/
def execSpinePacket (header : BitVec 128) (busy : List (List (BitVec 5))) (ups : List Upset) (s : State) :
    Host.Outcome State Fault Refusal :=
  atUnit (decide (hVn header < 5) && nodeKnown (hSrc header) && subKnown (hSrc header) (hSrcSub header))
    (if s.clk.domainsOn then sendPacket (upsets s ups) header busy else upsets s ups)

/-- An epoch change, once the previous one is over (R394). Reserved entry values are never written. -/
def execEpochChange (routes : List (Nat × Nat × Nat)) (fences : List (Nat × BitVec 6)) (s : State) :
    Host.Outcome State Fault Refusal :=
  atUnit (routes.all (fun e => decide (e.1 < 100) && decide (e.2.1 < 136))
      && fences.all (fun e => decide (e.1 < 100)))
    (if epochBusy s || !routes.all (fun e => decide (e.2.2 ≤ 4)) then s else epochChange s routes fences)

def execOldCountZero (s : State) : Host.Outcome State Fault Refusal := .next (oldCountZero s)

/-- Steps 1 and 2 of Table 12-5. -/
def execDomainPowerDown (group : Nat) (s : State) : Host.Outcome State Fault Refusal :=
  atUnit (decide (group < 12)) (if mayPowerDown s group then startPowerDown s group s.pwr.entering else s)

/-- The CMD_MSN_UNASSIGN that asked for a power-down is answered; assignments that came into the group
meanwhile go on: it is powered up for them again, if it went off (R284, R397). -/
def askerDone (s : State) (d : PowerDown) (st : St) : State :=
  let s := match d.hdr with
    | some h => if s.pwr.entering = some h then s else respond s h 0x0609 st []
    | none => s
  if s.pwr.entering.isSome then s
  else finishAssign (powerGroups s (groupsOf (s.msn.assigning.flatMap fun e => e.2.2)))

/-- Step 4: the domain's SPN_DRAIN is 0. -/
def execDrainDone (s : State) : Host.Outcome State Fault Refusal :=
  .next (
    match s.spn.down with
    | some d =>
      if groupDrain s d.group = 0 then
        askerDone (groupDown (modSpnBlk s fun x => { x with down := none }) d.group) d .ok
      else s
    | none => s)

/-- Step 5: the power-down aborts; a DEEP HOLD entry stops with ST_TIMEOUT (R437). -/
def execDrainTimeout (s : State) : Host.Outcome State Fault Refusal :=
  .next (
    match s.spn.down with
    | some d =>
      let s := unfenceGroup (modSpnBlk s fun x => { x with down := none }) d.group
      let s := emitDev s 0x0B03 []
      if s.pwr.entering.isSome ∧ d.hdr = s.pwr.entering then stopEntry s else askerDone s d .timeout
    | none => s)

def execTraceRecordWrite (s : State) : Host.Outcome State Fault Refusal := .next (writeTrace s)

/-- CMD_SPN_PROBE: configuration, MATCH and MASK of one probe. -/
def execCmdSpnProbe (h : Hdr) (probe : Nat) (cfg mtch mask : BitVec 64) (s : State) :
    Host.Outcome State Fault Refusal :=
  .next (runCmd s h 0x0920 .pf0 false fun _ =>
    if 16 ≤ probe ∨ 100 ≤ field cfg.toNat 7 1 ∨ 6 ≤ field cfg.toNat 10 8 then
      fail s h 0x0920 .badParam
    else
      let p : Probe := { cfg := cfg &&& 0x1FFFF, mtch := mtch, mask := mask }
      answer (modSpnBlk s fun x => { x with probes := mapPut x.probes {} probe p }) h 0x0920 [])

/-- CMD_SPN_TRACE writing SPN_TRACE_CTL: EN from 0 to 1 starts a new trace. -/
def execCmdSpnTraceControl (h : Hdr) (w : BitVec 64) (s : State) : Host.Outcome State Fault Refusal :=
  .next (runCmd s h 0x0921 .pf0 false fun _ =>
    answer (modSpnBlk s fun x =>
      if w.getLsbD 0 && !x.trcEn then
        { x with trcEn := true, trcWrap := w.getLsbD 1, trcNext := 0, trcLost := 0, trcFull := false }
      else { x with trcEn := w.getLsbD 0, trcWrap := w.getLsbD 1 }) h 0x0921 [])

/-- CMD_SPN_TRACE copying records out, while EN is 0 (R402). -/
def execCmdSpnTraceCopy (h : Hdr) (first count : Nat) (b : Bulk) (s : State) :
    Host.Outcome State Fault Refusal :=
  .next (runCmd s h 0x0921 .pf0 false fun _ =>
    if s.spn.trcEn then fail s h 0x0921 .wrongState
    else if !rangeOk first count traceSize traceSize then fail s h 0x0921 .badParam
    else bulkOut s h 0x0921 b ((List.range count).map fun i =>
      leBytes 32 (mapGet s.spn.trcBuf 0 (first + i)).toNat))

/-- SPN_EPOCH (Table 12-4). -/
def epochWord (s : State) : Nat :=
  b2n s.spn.inject + b2n s.spn.flipping * 2 + s.spn.oldCount.toNat * 4

def countSum (m : SMap Nat) : Nat := m.foldl (fun n e => n + e.2) 0

/-- CMD_SPN_STATUS: SPN_EPOCH, the drain counters of the mason groups, the discard counts. -/
def execCmdSpnStatus (h : Hdr) (s : State) : Host.Outcome State Fault Refusal :=
  .next (runCmd s h 0x0922 .pf0 false fun _ =>
    answer s h 0x0922 (packFields ([(8, epochWord s)]
      ++ (List.range 12).map (fun g => (4, groupDrain s g))
      ++ [(4, sat32 (countSum s.spn.badDest)), (4, sat32 (countSum s.spn.fenceDisc))])
      ++ (s.spn.fenceDisc.flatMap fun e => leBytes 4 e.1 ++ leBytes 4 (sat32 e.2))))

end Sys2Proof.Machine
end

