-- ==== Sys2Proof/Machine/Dispatch.lean ====
section
/-! DEFINITION. exec: one arm per command, each a direct call of its meaning. -/

namespace Sys2Proof.Machine

open Sys2Proof

def exec (i : Instr) (s : State) : Host.Outcome State Fault Refusal :=
  match i with
  | .sequencerSample job cycles ups => Sys2Proof.Machine.execSequencerSample job cycles ups s
  | .boundaryConditionsMet job cycles waited ups => Sys2Proof.Machine.execBoundaryConditionsMet job cycles waited ups s
  | .courseEnd job trig ups => Sys2Proof.Machine.execCourseEnd job trig ups s
  | .trowelVerdict job ups => Sys2Proof.Machine.execTrowelVerdict job ups s
  | .storeWriteback tile brick => Sys2Proof.Machine.execStoreWriteback tile brick s
  | .staticPreload job ups => Sys2Proof.Machine.execStaticPreload job ups s
  | .refreshTimerExpiry job => Sys2Proof.Machine.execRefreshTimerExpiry job s
  | .refreshSweep job ups => Sys2Proof.Machine.execRefreshSweep job ups s
  | .refreshSweepEnd job => Sys2Proof.Machine.execRefreshSweepEnd job s
  | .holdingSweep tile => Sys2Proof.Machine.execHoldingSweep tile s
  | .faultHoldHandling job goldenBad => Sys2Proof.Machine.execFaultHoldHandling job goldenBad s
  | .mismatchListExpiry => Sys2Proof.Machine.execMismatchListExpiry s
  | .storeSweepRead tile ups => Sys2Proof.Machine.execStoreSweepRead tile ups s
  | .trwRegisterAudit ups => Sys2Proof.Machine.execTrwRegisterAudit ups s
  | .voteFix tile ups => Sys2Proof.Machine.execVoteFix tile ups s
  | .trowelStop tile ups => Sys2Proof.Machine.execTrowelStop tile ups s
  | .cmdImageLoad h noRelease b => Sys2Proof.Machine.execCmdImageLoad h noRelease b s
  | .imageHeader bytes => Sys2Proof.Machine.execImageHeader bytes s
  | .imageDescriptor bytes => Sys2Proof.Machine.execImageDescriptor bytes s
  | .imageTileBlock bytes => Sys2Proof.Machine.execImageTileBlock bytes s
  | .imageSlabBlock bytes => Sys2Proof.Machine.execImageSlabBlock bytes s
  | .imageSignatureTable bytes => Sys2Proof.Machine.execImageSignatureTable bytes s
  | .imageEndRecord bytes => Sys2Proof.Machine.execImageEndRecord bytes s
  | .tileRebind vt => Sys2Proof.Machine.execTileRebind vt s
  | .loadSilenceTimeout => Sys2Proof.Machine.execLoadSilenceTimeout s
  | .cmdImageAbort h => Sys2Proof.Machine.execCmdImageAbort h s
  | .cmdImageReadbackGolden h vfirst vcount cfirst ccount b => Sys2Proof.Machine.execCmdImageReadbackGolden h vfirst vcount cfirst ccount b s
  | .cmdImageReadbackPlanes h vfirst vcount cfirst ccount b => Sys2Proof.Machine.execCmdImageReadbackPlanes h vfirst vcount cfirst ccount b s
  | .cmdChainArm h => Sys2Proof.Machine.execCmdChainArm h s
  | .cmdChainDisarm h => Sys2Proof.Machine.execCmdChainDisarm h s
  | .chainData => Sys2Proof.Machine.execChainData s
  | .chainSessionSilence => Sys2Proof.Machine.execChainSessionSilence s
  | .chainAbort => Sys2Proof.Machine.execChainAbort s
  | .chainPortsRestore => Sys2Proof.Machine.execChainPortsRestore s
  | .cmdMemMap h first count => Sys2Proof.Machine.execCmdMemMap h first count s
  | .memMapDone => Sys2Proof.Machine.execMemMapDone s
  | .cmdMemUnmap h first count => Sys2Proof.Machine.execCmdMemUnmap h first count s
  | .designMemoryAccess job ups => Sys2Proof.Machine.execDesignMemoryAccess job ups s
  | .farLineRead master line ups => Sys2Proof.Machine.execFarLineRead master line ups s
  | .farLineWrite master addr data => Sys2Proof.Machine.execFarLineWrite master addr data s
  | .tileMemoryReply job vt port => Sys2Proof.Machine.execTileMemoryReply job vt port s
  | .plcEntryRebuild page => Sys2Proof.Machine.execPlcEntryRebuild page s
  | .placementEpochEnd => Sys2Proof.Machine.execPlacementEpochEnd s
  | .pageMigrationDone page ups => Sys2Proof.Machine.execPageMigrationDone page ups s
  | .cmdPlcPolicy h k => Sys2Proof.Machine.execCmdPlcPolicy h k s
  | .cmdPlcQuery h first count => Sys2Proof.Machine.execCmdPlcQuery h first count s
  | .cmdMemPinPin h first count alsoExclude => Sys2Proof.Machine.execCmdMemPinPin h first count alsoExclude s
  | .cmdMemPinExclude h first count => Sys2Proof.Machine.execCmdMemPinExclude h first count s
  | .cmdMemPinClear h first count => Sys2Proof.Machine.execCmdMemPinClear h first count s
  | .cmdMemPageReset h page => Sys2Proof.Machine.execCmdMemPageReset h page s
  | .pageResetDone => Sys2Proof.Machine.execPageResetDone s
  | .cmdMemRegions h r => Sys2Proof.Machine.execCmdMemRegions h r s
  | .cmdMemRights h master rights => Sys2Proof.Machine.execCmdMemRights h master rights s
  | .cmdMemDmaAssign h channel fn => Sys2Proof.Machine.execCmdMemDmaAssign h channel fn s
  | .cmdMemQuarantineRead h first => Sys2Proof.Machine.execCmdMemQuarantineRead h first s
  | .cmdMemQuarantineRemove h page => Sys2Proof.Machine.execCmdMemQuarantineRemove h page s
  | .bar4Read fn addr len ups => Sys2Proof.Machine.execBar4Read fn addr len ups s
  | .bar4Write fn addr data ups => Sys2Proof.Machine.execBar4Write fn addr data ups s
  | .mbxDmaDoorbell fn channel value => Sys2Proof.Machine.execMbxDmaDoorbell fn channel value s
  | .dmaDescriptor channel desc data ups => Sys2Proof.Machine.execDmaDescriptor channel desc data ups s
  | .dmaDescriptorComplete channel => Sys2Proof.Machine.execDmaDescriptorComplete channel s
  | .mbxDmaRestart fn channel => Sys2Proof.Machine.execMbxDmaRestart fn channel s
  | .lp5xRefresh channel => Sys2Proof.Machine.execLp5xRefresh channel s
  | .mr4Read channel code degC => Sys2Proof.Machine.execMr4Read channel code degC s
  | .dqsOscMeasure channel osc => Sys2Proof.Machine.execDqsOscMeasure channel osc s
  | .dqRetrainPause channel inWindow => Sys2Proof.Machine.execDqRetrainPause channel inWindow s
  | .channelTrainingDone channel ok osc => Sys2Proof.Machine.execChannelTrainingDone channel ok osc s
  | .fullTraining => Sys2Proof.Machine.execFullTraining s
  | .fullTrainingDone failed oscs => Sys2Proof.Machine.execFullTrainingDone failed oscs s
  | .pprSoftRepair line resource => Sys2Proof.Machine.execPprSoftRepair line resource s
  | .cmdMemScrub h first bytes share b => Sys2Proof.Machine.execCmdMemScrub h first bytes share b s
  | .cmdMemScrubAbort h => Sys2Proof.Machine.execCmdMemScrubAbort h s
  | .scrubLine ups => Sys2Proof.Machine.execScrubLine ups s
  | .cmdMemEccDiagWriteFar h addr cipher tag check => Sys2Proof.Machine.execCmdMemEccDiagWriteFar h addr cipher tag check s
  | .cmdMemEccDiagReadFar h addr => Sys2Proof.Machine.execCmdMemEccDiagReadFar h addr s
  | .cmdMemEccDiagWriteChip h target addr data check => Sys2Proof.Machine.execCmdMemEccDiagWriteChip h target addr data check s
  | .cmdMemEccDiagReadChip h target addr => Sys2Proof.Machine.execCmdMemEccDiagReadChip h target addr s
  | .cmdMemRepairList h => Sys2Proof.Machine.execCmdMemRepairList h s
  | .cmdMemRepairRequest h addr => Sys2Proof.Machine.execCmdMemRepairRequest h addr s
  | .cmdMemRetain h retain => Sys2Proof.Machine.execCmdMemRetain h retain s
  | .cmdMemChStatus h first count => Sys2Proof.Machine.execCmdMemChStatus h first count s
  | .cmdHodCreate h p => Sys2Proof.Machine.execCmdHodCreate h p s
  | .cmdHodDestroy h hod => Sys2Proof.Machine.execCmdHodDestroy h hod s
  | .cmdHodFlush h hod => Sys2Proof.Machine.execCmdHodFlush h hod s
  | .cmdHodQuery h hod => Sys2Proof.Machine.execCmdHodQuery h hod s
  | .cmdHodQueryClear h hod => Sys2Proof.Machine.execCmdHodQueryClear h hod s
  | .hodPushWord src hod start last prio data poison => Sys2Proof.Machine.execHodPushWord src hod start last prio data poison s
  | .hodPushMid fn hod size value => Sys2Proof.Machine.execHodPushMid fn hod size value s
  | .hodPushFirst fn hod size value => Sys2Proof.Machine.execHodPushFirst fn hod size value s
  | .hodPushLast fn hod size value => Sys2Proof.Machine.execHodPushLast fn hod size value s
  | .hodPushOnly fn hod size value => Sys2Proof.Machine.execHodPushOnly fn hod size value s
  | .hodPop fn hod ups => Sys2Proof.Machine.execHodPop fn hod ups s
  | .hodCtlFlush fn hod => Sys2Proof.Machine.execHodCtlFlush fn hod s
  | .cmdPalHandlers h first entries => Sys2Proof.Machine.execCmdPalHandlers h first entries s
  | .cmdPalFlowRead h flow => Sys2Proof.Machine.execCmdPalFlowRead h flow s
  | .cmdPalFlowReset h flow => Sys2Proof.Machine.execCmdPalFlowReset h flow s
  | .cmdPalPolicy h band => Sys2Proof.Machine.execCmdPalPolicy h band s
  | .cmdPalStats h flows first => Sys2Proof.Machine.execCmdPalStats h flows first s
  | .palletDispatch job => Sys2Proof.Machine.execPalletDispatch job s
  | .releaseBufferDrain => Sys2Proof.Machine.execReleaseBufferDrain s
  | .cmdMsnAssign h masons => Sys2Proof.Machine.execCmdMsnAssign h masons s
  | .cmdMsnUnassign h masons => Sys2Proof.Machine.execCmdMsnUnassign h masons s
  | .cmdMsnControlStart h masons => Sys2Proof.Machine.execCmdMsnControlStart h masons s
  | .cmdMsnControlReset h group masons => Sys2Proof.Machine.execCmdMsnControlReset h group masons s
  | .cmdMsnControlClock h group mhz => Sys2Proof.Machine.execCmdMsnControlClock h group mhz s
  | .cmdMsnControlPauseTimeout h us => Sys2Proof.Machine.execCmdMsnControlPauseTimeout h us s
  | .cmdMsnLoad h masons b => Sys2Proof.Machine.execCmdMsnLoad h masons b s
  | .msnLoadDone => Sys2Proof.Machine.execMsnLoadDone s
  | .cmdMsnStatus h masons => Sys2Proof.Machine.execCmdMsnStatus h masons s
  | .hodPush m funct7 rs2 rs1 rd => Sys2Proof.Machine.execHodPush m funct7 rs2 rs1 rd s
  | .hodPushl m funct7 rs2 rs1 rd => Sys2Proof.Machine.execHodPushl m funct7 rs2 rs1 rd s
  | .hodPopInstruction m funct7 rs1 rd ups => Sys2Proof.Machine.execHodPopInstruction m funct7 rs1 rd ups s
  | .hodStat m funct7 rs1 rd => Sys2Proof.Machine.execHodStat m funct7 rs1 rd s
  | .hodWait m funct7 rs1 rd => Sys2Proof.Machine.execHodWait m funct7 rs1 rd s
  | .hodWaitWake m => Sys2Proof.Machine.execHodWaitWake m s
  | .wfi m => Sys2Proof.Machine.execWfi m s
  | .palGet m funct7 rs1 rd => Sys2Proof.Machine.execPalGet m funct7 rs1 rd s
  | .palDone m funct7 rd => Sys2Proof.Machine.execPalDone m funct7 rd s
  | .palPusho m funct7 rs2 rs1 rd => Sys2Proof.Machine.execPalPusho m funct7 rs2 rs1 rd s
  | .palPushoEntryFree m => Sys2Proof.Machine.execPalPushoEntryFree m s
  | .masonDesignLoad m op ups => Sys2Proof.Machine.execMasonDesignLoad m op ups s
  | .masonDesignStore m op ups => Sys2Proof.Machine.execMasonDesignStore m op ups s
  | .peerWindowAccess m op => Sys2Proof.Machine.execPeerWindowAccess m op s
  | .counterCsrRead m csr rd => Sys2Proof.Machine.execCounterCsrRead m csr rd s
  | .mret m => Sys2Proof.Machine.execMret m s
  | .masonPaused m => Sys2Proof.Machine.execMasonPaused m s
  | .masonPauseTimeout job => Sys2Proof.Machine.execMasonPauseTimeout job s
  | .masonSubstitution m => Sys2Proof.Machine.execMasonSubstitution m s
  | .laneTraining port signal inverted reqs asks => Sys2Proof.Machine.execLaneTraining port signal inverted reqs asks s
  | .laneTrainingDone port ready marks => Sys2Proof.Machine.execLaneTrainingDone port ready marks s
  | .portBringupTimeout port => Sys2Proof.Machine.execPortBringupTimeout port s
  | .init port b => Sys2Proof.Machine.execInit port b s
  | .sequencedFlit port slot bytes errs => Sys2Proof.Machine.execSequencedFlit port slot bytes errs s
  | .ack port last freed0 freed1 freed2 => Sys2Proof.Machine.execAck port last freed0 freed1 freed2 s
  | .nak port expected freed0 freed1 freed2 => Sys2Proof.Machine.execNak port expected freed0 freed1 freed2 s
  | .ackSend port => Sys2Proof.Machine.execAckSend port s
  | .ackTimeout port => Sys2Proof.Machine.execAckTimeout port s
  | .quietEnter port => Sys2Proof.Machine.execQuietEnter port s
  | .quietIdleExpiry port => Sys2Proof.Machine.execQuietIdleExpiry port s
  | .quietWake port => Sys2Proof.Machine.execQuietWake port s
  | .retrainReq port => Sys2Proof.Machine.execRetrainReq port s
  | .laneLockLoss lane => Sys2Proof.Machine.execLaneLockLoss lane s
  | .codewordBurst lane => Sys2Proof.Machine.execCodewordBurst lane s
  | .laneErrorWindow lane => Sys2Proof.Machine.execLaneErrorWindow lane s
  | .linkTimeoutExpiry port => Sys2Proof.Machine.execLinkTimeoutExpiry port s
  | .remoteHodItem port => Sys2Proof.Machine.execRemoteHodItem port s
  | .remoteHodCreditGrant port => Sys2Proof.Machine.execRemoteHodCreditGrant port s
  | .remoteHodSend hod ups => Sys2Proof.Machine.execRemoteHodSend hod ups s
  | .managementMessage port => Sys2Proof.Machine.execManagementMessage port s
  | .cmdLryPortCfg h port cfg linkTimeoutUs ackTimeoutUs => Sys2Proof.Machine.execCmdLryPortCfg h port cfg linkTimeoutUs ackTimeoutUs s
  | .cmdLryPortStatus h first count => Sys2Proof.Machine.execCmdLryPortStatus h first count s
  | .cmdLryLaneTaps h lane w => Sys2Proof.Machine.execCmdLryLaneTaps h lane w s
  | .cmdLryLanePower h lane tx power => Sys2Proof.Machine.execCmdLryLanePower h lane tx power s
  | .cmdLryLaneTest h lane w => Sys2Proof.Machine.execCmdLryLaneTest h lane w s
  | .cmdLryLaneWords h lane w => Sys2Proof.Machine.execCmdLryLaneWords h lane w s
  | .injGo lane symbols => Sys2Proof.Machine.execInjGo lane symbols s
  | .slip lane levels => Sys2Proof.Machine.execSlip lane levels s
  | .cmdLryFwdWrite h entries => Sys2Proof.Machine.execCmdLryFwdWrite h entries s
  | .cmdLryFwdRead h streams => Sys2Proof.Machine.execCmdLryFwdRead h streams s
  | .cmdLryRouteWrite h entries => Sys2Proof.Machine.execCmdLryRouteWrite h entries s
  | .cmdLryRouteRead h ordinals => Sys2Proof.Machine.execCmdLryRouteRead h ordinals s
  | .cmdLryPortResetRetrain h port => Sys2Proof.Machine.execCmdLryPortResetRetrain h port s
  | .cmdLryPortResetReset h port => Sys2Proof.Machine.execCmdLryPortResetReset h port s
  | .cmdLryPortResetClearMarks h port => Sys2Proof.Machine.execCmdLryPortResetClearMarks h port s
  | .cmdArrOrdinal h ordinal => Sys2Proof.Machine.execCmdArrOrdinal h ordinal s
  | .cmdArrStream h stream e => Sys2Proof.Machine.execCmdArrStream h stream e s
  | .cmdArrCkptPolicy h interval => Sys2Proof.Machine.execCmdArrCkptPolicy h interval s
  | .cmdArrRollbackLocal h => Sys2Proof.Machine.execCmdArrRollbackLocal h s
  | .cmdArrRollbackGlobal h k epoch => Sys2Proof.Machine.execCmdArrRollbackGlobal h k epoch s
  | .cmdArrCkptExport h b => Sys2Proof.Machine.execCmdArrCkptExport h b s
  | .cmdArrCkptImport h e b => Sys2Proof.Machine.execCmdArrCkptImport h e b s
  | .cmdArrStatus h => Sys2Proof.Machine.execCmdArrStatus h s
  | .jointFrame port => Sys2Proof.Machine.execJointFrame port s
  | .barrierToken port => Sys2Proof.Machine.execBarrierToken port s
  | .checkpointCut job => Sys2Proof.Machine.execCheckpointCut job s
  | .ckptDone job failed => Sys2Proof.Machine.execCkptDone job failed s
  | .checkpointMarker port => Sys2Proof.Machine.execCheckpointMarker port s
  | .shadowPop job vt port => Sys2Proof.Machine.execShadowPop job vt port s
  | .replayDone job => Sys2Proof.Machine.execReplayDone job s
  | .resendRequest port => Sys2Proof.Machine.execResendRequest port s
  | .spinePacket header busy ups => Sys2Proof.Machine.execSpinePacket header busy ups s
  | .epochChange routes fences => Sys2Proof.Machine.execEpochChange routes fences s
  | .oldCountZero => Sys2Proof.Machine.execOldCountZero s
  | .domainPowerDown group => Sys2Proof.Machine.execDomainPowerDown group s
  | .drainDone => Sys2Proof.Machine.execDrainDone s
  | .drainTimeout => Sys2Proof.Machine.execDrainTimeout s
  | .traceRecordWrite => Sys2Proof.Machine.execTraceRecordWrite s
  | .cmdSpnProbe h probe cfg mtch mask => Sys2Proof.Machine.execCmdSpnProbe h probe cfg mtch mask s
  | .cmdSpnTraceControl h w => Sys2Proof.Machine.execCmdSpnTraceControl h w s
  | .cmdSpnTraceCopy h first count b => Sys2Proof.Machine.execCmdSpnTraceCopy h first count b s
  | .cmdSpnStatus h => Sys2Proof.Machine.execCmdSpnStatus h s
  | .safeWindow count => Sys2Proof.Machine.execSafeWindow count s
  | .safeTimeout => Sys2Proof.Machine.execSafeTimeout s
  | .refWindow count => Sys2Proof.Machine.execRefWindow count s
  | .refMissingEdge => Sys2Proof.Machine.execRefMissingEdge s
  | .refHoldoverEnd => Sys2Proof.Machine.execRefHoldoverEnd s
  | .refRestore => Sys2Proof.Machine.execRefRestore s
  | .pllEnable pll mhz => Sys2Proof.Machine.execPllEnable pll mhz s
  | .pllStable pll => Sys2Proof.Machine.execPllStable pll s
  | .dividerStep domain => Sys2Proof.Machine.execDividerStep domain s
  | .fabRampStart => Sys2Proof.Machine.execFabRampStart s
  | .sourceSwitch domain => Sys2Proof.Machine.execSourceSwitch domain s
  | .forcedSwitch domain => Sys2Proof.Machine.execForcedSwitch domain s
  | .cmdClkFab h mhz => Sys2Proof.Machine.execCmdClkFab h mhz s
  | .cmdClkStatus h clkMask rstMask => Sys2Proof.Machine.execCmdClkStatus h clkMask rstMask s
  | .resetNLow cycles => Sys2Proof.Machine.execResetNLow cycles s
  | .perstNLow => Sys2Proof.Machine.execPerstNLow s
  | .perstNRise => Sys2Proof.Machine.execPerstNRise s
  | .cmdRstDieCourse h => Sys2Proof.Machine.execCmdRstDieCourse h s
  | .cmdRstDieFace h => Sys2Proof.Machine.execCmdRstDieFace h s
  | .viasEmpty => Sys2Proof.Machine.execViasEmpty s
  | .courseDieCleared goldenBad => Sys2Proof.Machine.execCourseDieCleared goldenBad s
  | .cmdJobReset h => Sys2Proof.Machine.execCmdJobReset h s
  | .vin48Apply => Sys2Proof.Machine.execVin48Apply s
  | .vin48Qualified => Sys2Proof.Machine.execVin48Qualified s
  | .railInRange rail => Sys2Proof.Machine.execRailInRange rail s
  | .vin48Fail => Sys2Proof.Machine.execVin48Fail s
  | .pwrEnRise lowUs => Sys2Proof.Machine.execPwrEnRise lowUs s
  | .pwrEnFall => Sys2Proof.Machine.execPwrEnFall s
  | .domainClearDone group => Sys2Proof.Machine.execDomainClearDone group s
  | .bootRomStart => Sys2Proof.Machine.execBootRomStart s
  | .powerLinkLoss => Sys2Proof.Machine.execPowerLinkLoss s
  | .powerTelemetry rails => Sys2Proof.Machine.execPowerTelemetry rails s
  | .inputPowerMeasure vinMv iinMa avgW instW over1050ms10 over1300us20 => Sys2Proof.Machine.execInputPowerMeasure vinMv iinMa avgW instW over1050ms10 over1300us20 s
  | .railWarn rail => Sys2Proof.Machine.execRailWarn rail s
  | .supplyGlitch source => Sys2Proof.Machine.execSupplyGlitch source s
  | .kilnConversion face course bed => Sys2Proof.Machine.execKilnConversion face course bed s
  | .kilnClear => Sys2Proof.Machine.execKilnClear s
  | .killAssert => Sys2Proof.Machine.execKillAssert s
  | .thermTripEvent => Sys2Proof.Machine.execThermTripEvent s
  | .coolingWaitEnd goldenBad => Sys2Proof.Machine.execCoolingWaitEnd goldenBad s
  | .cmdPwrStateEnter h => Sys2Proof.Machine.execCmdPwrStateEnter h s
  | .deepHoldDemotionDone => Sys2Proof.Machine.execDeepHoldDemotionDone s
  | .cmdPwrStateWake h => Sys2Proof.Machine.execCmdPwrStateWake h s
  | .wakeRestore goldenBad => Sys2Proof.Machine.execWakeRestore goldenBad s
  | .cmdPwrStatus h => Sys2Proof.Machine.execCmdPwrStatus h s
  | .cmdKlnStatus h => Sys2Proof.Machine.execCmdKlnStatus h s
  | .mbxDoorbell fn mbx value => Sys2Proof.Machine.execMbxDoorbell fn mbx value s
  | .mbxDoneClear fn mbx => Sys2Proof.Machine.execMbxDoneClear fn mbx s
  | .commandTaken => Sys2Proof.Machine.execCommandTaken s
  | .mbxTimeout fn mbx => Sys2Proof.Machine.execMbxTimeout fn mbx s
  | .mbxEvrEnable fn => Sys2Proof.Machine.execMbxEvrEnable fn s
  | .mbxEvrTail fn value => Sys2Proof.Machine.execMbxEvrTail fn value s
  | .flrVf fn => Sys2Proof.Machine.execFlrVf fn s
  | .flrPf0 => Sys2Proof.Machine.execFlrPf0 s
  | .cmdIdentify h => Sys2Proof.Machine.execCmdIdentify h s
  | .cmdDevStatus h => Sys2Proof.Machine.execCmdDevStatus h s
  | .cmdDevStatusClearAlert h integrityNow => Sys2Proof.Machine.execCmdDevStatusClearAlert h integrityNow s
  | .cmdTileStatus h first count faultMask trwMask => Sys2Proof.Machine.execCmdTileStatus h first count faultMask trwMask s
  | .cmdJobStatus h => Sys2Proof.Machine.execCmdJobStatus h s
  | .cmdEventLog h b => Sys2Proof.Machine.execCmdEventLog h b s
  | .bulkTransferDone opcode bad => Sys2Proof.Machine.execBulkTransferDone opcode bad s
  | .cmdFwUpdate h bytes b => Sys2Proof.Machine.execCmdFwUpdate h bytes b s
  | .fwUpdateDone => Sys2Proof.Machine.execFwUpdateDone s
  | .cmdFwActivate h => Sys2Proof.Machine.execCmdFwActivate h s
  | .cmdFwActivateResetNow h => Sys2Proof.Machine.execCmdFwActivateResetNow h s
  | .trialTimeout => Sys2Proof.Machine.execTrialTimeout s
  | .cmdRunHold h atCycle => Sys2Proof.Machine.execCmdRunHold h atCycle s
  | .cmdRunResume h stopCycle noRollback => Sys2Proof.Machine.execCmdRunResume h stopCycle noRollback s
  | .cmdRunResets h atCycle resets => Sys2Proof.Machine.execCmdRunResets h atCycle resets s
  | .cmdTrigGrant h pins => Sys2Proof.Machine.execCmdTrigGrant h pins s
  | .cmdTrigRelease h pins => Sys2Proof.Machine.execCmdTrigRelease h pins s
  | .cmdJobCreate h => Sys2Proof.Machine.execCmdJobCreate h s
  | .cmdJobDestroy h => Sys2Proof.Machine.execCmdJobDestroy h s
  | .cmdSpareStatus h => Sys2Proof.Machine.execCmdSpareStatus h s
  | .cmdBistRun h r => Sys2Proof.Machine.execCmdBistRun h r s
  | .bistDone fails => Sys2Proof.Machine.execBistDone fails s
  | .cmdSweepPolicy h hours tiles groups => Sys2Proof.Machine.execCmdSweepPolicy h hours tiles groups s
  | .cmdRepairMap h b => Sys2Proof.Machine.execCmdRepairMap h b s
  | .sweepSlot => Sys2Proof.Machine.execSweepSlot s
  | .sweepTestsDone fails => Sys2Proof.Machine.execSweepTestsDone fails s
  | .relocationCopy job goldenBad readFail => Sys2Proof.Machine.execRelocationCopy job goldenBad readFail s
  | .spareSwitch job => Sys2Proof.Machine.execSpareSwitch job s
  | .bedRowSpare hodStore bank row => Sys2Proof.Machine.execBedRowSpare hodStore bank row s
  | .efuseBurn index readBackOk => Sys2Proof.Machine.execEfuseBurn index readBackOk s
  | .rollLeaf ups => Sys2Proof.Machine.execRollLeaf ups s
  | .earlyRoll root => Sys2Proof.Machine.execEarlyRoll root s
  | .cmdTelRead h first count b => Sys2Proof.Machine.execCmdTelRead h first count b s
  | .cmdTelClear h first count => Sys2Proof.Machine.execCmdTelClear h first count s
  | .cmdCaptureCfg h c => Sys2Proof.Machine.execCmdCaptureCfg h c s
  | .cmdCaptureCtlArm h => Sys2Proof.Machine.execCmdCaptureCtlArm h s
  | .cmdCaptureCtlTrigger h atCycle => Sys2Proof.Machine.execCmdCaptureCtlTrigger h atCycle s
  | .cmdCaptureCtlStop h => Sys2Proof.Machine.execCmdCaptureCtlStop h s
  | .cmdCaptureCtlDisarm h => Sys2Proof.Machine.execCmdCaptureCtlDisarm h s
  | .cmdCaptureRead h b => Sys2Proof.Machine.execCmdCaptureRead h b s
  | .pcieLinkTraining => Sys2Proof.Machine.execPcieLinkTraining s
  | .pmbusReadingRefresh => Sys2Proof.Machine.execPmbusReadingRefresh s
  | .page value => Sys2Proof.Machine.execPage value s
  | .clearFaults => Sys2Proof.Machine.execClearFaults s
  | .capability => Sys2Proof.Machine.execCapability s
  | .voutMode => Sys2Proof.Machine.execVoutMode s
  | .statusByte => Sys2Proof.Machine.execStatusByte s
  | .statusWord => Sys2Proof.Machine.execStatusWord s
  | .statusVout => Sys2Proof.Machine.execStatusVout s
  | .statusInput => Sys2Proof.Machine.execStatusInput s
  | .statusTemperature => Sys2Proof.Machine.execStatusTemperature s
  | .statusMfrSpecific => Sys2Proof.Machine.execStatusMfrSpecific s
  | .readVin => Sys2Proof.Machine.execReadVin s
  | .readIin => Sys2Proof.Machine.execReadIin s
  | .readVout => Sys2Proof.Machine.execReadVout s
  | .readIout => Sys2Proof.Machine.execReadIout s
  | .readTemperature1 => Sys2Proof.Machine.execReadTemperature1 s
  | .readPin => Sys2Proof.Machine.execReadPin s
  | .pmbusRevision => Sys2Proof.Machine.execPmbusRevision s
  | .mfrId => Sys2Proof.Machine.execMfrId s
  | .mfrModel => Sys2Proof.Machine.execMfrModel s
  | .mfrRevision => Sys2Proof.Machine.execMfrRevision s
  | .mfrKlnStatus => Sys2Proof.Machine.execMfrKlnStatus s
  | .mfrEvent => Sys2Proof.Machine.execMfrEvent s
  | .pmbusUnsupported code => Sys2Proof.Machine.execPmbusUnsupported code s
  | .trstNLow => Sys2Proof.Machine.execTrstNLow s
  | .extest => Sys2Proof.Machine.execExtest s
  | .samplePreload => Sys2Proof.Machine.execSamplePreload s
  | .idcode => Sys2Proof.Machine.execIdcode s
  | .clamp => Sys2Proof.Machine.execClamp s
  | .highz => Sys2Proof.Machine.execHighz s
  | .bypass => Sys2Proof.Machine.execBypass s
  | .dbgAccess dr ups => Sys2Proof.Machine.execDbgAccess dr ups s
  | .registerWrite fn offset size value => Sys2Proof.Machine.execRegisterWrite fn offset size value s
  | .scratchAccess m op ups => Sys2Proof.Machine.execScratchAccess m op ups s
  | .patternCheckerLock lane levels lost => Sys2Proof.Machine.execPatternCheckerLock lane levels lost s
  | .wakeSequence port => Sys2Proof.Machine.execWakeSequence port s
  | .resetNRise => Sys2Proof.Machine.execResetNRise s
  | .mbxEvrCoalesceExpiry fn => Sys2Proof.Machine.execMbxEvrCoalesceExpiry fn s

end Sys2Proof.Machine
end

