-- ==== Sys2Proof/Machine/Tick.lean ====
section
/-! DEFINITION. What an idle step does: 1 µs of device time passes (log 7). -/

namespace Sys2Proof.Machine

/-- Hours of R501: counted as the device time passes a whole hour, hot ones while a diode stands at or
above 95 °C. -/
def countHours (s : State) : State :=
  if (s.nowUs + 1) % 3600000000 = 0 then
    modSprBlk s fun p =>
      { p with poweredHours := p.poweredHours + 1,
               hotHours := if s.pwr.temps.any fun t => decide (636 ≤ t.toNat) then p.hotHours + 1 else p.hotHours }
  else s

/-- Bytes that the capture engine writes in a microsecond: 64 GB/s (R520). -/
def captureRate : Nat := 64000

/-- SCHED and SPINE cycles, the masons' busy and idle counts, the capture engine's writes, and the page copy
under way, while the domains run (R183, R280, R402, R520). -/
def tickDomains (s : State) : State :=
  if s.clk.domainsOn then
    let s := masonTick 2000 (modSpnBlk { s with sched := s.sched + 2000 } fun x =>
      { x with cycles := x.cycles + 2000 })
    let s := modTelBlk s fun t => { t with capFill := t.capFill - captureRate }
    if s.pwr.state = .ready ∧ !s.pwr.tripping then copyTick s else s
  else s

def tick (s : State) : State :=
  tickDomains (modPwrBlk { countHours s with nowUs := s.nowUs + 1 } fun p => { p with hvUs := p.hvUs + 1 })

end Sys2Proof.Machine
end

