-- ==== Sys2Proof/Safety.lean ====
section
/-! DEFINITION. The terms that statements use: a request that passes the checks of R454, a list of
host buffers that is well formed, the parts of the state that a command leaves alone, and what
every step keeps. -/

namespace Sys2Proof.Machine

/-! ## Requests -/

/-- A request of this opcode passes the checks of R454 that need no parameter of the command. -/
def granted (s : State) (h : Hdr) (op : Nat) : Bool := (requestCheck s h op 0).isNone

/-- A bulk command whose buffers are well formed (R456), while fewer than sixteen accepted commands
are in progress (R455). -/
def bulkReady (s : State) (b : Bulk) : Bool :=
  (badBulk b).isNone && decide (s.hif.accepted.length < 16)

/-- The mailbox of a request expects its answer: it has neither timed out nor been reset. -/
def expects (s : State) (h : Hdr) : Bool :=
  !(mbxOf s h.fn h.mbx).orphan && !(mbxOf s h.fn h.mbx).late

/-- The accepted commands with one more, last (R455). -/
def enlist (s : State) (h : Hdr) (op : Nat) (args : List Nat) : State :=
  { s with hif := { s.hif with accepted :=
      s.hif.accepted ++ [{ opcode := op, hdr := h, args := args }] } }

/-- The request a command row carries: header, opcode, who may send it and whether it names a job that
must exist (Table 15-9). -/
def requestOf : Instr → Option (Hdr × Nat × From × Bool)
  | .cmdImageLoad h _ _ => some (h, 0x0301, .pf0, true)
  | .cmdImageAbort h => some (h, 0x0302, .pf0, false)
  | .cmdImageReadbackGolden h _ _ _ _ _ => some (h, 0x0303, .pf0, true)
  | .cmdImageReadbackPlanes h _ _ _ _ _ => some (h, 0x0303, .pf0, true)
  | .cmdChainArm h => some (h, 0x0304, .pf0, false)
  | .cmdChainDisarm h => some (h, 0x0304, .pf0, false)
  | .cmdMemMap h _ _ => some (h, 0x0501, .pf0, true)
  | .cmdMemUnmap h _ _ => some (h, 0x0502, .pf0, true)
  | .cmdPlcPolicy h _ => some (h, 0x0504, .pf0, false)
  | .cmdPlcQuery h _ _ => some (h, 0x0505, .both, false)
  | .cmdMemPinPin h _ _ _ => some (h, 0x0503, .both, false)
  | .cmdMemPinExclude h _ _ => some (h, 0x0503, .both, false)
  | .cmdMemPinClear h _ _ => some (h, 0x0503, .both, false)
  | .cmdMemPageReset h _ => some (h, 0x050A, .both, true)
  | .cmdMemRegions h _ => some (h, 0x0506, .pf0, false)
  | .cmdMemRights h _ _ => some (h, 0x0507, .pf0, false)
  | .cmdMemDmaAssign h _ _ => some (h, 0x0508, .pf0, false)
  | .cmdMemQuarantineRead h _ => some (h, 0x0509, .pf0, false)
  | .cmdMemQuarantineRemove h _ => some (h, 0x0509, .pf0, false)
  | .cmdMemScrub h _ _ _ _ => some (h, 0x050B, .pf0, false)
  | .cmdMemScrubAbort h => some (h, 0x050B, .pf0, false)
  | .cmdMemEccDiagWriteFar h _ _ _ _ => some (h, 0x050D, .pf0, false)
  | .cmdMemEccDiagReadFar h _ => some (h, 0x050D, .pf0, false)
  | .cmdMemEccDiagWriteChip h _ _ _ _ => some (h, 0x050D, .pf0, false)
  | .cmdMemEccDiagReadChip h _ _ => some (h, 0x050D, .pf0, false)
  | .cmdMemRepairList h => some (h, 0x050C, .pf0, false)
  | .cmdMemRepairRequest h _ => some (h, 0x050C, .pf0, false)
  | .cmdMemRetain h _ => some (h, 0x050E, .both, true)
  | .cmdMemChStatus h _ _ => some (h, 0x050F, .pf0, false)
  | .cmdHodCreate h _ => some (h, 0x0601, .both, true)
  | .cmdHodDestroy h _ => some (h, 0x0602, .both, false)
  | .cmdHodFlush h _ => some (h, 0x0603, .both, false)
  | .cmdHodQuery h _ => some (h, 0x0606, .both, false)
  | .cmdHodQueryClear h _ => some (h, 0x0606, .both, false)
  | .cmdPalHandlers h _ _ => some (h, 0x0604, .both, true)
  | .cmdPalFlowRead h _ => some (h, 0x0605, .both, true)
  | .cmdPalFlowReset h _ => some (h, 0x0605, .both, true)
  | .cmdPalPolicy h _ => some (h, 0x0607, .pf0, false)
  | .cmdPalStats h _ _ => some (h, 0x0608, .both, true)
  | .cmdMsnAssign h _ => some (h, 0x0609, .pf0, true)
  | .cmdMsnUnassign h _ => some (h, 0x0609, .pf0, false)
  | .cmdMsnControlStart h _ => some (h, 0x060B, .both, true)
  | .cmdMsnControlReset h g _ => some (h, 0x060B, .both, g.isNone)
  | .cmdMsnControlClock h _ _ => some (h, 0x060B, .pf0, false)
  | .cmdMsnControlPauseTimeout h _ => some (h, 0x060B, .pf0, false)
  | .cmdMsnLoad h _ _ => some (h, 0x060A, .both, true)
  | .cmdMsnStatus h _ => some (h, 0x060C, .both, true)
  | .cmdLryPortCfg h _ _ _ _ => some (h, 0x0701, .pf0, false)
  | .cmdLryPortStatus h _ _ => some (h, 0x0702, .pf0, false)
  | .cmdLryLaneTaps h _ _ => some (h, 0x0703, .pf0, false)
  | .cmdLryLanePower h _ _ _ => some (h, 0x0703, .pf0, false)
  | .cmdLryLaneTest h _ _ => some (h, 0x0703, .pf0, false)
  | .cmdLryLaneWords h _ _ => some (h, 0x0703, .pf0, false)
  | .cmdLryFwdWrite h _ => some (h, 0x0704, .pf0, false)
  | .cmdLryFwdRead h _ => some (h, 0x0704, .pf0, false)
  | .cmdLryRouteWrite h _ => some (h, 0x0705, .pf0, false)
  | .cmdLryRouteRead h _ => some (h, 0x0705, .pf0, false)
  | .cmdLryPortResetRetrain h _ => some (h, 0x0706, .pf0, false)
  | .cmdLryPortResetReset h _ => some (h, 0x0706, .pf0, false)
  | .cmdLryPortResetClearMarks h _ => some (h, 0x0706, .pf0, false)
  | .cmdArrOrdinal h _ => some (h, 0x0707, .pf0, false)
  | .cmdArrStream h _ _ => some (h, 0x0708, .pf0, true)
  | .cmdArrCkptPolicy h _ => some (h, 0x0709, .pf0, true)
  | .cmdArrRollbackLocal h => some (h, 0x070A, .both, true)
  | .cmdArrRollbackGlobal h _ _ => some (h, 0x070A, .both, true)
  | .cmdArrCkptExport h _ => some (h, 0x070B, .both, true)
  | .cmdArrCkptImport h _ _ => some (h, 0x070C, .pf0, true)
  | .cmdArrStatus h => some (h, 0x070D, .both, true)
  | .cmdSpnProbe h _ _ _ _ => some (h, 0x0920, .pf0, false)
  | .cmdSpnTraceControl h _ => some (h, 0x0921, .pf0, false)
  | .cmdSpnTraceCopy h _ _ _ => some (h, 0x0921, .pf0, false)
  | .cmdSpnStatus h => some (h, 0x0922, .pf0, false)
  | .cmdClkFab h _ => some (h, 0x0210, .pf0, false)
  | .cmdClkStatus h _ _ => some (h, 0x0211, .pf0, false)
  | .cmdRstDieCourse h => some (h, 0x0212, .pf0, false)
  | .cmdRstDieFace h => some (h, 0x0212, .pf0, false)
  | .cmdJobReset h => some (h, 0x0404, .both, true)
  | .cmdPwrStateEnter h => some (h, 0x0201, .pf0, false)
  | .cmdPwrStateWake h => some (h, 0x0201, .pf0, false)
  | .cmdPwrStatus h => some (h, 0x0202, .pf0, false)
  | .cmdKlnStatus h => some (h, 0x0203, .pf0, false)
  | .cmdIdentify h => some (h, 0x0101, .any, false)
  | .cmdDevStatus h => some (h, 0x0102, .pf0, false)
  | .cmdDevStatusClearAlert h _ => some (h, 0x0102, .pf0, false)
  | .cmdTileStatus h _ _ _ _ => some (h, 0x0103, .pf0, false)
  | .cmdJobStatus h => some (h, 0x0104, .both, true)
  | .cmdEventLog h _ => some (h, 0x0105, .pf0, false)
  | .cmdFwUpdate h _ _ => some (h, 0x0110, .pf0, false)
  | .cmdFwActivate h => some (h, 0x0111, .pf0, false)
  | .cmdFwActivateResetNow h => some (h, 0x0111, .pf0, false)
  | .cmdRunHold h _ => some (h, 0x0401, .both, true)
  | .cmdRunResume h _ _ => some (h, 0x0402, .both, true)
  | .cmdRunResets h _ _ => some (h, 0x0403, .both, true)
  | .cmdTrigGrant h _ => some (h, 0x0405, .pf0, true)
  | .cmdTrigRelease h _ => some (h, 0x0405, .pf0, true)
  | .cmdJobCreate h => some (h, 0x0A01, .pf0, false)
  | .cmdJobDestroy h => some (h, 0x0A02, .pf0, true)
  | .cmdSpareStatus h => some (h, 0x0801, .pf0, false)
  | .cmdBistRun h _ => some (h, 0x0802, .pf0, false)
  | .cmdSweepPolicy h _ _ _ => some (h, 0x0803, .pf0, false)
  | .cmdRepairMap h _ => some (h, 0x0804, .pf0, false)
  | .cmdTelRead h _ _ _ => some (h, 0x0901, .both, false)
  | .cmdTelClear h _ _ => some (h, 0x0902, .pf0, false)
  | .cmdCaptureCfg h _ => some (h, 0x0903, .both, true)
  | .cmdCaptureCtlArm h => some (h, 0x0904, .both, true)
  | .cmdCaptureCtlTrigger h _ => some (h, 0x0904, .both, true)
  | .cmdCaptureCtlStop h => some (h, 0x0904, .both, true)
  | .cmdCaptureCtlDisarm h => some (h, 0x0904, .both, true)
  | .cmdCaptureRead h _ => some (h, 0x0905, .both, true)
  | _ => none

/-- Rows that read the machine: status, queries, bulk reads, PMBus reads. -/
def readsOnly : Instr → Bool
  | .cmdArrStatus _ | .cmdCaptureRead _ _ | .cmdDevStatus _ | .cmdEventLog _ _ | .cmdHodQuery _ _
  | .cmdIdentify _ | .cmdImageReadbackGolden _ _ _ _ _ _ | .cmdImageReadbackPlanes _ _ _ _ _ _
  | .cmdJobStatus _ | .cmdKlnStatus _ | .cmdLryPortStatus _ _ _
  | .cmdLryRouteRead _ _ | .cmdMemChStatus _ _ _ | .cmdMemEccDiagReadChip _ _ _
  | .cmdMemEccDiagReadFar _ _ | .cmdMemQuarantineRead _ _ | .cmdMemRepairList _ | .cmdMsnStatus _ _
  | .cmdPalFlowRead _ _ | .cmdPalStats _ _ _ | .cmdPwrStatus _ | .cmdRepairMap _ _
  | .cmdSpareStatus _ | .cmdSpnStatus _ | .cmdSpnTraceCopy _ _ _ _ => true
  | .capability | .voutMode | .statusByte | .statusWord | .statusVout | .statusInput
  | .statusTemperature | .statusMfrSpecific | .readVin | .readIin | .readVout | .readIout
  | .readTemperature1 | .readPin | .pmbusRevision | .mfrId | .mfrModel | .mfrRevision | .mfrKlnStatus
  | .mfrEvent => true
  | _ => false

/-- PMBus commands and JTAG instructions, without the debug access. -/
def boardRow : Instr → Bool
  | .page _ | .clearFaults | .pmbusReadingRefresh | .pmbusUnsupported _ => true
  | .capability | .voutMode | .statusByte | .statusWord | .statusVout | .statusInput
  | .statusTemperature | .statusMfrSpecific | .readVin | .readIin | .readVout | .readIout
  | .readTemperature1 | .readPin | .pmbusRevision | .mfrId | .mfrModel | .mfrRevision | .mfrKlnStatus
  | .mfrEvent => true
  | .trstNLow | .extest | .samplePreload | .idcode | .clamp | .highz | .bypass => true
  | _ => false

/-! ## What a command leaves alone -/

/-- Nothing but the host interface, free values and what is driven outward differs. -/
def onlyHost (s t : State) : Prop :=
  t = { s with hif := t.hif, freeCtr := t.freeCtr, out := t.out }

/-- Nothing but the Larey ports, the repair map, the host interface, counters, draws and what is driven
outward differs. -/
def onlyLarey (s t : State) : Prop :=
  t = { s with lry := t.lry, spr := t.spr, hif := t.hif, tel := t.tel, draws := t.draws,
               freeCtr := t.freeCtr, out := t.out }

/-! ## What every step keeps -/

/-- The bounded lists of the state are within their bounds: the device event log (R467), accepted
commands (R455), the repair map (R479), events on the power link (R429). -/
def bounded (s : State) : Bool :=
  decide (s.hif.log.length ≤ 4096) && decide (s.hif.accepted.length ≤ 16)
    && decide (s.spr.map.length ≤ 16384) && decide (s.pwr.linkEvs.length ≤ 4)

/-- Design memory in canonical form: near-frame words and far lines. -/
def memoryWf (s : State) : Bool := mapWf s.mem.near 0 && mapWf s.mem.far none

end Sys2Proof.Machine
end

