-- ==== Sys2Proof/Certificates/Slice0/Obligations.lean ====
section
/-! DEFINITION. The statements for the provers. Those about one command's result give the next state
by the operations of the model; `granted` says that the request passes the checks of R454. -/

open Sys2Proof Sys2Proof.Machine

/-- The command at the front of the queue is carried out on the state with the rest of the queue. The
queue is the model's own form for what arrives at the block. -/
def Obligations.StepRunsFrontCommand : Prop :=
  ∀ (c : Instr) (rest : List Instr) (s : State),
    step { s with pending := c :: rest } = exec c { s with pending := rest }

/-- The model's own choice (log 7): an idle step is one microsecond. -/
def Obligations.EmptyQueueLetsTimePass : Prop :=
  ∀ s : State, s.pending = [] → ∃ t, step s = .next t ∧ t.nowUs = s.nowUs + 1 ∧
    t.sched = (if s.clk.domainsOn then s.sched + 2000 else s.sched) ∧
    t.spn = { s.spn with cycles := if s.clk.domainsOn then s.spn.cycles + 2000 else s.spn.cycles } ∧
    t.pal = { s.pal with busy := t.pal.busy, idle := t.pal.idle } ∧
    t.tel = { s.tel with leaves := t.tel.leaves } ∧
    t.spr = { s.spr with poweredHours := t.spr.poweredHours, hotHours := t.spr.hotHours } ∧
    t.pwr = { s.pwr with hvUs := s.pwr.hvUs + 1 } ∧ (s.mem.moves = [] → t.mem = s.mem) ∧
    (s.clk.domainsOn = false →
      t = { s with nowUs := s.nowUs + 1, pwr := t.pwr, spr := t.spr }) ∧
    t.pending = [] ∧ t.jobs = s.jobs ∧ t.tiles = s.tiles ∧ t.lry = s.lry ∧ t.clk = s.clk ∧ t.rst = s.rst

/-- The meaning of a command is its effect on everything but the queue. -/
def Obligations.CommandsLeaveTheQueue : Prop :=
  ∀ (c : Instr) (s t : State), exec c s = .next t → t.pending = s.pending

/-- The bounds of R467, R455, R479 and Table 18-7 (MFR_EVENT) hold of every next state of a state in
which they hold, reachable or not. -/
def Obligations.StepKeepsBounds : Prop :=
  ∀ s t : State, bounded s = true → step s = .next t → bounded t = true

/-- The canonical form of the two tables that hold design memory is kept by every step. The form is
the model's own. -/
def Obligations.StepKeepsMemoryForm : Prop :=
  ∀ s t : State, memoryWf s = true → step s = .next t → memoryWf t = true

/-- Where the two invariants start. -/
def Obligations.ResetMeetsInvariants : Prop :=
  bounded State.reset = true ∧ memoryWf State.reset = true

/-- R454 for every command row: `requestOf` names the row's request and opcode. -/
def Obligations.TurnedAwayCommandsOnlyAnswer : Prop :=
  ∀ (c : Instr) (h : Hdr) (op : Nat) (who : From) (need : Bool) (st : St) (s : State),
    requestOf c = some (h, op, who, need) →
    headCheck s h op who need = some st → exec c s = .next (respond s h op st [])

/-- R452, step by step, for a mailbox whose command has neither timed out nor been reset. -/
def Obligations.ResponseReachesItsMailbox : Prop :=
  ∀ (s : State) (h : Hdr) (op : Nat) (st : St) (pl : List Byte),
    expects s h = true → op < 65536 → h.mbx < 4 →
    let t := respond s h op st pl
    let b := mbxOf t h.fn h.mbx
    b.busy = false ∧ b.done = true ∧ field b.rsp.toNat 15 0 = op ∧
    field b.rsp.toNat 31 16 = h.tag.toNat ∧ rspStatus t h.fn h.mbx = stCode st ∧
    b.req = (mbxOf s h.fn h.mbx).req ∧
    (∀ fn m, m < 4 → (fn, m) ≠ (h.fn, h.mbx) → mbxOf t fn m = mbxOf s fn m) ∧
    t.out = .msix h.fn 1 :: s.out ∧
    t = { s with hif := { s.hif with mbx := t.hif.mbx }, out := t.out }

/-- R463 and R467 for an event of one record. -/
def Obligations.EventEntersTheLog : Prop :=
  ∀ (s : State) (fns : List Nat) (code job : Nat) (fs : List (Nat × Nat)),
    (packFields fs).length ≤ 16 → (∀ fn ∈ fns, (ringOf s fn).en = false) →
    let e : Ev := { code := code, job := job, seq := s.hif.seq % 2 ^ 32, timeUs := s.nowUs,
                    payload := packFields fs }
    let l := s.hif.log ++ [(e, 0)]
    emitTo s fns code job fs =
      { s with hif := { s.hif with log := l.drop (l.length - 4096),
                                   logLost := s.hif.logLost + (l.length - 4096),
                                   seq := s.hif.seq + 1 } }

/-- Every command that only answers. -/
def Obligations.QueriesAnswer : Prop :=
  (∀ s h, granted s h 0x0101 = true → exec (.cmdIdentify h) s = .next (answer s h 0x0101 (packFields
      [(2, 0x6532), (1, s.rst.stepping.toNat), (8, s.rst.serial.toNat), (4, fwVersion s.fw.slotA),
       (4, fwVersion s.fw.slotB), (1, b2n s.fw.runningB), (2, s.arr.ordinal.getD 0xFFFF),
       (2, allocable s), (2, usableMasons s), (1, h.fn)]))) ∧
  (∀ s h, granted s h 0x0102 = true → exec (.cmdDevStatus h) s = .next (answer s h 0x0102 (devStatus s))) ∧
  (∀ s h i, granted s h 0x0102 = true → exec (.cmdDevStatusClearAlert h i) s =
    .next (modPwrBlk (answer s h 0x0102 (devStatus s)) fun p => { p with alertN := !i })) ∧
  (∀ s h first count fm tm, granted s h 0x0103 = true → rangeOk first count 400 15 = true →
    exec (.cmdTileStatus h first count fm tm) s =
      .next (each ((List.range count).map (first + ·)) (clearTileBits fm tm)
        (answer s h 0x0103 (((List.range count).map (first + ·)).flatMap (tileRecord s))))) ∧
  (∀ s h, granted s h 0x0104 = true → exec (.cmdJobStatus h) s = .next (answer s h 0x0104 (packFields
      [(4, seqStatus (jobOf s (namedJob h))), (8, (jobOf s (namedJob h)).cycle.toNat),
       (1, b2n (replaySafe s (namedJob h))), (2, (grantedPins s (namedJob h)).toNat)]))) ∧
  (∀ s h, granted s h 0x070D = true → exec (.cmdArrStatus h) s = .next (answer s h 0x070D
      (leBytes 24 (ckptStatus (jobOf s (namedJob h)) (journalFill s) (undoFill s))))) ∧
  (∀ s h cm rm, granted s h 0x0211 = true → ∃ t, exec (.cmdClkStatus h cm rm) s = .next t ∧
    t.clk = { s.clk with forced := s.clk.forced && !cm.getLsbD 23 } ∧
    t.rst = { s.rst with perstSeen := s.rst.perstSeen && !rm.getLsbD 3 } ∧
    t.hif = (answer s h 0x0211
      (leBytes 4 (clkWord s) ++ leBytes 4 (clkFabCtl s.clk) ++ leBytes 4 (rstStatus s.rst))).hif ∧
    t = { s with clk := t.clk, rst := t.rst, hif := t.hif, out := t.out }) ∧
  (∀ s h, granted s h 0x0202 = true → exec (.cmdPwrStatus h) s = .next (answer s h 0x0202
      (leBytes 4 (powerState s)
        ++ ((List.range 9).flatMap fun r =>
              leBytes 4 (listAt s.pwr.railMv 0 r) ++ leBytes 4 (listAt s.pwr.railMa 0 r))
        ++ leBytes 4 s.pwr.vinMv ++ leBytes 4 s.pwr.iinMa ++ leBytes 4 s.pwr.inW))) ∧
  (∀ s h, granted s h 0x0203 = true →
    exec (.cmdKlnStatus h) s = .next (answer s h 0x0203 (leBytes 8 (kilnWord s)))) ∧
  (∀ s h, granted s h 0x0801 = true → exec (.cmdSpareStatus h) s = .next (answer s h 0x0801 (packFields (
      [(4, retiredCount s), (4, freeTiles s)]
      ++ ([(2, 3276800), (3, 76800), (4, 1433600), (5, 38400), (6, 38400), (7, 2048), (8, 64), (9, 12),
           (10, 12)].flatMap fun k => [(4, usedOf s k.1), (4, k.2 - usedOf s k.1)])
      ++ [(4, usedOf s 11), (2, allocable s), (2, s.spr.map.length), (1, s.spr.fusesUsed),
          (1, b2n s.spr.mapFull), (1, b2n s.spr.fusesFull), (4, s.spr.deferred), (4, s.spr.skipped),
          (4, s.spr.poweredHours), (4, s.spr.hotHours)])))) ∧
  (∀ s h, granted s h 0x0922 = true → exec (.cmdSpnStatus h) s = .next (answer s h 0x0922
      (packFields ([(8, epochWord s)] ++ (List.range 12).map (fun g => (4, groupDrain s g))
        ++ [(4, sat32 (countSum s.spn.badDest)), (4, sat32 (countSum s.spn.fenceDisc))])
       ++ (s.spn.fenceDisc.flatMap fun e => leBytes 4 e.1 ++ leBytes 4 (sat32 e.2))))) ∧
  (∀ s h hod, granted s h 0x0606 = true → hodCheck s h hod = none →
    exec (.cmdHodQuery h hod) s = .next (answer s h 0x0606 (hodReport (hodOf s hod)))) ∧
  (∀ s h flow, granted s h 0x0605 = true → flowOk flow = true →
    exec (.cmdPalFlowRead h flow) s = .next (answer s h 0x0605 (flowBytes (flowOf s (namedJob h) flow)))) ∧
  (∀ s h flows, granted s h 0x0608 = true → flows.all flowOk = true →
    ∀ first, exec (.cmdPalStats h flows first) s = .next (answer s h 0x0608
      (leBytes 4 (palStats s (namedJob h) flows).length ++ (palStats s (namedJob h) flows).drop first))) ∧
  (∀ s h first count, granted s h 0x0505 = true → rangeOk first count 131072 30 = true →
    pagesAllowed s h (pagesFrom first count) = true →
    let u := each (pagesFrom first count) (fun s p => (readEntry s p).2) s
    exec (.cmdPlcQuery h first count) s = .next (answer u h 0x0505
      ((pagesFrom first count).flatMap fun p => leBytes 8 (pptWord (pptOf u p)))) ∧
    (s.mem.stalled = [] → s.mem.pptErr = [] → u = s)) ∧
  (∀ s h first, granted s h 0x0509 = true → exec (.cmdMemQuarantineRead h first) s =
    .next (answer s h 0x0509 (leBytes 4 s.mem.quar.length ++ leBytes 4 (min first s.mem.quar.length)
      ++ ((s.mem.quar.drop (min first s.mem.quar.length)).take 9).flatMap quarBytes))) ∧
  (∀ s h, granted s h 0x050C = true → exec (.cmdMemRepairList h) s = .next (answer s h 0x050C
      (((s.spr.map.filter (fun r => r.kind == 11)).take 15).flatMap fun r => leBytes 16 (repairWord r)))) ∧
  (∀ s h first count, granted s h 0x050F = true → rangeOk first count 32 32 = true →
    exec (.cmdMemChStatus h first count) s = .next (answer s h 0x050F
      ((List.range count).flatMap fun i => leBytes 4 (chanWord (chanOf s (first + i)))))) ∧
  (∀ s h ms, granted s h 0x060C = true → masonsOk ms = true → ms.length ≤ 59 →
    (h.fn = 0 ∨ ∀ m ∈ ms, (masonOf s m).job = some (namedJob h)) →
    exec (.cmdMsnStatus h ms) s = .next (answer s h 0x060C
      (ms.flatMap (fun m => leBytes 4 (msnStatus (masonOf s m) (groupOf s (m / 16))))
        ++ [BitVec.ofNat 8 (b2n (replaySafe s (namedJob h)))]))) ∧
  (∀ s h first count, granted s h 0x0702 = true → rangeOk first count 12 12 = true →
    exec (.cmdLryPortStatus h first count) s = .next (answer s h 0x0702
      ((List.range count).flatMap fun i => leBytes 8 (portStatus (portOf s (first + i)))))) ∧
  (∀ s h is, granted s h 0x0704 = true → (∀ i ∈ is, i < 4096) → is.length ≤ 60 →
    let r := is.foldl readFwd ([], s)
    exec (.cmdLryFwdRead h is) s = .next (answer r.2 h 0x0704 r.1) ∧
    ((∀ i ∈ is, mapGet s.lry.fwdErr 0 i = 0) →
      r = (is.flatMap fun i => leBytes 4 (fwdWord (mapGet s.lry.fwd {} i)), s))) ∧
  (∀ s h is, granted s h 0x0705 = true → (∀ i ∈ is, i < 1024) → is.length ≤ 240 →
    exec (.cmdLryRouteRead h is) s = .next (answer s h 0x0705
      (is.map fun i => BitVec.ofNat 8 (routeOf s i)))) ∧
  (∀ s h target addr, granted s h 0x050D = true → diagChipOk s target addr = true →
    let w : Nat :=
      if target = 1 then (mapGet s.mem.near 0 addr).toNat
      else if target = 3 then (mapGet (tileOf s (addr / 163840)).store 0 (addr % 163840)).toNat
      else (mapGet s.lp.diag 0 (target * 16 + addr)).toNat
    let bits := if target = 3 then 32 else if target = 4 then 48 else 64
    exec (.cmdMemEccDiagReadChip h target addr) s = .next (answer s h 0x050D
      (leBytes 8 (w % 2 ^ bits) ++ leBytes 1 (w / 2 ^ bits))))

/-- Bulk reads and the end of their transfer. -/
def Obligations.BulkReadsAreAccepted : Prop :=
  (∀ s h b, granted s h 0x0105 = true → bulkReady s b = true → exec (.cmdEventLog h b) s =
    .next (respond (enlist (emitOut s (.records 0 (s.hif.log.map fun e => evRecord e.1 false e.2)))
      h 0x0105 [s.hif.logLost]) h 0x0105 .accepted [])) ∧
  (∀ s h b img vf vc cf cc, granted s h 0x0303 = true → bulkReady s b = true →
    (jobOf s (namedJob h)).image = some img → readbackOk (jobOf s (namedJob h)) vf vc cf cc = true →
    lp5xBad s = false → exec (.cmdImageReadbackGolden h vf vc cf cc b) s =
    .next (respond (enlist (emitOut s (.host h.fn img.bytes)) h 0x0303 [namedJob h]) h 0x0303
      .accepted [])) ∧
  (∀ s h b, granted s h 0x0804 = true → bulkReady s b = true →
    let r := s.spr.fuses.foldl fuseEntry ([], s)
    exec (.cmdRepairMap h b) s = .next (respond (enlist (emitOut r.2 (.records h.fn
      ((s.spr.map.map fun r => leBytes 16 (repairWord r)) ++ r.1))) h 0x0804 []) h 0x0804
      .accepted []) ∧
    ((∀ e ∈ s.spr.fuses, e.kind ≠ 0) → r = (s.spr.fuses.map fun e =>
      leBytes 6 (secEncode 7 41 (repairWord e % 2 ^ 41)), s))) ∧
  (∀ s h b, granted s h 0x0905 = true → bulkReady s b = true →
    capOn (jobOf s (namedJob h)).capture = false → lp5xBad s = false → exec (.cmdCaptureRead h b) s =
    .next (respond (enlist (emitOut s (.records h.fn
      ((jobOf s (namedJob h)).capture.records.map (capRecOut (namedJob h))))) h 0x0905 []) h 0x0905
      .accepted [])) ∧
  (∀ s h b first count, granted s h 0x0921 = true → bulkReady s b = true → s.spn.trcEn = false →
    rangeOk first count traceSize traceSize = true → exec (.cmdSpnTraceCopy h first count b) s =
    .next (respond (enlist (emitOut s (.records h.fn ((List.range count).map fun i =>
      leBytes 32 (mapGet s.spn.trcBuf 0 (first + i)).toNat))) h 0x0921 []) h 0x0921 .accepted [])) ∧
  (∀ s h b first count, granted s h 0x0901 = true → rangeOk first count 8192 8192 = true →
    let is := (List.range count).map (first + ·)
    let u := each is checkRoot s
    (h.fn = 0 ∨ is.all (vfRoot s (h.fn - 1)) = true) →
    (count ≤ 28 → exec (.cmdTelRead h first count b) s =
      .next (answer u h 0x0901 (telHead u ++ is.flatMap (rootRecord u)))) ∧
    (28 < count → bulkReady u b = true → exec (.cmdTelRead h first count b) s = .next (respond
      (enlist (emitOut u (.records h.fn (telHead u :: is.map (rootRecord u)))) h 0x0901 []) h 0x0901
        .accepted []))) ∧
  (∀ s op a, bulkOpcodes.contains op = true → findAcc s op = some a →
    exec (.bulkTransferDone op none) s = .next (complete (dropAcc s op) a.hdr op 0x0E02 .ok
      (if op = 0x0105 then [(4, sat32 (listAt a.args 0 0))] else [])))

/-- The commands of `readsOnly`. -/
def Obligations.ReadsChangeOnlyTheHostInterface : Prop :=
  (∀ (c : Instr) (s t : State), readsOnly c = true → exec c s = .next t → onlyHost s t) ∧
  (∀ s h first count t, exec (.cmdPlcQuery h first count) s = .next t →
    t = { s with mem := t.mem, hif := t.hif, out := t.out }) ∧
  (∀ s h is t, exec (.cmdLryFwdRead h is) s = .next t →
    t = { s with lry := t.lry, hif := t.hif, out := t.out })

/-- Each mailbox and ring event on the state in which it acts. -/
def Obligations.MailboxEventsAct : Prop :=
  (∀ s fn m (v : BitVec 32), fn ≤ 8 → v.getLsbD 0 = true → hasMbx s fn m = true →
    (mbxOf s fn m).busy = false → (mbxOf s fn m).done = false →
    ∃ t, exec (.mbxDoorbell fn m v) s = .next t ∧
      mbxOf t fn m = { mbxOf s fn m with copy := (mbxOf s fn m).req, busy := true } ∧
      t.hif = { s.hif with submitted := s.hif.submitted ++ [(fn, m)], mbx := t.hif.mbx } ∧
      t = { s with hif := t.hif }) ∧
  (∀ s fn m, fn ≤ 8 → hasMbx s fn m = true →
    ∃ t, exec (.mbxDoneClear fn m) s = .next t ∧
      mbxOf t fn m = { mbxOf s fn m with done := false, timedOut := false } ∧
      t = { s with hif := { s.hif with mbx := t.hif.mbx } }) ∧
  (∀ s fn m rest, s.hif.submitted = (fn, m) :: rest →
    (let req := (mbxOf s fn m).copy.toNat
     requestCheck s (hdrOf fn m req) (field req 15 0) (field req 47 32) = none) →
    exec .commandTaken s = .next { s with hif := { s.hif with submitted := rest } }) ∧
  (∀ s fn m, fn ≤ 8 → (mbxOf s fn m).busy = true → (mbxOf s fn m).late = false →
    ∃ t, exec (.mbxTimeout fn m) s = .next t ∧ rspStatus t fn m = 0x0061 ∧
      (mbxOf t fn m).busy = false ∧ (mbxOf t fn m).timedOut = true ∧ t.out = .msix fn 1 :: s.out ∧
      t = { s with hif := { s.hif with mbx := t.hif.mbx }, out := t.out }) ∧
  (∀ s fn, fn ≤ 8 → s.hif.linkUp = true → (ringOf s fn).en = false →
    ∃ t, exec (.mbxEvrEnable fn) s = .next t ∧
      ringOf t fn = { ringOf s fn with en := true, head := 0, tail := 0, lost := 0, lostSince := 0,
                                       phase := true, waiting := false, running := false } ∧
      t = { s with hif := { s.hif with rings := t.hif.rings } }) ∧
  (∀ s fn (v : BitVec 16), fn ≤ 8 → s.hif.linkUp = true → (ringOf s fn).lostSince = 0 →
    ∃ t, exec (.mbxEvrTail fn v) s = .next t ∧
      ringOf t fn = { ringOf s fn with tail := v.toNat % 2 ^ (ringOf s fn).log2 } ∧
      t = { s with hif := { s.hif with rings := t.hif.rings } }) ∧
  (∀ s fn, fn ≤ 8 → (ringOf s fn).running = true → (ringOf s fn).waiting = true →
    ∃ t, exec (.mbxEvrCoalesceExpiry fn) s = .next t ∧ t.out = .msix fn 0 :: s.out ∧
      (ringOf t fn).waiting = false ∧
      t = { s with hif := { s.hif with rings := t.hif.rings }, out := t.out }) ∧
  (∀ s hod (v : BitVec 64), hodWindow s 0 hod = true → hod < 32768 →
    ∃ t, exec (.registerWrite 0 (0x200000 + 64 * hod + 56) 8 (v &&& 7)) s = .next t ∧
      hodOf t hod = { hodOf s hod with pushPrio := v.toNat % 8 } ∧
      t = { s with pal := { s.pal with hods := t.pal.hods } }) ∧
  (∀ s fn m o (v : BitVec 64), fn ≤ 8 → hasMbx s fn m = true → m < 4 → 16 ≤ o → o < 0x100 → o % 8 = 0 →
    ∃ t, exec (.registerWrite fn (m * 0x400 + o) 8 v) s = .next t ∧
      readBar0 t fn (m * 0x400 + o) 8 = v.toNat ∧
      t = { s with hif := { s.hif with mbx := t.hif.mbx } }) ∧
  (∀ s fn m, hasMbx s fn m = true → m < 4 →
    readBar0 s fn (m * 0x400 + 0x200) 4 = 0 ∧
    readBar0 s fn (m * 0x400 + 0x208) 4 = b2n (mbxOf s fn m).busy + b2n (mbxOf s fn m).done * 2
      + b2n (mbxOf s fn m).ignored * 4 + b2n (mbxOf s fn m).timedOut * 8) ∧
  (∀ s fn, s.hif.linkUp = true → s.fw.recovery = false →
    readBar0 s fn 0x1010 4 = ((ringOf s fn).head + b2n (ringOf s fn).phase * 2 ^ 16) % 2 ^ 32 ∧
    readBar0 s fn 0x1018 4 = (ringOf s fn).tail % 2 ^ 32 ∧
    readBar0 s fn 0x1020 4 = min (ringOf s fn).lost (2 ^ 32 - 1)) ∧
  (∀ s fn hod, s.hif.linkUp = true → hodWindow s fn hod = true →
    (∀ k, k < 4 → readBar2 s fn (64 * hod + 8 * k) 8 = 0) ∧
    readBar2 s fn (64 * hod + 40) 8 = (hodOf s hod).popTag.toNat ∧
    readBar2 s fn (64 * hod + 48) 8 = hodStatus (hodOf s hod) % 2 ^ 64 ∧
    readBar2 s fn (64 * hod + 56) 8 = (hodOf s hod).pushPrio % 8)

/-- R465 whole. -/
def Obligations.EventRingPhase : Prop :=
  (∀ s fn, fn ≤ 8 → s.hif.linkUp = true → (ringOf s fn).en = false →
    ∃ t, exec (.mbxEvrEnable fn) s = .next t ∧ (ringOf t fn).en = true ∧ (ringOf t fn).head = 0 ∧
      (ringOf t fn).tail = 0 ∧ (ringOf t fn).lost = 0 ∧ (ringOf t fn).phase = true) ∧
  (∀ s fn size (v : BitVec 64), (ringOf s fn).en = true →
    writeRing s fn 0 size v = s ∧ (ringOf (writeRingCtl s fn (lane64 0 size v)) fn).log2 = (ringOf s fn).log2 ∧
    (ringOf (writeRingCtl s fn (lane64 0 size v)) fn).base = (ringOf s fn).base) ∧
  (∀ s fn e i, (ringStep s fn e i).out =
      .ring fn (ringOf s fn).head (evRecord e (ringOf s fn).phase i) :: s.out ∧
    (ringOf (ringStep s fn e i) fn).head = ((ringOf s fn).head + 1) % 2 ^ (ringOf s fn).log2 ∧
    (ringOf (ringStep s fn e i) fn).phase =
      (if ((ringOf s fn).head + 1) % 2 ^ (ringOf s fn).log2 = 0 then !(ringOf s fn).phase
       else (ringOf s fn).phase))

/-- Every PMBus row. -/
def Obligations.PmbusRowsAct : Prop :=
  ∀ (s : State), s.pwr.smbusOn = true →
    (let kl := s.hv.rKln.toNat
     let hot : Int := ((max (field kl 9 0) (max (field kl 19 10) (field kl 29 20)) : Nat) : Int) - 256
     ∀ p ∈ [(Instr.capability, [(0xB0 : Byte)]), (.voutMode, [0x14]), (.pmbusRevision, [0x33]),
       (.statusByte, leBytes 1 (statusWord s % 256)), (.statusWord, leBytes 2 (statusWord s)),
       (.statusVout, leBytes 1 (statusVout s)), (.statusInput, leBytes 1 (statusInput s)),
       (.statusTemperature, leBytes 1 (statusTemp s)), (.statusMfrSpecific, leBytes 1 (statusMfr s)),
       (.readVin, leBytes 2 (linear11 s.hv.rVin 1000)), (.readIin, leBytes 2 (linear11 s.hv.rIin 1000)),
       (.readPin, leBytes 2 (linear11 s.hv.rPin 1)),
       (.readVout, leBytes 2 (listAt s.hv.rMv 0 s.hv.page * 4096 / 1000 % 65536)),
       (.readIout, leBytes 2 (linear11 (listAt s.hv.rMa 0 s.hv.page : Int) 1000)),
       (.readTemperature1, leBytes 2 (linear11 hot 4)),
       (.mfrId, [6, 0x46, 0x4A, 0x41, 0x52, 0x49, 0x52]),
       (.mfrModel, [10, 0x4B, 0x5A, 0x36, 0x35, 0x33, 0x32, 0x2D, 0x4D, 0x34, 0x38]),
       (.mfrRevision, [2, BitVec.ofNat 8 (0x40 + s.rst.stepping.toNat / 16),
                       BitVec.ofNat 8 (0x30 + s.rst.stepping.toNat % 16)]),
       (.mfrKlnStatus, 8 :: leBytes 8 kl),
       (.mfrEvent, 16 :: (List.range 4).flatMap fun i =>
         leBytes 2 (listAt s.pwr.linkEvs (0, 0) i).1 ++ leBytes 2 (listAt s.pwr.linkEvs (0, 0) i).2)],
     exec p.1 s = .next { s with out := .smbus p.2 :: s.out }) ∧
  (∀ s (v : BitVec 8), s.pwr.smbusOn = true → v.toNat ≤ 8 →
    exec (.page (some v)) s = .next { s with hv := { s.hv with page := v.toNat } }) ∧
  (∀ s (v : BitVec 8), s.pwr.smbusOn = true → 8 < v.toNat →
    exec (.page (some v)) s =
      .next { s with hv := { s.hv with cml := true }, out := .smbusNack :: s.out }) ∧
  (∀ s, s.pwr.smbusOn = true →
    exec (.page none) s = .next { s with out := .smbus (leBytes 1 s.hv.page) :: s.out }) ∧
  (∀ s, s.pwr.smbusOn = true → exec .clearFaults s = .next { s with hv := { s.hv with
    cml := false, vWarn := s.hv.vWarn &&& s.hv.vWarnNow, vFault := s.hv.vFault &&& s.hv.vFaultNow,
    vinUv := s.hv.vinUv && decide (s.pwr.vinMv < 40000), pinOver := s.hv.pinOver && s.pwr.throtPower,
    otWarn := s.hv.otWarn && warnNow s,
    otFault := s.hv.otFault && (s.pwr.tripping || s.pwr.state == .trip),
    safeBad := s.hv.safeBad && !s.clk.safeStable, refLost := s.hv.refLost && s.clk.refLost,
    linkLost := s.hv.linkLost && s.pwr.linkLost, broken := s.hv.broken && s.pwr.broken != 0 } }) ∧
  (∀ s, s.pwr.smbusOn = true → exec .pmbusReadingRefresh s = .next
    { s with hv := { s.hv with rVin := s.pwr.vinMv, rIin := s.pwr.iinMa, rPin := s.pwr.inW,
                               rMv := s.pwr.railMv, rMa := s.pwr.railMa,
                               rKln := if s.pwr.linkLost then s.hv.rKln
                                       else BitVec.ofNat 64 (kilnWord s) } }) ∧
  (∀ s (c : BitVec 8), s.pwr.smbusOn = true → exec (.pmbusUnsupported c) s =
    .next { s with hv := { s.hv with cml := true }, out := .smbusNack :: s.out })

/-- R532, without its sentences on SMB_ALERT_N and R446. -/
def Obligations.ReadingFormats : Prop :=
  (∀ (num : Int) (den : Nat) (e m : Int), linearAt num den linearExps = (e, m) → 0 < den →
    num.natAbs < 33554432 * den →
    (-16 ≤ e ∧ e ≤ 15) ∧ (-1024 ≤ m ∧ m ≤ 1023) ∧
    ∀ e' : Int, -16 ≤ e' → e' < e →
      let m' := if e' < 0 then num * 2 ^ (-e').toNat / den else num / (den * 2 ^ e'.toNat)
      ¬ (-1024 ≤ m' ∧ m' ≤ 1023)) ∧
  (∀ s t, exec .clearFaults s = .next t → t.pwr = s.pwr ∧ statusMfr t / 8 % 2 = statusMfr s / 8 % 2) ∧
  (∀ s t, s.pwr.linkLost = true → exec .pmbusReadingRefresh s = .next t →
    t.hv.rKln = s.hv.rKln ∧ hottest t = hottest s ∧ exec .mfrKlnStatus t =
      (if t.pwr.smbusOn then .next { t with out := .smbus (8 :: leBytes 8 s.hv.rKln.toNat) :: t.out }
       else .next t))

/-- R534. -/
def Obligations.IdcodeValue : Prop :=
  (∀ s, tapOn s = true → ∃ t, exec .idcode s = .next t ∧ t.jtag.ir = 0x02 ∧
    field t.jtag.dr.toNat 0 0 = 1 ∧ field t.jtag.dr.toNat 11 1 = 0x4F5 ∧
    field t.jtag.dr.toNat 27 12 = 0x6532 ∧
    (0x10 ≤ s.rst.stepping.toNat → s.rst.stepping.toNat < 0x44 → s.rst.stepping.toNat % 16 < 4 →
      field t.jtag.dr.toNat 31 28 = 4 * (s.rst.stepping.toNat / 16 - 1) + s.rst.stepping.toNat % 16) ∧
    t = { s with jtag := t.jtag, out := t.out }) ∧
  (∀ s t, tapOn s = true → s.rst.stepping = 0x11 → exec .idcode s = .next t → t.jtag.dr = 0x165329EB)

/-- The JTAG rows, and link training. -/
def Obligations.JtagAndLinkRowsAct : Prop :=
  (∀ s, tapOn s = true → locked s = false →
    ∀ p ∈ [(Instr.extest, (0x00 : BitVec 8)), (.clamp, 0x03), (.highz, 0x04), (.bypass, 0xFF)],
      exec p.1 s = .next { s with jtag := { s.jtag with ir := p.2, capture := 1 }, out := .jtag 1 :: s.out }) ∧
  (∀ s, tapOn s = true → locked s = true → ∀ c ∈ [Instr.extest, .clamp, .highz, .bypass],
      exec c s = .next { s with jtag := { s.jtag with ir := 0xFF, capture := 5 }, out := .jtag 5 :: s.out }) ∧
  (∀ s, tapOn s = true → ∃ t, exec .samplePreload s = .next t ∧ t.jtag.ir = 0x01 ∧
    t.jtag.dr = Config.freeBits 128 s.freeCtr ∧ t.freeCtr = s.freeCtr + 1 ∧
    t = { s with jtag := t.jtag, freeCtr := t.freeCtr, out := t.out }) ∧
  (∀ s, exec .trstNLow s = .next { s with jtag := { s.jtag with ir := 0x02 } }) ∧
  (∀ s (dr : BitVec 128) ups, tapOn s = true →
    let u := upsets s ups
    let d := dr.toNat
    let a := field d 36 3 * 8
    (memUp u = false ∨ rangeWaits u a 8 = false ∧ pageJob u (linePage (a / 128)) = none →
      ∃ t, exec (.dbgAccess dr ups) s = .next t ∧ field t.jtag.dr.toNat 1 0 = 2 ∧
        t = { u with jtag := t.jtag, freeCtr := t.freeCtr, out := t.out }) ∧
    (∀ j, memUp u = true → rangeWaits u a 8 = false → pageJob u (linePage (a / 128)) = some j →
      j ≠ field d 39 37 → ∃ t, exec (.dbgAccess dr ups) s = .next t ∧ field t.jtag.dr.toNat 1 0 = 1 ∧
        t = { denied u 17 with jtag := t.jtag, freeCtr := t.freeCtr, out := t.out }) ∧
    (memUp u = true → rangeWaits u a 8 = true →
      ∃ t, exec (.dbgAccess dr ups) s = .next t ∧ field t.jtag.dr.toNat 1 0 = 3 ∧
        t = { u with jtag := t.jtag, freeCtr := t.freeCtr, out := t.out }) ∧
    (memUp u = true → rangeWaits u a 8 = false →
      pageJob u (linePage (a / 128)) = some (field d 39 37) →
      (bitOf d 40 = false → let r := masterRead u 17 a 8
        ∃ t, exec (.dbgAccess dr ups) s = .next t ∧ field t.jtag.dr.toNat 1 0 = dbgStatus r.1 ∧
          (r.1 = .ok → field t.jtag.dr.toNat 127 64 = leNat r.2.1 % 2 ^ 64) ∧ t.jtag.ir = 0x10 ∧
          t = { r.2.2 with jtag := t.jtag, freeCtr := t.freeCtr, out := .jtag t.jtag.dr :: r.2.2.out }) ∧
      (bitOf d 40 = true → let r := masterWrite u 17 false a (leBytes 8 (field d 127 64))
        ∃ t, exec (.dbgAccess dr ups) s = .next t ∧ field t.jtag.dr.toNat 1 0 = dbgStatus r.1 ∧
          t.jtag.ir = 0x10 ∧
          t = { r.2 with jtag := t.jtag, freeCtr := t.freeCtr, out := .jtag t.jtag.dr :: r.2.out }))) ∧
  (∀ s, s.pwr.perstN = true → s.hif.linkTraining = true → exec .pcieLinkTraining s =
    .next { s with hif := { s.hif with linkUp := true, linkTraining := false } })

/-- The board side without DBG_ACCESS, which R535 gives an access of its own. -/
def Obligations.BoardSideStaysOutside : Prop :=
  ∀ (c : Instr) (s t : State), boardRow c = true → exec c s = .next t →
    t = { s with hv := t.hv, jtag := t.jtag, freeCtr := t.freeCtr, out := t.out }

/-- The sequencer's three events, each wherever it acts. -/
def Obligations.SequencerEventsAct : Prop :=
  (∀ s j cycles ups, seqOn s (jobOf s j) = true → active (jobOf s j) = true →
    (jobOf s j).go = false → (jobOf s j).endDone = false → (jobOf s j).charge = 0 →
    atB (jobOf s j) = false →
    let u := upsets s ups
    let v := setAsides (frameFaults (jobNet u j) j u) j
    let cs := pendingCauses v j cycles
    ∃ t, exec (.sequencerSample j cycles ups) s = .next t ∧ t = { v with jobs := t.jobs } ∧
      (cs = [] → jobOf t j = { jobOf v j with go := true }) ∧
      (cs ≠ [] → (jobOf t j).waits = waitBits cs ∧ (jobOf t j).charge = cs.foldl chargeOf 0) ∧
      (1 ∈ cs → (jobOf t j).go = false)) ∧
  (∀ s j cycles ups, seqOn s (jobOf s j) = true → active (jobOf s j) = true →
    (jobOf s j).go = true → (jobOf s j).endDone = false → (jobOf s j).charge = 0 →
    atB (jobOf s j) = false →
    let u := upsets s ups
    let n := (jobOf s j).ahead + 1
    exec (.sequencerSample j cycles ups) s =
      .next (if sampleAhead (jobOf s j) && (causesAhead s j n cycles).isEmpty then
        modJob u j fun y => { y with ahead := y.ahead + 1 } else u)) ∧
  (∀ s j cycles waited ups, seqOn s (jobOf s j) = true →
    ((jobOf s j).state ≠ .stopped ∨ (jobOf s j).replay.isSome = true) → (jobOf s j).go = false →
    ((jobOf s j).charge ≠ 0 ∨ (jobOf s j).endDone = true) → atB (jobOf s j) = false →
    let x := jobOf s j
    let u := upsets (if x.charge = 0 then s else leafAdd s (leafJob j (x.charge - 1)) waited) ups
    let v := setAsides (if x.endDone then u else frameFaults (jobNet u j) j u) j
    let cs := pendingCauses v j cycles
    ∃ t, exec (.boundaryConditionsMet j cycles waited ups) s = .next t ∧
      (cs ≠ [] → t = holdFor v j cs ∧ (jobOf t j).waits = waitBits cs) ∧
      (cs = [] → active (jobOf v j) = false → t = v) ∧
      (cs = [] → active (jobOf v j) = true →
        (x.endDone = false → jobOf t j = { jobOf v j with go := true, waits := 0, charge := 0 } ∧
          t = { v with jobs := t.jobs }) ∧
        (x.endDone = true → t = if atCommit x && holdDue (jobOf v j) x.cycle then enterHold v j
          else doSwap v j))) ∧
  (∀ s j (trig : BitVec 16) ups, seqOn s (jobOf s j) = true → active (jobOf s j) = true →
    (jobOf s j).go = true → (jobOf s j).endDone = false → atB (jobOf s j) = false →
    ((jobOf s j).desc.static = true ∨ allSwap s j = true) →
    let x := jobOf s j
    let w := courseEffects (upsets s ups) j trig
    exec (.courseEnd j trig ups) s = .next (courseDone w j x (mayBlock s j)) ∧
    (jobOf w j).endDone = true ∧ (jobOf w j).go = false ∧ (jobOf w j).waits = 0 ∧
    (jobOf w j).cycle = if lastCourse x then x.cycle + 1 else x.cycle)

/-- The commit of R74, as the course end calls it. -/
def Obligations.CommitCountsUserCycles : Prop :=
  ∀ (s : State) (j : Nat) (pins : BitVec 16),
    (jobOf (commitJob s j pins) j).cycle = (jobOf s j).cycle + 1 ∧
    ∀ k, k ≠ j → (jobOf (commitJob s j pins) k).cycle = (jobOf s k).cycle

/-- The events of the trowel. -/
def Obligations.TrowelRowsAct : Prop :=
  (∀ s j ups, s.pwr.state = .ready → s.clk.domainsOn = true → startupDue s j = true →
    exec (.trowelVerdict j ups) s = .next (verdict (upsets s ups) j 0)) ∧
  (∀ s j ups, startupDue s j = false → seqOn s (jobOf s j) = true → (jobOf s j).state ≠ .stopped →
    (jobOf s j).desc.static = false → preloadDue s j = true →
    exec (.trowelVerdict j ups) s = .next (verdict (upsets s ups) j (nextCourse (jobOf s j)))) ∧
  (∀ s j ups, seqOn s (jobOf s j) = true → (jobOf s j).state ≠ .stopped →
    (jobOf s j).desc.static = true → relocsWait s j = false →
    ((jobOf s j).rewriting = true ∨
      ∀ c ∈ (jobOf s j).faults, actionable c = false ∧ c ≠ .dieReset) →
    exec (.staticPreload j ups) s = .next (verdict (upsets s ups) j 0)) ∧
  (∀ s j, seqOn s (jobOf s j) = true → ∃ t, exec (.refreshTimerExpiry j) s = .next t ∧
    jobOf t j = { jobOf s j with sweepDue := true } ∧ t = { s with jobs := t.jobs }) ∧
  (∀ s j ups, seqOn s (jobOf s j) = true → (jobOf s j).sweepDue = true →
    ((jobOf s j).waits.getLsbD 1 = true ∨ (jobOf s j).capturing.isSome = true ∨
      (jobOf s j).state = .stopped ∨ (jobOf s j).replay.isNone = true ∧
        ((jobOf s j).state = .heldCmd ∨ (jobOf s j).state = .heldFault)) →
    exec (.refreshSweep j ups) s = .next (each (jobTiles s j) (sweepTile j (jobOf s j).desc.courseCount)
      (modJob (upsets s ups) j fun y =>
        { y with sweepDue := false, sweepRun := true, waits := y.waits ||| 2 }))) ∧
  (∀ s j, ∃ t, exec (.refreshSweepEnd j) s = .next t ∧
    jobOf t j = { jobOf s j with
      sweepRun := false
      waits := if (jobOf s j).clockHold then (jobOf s j).waits else (jobOf s j).waits &&& ~~~2 } ∧
    t = { s with jobs := t.jobs }) ∧
  (∀ s tile, tile < 400 → (tileOf s tile).holding = true → s.clk.domainsOn = true →
    ∃ t, exec (.holdingSweep tile) s = .next t ∧
      tileOf t tile = { tileOf s tile with holdUs := s.nowUs } ∧ t = { s with tiles := t.tiles }) ∧
  (∀ s tile brick, tile < 400 → ∃ t, exec (.storeWriteback tile brick) s = .next t ∧
    tileOf t tile = { tileOf s tile with
      store := ((tileOf s tile).storeWb.filter fun e => e.1 / 320 == brick).foldl
        (fun m e => mapPut m 0 e.1 e.2) (tileOf s tile).store,
      storeWb := (tileOf s tile).storeWb.filter fun e => e.1 / 320 != brick } ∧
    t = { s with tiles := t.tiles }) ∧
  (∀ s j g, faultHeld s (jobOf s j) = true →
    exec (.faultHoldHandling j g) s = .next (handleFaults s j g)) ∧
  (∀ s tile ups, tile < 400 → trwWrong (tileOf (upsets s ups) tile) = 1 →
    let u := upsets s ups
    let w := trwVote (tileOf u tile)
    ∃ t, exec (.voteFix tile ups) s = .next t ∧
      tileOf t tile = { tileOf u tile with trw0 := w, trw1 := w, trw2 := w,
                                           trwStatus := (tileOf u tile).trwStatus ||| 8 } ∧
      mapGet t.tel.leaves 0 (leafTile tile 3) = mapGet u.tel.leaves 0 (leafTile tile 3) + 1 ∧
      t = { u with tiles := t.tiles, tel := t.tel }) ∧
  (∀ s tile ups, tile < 400 → 2 ≤ trwWrong (tileOf (upsets s ups) tile) →
    exec (.trowelStop tile ups) s = .next (trowelStop (upsets s ups) tile)) ∧
  (∀ s tile o, ownerOf s tile = some o → trwStopped (tileOf s tile) = false →
    trwStopped (tileOf (trowelStop s tile) tile) = true ∧
    (tileOf (trowelStop s tile) tile).swapOn = false ∧
    (tileOf (trowelStop s tile) tile).lastStop = some s.nowUs) ∧
  (∀ s, (∀ t, t < 400 → trwVote (tileOf s t) = (tileOf s t).trwRecord) →
    exec (.trwRegisterAudit []) s = .next s) ∧
  (∀ s ups, exec (.trwRegisterAudit ups) s = .next (each (List.range 400) auditTile (upsets s ups))) ∧
  (∀ s tile ups, tile < 400 →
    let u := upsets s ups
    trwStopped (tileOf u tile) = false → (trwVote (tileOf u tile)).getLsbD 11 = true →
    ∃ t, exec (.storeSweepRead tile ups) s = .next t ∧
      (tileOf t tile).sweepPos = ((tileOf u tile).sweepPos + 1) % 320) ∧
  (∀ s, exec .mismatchListExpiry s = .next { s with spr := { s.spr with
    mismatches := s.spr.mismatches.filter fun e => decide (s.nowUs < e.2.2.2.2 + 1000000) } })

/-- The load's commands and first section. -/
def Obligations.LoadsOpenAndEnd : Prop :=
  (∀ s h nr b, granted s h 0x0301 = true → badBulk b = none → s.load = none → lp5xBad s = false →
    s.chain.armed = false → exec (.cmdImageLoad h nr b) s = .next
      { s with load := some { job := namedJob h, hdr := some h, noRelease := nr,
                              covered := bulkBytes b } }) ∧
  (∀ s l h j bs, s.load = some l → l.stage = .header → l.chain = false → l.hdr = some h →
    bs.length = 256 → l.off + 256 ≤ l.covered → headerCheck s l bs = .ok j →
    s.hif.accepted.length < 16 → ∃ t, exec (.imageHeader bs) s = .next t ∧
      t.load = some (headerLoad s l j bs) ∧ (jobOf t j).state = .loading ∧
      (jobOf t j).outHold = true ∧ (jobOf t j).weHold = true ∧ (jobOf t j).resets = 0x7F ∧
      (∀ k, k ≠ j → jobOf t k = jobOf s k) ∧ findAcc t 0x0301 ≠ none ∧
      t = { s with load := t.load, jobs := t.jobs, hif := t.hif, out := t.out }) ∧
  (∀ s l st bs, s.load = some l → l.stage = .header → l.chain = false → bs.length = 256 →
    l.off + 256 ≤ l.covered → headerCheck s l bs = .error st →
    exec (.imageHeader bs) s = .next (failLoad s st)) ∧
  (∀ s l, s.load = some l → l.chain = false → l.stage ≠ .starting → l.stage ≠ .ramping →
    exec .loadSilenceTimeout s = .next (failLoad s .imageTruncated)) ∧
  (∀ s h, granted s h 0x0302 = true → s.load.isSome = true →
    exec (.cmdImageAbort h) s = .next (failLoad (answer s h 0x0302 []) .imageTruncated)) ∧
  (∀ s l h, s.load = some l → l.stage = .descriptor → l.hdr = some h → l.chain = false → l.bound = [] →
    ∃ t, failLoad s .imageTruncated = t ∧ t.load = none ∧ (jobOf t l.job).state = .empty ∧
      (jobOf t l.job).image = none ∧ t.tileMap = s.tileMap.filter (fun e => e.2.job != l.job) ∧
      t.tiles = s.tiles) ∧
  (∀ s h vf vc cf cc b, granted s h 0x0303 = true → bulkReady s b = true → s.pwr.state ≠ .deepHold →
    (jobOf s (namedJob h)).state ≠ .loading → readbackOk (jobOf s (namedJob h)) vf vc cf cc = true →
    let r := ((List.range vc).map (· + vf)).foldl (planeRun (namedJob h) cf cc) ([], s)
    exec (.cmdImageReadbackPlanes h vf vc cf cc b) s = .next (respond
      (enlist (emitOut r.2 (.host h.fn r.1)) h 0x0303 [namedJob h]) h 0x0303 .accepted []))

/-- The sections after the header, for a load over PCIe. -/
def Obligations.SectionsAdvanceTheLoad : Prop :=
  (∀ s l bs, s.load = some l → l.stage = .descriptor → l.chain = false → 256 ≤ bs.length →
    l.off + bs.length ≤ l.covered → descOk (parseDesc bs) = true →
    (parseDesc bs).courseCount = l.courseCount → hodsFit s l.job l.vtCount = true →
    streamsFit s l.job l.vtCount l.courseCount (parseDesc bs).intraMask = true →
    exec (.imageDescriptor bs) s = .next
      { s with load := some { l with off := l.off + bs.length, stage := .tiles, desc := parseDesc bs,
                                     image := { l.image with bytes := l.image.bytes ++ bs } } }) ∧
  (∀ s l bs t b, s.load = some l → l.stage = .tiles → l.chain = false → 64 ≤ bs.length →
    l.off + bs.length ≤ l.covered → pickTile s = some t → parseBlock bs = some b →
    let done := l.nextVt + 1 == l.vtCount
    let img := { l.image with bytes := l.image.bytes ++ bs,
                              rows := l.image.rows ++ imageRows l.nextVt b.rows,
                              links := l.image.links ++ b.words.map fun w => (l.nextVt, parseLink w) }
    let l3 := { l with off := l.off + bs.length, bound := l.bound ++ [(l.nextVt, t)], image := img,
                       nextVt := l.nextVt + 1,
                       stage := if !done then .tiles else if l.slabBlocks = 0 then .signatures else .slabs }
    (blockCheck l bs b = none → (done = true → inboundOk l3 = true) →
      ∃ u, exec (.imageTileBlock bs) s = .next u ∧ u.load = some l3 ∧
        (tileOf u t).planes = b.rows ∧ (tileOf u t).reserved = true ∧ (tileOf u t).holding = true ∧
        u.tileMap = mapPut s.tileMap {} (freeEntry s) { phys := t, job := l.job, vt := l.nextVt } ∧
        u = { s with load := u.load, tiles := u.tiles, tileMap := u.tileMap, spr := u.spr }) ∧
    (∀ st, blockCheck l bs b = some st → ∃ u, exec (.imageTileBlock bs) s = .next u ∧ u.load = none ∧
      (jobOf u l.job).state = .empty) ∧
    (blockCheck l bs b = none → done = true → inboundOk l3 = false →
      ∃ u, exec (.imageTileBlock bs) s = .next u ∧ u.load = none ∧ (jobOf u l.job).state = .empty)) ∧
  (∀ s l bs, s.load = some l → l.stage = .slabs → l.chain = false → 16 ≤ bs.length →
    l.off + bs.length ≤ l.covered → slabCheck l bs = true →
    let w := leAt bs 5 1
    let key := leAt bs 2 2 * 48 + leAt bs 4 1
    let last := l.slabSeen + 1 == l.slabBlocks
    (last = true → l.off + bs.length = l.sigOff) → (last = false → l.off + bs.length < l.sigOff) →
    exec (.imageSlabBlock bs) s = .next { s with load := some { l with
      off := l.off + bs.length, slabSeen := l.slabSeen + 1, lastSlab := key + 1,
      stage := if last then .signatures else .slabs,
      image := { l.image with
        bytes := l.image.bytes ++ bs,
        slabs := l.image.slabs ++ slabRows bs (leAt bs 2 2) (leAt bs 4 1) (bitOf w 5) (bitOf w 4),
        slabCfg := mapPut l.image.slabCfg 0 key (BitVec.ofNat 5 w) } } }) ∧
  (∀ s l bs, s.load = some l → l.stage = .signatures → l.chain = false → 16 ≤ bs.length →
    l.off + bs.length ≤ l.covered → tableOk l bs = true →
    (sigsOk l bs = true → exec (.imageSignatureTable bs) s = .next { s with load := some { l with
      off := l.off + bs.length, stage := .endRecord,
      image := { l.image with bytes := l.image.bytes ++ bs } } }) ∧
    (sigsOk l bs = false → exec (.imageSignatureTable bs) s = .next (failLoad s .imageCrc))) ∧
  (∀ s l bs, s.load = some l → l.stage = .endRecord → l.chain = false → 32 ≤ bs.length →
    l.off + bs.length ≤ l.covered → endOk l bs = true →
    let img := { l.image with bytes := l.image.bytes ++ bs, crc := BitVec.ofNat 32 (leAt bs 24 4) }
    let l2 := { l with stage := .ramping, off := l.total, image := img }
    let v := settleFab { s with load := some l2 }
    (endCrcOk l bs = true → fabWithin v l.desc.fabMax = false →
      exec (.imageEndRecord bs) s = .next v) ∧
    (endCrcOk l bs = true → fabWithin v l.desc.fabMax = true → readGolden v img 0 l.total = (false, v) →
      ∃ u, exec (.imageEndRecord bs) s = .next u ∧ u.load = some { l2 with stage := .starting } ∧
        (jobOf u l.job).image = some img ∧ (jobOf u l.job).desc = l.desc ∧
        u.tileMap = s.tileMap.map fun e => if e.2.job == l.job then (e.1, { e.2 with valid := true }) else e) ∧
    (endCrcOk l bs = false → exec (.imageEndRecord bs) s = .next (failLoad s .imageCrc))) ∧
  (∀ s l vt old t, s.load = some l → l.bound.find? (fun e => e.1 == vt) = some (vt, old) →
    pickTile s = some t → t ≠ old → readBlock s l.image vt = (false, s) →
    ∃ u, exec (.tileRebind vt) s = .next u ∧
      (tileOf u t).planes = planesOf l.image vt ∧
      (l.stage ≠ .starting → (tileOf u t).reserved = true ∧ (tileOf u t).holding = true) ∧
      (l.stage = .starting → ∃ x, tileOf u t = imageTile l.image vt l.job l.desc x) ∧
      (tileOf u old).reserved = false ∧ (tileOf u old).planes = [] ∧
      u.load = some { l with bound := l.bound.map fun e => if e.1 = vt then (vt, t) else e } ∧
      u = { s with load := u.load, tiles := u.tiles, tileMap := u.tileMap, spr := u.spr })

/-- The chain rows. -/
def Obligations.ChainRowsAct : Prop :=
  (∀ s h, granted s h 0x0304 = true → chainPortsUsed s = false → s.chain.armed = false →
    ∃ t, exec (.cmdChainArm h) s = .next t ∧ t.chain = { armed := true } ∧
      (portOf t 0).st = .chain ∧ (portOf t 1).st = .chain ∧ (portOf t 0).laneMask = 0 ∧
      (∀ p, p ≠ 0 → p ≠ 1 → portOf t p = portOf s p) ∧
      t = { s with chain := t.chain, lry := t.lry, hif := t.hif, out := t.out }) ∧
  (∀ s h, granted s h 0x0304 = true → s.chain.armed = true →
    let a := answer s h 0x0304 []
    ((∀ l, s.load = some l → l.chain = false) →
      exec (.cmdChainDisarm h) s = .next (endSession a)) ∧
    (∀ l, s.load = some l → l.chain = true →
      exec (.cmdChainDisarm h) s = .next (endSession (failLoad a .imageTruncated)))) ∧
  (∀ s m, nextMsg s 0 2 0 = some m → (portOf s 0).st = .chain →
    exec .chainData s = .next (chainStream (takeMsg s 0 m) (m.body.drop 4))) ∧
  (∀ s, s.chain.armed = true → s.chain.session = true →
    exec .chainSessionSilence s = .next (endSession s)) ∧
  (∀ s m, nextMsg s 0 2 3 = some m → s.chain.armed = true →
    exec .chainAbort s = .next (endSession (takeMsg s 0 m))) ∧
  (∀ s, (endSession s).chain = { outLost := (endSession s).chain.outLost,
                                 discarded := (endSession s).chain.discarded }) ∧
  (∀ s, s.chain.armed = false → (portOf s 0).st = .chain → (portOf s 0).enable = true →
    ∃ t, exec .chainPortsRestore s = .next t ∧ (portOf t 0).st = .training ∧
      t.chain.endPassed = false ∧ t = { s with chain := t.chain, lry := t.lry })

/-- Placement commands and events. -/
def Obligations.PlacementRowsAct : Prop :=
  (∀ s h first count, granted s h 0x0501 = true → rangeOk first count 131072 131072 = true →
    (∀ p ∈ pagesFrom first count, isMapped s p = false) → lp5xBad s = false →
    count ≤ (freeFar s count).length → s.hif.accepted.length < 16 →
    exec (.cmdMemMap h first count) s = .next (respond (enlist
      (updatePasr (each ((pagesFrom first count).zip (freeFar s count)) (takeFrame (namedJob h)) s))
      h 0x0501 [namedJob h, first, count]) h 0x0501 .accepted [])) ∧
  (∀ s a j first count, findAcc s 0x0501 = some a → a.args = [j, first, count] →
    (jobOf s j).created = true → exec .memMapDone s = .next (complete (dropAcc
      (each ((pagesFrom first count).filter (mappedTo s j)) finishMap s) 0x0501)
      a.hdr 0x0501 0x0507 .ok [])) ∧
  (∀ s p m, mapGet s.mem.mirror none p = some m → (pptOf (finishMap s p) p).state = .far ∧
    (pptOf (finishMap s p) p).job = m.job ∧ (pptOf (finishMap s p) p).farFrame = m.farFrame ∧
    ∀ q, q ≠ p → pptOf (finishMap s p) q = pptOf s q) ∧
  (∀ s h first count, granted s h 0x0502 = true → jobQuiet s (namedJob h) = true →
    rangeOk first count 131072 131072 = true →
    (∀ p ∈ pagesFrom first count, mappedTo s (namedJob h) p = true) → lp5xBad s = false →
    exec (.cmdMemUnmap h first count) s =
      .next (answer (updatePasr (each (pagesFrom first count) unmapPage s)) h 0x0502 [])) ∧
  (∀ s p, (pptOf (unmapPage s p) p).state = .unbacked ∧
    mapGet (unmapPage s p).mem.mirror none p = none) ∧
  (∀ s h k, granted s h 0x0504 = true → knobsOk k = true → exec (.cmdPlcPolicy h k) s =
    .next (answer { s with mem := { s.mem with knobsNext := some k } } h 0x0504 [])) ∧
  (∀ s h first count, granted s h 0x0503 = true → pinCheck s h first count = none →
    (∀ p ∈ pagesFrom first count, isExcluded s p = false) →
    pinsWith s (pagesFrom first count) ≤ s.mem.knobs.pinLimit →
    exec (.cmdMemPinPin h first count false) s =
      .next (answer (each (pagesFrom first count) (setPins true false) s) h 0x0503 [])) ∧
  (∀ s h first count, granted s h 0x0503 = true → pinCheck s h first count = none →
    (∀ p ∈ pagesFrom first count, isPinned s p = false) → exec (.cmdMemPinExclude h first count) s =
      .next (answer (each (pagesFrom first count) (setPins false true) s) h 0x0503 [])) ∧
  (∀ s h first count, granted s h 0x0503 = true → pinCheck s h first count = none →
    exec (.cmdMemPinClear h first count) s =
      .next (answer (each (pagesFrom first count) (setPins false false) s) h 0x0503 [])) ∧
  (∀ s h p, granted s h 0x050A = true → mappedTo s (namedJob h) p = true →
    jobQuiet s (namedJob h) = true → lp5xBad s = false → s.hif.accepted.length < 16 →
    exec (.cmdMemPageReset h p) s =
      .next (respond (enlist s h 0x050A [namedJob h, p]) h 0x050A .accepted [])) ∧
  (∀ s a j p, findAcc s 0x050A = some a → a.args = [j, p] → mappedTo s j p = true →
    exec .pageResetDone s =
      .next (complete (dropAcc (resetPage s p) 0x050A) a.hdr 0x050A 0x0E02 .ok [])) ∧
  (∀ s, memUp s = true → ∃ t, exec .placementEpochEnd s = .next t ∧ t = epochEnd s ∧
    t.mem.knobs = s.mem.knobsNext.getD s.mem.knobs ∧ t.mem.knobsNext = none) ∧
  (∀ s p ups, let u := upsets s ups
    memUp u = true → (∀ c ∈ u.lp.chans, c.2.st ≠ 1) →
    ∃ t, exec (.pageMigrationDone p ups) s = .next t ∧ t = finishMove u p ∧
      (∀ d, u.mem.moves = [(p, d)] → (pptOf u p).state = .migrating →
        u.mem.stalled.contains p = false → mapGet u.mem.pptErr 0 p = 0 →
        (pptOf t p).state ≠ .migrating ∧ t.mem.moves = [])) ∧
  (∀ s p, s.mem.stalled.contains p = true → ∃ t, exec (.plcEntryRebuild p) s = .next t ∧
    t = rebuildEntry s p ∧ t.mem.stalled.contains p = false ∧ mapGet t.mem.pptErr 0 p = 0)

/-- Regions, rights, quarantine and DMA. -/
def Obligations.MemoryControlRowsAct : Prop :=
  (∀ s h r, granted s h 0x0506 = true → (∀ j, j < 8 → (jobOf s j).image = none) → regionsOk r = true →
    lp5xBad s = false → regionsSum r + (usedFrames s).length ≤ 122880 →
    let u := updatePasr (packFrames { s with mem := { s.mem with regions := r } })
    exec (.cmdMemRegions h r) s = .next (answer u h 0x0506 (leBytes 4 (backingFrames u)))) ∧
  (∀ s h m (w : BitVec 16), granted s h 0x0507 = true → m < 19 → rightsOk s m w = true →
    s.mem.rights.length = 19 → ∃ t, exec (.cmdMemRights h m w) s = .next t ∧
      listAt t.mem.rights 0 m = w ∧ (∀ k, k ≠ m → listAt t.mem.rights 0 k = listAt s.mem.rights 0 k) ∧
      t.mem = { s.mem with rights := t.mem.rights } ∧
      t = { s with mem := t.mem, hif := t.hif, out := t.out }) ∧
  (∀ s h p, granted s h 0x0509 = true → p < 131072 → exec (.cmdMemQuarantineRemove h p) s =
    .next (answer (removeQuar s p) h 0x0509
      (((s.mem.quar.filter (fun q => linePage q.line == p)).take 10).flatMap quarBytes))) ∧
  (∀ s p, ∀ q ∈ (removeQuar s p).mem.quar, q ∈ s.mem.quar ∧ linePage q.line ≠ p) ∧
  (∀ s h c fn, granted s h 0x0508 = true → c < 8 → fn < 9 → dmaActive (dmaOf s c) = false →
    ∃ t, exec (.cmdMemDmaAssign h c fn) s = .next t ∧ dmaOf t c = { dmaOf s c with fn := some fn } ∧
      (∀ k, k ≠ c → dmaOf t k = dmaOf s k) ∧ t = { s with hif := t.hif, out := t.out }) ∧
  (∀ s fn c (v : BitVec 16), fn ≤ 8 → c < 8 → s.hif.linkUp = true → (dmaOf s c).fn = some fn →
    ∃ t, exec (.mbxDmaDoorbell fn c v) s = .next t ∧
      dmaOf t c = { dmaOf s c with doorbell := v.toNat % 2 ^ (dmaOf s c).log2 } ∧
      t = { s with hif := { s.hif with dma := t.hif.dma } }) ∧
  (∀ s fn c desc data ups, c < 8 →
    let u := upsets s ups
    let d := descOf desc data
    (dmaOf u c).fn = some fn → dmaActive (dmaOf u c) = true → (dmaOf u c).stopped = false →
    (dmaOf u c).cur = none → memUp u = true → dmaWaits u d = false →
    let r := dmaMove u fn d
    exec (.dmaDescriptor c desc data ups) s =
      .next (modDma r.2 c fun x => { x with cur := some (r.1, d.irq) }) ∧
    (1 ≤ d.len → d.len ≤ 16777216 → r = if d.toHost
      then (dmaStatus (masterRead u fn d.addr d.len).1, emitOut (masterRead u fn d.addr d.len).2.2
        (.dma fn d.host.toNat (masterRead u fn d.addr d.len).2.1))
      else (dmaStatus (masterWrite u fn true d.addr (data.take d.len)).1,
        (masterWrite u fn true d.addr (data.take d.len)).2))) ∧
  (∀ s fn c st irq, c < 8 → (dmaOf s c).fn = some fn → (dmaOf s c).cur = some (st, irq) →
    ∃ t, exec (.dmaDescriptorComplete c) s = .next t ∧
      dmaOf t c = (if st = 0 then { dmaOf s c with cur := none, next := ((dmaOf s c).next + 1) % 2 ^ (dmaOf s c).log2 }
        else { dmaOf s c with cur := none, stopped := true }) ∧
      t.out = (if irq then [.msix fn (2 + c)] else []) ++
        .dma fn (descAddr (dmaOf s c) + 0x18) (leBytes 8 (st + 2 ^ 16)) :: s.out ∧
      t = { s with hif := { s.hif with dma := t.hif.dma }, out := t.out }) ∧
  (∀ s fn c, fn ≤ 8 → c < 8 → s.hif.linkUp = true → (dmaOf s c).fn = some fn →
    (dmaOf s c).stopped = true → ∃ t, exec (.mbxDmaRestart fn c) s = .next t ∧
      dmaOf t c = { dmaOf s c with stopped := false,
                                   next := ((dmaOf s c).next + 1) % 2 ^ (dmaOf s c).log2 } ∧
      t = { s with hif := { s.hif with dma := t.hif.dma } })

/-- The accesses, by the operations that carry them out. -/
def Obligations.AccessRowsAct : Prop :=
  (∀ s j ups, let u := upsets s ups
    let reqs := oldestBatch (jobOf u j).memReqs
    memUp u = true → ∀ v, fetchAll reqs u = (true, v) →
    (∀ r ∈ reqs, lineWaits v (unitLine r.unit) = false) →
    let a := each (reqs.filter (fun r => !r.write)) (readReq j) v
    let ws := reqs.filter (fun r => r.write)
    let b := each (ws.filter (reqFenced a j)) (fun s r => setResult s j r .fenced 0) a
    let ok := ws.filter (fun r => !reqFenced b j r)
    exec (.designMemoryAccess j ups) s = .next (each ((ok.map (fun r => unitLine r.unit)).eraseDups)
      (fun s dl => writeReqs j s (ok.filter (fun r => unitLine r.unit == dl))) b)) ∧
  (∀ s j vt port, j < 8 → vt < 384 → port < 2 → ∃ t, exec (.tileMemoryReply j vt port) s = .next t ∧
    jobOf t j = { jobOf s j with memReqs := markArrived vt port (jobOf s j).memReqs } ∧
    t = { s with jobs := t.jobs }) ∧
  (∀ s fn addr len ups, fn ≤ 8 →
    let u := upsets s ups
    u.hif.linkUp = true → memUp u = true → addr + len ≤ 2 ^ 37 →
    let r := masterRead u fn addr len
    (u.lp.waiting = [] → rangeWaits u addr len = false → exec (.bar4Read fn addr len ups) s =
      .next (emitOut r.2.2 (.cpl (cplStatus r.1) (if r.1 = .ok then r.2.1 else [])))) ∧
    (u.lp.waiting ≠ [] ∨ rangeWaits u addr len = true → exec (.bar4Read fn addr len ups) s =
      .next { u with lp := { u.lp with waiting := u.lp.waiting ++ [.read fn addr len] } })) ∧
  (∀ s fn addr data ups, fn ≤ 8 →
    let u := upsets s ups
    u.hif.linkUp = true → memUp u = true → addr + data.length ≤ 2 ^ 37 →
    let r := masterWrite u fn true addr data
    (u.lp.waiting = [] → rangeWaits u addr data.length = false → exec (.bar4Write fn addr data ups) s =
      .next (if r.1 = .ok then r.2 else emitOut r.2 (.posted fn (cplStatus r.1)))) ∧
    (u.lp.waiting ≠ [] ∨ rangeWaits u addr data.length = true → exec (.bar4Write fn addr data ups) s =
      .next { u with lp := { u.lp with waiting := u.lp.waiting ++ [.write fn addr data] } })) ∧
  (∀ s dl ups m, m < 19 → let u := upsets s ups
    memUp u = true → servedFar u dl = true → lineWaits u dl = false →
    let r := masterReadLine u m dl 2
    exec (.farLineRead m dl ups) s = .next (if m < 9 then
      emitOut r.2.2 (.cpl (cplStatus r.1) (if r.1 = .ok then leBytes 128 r.2.1.toNat else [])) else r.2.2)) ∧
  (∀ s addr data m, m < 19 → memUp s = true → servedFar s (addr / 128) = true →
    lineWaits s (addr / 128) = false → exec (.farLineWrite m addr data) s =
      .next (masterWrite s m (decide (m < 9)) addr (data.take (128 - addr % 128))).2)

/-- Write, then read, one far line. -/
def Obligations.FarLineReadsBackWhatWasWritten : Prop :=
  ∀ (s : State) (dl j k : Nat) (data : List Byte),
    memUp s = true → servedFar s dl = true → data.length = 128 → dl < 2 ^ 30 →
    accessFenced s 9 (pptOf s (linePage dl)) dl = false →
    (pptOf s (linePage dl)).state = .far → (pptOf s (linePage dl)).job = j → rightsOf s 0 j = 3 →
    s.mem.stalled.contains (linePage dl) = false → mapGet s.mem.pptErr 0 (linePage dl) = 0 →
    (jobOf s j).key = some k → (jobOf s j).replay = none → (jobOf s j).journaling = false →
    isListed s dl = false → (chanOf s (lineChannel (farIndex (pptOf s (linePage dl)).farFrame dl))).st = 2 →
    ∃ t u, exec (.farLineWrite 0 (128 * dl) data) s = .next t ∧ exec (.farLineRead 0 dl []) t = .next u ∧
      u.out = .cpl 0 data :: s.out ∧ t.mem.near = s.mem.near ∧ t.mem.ppt = s.mem.ppt ∧
      ∀ l, l ≠ farIndex (pptOf s (linePage dl)).farFrame dl → mapGet t.mem.far none l = mapGet s.mem.far none l

/-- R200 at BAR4, for an access inside one line. -/
def Obligations.NoRightNoAccess : Prop :=
  ∀ (s : State) (fn addr j : Nat), fn ≤ 8 → s.hif.linkUp = true → memUp s = true → s.lp.waiting = [] →
    rangeWaits s addr 8 = false → s.mem.stalled.contains (linePage (addr / 128)) = false →
    mapGet s.mem.pptErr 0 (linePage (addr / 128)) = 0 →
    addr % 128 + 8 ≤ 128 → addr + 8 ≤ 2 ^ 37 → pageJob s (linePage (addr / 128)) = some j →
    (rightsOf s fn j = 0 → ∃ t, exec (.bar4Read fn addr 8 []) s = .next t ∧ t.mem.far = s.mem.far ∧
      t.mem.near = s.mem.near ∧ t.mem.ppt = s.mem.ppt ∧ t.jobs = s.jobs ∧
      t.out.head? = some (.cpl (cplStatus .noRights) []) ∧ cplStatus .noRights ≠ cplStatus .ok) ∧
    (∀ data, data.length = 8 → rightsOf s fn j ≠ 3 → ∃ t, exec (.bar4Write fn addr data []) s = .next t ∧
      t.mem.far = s.mem.far ∧ t.mem.near = s.mem.near ∧ t.mem.ppt = s.mem.ppt ∧ t.jobs = s.jobs)

/-- The channel events. -/
def Obligations.ChannelRowsAct : Prop :=
  (∀ s ch, ch < 32 → ∃ t, exec (.lp5xRefresh ch) s = .next t ∧
    ((chanOf s ch).st = 2 ∨ (chanOf s ch).st = 3 → chanOf t ch = { chanOf s ch with
      refreshes := (chanOf s ch).refreshes + (chanOf s ch).owed + 1, owed := 0 }) ∧
    ((chanOf s ch).st = 1 → chanOf t ch = { chanOf s ch with owed := (chanOf s ch).owed + 1 }) ∧
    (∀ k, k ≠ ch → chanOf t k = chanOf s k) ∧ t = { s with lp := { s.lp with chans := t.lp.chans } }) ∧
  (∀ s ch (code : BitVec 5) deg, ch < 32 → (chanOf s ch).st = 2 ∨ (chanOf s ch).st = 3 →
    ∃ t, exec (.mr4Read ch code deg) s = .next t ∧ chanOf t ch = mr4Act (chanOf s ch) code deg ∧
      (∀ k, k ≠ ch → chanOf t k = chanOf s k) ∧
      ((chanOf s ch).over105 = true → t = { s with lp := { s.lp with chans := t.lp.chans } })) ∧
  (∀ s ch osc, ch < 32 → (chanOf s ch).st = 2 → ∃ t, exec (.dqsOscMeasure ch osc) s = .next t ∧
    (let d := (osc - (chanOf s ch).oscBase) + ((chanOf s ch).oscBase - osc)
     chanOf t ch = { chanOf s ch with
       refreshes := (chanOf s ch).refreshes + (chanOf s ch).owed
       owed := 0
       osc := osc
       drift := min 255 d
       retrainDue := (chanOf s ch).retrainDue || decide (6 < d) }) ∧
    t = { s with lp := { s.lp with chans := t.lp.chans } }) ∧
  (∀ s ch w, ch < 32 → (chanOf s ch).st = 2 → (chanOf s ch).retrainDue = true →
    ∃ t, exec (.dqRetrainPause ch w) s = .next t ∧ chanOf t ch = { chanOf s ch with
        refreshes := (chanOf s ch).refreshes + (chanOf s ch).owed
        owed := 0
        retrainDue := false
        retrains := min 255 ((chanOf s ch).retrains + 1)
        oscBase := (chanOf s ch).osc
        st := if w then 2 else 1 } ∧ t = { s with lp := { s.lp with chans := t.lp.chans } }) ∧
  (∀ s ch osc, ch < 32 → (chanOf s ch).st = 1 → s.lp.training = false →
    exec (.channelTrainingDone ch true osc) s = .next (runWaiting s.lp.waiting (emitDev
      (modChan s ch fun c => { c with st := 2, recovered := true, osc := osc, oscBase := osc })
      0x0509 [(1, 1)])) ∧
    (let w := emitDev (modChan s ch fun c => { c with st := 5 }) 0x050C []
     let v := each (createdJobs w) (faultHold .channelFailed) w
     exec (.channelTrainingDone ch false osc) s = .next (runWaiting v.lp.waiting v))) ∧
  (∀ s, s.lp.waiting = [] → (runWaiting s.lp.waiting s) = s) ∧
  (∀ s, s.clk.domainsOn = true → s.lp.training = false →
    s.lp.chans.all (fun c => c.2.st != 2 && c.2.st != 3) = true → ∃ t, exec .fullTraining s = .next t ∧
      t.lp.training = true ∧ (∀ ch, ch < 32 → (chanOf t ch).st =
        if trainsFromReset s = false ∧ (chanOf s ch).st = 5 then 5 else 1) ∧ t = { s with lp := t.lp }) ∧
  (∀ s failed oscs, s.lp.training = true → s.pwr.booting = false →
    ∃ t, exec (.fullTrainingDone failed oscs) s = .next t ∧ t.lp.training = false ∧
      (∀ ch, ch < 32 → (chanOf t ch).st = if (chanOf s ch).st = 5 ∨ ch ∈ failed then 5 else 2) ∧
      t.mem = s.mem ∧ (trainsFromReset s = true → t.lp.softRows = (replayRepairs s).lp.softRows ∧
        t.spr.hardRows = (replayRepairs s).spr.hardRows ∧ t.spr.map = (replayRepairs s).spr.map) ∧
      t = { s with lp := t.lp, spr := t.spr, hif := t.hif, out := t.out }) ∧
  (∀ s failed oscs, s.lp.training = true →
    exec (.fullTrainingDone failed oscs) s = .next (tryReady (endTraining s failed oscs))) ∧
  (∀ s line r, line < farLines → s.lp.candidates.contains (rowOfLine line) = true →
    (chanOf s (lineChannel line)).st = 2 → exec (.pprSoftRepair line r) s = .next
      (if r then
        let u := each (linesOfRow line) repairLine s
        let rows := if u.lp.softRows.contains (repairLoc line) then u.lp.softRows
          else u.lp.softRows ++ [repairLoc line]
        let v := { u with lp := { u.lp with softRows := rows } }
        repairedEvent (addRepair (dropCandidate v line) 11 (repairLoc line) 0) line true
       else repairedEvent (each (((linesOfRow line).map (· / 8192)).eraseDups) retireFrame
          (dropCandidate s line)) line false))

/-- The controller's commands. -/
def Obligations.MemoryServiceRowsAct : Prop :=
  (∀ s h first bytes share b, granted s h 0x050B = true → first % 128 = 0 → bytes % 128 = 0 →
    bytes ≠ 0 → (first + bytes) / 128 ≤ farLines → share ≤ 50 → bulkReady s b = true →
    s.lp.scrub = none → lp5xBad s = false → exec (.cmdMemScrub h first bytes share b) s = .next (respond
      (enlist { s with lp := { s.lp with scrub := some { hdr := h, share := if share = 0 then 5 else share,
                                                         next := first / 128, stop := (first + bytes) / 128,
                                                         started := s.nowUs } } } h 0x050B [])
      h 0x050B .accepted [])) ∧
  (∀ s h c, granted s h 0x050B = true → s.lp.scrub = some c →
    exec (.cmdMemScrubAbort h) s = .next (endScrub (answer s h 0x050B []) 0x0002)) ∧
  (∀ s ups c, let u := upsets s ups
    u.lp.scrub = some c →
    let r := if (pageOfFrame u (c.next / 8192)).isSome || decide (backingFrames u ≤ c.next / 8192)
      then scrubOne u c c.next else ({ c with skipped := c.skipped + 1 }, u)
    let v := { r.2 with lp := { r.2.lp with scrub := some { r.1 with next := c.next + 1 } } }
    exec (.scrubLine ups) s = .next (if c.stop ≤ c.next + 1 then endScrub v 0 else v)) ∧
  (∀ s c st, s.lp.scrub = some c → (endScrub s st).lp = { s.lp with scrub := none }) ∧
  (∀ s h addr (cipher : Line) (tag check : BitVec 32), granted s h 0x050D = true →
    diagFarCheck s addr = none → lp5xBad s = false →
    ∃ t, exec (.cmdMemEccDiagWriteFar h addr cipher tag check) s = .next t ∧
      (∀ l, l ≠ addr / 128 → mapGet t.mem.far none l = mapGet s.mem.far none l) ∧
      t.mem = { s.mem with far := t.mem.far } ∧ t = { s with mem := t.mem, hif := t.hif, out := t.out }) ∧
  (∀ s h addr, granted s h 0x050D = true → diagFarCheck s addr = none → lp5xBad s = false →
    (mapGet s.mem.far none (addr / 128)).isSome = true → exec (.cmdMemEccDiagReadFar h addr) s =
      .next (answer s h 0x050D (storedBytes s (addr / 128) (diagKey s (addr / 128))))) ∧
  (∀ s h addr (d : BitVec 64) (c : BitVec 8), granted s h 0x050D = true → diagChipOk s 1 addr = true →
    ∃ t, exec (.cmdMemEccDiagWriteChip h 1 addr d c) s = .next t ∧ mapGet t.mem.near 0 addr = c ++ d ∧
      (∀ k, k ≠ addr → mapGet t.mem.near 0 k = mapGet s.mem.near 0 k) ∧
      t.mem = { s.mem with near := t.mem.near } ∧ t = { s with mem := t.mem, hif := t.hif, out := t.out }) ∧
  (∀ s h addr (d : BitVec 64) (c : BitVec 8), granted s h 0x050D = true → diagChipOk s 3 addr = true →
    exec (.cmdMemEccDiagWriteChip h 3 addr d c) s = .next (answer (modTile s (addr / 163840) fun t =>
      { t with store := mapPut t.store 0 (addr % 163840) (c.setWidth 7 ++ d.setWidth 32) }) h 0x050D [])) ∧
  (∀ s h k addr (d : BitVec 64) (c : BitVec 8), granted s h 0x050D = true → k = 2 ∨ k = 4 → addr < 16 →
    (let w := if k = 4 then BitVec.setWidth 72 (c.setWidth 7 ++ d.setWidth 48) else c ++ d
     exec (.cmdMemEccDiagWriteChip h k addr d c) s = .next (answer
      { s with lp := { s.lp with diag := mapPut s.lp.diag 0 (k * 16 + addr) w } } h 0x050D []))) ∧
  (∀ s h addr, granted s h 0x050C = true → addr / 128 < farLines → lp5xBad s = false →
    s.hif.accepted.length < 16 → exec (.cmdMemRepairRequest h addr) s =
      .next (respond (enlist (noteUncorrectable s (addr / 128)) h 0x050C [addr / 128]) h 0x050C .accepted [])) ∧
  (∀ s l, rowOfLine l ∈ (noteUncorrectable s l).lp.candidates) ∧
  (∀ s h r, granted s h 0x050E = true → namedJob h < 8 → ∃ t, exec (.cmdMemRetain h r) s = .next t ∧
    (∀ k, t.lp.retainJobs.getLsbD k =
      if k = namedJob h then r else s.lp.retainJobs.getLsbD k) ∧ t.lp.retainMask = retainMask t ∧
    t = { s with lp := { s.lp with retainJobs := t.lp.retainJobs, retainMask := t.lp.retainMask },
                 hif := t.hif, out := t.out })

/-- R240's pair of commands. -/
def Obligations.DiagnosticWriteReadsBack : Prop :=
  ∀ (s t : State) (h h' : Hdr) (addr : Nat) (cipher : Line) (tag check : BitVec 32),
    granted s h 0x050D = true → diagFarCheck s addr = none → lp5xBad s = false →
    exec (.cmdMemEccDiagWriteFar h addr cipher tag check) s = .next t → granted t h' 0x050D = true →
    exec (.cmdMemEccDiagReadFar h' addr) t = .next (answer t h' 0x050D
      (leBytes 128 cipher.toNat ++ leBytes 4 tag.toNat ++ leBytes 4 check.toNat))

/-- The hod commands and events. -/
def Obligations.HodRowsAct : Prop :=
  (∀ s h p id base, granted s h 0x0601 = true → hodParamsOk s (namedJob h) p = true →
    freeHodId s = some id → freeBlock s (2 ^ p.sizeLog2) = some base →
    ∃ t, exec (.cmdHodCreate h p) s = .next t ∧
      t = answer (grantCredits (setHod s id { valid := true, job := namedJob h, p := p, base := base }) id)
        h 0x0601 (leBytes 2 id) ∧
      hodOf t id = { valid := true, job := namedJob h, p := p, base := base } ∧
      (∀ k, k ≠ id → hodOf t k = hodOf s k) ∧
      (p.prodKind ≠ 4 → t = { s with pal := t.pal, hif := t.hif, out := t.out })) ∧
  (∀ s h hod, granted s h 0x0602 = true → hodCheck s h hod = none → hodPortBusy s (hodOf s hod) = false →
    ∃ t, exec (.cmdHodDestroy h hod) s = .next t ∧ hodOf t hod = {} ∧
      (∀ k, k ≠ hod → hodOf t k = hodOf s k) ∧ t = { s with pal := t.pal, hif := t.hif, out := t.out }) ∧
  (∀ s h hod, granted s h 0x0603 = true → hodCheck s h hod = none →
    exec (.cmdHodFlush h hod) s = .next (answer (hodFlush s hod) h 0x0603 [])) ∧
  (∀ s h hod, granted s h 0x0606 = true → hodCheck s h hod = none →
    ∃ t, exec (.cmdHodQueryClear h hod) s = .next t ∧ hodOf t hod = { hodOf s hod with
        maxDepth := hodDepth (hodOf s hod), itemCount := 0, sumWait := 0, maxWait := 0 } ∧
      (∀ k, k ≠ hod → hodOf t k = hodOf s k) ∧
      t = { s with pal := { s.pal with hods := t.pal.hods }, hif := t.hif, out := t.out }) ∧
  (∀ s src hod start last prio data poison, hod < 32768 → isProducer s (hodOf s hod) src = true →
    exec (.hodPushWord src hod start last prio data poison) s =
      .next (hodPushWord s hod src start last prio data poison).2) ∧
  (∀ s fn hod v, fn ≤ 8 → hod < 32768 → s.hif.linkUp = true → isProducer s (hodOf s hod) (.host fn) = true →
    ∀ p ∈ [(Instr.hodPushMid fn hod 8 v, false, false), (.hodPushFirst fn hod 8 v, true, false),
           (.hodPushLast fn hod 8 v, false, true), (.hodPushOnly fn hod 8 v, true, true)],
      let r := hodPushWord s hod (.host fn) p.2.1 p.2.2 (hodOf s hod).pushPrio v false
      exec p.1 s = .next (modHod r.2 hod fun x => { x with lastResult := r.1 })) ∧
  (∀ s fn hod ups, fn ≤ 8 → hod < 32768 → (upsets s ups).hif.linkUp = true →
    isConsumer (upsets s ups) (hodOf (upsets s ups) hod) (.host fn) = true →
    let r := hodPopWord (upsets s ups) hod (.host fn)
    exec (.hodPop fn hod ups) s = .next (emitOut (modHod r.2 hod fun x => { x with popTag := wordTag r.1 })
      (.cpl 0 (leBytes 8 (match r.1 with | some w => w.data.toNat | none => 0))))) ∧
  (∀ s fn hod, fn ≤ 8 → hod < 32768 → hodControls s fn hod = true →
    exec (.hodCtlFlush fn hod) s = .next (hodFlush s hod)) ∧
  (∀ s hod, (hodOf s hod).p.prodKind ≠ 4 → (hodOf (hodFlush s hod) hod).items = [] ∧
    hodDepth (hodOf (hodFlush s hod) hod) = 0)

/-- One item of one word through a hod. -/
def Obligations.PushedWordIsPopped : Prop :=
  ∀ (s : State) (p c hod : Nat) (v : Word), p ≤ 8 → c ≤ 8 → hod < 32768 → s.hif.linkUp = true →
    isProducer s (hodOf s hod) (.host p) = true → isConsumer s (hodOf s hod) (.host c) = true →
    (hodOf s hod).items = [] → (hodOf s hod).part = [] → (hodOf s hod).openIt = [] →
    (hodOf s hod).ignoring = [] → hodFull (hodOf s hod) = false →
    (jobOf s (hodOf s hod).job).replay = none → (jobOf s (hodOf s hod).job).journaling = false →
    (jobOf s (hodOf s hod).job).capturing = none →
    ∃ t u, exec (.hodPushOnly p hod 8 v) s = .next t ∧ exec (.hodPop c hod []) t = .next u ∧
      (hodOf t hod).items.length = 1 ∧ u.out.head? = some (.cpl 0 (leBytes 8 v.toNat)) ∧
      (hodOf u hod).items = [] ∧ (hodOf u hod).part = []

/-- The scheduler's rows. -/
def Obligations.PalletRowsAct : Prop :=
  (∀ s h e, granted s h 0x0604 = true → ∀ first, first < 256 →
    ∃ t, exec (.cmdPalHandlers h first [e]) s = .next t ∧
      mapGet t.pal.handlers none (handlerKey (namedJob h) first) = (if e.1 then some e.2 else none) ∧
      (∀ k, k ≠ handlerKey (namedJob h) first → mapGet t.pal.handlers none k = mapGet s.pal.handlers none k) ∧
      t = { s with pal := { s.pal with handlers := t.pal.handlers }, hif := t.hif, out := t.out }) ∧
  (∀ s h first es, granted s h 0x0604 = true → rangeOk first es.length 256 256 = true →
    exec (.cmdPalHandlers h first es) s = .next (answer (putHandlers s (namedJob h) first es) h 0x0604 [])) ∧
  (∀ s h f, granted s h 0x0605 = true → flowOk f = true → ∃ t, exec (.cmdPalFlowReset h f) s = .next t ∧
    flowOf t (namedJob h) f = {} ∧ (∀ e ∈ t.pal.rb, e ∈ s.pal.rb ++ s.pal.rbWait ∧ ¬ (e.job = namedJob h ∧ e.flow = f)) ∧
    t.hif = (answer s h 0x0605 (flowBytes (flowOf s (namedJob h) f))).hif ∧
    t = { s with pal := t.pal, hif := t.hif, out := t.out }) ∧
  (∀ s h band, granted s h 0x0607 = true → band ≤ 18 → exec (.cmdPalPolicy h band) s =
    .next (answer { s with pal := { s.pal with affinity := band } } h 0x0607 [])) ∧
  (∀ s j, j < 8 → (jobOf s j).capturing = none →
    exec (.palletDispatch j) s = .next (dispatchFrom s j (readyList s j))) ∧
  (∀ s j, j < 8 → (jobOf s j).capturing ≠ none → exec (.palletDispatch j) s = .next s) ∧
  (∀ s i e, drainable s = some i → s.pal.rb[i]? = some e → e.kind = .done →
    exec .releaseBufferDrain s = .next
      (releaseSeq { s with pal := rbFill { s.pal with rb := s.pal.rb.eraseIdx i } } e.job e.flow)) ∧
  (∀ s i e h prio m ws done, drainable s = some i → s.pal.rb[i]? = some e →
    e.kind = .item h prio m ws done → exec .releaseBufferDrain s = .next
      (releaseItem { s with pal := rbFill { s.pal with rb := s.pal.rb.eraseIdx i } } e))

/-- The rows that control masons. -/
def Obligations.MasonControlRowsAct : Prop :=
  (∀ s h ms, granted s h 0x0609 = true → (jobOf s (namedJob h)).created = true → masonsOk ms = true →
    (∀ m ∈ ms, (masonOf s m).job = some (namedJob h) ∨ movable (masonOf s m) = true) →
    s.msn.assigning = [] →
    ((∀ g ∈ groupsOf ms, (groupOf s g).on = true ∧ s.spn.down.map (·.group) ≠ some g) →
      exec (.cmdMsnAssign h ms) s = .next (answer (each ms (moveMason (namedJob h)) s) h 0x0609 [])) ∧
    (∀ g ∈ groupsOf ms, (groupOf s g).on = false → ∃ t, exec (.cmdMsnAssign h ms) s = .next t ∧
      t.msn.assigning = [(h, namedJob h, ms)] ∧ (groupOf t g).clearing = true)) ∧
  (∀ s j m, (masonOf (moveMason j s m) m).job = some j) ∧
  (∀ s h ms, granted s h 0x0609 = true → masonsOk ms = true →
    (∀ m ∈ ms, (masonOf s m).job = none ∨ movable (masonOf s m) = true) →
    let t := each ms unassignMason s
    exec (.cmdMsnUnassign h ms) s = .next (match emptied t ms with
      | some g => startPowerDown t g (some h)
      | none => answer t h 0x0609 [])) ∧
  (∀ s m, (masonOf (unassignMason s m) m).job = none) ∧
  (∀ s h ms, granted s h 0x060B = true → (jobOf s (namedJob h)).created = true → masonsOk ms = true →
    (∀ m ∈ ms, (masonOf s m).job = some (namedJob h)) →
    ((∀ m ∈ ms, (masonOf s m).st = .reset) →
      exec (.cmdMsnControlStart h ms) s = .next (answer (each ms startMason s) h 0x060B [])) ∧
    ((∀ m ∈ ms, (masonOf s m).st ≠ .off ∧ (masonOf s m).st ≠ .failed) →
      exec (.cmdMsnControlReset h none ms) s = .next (answer (each ms resetMason s) h 0x060B []))) ∧
  (∀ s h g ms, granted s h 0x060B = true → h.fn = 0 → g < 12 →
    (∀ m ∈ resetTargets s (some g) ms, (masonOf s m).st ≠ .off) →
    exec (.cmdMsnControlReset h (some g) ms) s =
      .next (answer (each (resetTargets s (some g) ms) resetMason s) h 0x060B [])) ∧
  (∀ s m, (masonOf (startMason s m) m).st = .running ∧ (∀ i, regOf (masonOf (startMason s m) m) i = 0) ∧
    (masonOf (startMason s m) m).mtvec = 0 ∧
    (masonOf (startMason s m) m).pc = BitVec.ofNat 64 (0x10000 + (masonOf s m).entry) ∧
    (masonOf (startMason s m) m).scratch = (masonOf s m).scratch) ∧
  (∀ s m, (masonOf (resetMason s m) m).st = .reset ∧ (masonOf (resetMason s m) m).cur = none ∧
    (masonOf (resetMason s m) m).slots = [] ∧
    (masonOf (resetMason s m) m).scratch = (masonOf s m).scratch) ∧
  (∀ s h g d, granted s h 0x060B = true → h.fn = 0 → g < 12 → d ≤ 2 →
    exec (.cmdMsnControlClock h g (2000 / 2 ^ d)) s =
      .next (answer (modGroup s g fun x => { x with target := d }) h 0x060B [])) ∧
  (∀ s h us, granted s h 0x060B = true → h.fn = 0 → 10 ≤ us → us ≤ 10000 →
    exec (.cmdMsnControlPauseTimeout h us) s =
      .next (answer { s with msn := { s.msn with pauseUs := us } } h 0x060B [])) ∧
  (∀ s h ms b, granted s h 0x060A = true → masonsOk ms = true →
    (∀ m ∈ ms, (masonOf s m).job = some (namedJob h) ∧ loadable (masonOf s m) = true) →
    bulkReady s b = true → progOk b.data = true → progCrcOk b.data = true →
    exec (.cmdMsnLoad h ms b) s = .next (respond (enlist
      { s with msn := { s.msn with loads := s.msn.loads ++ [(h, ms, b.data)] } } h 0x060A [])
      h 0x060A .accepted [])) ∧
  (∀ s h ms img rest, s.msn.loads = (h, ms, img) :: rest → (∀ m ∈ ms, loadable (masonOf s m) = true) →
    exec .msnLoadDone s = .next (complete (each ms (writeProgram img)
      (dropAccOf { s with msn := { s.msn with loads := rest } } 0x060A h)) h 0x060A 0x0805 .ok [])) ∧
  (∀ s m img, (masonOf (writeProgram img s m) m).scratch = progScratch img ∧
    (masonOf (writeProgram img s m) m).st = .reset ∧
    (masonOf (writeProgram img s m) m).entry = leAt img 8 4 ∧
    (masonOf (writeProgram img s m) m).safe = bitOf (leAt img 5 1) 0) ∧
  (∀ s g, g < 12 → (groupOf s g).clearing = true → ∃ t, exec (.domainClearDone g) s = .next t ∧
    (groupOf t g).on = true ∧ (groupOf t g).clearing = false) ∧
  (∀ s m, m < 192 → (masonOf s m).pausePending = true → (masonOf s m).cur = none →
    (masonOf s m).pusho = none → (masonOf s m).st = .running ∨ (masonOf s m).st = .waiting →
    exec (.masonPaused m) s = .next (modMason s m fun x => { x with st := .paused, resumeTo := x.st })) ∧
  (∀ s j, j < 8 → s.spr.sweeping = none → s.spr.bist = none → (jobOf s j).capturing = some .pausing →
    (masonsOfJob s j).any (fun m => !pausedNow (masonOf s m)) = true →
    exec (.masonPauseTimeout j) s = .next (failCapture (emitJob s 0x0804 j []) j 1)) ∧
  (∀ s j, j < 8 → exec (.masonPauseTimeout j) s = .next (pauseTimeout (skipGroupTest s j) j)) ∧
  (∀ s m, m < 192 → s.msn.failedPhys.contains (masonOf s m).phys = true → (masonOf s m).st = .reset →
    ∃ t, exec (.masonSubstitution m) s = .next t ∧
      (∀ core, (groupOf s (m / 16)).spare = some core → (masonOf t m).phys = 17 * (m / 16) + core ∧
        (groupOf t (m / 16)).spare = none) ∧
      ((groupOf s (m / 16)).spare = none → (masonOf t m).st = .failed ∧ (masonOf t m).job = none))

/-- The instructions, where the hod does not fault. -/
def Obligations.MasonInstructionsRetire : Prop :=
  (∀ s m (f7 : BitVec 7) rs2 rs1 rd, m < 192 → runs (masonOf s m) = true → f7.toNat < 32 →
    hodFault s m (hodIdOf (masonOf s m) rs1) (fun y => y.p.prodKind == 2) = none →
    ∀ p ∈ [(Instr.hodPush m f7 rs2 rs1 rd, f7.getLsbD 4), (.hodPushl m f7 rs2 rs1 rd, true)],
      let r := hodPushWord s (hodIdOf (masonOf s m) rs1) (.mason m) (f7.getLsbD 3) p.2 (f7.toNat % 8)
        (regOf (masonOf s m) rs2) false
      exec p.1 s = .next (retire r.2 m rd (BitVec.ofNat 64 r.1) 4)) ∧
  (∀ s m rs1 rd ups, m < 192 → runs (masonOf (upsets s ups) m) = true →
    hodFault (upsets s ups) m (hodIdOf (masonOf (upsets s ups) m) rs1) (fun y => y.p.consKind == 2) = none →
    let r := hodPopWord (upsets s ups) (hodIdOf (masonOf (upsets s ups) m) rs1) (.mason m)
    exec (.hodPopInstruction m 0 rs1 rd ups) s = .next (retire (modMason r.2 m fun y =>
      { y with popTag := wordTag r.1 }) m rd (match r.1 with | some w => w.data | none => 0) 4)) ∧
  (∀ s m rs1 rd, m < 192 → runs (masonOf s m) = true →
    hodFault s m (hodIdOf (masonOf s m) rs1) (fun _ => true) = none →
    exec (.hodStat m 0 rs1 rd) s = .next (retire s m rd (BitVec.ofNat 64
      (hodStatWord (hodOf s (hodIdOf (masonOf s m) rs1))
        (emptyFor (hodOf s (hodIdOf (masonOf s m) rs1)) m) (masonOf s m).popTag)) 4)) ∧
  (∀ s m rs1 rd, m < 192 → runs (masonOf s m) = true → watchFault s m (regOf (masonOf s m) rs1) = none →
    (masonOf s m).pausePending = false → exec (.hodWait m 0 rs1 rd) s = .next
      (if wakeBits s m (regOf (masonOf s m) rs1) = 0 then modMason s m fun y => { y with
          st := .waiting, wait := some (rd, regOf (masonOf s m) rs1), wmSignal := false }
       else retire s m rd (BitVec.ofNat 64 (wakeBits s m (regOf (masonOf s m) rs1))) 4)) ∧
  (∀ s m, m < 192 → runs (masonOf s m) = true → (masonOf s m).pausePending = false →
    exec (.wfi m) s = .next
      (if wakeBits s m 0 = 0 then modMason s m fun y => { y with
          st := .waiting, wait := some (0, 0), wmSignal := false }
       else retire s m 0 (BitVec.ofNat 64 (wakeBits s m 0)) 4)) ∧
  (∀ s m rd w, m < 192 → (masonOf s m).st = .waiting → (masonOf s m).wait = some (rd, w) →
    (masonOf s m).pausePending = false → wakeBits s m w ≠ 0 → exec (.hodWaitWake m) s = .next
      (retire (modMason s m fun y => { y with st := .running, wait := none, wmSignal := false })
        m rd (BitVec.ofNat 64 (wakeBits s m w)) 4)) ∧
  (∀ s m rs1 rd p rest, m < 192 → runs (masonOf s m) = true → (masonOf s m).cur = none →
    (masonOf s m).pausePending = false → (masonOf s m).slots = p :: rest →
    (regOf (masonOf s m) rs1).toNat % 32 = 0 → palletRoom (regOf (masonOf s m) rs1).toNat = true →
    exec (.palGet m 0 rs1 rd) s = .next (takePallet s m rd (regOf (masonOf s m) rs1).toNat p rest)) ∧
  (∀ s m rd p j, m < 192 → runs (masonOf s m) = true → (masonOf s m).cur = some p →
    (masonOf s m).job = some j →
    let t := rbDrop s (isOpenOf m)
    doneWaits t j p = false → exec (.palDone m 0 rd) s =
      .next (retire (modMason (completeSlot t j p) m fun y => { y with cur := none }) m rd 0 4)) ∧
  (∀ s m (f7 : BitVec 7) rs2 rs1 rd p j, m < 192 → runs (masonOf s m) = true → f7.toNat < 32 →
    (masonOf s m).cur = some p → (masonOf s m).job = some j →
    hodFault s m (hodIdOf (masonOf s m) rs1) (fun y => y.p.prodKind == 2) = none →
    exec (.palPusho m f7 rs2 rs1 rd) s = .next (pushOrdered s m (hodIdOf (masonOf s m) rs1) j p
      (f7.getLsbD 3) (f7.getLsbD 4) (f7.toNat % 8) (regOf (masonOf s m) rs2) rd) ∧
    (slotFlow p = 0 →
      let r := hodPushWord s (hodIdOf (masonOf s m) rs1) (.mason m) (f7.getLsbD 3) (f7.getLsbD 4)
        (f7.toNat % 8) (regOf (masonOf s m) rs2) false
      exec (.palPusho m f7 rs2 rs1 rd) s = .next (retire r.2 m rd (BitVec.ofNat 64 r.1) 4))) ∧
  (∀ s m h prio data last rd p j, m < 192 → (masonOf s m).pusho = some (h, prio, data, last, rd) →
    (masonOf s m).cur = some p → (masonOf s m).job = some j →
    rbFull s = false ∨ (flowOf s j (slotFlow p)).next = slotSeq p → exec (.palPushoEntryFree m) s = .next (pushOrdered (modMason s m fun y => { y with pusho := none })
      m h j p true last prio data rd)) ∧
  (∀ s m csr rd, m < 192 → runs (masonOf s m) = true → csr = 0xC00 ∨ csr = 0xC01 ∨ csr = 0xC02 →
    (masonOf s m).safe = false →
    exec (.counterCsrRead m csr rd) s = .next (retire (takeFree s 64).2 m rd (takeFree s 64).1 4)) ∧
  (∀ s m, m < 192 → runs (masonOf s m) = true →
    exec (.mret m) s = .next (modMason s m fun x =>
      { x with trapped := false, pc := x.mepc, mie := x.mpie, mpie := true }))

/-- The memory rows of the masons. -/
def Obligations.MasonMemoryRowsAct : Prop :=
  (∀ s m j f3 rd rs1 imm c ups, m < 192 → let u := upsets s ups
    runs (masonOf u m) = true → memUp u = true → (masonOf u m).job = some j → f3 < 7 →
    inDesign (effAddr (masonOf u m) rs1 imm) (opSize f3) = true →
    rangeWaits u (effAddr (masonOf u m) rs1 imm - designBase) (opSize f3) = false →
    let r := masterRead u (9 + j) (effAddr (masonOf u m) rs1 imm - designBase) (opSize f3)
    exec (.masonDesignLoad m (.load f3 rd rs1 imm c) ups) s = .next
      (if r.1 = .ok then retire r.2.2 m rd (extend f3 (leNat r.2.1)) (opLen c)
       else accessFault r.2.2 m (.load f3 rd rs1 imm c) (accReason r.1))) ∧
  (∀ s m j f3 rs2 rs1 imm c ups, m < 192 → let u := upsets s ups
    runs (masonOf u m) = true → memUp u = true → (masonOf u m).job = some j → f3 < 4 →
    inDesign (effAddr (masonOf u m) rs1 imm) (opSize f3) = true →
    rangeWaits u (effAddr (masonOf u m) rs1 imm - designBase) (opSize f3) = false →
    let r := masterWrite u (9 + j) false (effAddr (masonOf u m) rs1 imm - designBase)
      (leBytes (opSize f3) (regOf (masonOf u m) rs2).toNat)
    exec (.masonDesignStore m (.store f3 rs2 rs1 imm c) ups) s = .next
      (if r.1 = .ok then retire r.2 m 0 0 (opLen c)
       else accessFault r.2 m (.store f3 rs2 rs1 imm c) (accReason r.1))) ∧
  (∀ s m f3 rd rs1 imm c v t, m < 192 → runs (masonOf s m) = true → f3 < 7 →
    inPeer (effAddr (masonOf s m) rs1 imm) (opSize f3) = true →
    (peerParts (effAddr (masonOf s m) rs1 imm) (opSize f3)).all (fun w => peerAllowed s m w.1) = true →
    peerRead s (peerParts (effAddr (masonOf s m) rs1 imm) (opSize f3)) = (some v, t) →
    exec (.peerWindowAccess m (.load f3 rd rs1 imm c)) s = .next (retire t m rd (extend f3 v) (opLen c))) ∧
  (∀ s m f3 rs2 rs1 imm c t, m < 192 → runs (masonOf s m) = true → f3 < 4 →
    inPeer (effAddr (masonOf s m) rs1 imm) (opSize f3) = true →
    (peerParts (effAddr (masonOf s m) rs1 imm) (opSize f3)).all (fun w => peerAllowed s m w.1) = true →
    peerWrite s (peerParts (effAddr (masonOf s m) rs1 imm) (opSize f3))
      ((regOf (masonOf s m) rs2).toNat % 2 ^ (8 * opSize f3)) = (true, t) →
    exec (.peerWindowAccess m (.store f3 rs2 rs1 imm c)) s = .next (retire t m 0 0 (opLen c))) ∧
  (∀ s m rd rs1 imm c v t ups, m < 192 → let u := upsets s ups
    runs (masonOf u m) = true → ∀ f3 < 7, inData (effAddr (masonOf u m) rs1 imm) (opSize f3) = true →
    scratchRead u m (effAddr (masonOf u m) rs1 imm) (opSize f3) = (some v, t) →
    exec (.scratchAccess m (.load f3 rd rs1 imm c) ups) s = .next (retire t m rd (extend f3 v) (opLen c))) ∧
  (∀ s m rs2 rs1 imm c ups, m < 192 → let u := upsets s ups
    runs (masonOf u m) = true → inData (effAddr (masonOf u m) rs1 imm) 8 = true →
    effAddr (masonOf u m) rs1 imm % 8 = 0 → exec (.scratchAccess m (.store 3 rs2 rs1 imm c) ups) s =
      .next (retire (putScratch u m (effAddr (masonOf u m) rs1 imm / 8)
        (regOf (masonOf u m) rs2).toNat) m 0 0 (opLen c))) ∧
  (∀ s m rd rs1 imm c f3 ups, m < 192 → f3 < 7 → let u := upsets s ups
    runs (masonOf u m) = true → inLocal (effAddr (masonOf u m) rs1 imm) (opSize f3) = true →
    exec (.scratchAccess m (.load f3 rd rs1 imm c) ups) s = .next (retire u m rd (extend f3
      (localRead m (masonOf u m) (effAddr (masonOf u m) rs1 imm) (opSize f3))) (opLen c))) ∧
  (∀ s m rd rs1 imm c ups, m < 192 → let u := upsets s ups
    runs (masonOf u m) = true → effAddr (masonOf u m) rs1 imm + 8 ≤ 0x10000 →
    exec (.scratchAccess m (.load 3 rd rs1 imm c) ups) s =
      .next (accessFault u m (.load 3 rd rs1 imm c) 6)) ∧
  (∀ s m v w t t' ups, m < 192 → let u := upsets s ups
    runs (masonOf u m) = true → inInst (masonOf u m).pc.toNat 4 = true → v % 4 = 3 →
    scratchRead u m (masonOf u m).pc.toNat 2 = (some v, t) →
    scratchRead t m (masonOf u m).pc.toNat 4 = (some w, t') →
    exec (.scratchAccess m .fetch ups) s = .next (baseInstr t' m w 4)) ∧
  (∀ s m rd rs1 imm, rd < 32 → rs1 < 32 → imm < 4096 → baseInstr s m (encI 0x13 rd 0 rs1 imm) 4 =
    retire s m rd (regOf (masonOf s m) rs1 + (BitVec.ofNat 12 imm).signExtend 64) 4) ∧
  (∀ s m dbl rd rs1 v t ups, m < 192 → let u := upsets s ups
    let a := (regOf (masonOf u m) rs1).toNat
    runs (masonOf u m) = true → a % amoSize dbl = 0 → inData a (amoSize dbl) = true →
    scratchRead u m a (amoSize dbl) = (some v, t) → exec (.scratchAccess m (.lr dbl rd rs1) ups) s =
      .next (retire (modMason t m fun y => { y with resv := some a }) m rd (amoVal dbl v) 4)) ∧
  (∀ s m rd rs1 rs2 ups, m < 192 → let u := upsets s ups
    let a := (regOf (masonOf u m) rs1).toNat
    runs (masonOf u m) = true → a % 8 = 0 → inData a 8 = true →
    exec (.scratchAccess m (.sc true rd rs1 rs2) ups) s = .next
      (if (masonOf u m).resv = some a then
        retire (modMason (putScratch u m (a / 8) (regOf (masonOf u m) rs2).toNat) m fun y =>
          { y with resv := none }) m rd 0 4
       else retire (modMason u m fun y => { y with resv := none }) m rd 1 4)) ∧
  (∀ s m f5 rd rs1 rs2 old new t ups, m < 192 → let u := upsets s ups
    let a := (regOf (masonOf u m) rs1).toNat
    runs (masonOf u m) = true → a % 8 = 0 → inData a 8 = true → (∃ z, amoOp f5 64 0 0 = some z) →
    scratchRead u m a 8 = (some old, t) →
    amoOp f5 64 old (regOf (masonOf u m) rs2).toNat = some new →
    exec (.scratchAccess m (.amo true f5 rd rs1 rs2) ups) s =
      .next (retire (putScratch t m (a / 8) new) m rd (BitVec.ofNat 64 old) 4))

/-- R302 on R307's exception. The value of mtval is free. -/
def Obligations.ExceptionsTrapThenHalt : Prop :=
  (∀ s m csr rd, m < 192 → runs (masonOf s m) = true → csr = 0xC00 ∨ csr = 0xC01 ∨ csr = 0xC02 →
    (masonOf s m).safe = true → ∃ t, exec (.counterCsrRead m csr rd) s = .next t ∧
      (masonOf t m).mepc = (masonOf s m).pc ∧ (masonOf t m).mcause = 2 ∧ (masonOf t m).trapped = true ∧
      (masonOf t m).regs = (masonOf s m).regs ∧ (masonOf t m).scratch = (masonOf s m).scratch ∧
      (∀ n, n ≠ m → masonOf t n = masonOf s n) ∧
      ((masonOf s m).trapped = false → (masonOf t m).pc = (masonOf s m).mtvec &&& ~~~3 ∧
        (masonOf t m).st = .running ∧ ∃ u, exec (.mret m) t = .next u ∧
          (masonOf u m).trapped = false ∧ (masonOf u m).pc = (masonOf s m).pc) ∧
      ((masonOf s m).trapped = true → (masonOf t m).st = .halted)) ∧
  (∀ s m j cause tval reason, (masonOf s m).trapped = true → (masonOf s m).job = some j →
    ∃ u, trap s m cause tval reason = emitJob u 0x0801 j (faultFields m (masonOf u m) (masonOf u m).reason))

/-- The frame of the register-only instructions. -/
def Obligations.RegisterInstructionFrame : Prop :=
  ∀ (s t : State) (m rd : Nat) (f7 : BitVec 7) (rs2 rs1 csr : Nat) (i : Instr),
    i ∈ [Instr.hodPush m f7 rs2 rs1 rd, .hodPushl m f7 rs2 rs1 rd, .hodStat m f7 rs1 rd,
      .hodWait m f7 rs1 rd, .wfi m, .palDone m f7 rd, .counterCsrRead m csr rd, .mret m] →
    exec i s = .next t →
    (∀ r, r ≠ rd → regOf (masonOf t m) r = regOf (masonOf s m) r) ∧
    (∀ n, (masonOf t n).scratch = (masonOf s n).scratch ∧ (masonOf t n).mtvec = (masonOf s n).mtvec ∧
      (masonOf t n).entry = (masonOf s n).entry ∧ (masonOf t n).safe = (masonOf s n).safe) ∧
    (∀ n, n ≠ m → (masonOf t n).regs = (masonOf s n).regs ∧ (masonOf t n).pc = (masonOf s n).pc ∧
      (masonOf t n).trapped = (masonOf s n).trapped ∧ (masonOf t n).cur = (masonOf s n).cur ∧
      (masonOf t n).slots = (masonOf s n).slots)

/-- The link events. -/
def Obligations.LinkEventsAct : Prop :=
  (∀ s p (sig inv : BitVec 9) reqs asks, p < 12 → mayTrain s (portOf s p) = true → ∃ t,
    exec (.laneTraining p sig inv reqs asks) s = .next t ∧ (portOf t p).st =
      (if (portOf s p).st = .chain ∨ (portOf s p).st = .retrain ∨ (portOf s p).st = .down
       then (portOf s p).st else .training) ∧
    (∀ j, j < 9 → (laneOf t (9 * p + j)).inverted = inv.getLsbD j ∧ (laneOf t (9 * p + j)).ready = false ∧
      (laneOf t (9 * p + j)).signal = (sig.getLsbD j && (laneOf s (9 * p + j)).txPower != .off
        && (laneOf s (9 * p + j)).rxPower != .off)) ∧ (∀ k, k ≠ p → portOf t k = portOf s k)) ∧
  (∀ s p ready marks, p < 12 → mayTrain s (portOf s p) = true →
    let q := portOf s p
    let usable := usableLanes s p ready
    let w := portWidth (if q.st = .chain then 4 else q.width) (weight 9 usable.toNat)
    let map := lowLanes (List.range 9) w usable
    (if q.st = .chain then 4 else q.minWidth) ≤ w → w ≠ 0 → ∃ t,
      exec (.laneTrainingDone p ready marks) s = .next t ∧ (portOf t p).laneMask = map ∧
      (portOf t p).st = (if q.st = .chain then .chain else if deskewed map marks then .init else .locking) ∧
      (portOf t p).actWidth = (if q.st = .chain then q.actWidth else w) ∧
      (deskewed map marks = true → ∃ u, t = sendInit u p ∧ (portOf u p).laneMask = map)) ∧
  (∀ s p, p < 12 → (portOf s p).st = .training ∨ (portOf s p).st = .locking ∨ (portOf s p).st = .init ∨
      (portOf s p).st = .retrain →
    ∃ t, exec (.portBringupTimeout p) s = .next t ∧ portOf t p = { portOf s p with
        st := if (portOf s p).st = .retrain then .retrain else .training
        actWidth := 0 } ∧
      t = { s with lry := { s.lry with ports := t.lry.ports, lanes := t.lry.lanes } }) ∧
  (∀ s p b, p < 12 → (portOf s p).st = .init →
    (initMismatch s (portOf s p) b = false → exec (.init p b) s = .next (initUp s p b) ∧
      (portOf (initUp s p b) p).st = .up ∧ (portOf (initUp s p b) p).peerGen = b.gen) ∧
    (initMismatch s (portOf s p) b = true → exec (.init p b) s = .next (emitDev s 0x0906 []))) ∧
  (∀ s p n a b c, p < 12 → portUp (portOf s p) = true →
    (exec (.ack p n a b c) s = .next (pump (setPort s p (takeFreed (freeBefore (portOf s p)
      ((n + 1) % 65536)) a b c)) p)) ∧
    (exec (.nak p n a b c) s = .next (pump (resendAll (setPort s p (takeFreed (freeBefore (portOf s p)
      (n % 65536)) a b c)) p) p))) ∧
  (∀ s p, p < 12 → portUp (portOf s p) = true → 0 < (portOf s p).sinceAck → ∃ t,
    exec (.ackSend p) s = .next t ∧ (portOf t p).sinceAck = 0 ∧
    t = sendCtl (setPort s p { portOf s p with sinceAck := 0 }) p 1
      (freedBody (portOf s p) (((portOf s p).rxNext + 65535) % 65536))) ∧
  (∀ s p, p < 12 → exec (.ackTimeout p) s = .next (pump (resendAll s p) p)) ∧
  (∀ s p, p < 12 → portUp (portOf s p) = true → ∃ t, exec (.quietEnter p) s = .next t ∧
    portOf t p = { portOf s p with rxAsleep := true } ∧
    (∀ j, j < 9 → (laneOf s (9 * p + j)).rxPower = .active → (laneOf t (9 * p + j)).rxPower = .quiet)) ∧
  (∀ s p, p < 12 → portUp (portOf s p) = true → (portOf s p).txQuiet = true →
    (portOf s p).txAsleep = false → (portOf s p).replay = [] → (portOf s p).queue = [] →
    (portOf s p).sinceAck = 0 → ∃ t, exec (.quietIdleExpiry p) s = .next t ∧ (portOf t p).txAsleep = true ∧
      (∀ j, j < 9 → (laneOf s (9 * p + j)).txPower = .active → (laneOf t (9 * p + j)).txPower = .quiet) ∧
      t.out = (sendCtl s p 4 [0]).out) ∧
  (∀ s p, p < 12 → (portOf s p).txAsleep = true → exec (.quietWake p) s = .next (pump (wakeTx s p) p) ∧
    (portOf (wakeTx s p) p).txAsleep = false ∧ (wakeTx s p).out = .wake p :: s.out ∧
    (∀ j, j < 9 → (laneOf s (9 * p + j)).txPower = .quiet →
      (laneOf (wakeTx s p) (9 * p + j)).txPower = .active)) ∧
  (∀ s p, p < 12 → ∃ t, exec (.wakeSequence p) s = .next t ∧
    portOf t p = { portOf s p with rxAsleep := false } ∧
    (∀ j, j < 9 → (laneOf s (9 * p + j)).rxPower = .quiet → (laneOf t (9 * p + j)).rxPower = .active)) ∧
  (∀ s p, p < 12 → (portOf s p).st = .up → ∃ t, exec (.retrainReq p) s = .next t ∧
    (portOf t p).st = .retrain ∧ (portOf t p).actWidth = 0 ∧ (portOf t p).replay = (portOf s p).replay ∧
    (portOf t p).queue = (portOf s p).queue ∧ t.out = (sendCtl s p 5 [0]).out) ∧
  (∀ s l, l < 108 → laneInUse s l = true → (portOf s (l / 9)).st = .up →
    (∀ i ∈ [Instr.laneLockLoss l, .codewordBurst l, .laneErrorWindow l], ∃ t, exec i s = .next t ∧
      (portOf t (l / 9)).st = .retrain ∧ (portOf t (l / 9)).replay = (portOf s (l / 9)).replay ∧
      (portOf t (l / 9)).queue = (portOf s (l / 9)).queue ∧
      (i = .laneErrorWindow l → (portOf t (l / 9)).failed.getLsbD (l % 9) = true))) ∧
  (∀ s p, p < 12 → (portOf s p).leftUp = true → (portOf s p).st = .retrain → ∃ t u,
    exec (.linkTimeoutExpiry p) s = .next t ∧ (portOf t p).st = .down ∧
    u = emitDev (setPort s p { portOf s p with st := .down, actWidth := 0, leftUp := false }) 0x0902 [] ∧
    t = each (portJobs s p) (fun s j => emitJob s 0x0A02 j []) u)

/-- Commands, lane tests and messages of chapter 10. -/
def Obligations.LareyCommandsAct : Prop :=
  (∀ s h p cfg lt ack, granted s h 0x0701 = true → p < 12 → portCfgOk cfg lt ack = true →
    ∃ t, exec (.cmdLryPortCfg h p cfg lt ack) s = .next t ∧
      portOf t p = setPortCfg (portOf s p) cfg.toNat ∧
      t.lry.linkTimeoutUs = lt.getD s.lry.linkTimeoutUs ∧ t.lry.ackTimeoutUs = ack.getD s.lry.ackTimeoutUs ∧
      t = { s with lry := t.lry, hif := t.hif, out := t.out }) ∧
  (∀ s h l (w : BitVec 32), granted s h 0x0703 = true → l < 108 → tapsOk w = true →
    exec (.cmdLryLaneTaps h l (some w)) s = .next (answer (modLane s l fun x =>
      { x with taps := w &&& 0x3FFFFF }) h 0x0703 (leBytes 4 (w &&& 0x3FFFFF).toNat))) ∧
  (∀ s h l, granted s h 0x0703 = true → l < 108 → exec (.cmdLryLaneTaps h l none) s =
    .next (answer s h 0x0703 (leBytes 4 (laneOf s l).taps.toNat))) ∧
  (∀ s h l (w : BitVec 32), granted s h 0x0703 = true → l < 108 → tapsOk w = false →
    exec (.cmdLryLaneTaps h l (some w)) s = .next (fail s h 0x0703 .badParam)) ∧
  (∀ s h l tx p, granted s h 0x0703 = true → l < 108 → p ≠ .off ∨ laneInUse s l = false → ∃ t,
    exec (.cmdLryLanePower h l tx p) s = .next t ∧ laneOf t l = setLanePower (laneOf s l) tx p ∧
    (∀ k, k ≠ l → laneOf t k = laneOf s k) ∧ t = { s with lry := t.lry, hif := t.hif, out := t.out }) ∧
  (∀ s h l (w : BitVec 32), granted s h 0x0703 = true → l < 108 → laneTestOk w.toNat = true →
    needsIdleLane w.toNat = false ∨ laneInUse s l = false → ∃ t,
    exec (.cmdLryLaneTest h l w) s = .next t ∧ (laneOf t l).test = w &&& 0x33FFFFFF ∧
    (laneOf t l).injDue = ((laneOf s l).injDue || w.getLsbD 26) ∧
    (laneOf t l).slipDue = ((laneOf s l).slipDue || w.getLsbD 27)) ∧
  (∀ s h l w, granted s h 0x0703 = true → l < 108 → ∃ t, exec (.cmdLryLaneWords h l (some w)) s = .next t ∧
    laneOf t l = { laneOf s l with word := w } ∧
    t = { s with lry := t.lry, hif := t.hif, freeCtr := t.freeCtr, out := t.out }) ∧
  (∀ s h l, granted s h 0x0703 = true → l < 108 → laneInUse s l = false →
    exec (.cmdLryLaneWords h l none) s = .next (answer s h 0x0703
      (leBytes 16 (laneOf s l).word.toNat ++ leBytes 16 (laneOf s l).rxword.toNat))) ∧
  (∀ s h i f, granted s h 0x0704 = true → i < 4096 → f.job < 8 → ∃ t,
    exec (.cmdLryFwdWrite h [(i, f)]) s = .next t ∧ mapGet t.lry.fwd {} i = f ∧
    (∀ k, k ≠ i → mapGet t.lry.fwd {} k = mapGet s.lry.fwd {} k)) ∧
  (∀ s h es, granted s h 0x0704 = true → (∀ e ∈ es, e.1 < 4096 ∧ e.2.job < 8) →
    exec (.cmdLryFwdWrite h es) s = .next (answer (each es (fun s e => { s with lry := { s.lry with
      fwd := mapPut s.lry.fwd {} e.1 e.2, fwdErr := mapPut s.lry.fwdErr 0 e.1 0 } }) s) h 0x0704 [])) ∧
  (∀ s h d r, granted s h 0x0705 = true → d < 1024 → r < 12 ∨ r = 14 ∨ r = 15 → ∃ t,
    exec (.cmdLryRouteWrite h [(d, r)]) s = .next t ∧ routeOf t d = r ∧
    (∀ k, k ≠ d → routeOf t k = routeOf s k)) ∧
  (∀ s h es, granted s h 0x0705 = true → (∀ e ∈ es, e.1 < 1024 ∧ (e.2 < 12 ∨ e.2 = 14 ∨ e.2 = 15)) →
    exec (.cmdLryRouteWrite h es) s = .next (answer (each es (fun s e =>
      { s with lry := { s.lry with route := mapPut s.lry.route 0xE e.1 e.2 } }) s) h 0x0705 [])) ∧
  (∀ s h p, granted s h 0x0706 = true → p < 12 →
    exec (.cmdLryPortResetRetrain h p) s = .next (answer (retrain s p) h 0x0706 [])) ∧
  (∀ s h p, granted s h 0x0706 = true → p < 12 → ∃ t, exec (.cmdLryPortResetReset h p) s = .next t ∧
      (portOf t p).st = (if (portOf s p).st = .chain then .chain
        else if (portOf s p).enable then .training else .disabled) ∧ (portOf t p).replay = [] ∧ (portOf t p).queue = [] ∧
      (portOf t p).peerHeld = false ∧ (portOf t p).gen = (Config.trng s.draws).setWidth 16 ∧
      (portOf t p).failed = (portOf s p).failed ∧
      t = { s with lry := t.lry, hif := t.hif, draws := t.draws, out := t.out }) ∧
  (∀ s h p, granted s h 0x0706 = true → p < 12 → ∃ t, exec (.cmdLryPortResetClearMarks h p) s = .next t ∧
    portOf t p = { portOf s p with failed := 0 } ∧
    (∀ r ∈ t.spr.map, r.kind = 10 → r.loc / 9 = p → r.state = 2)) ∧
  (∀ s l n, l < 108 → (laneOf s l).injDue = true → ∃ t, exec (.injGo l n) s = .next t ∧
    (laneOf t l).injDue = false ∧
    ((laneOf s l).test.getLsbD 0 = false → t = { s with lry := { s.lry with lanes := t.lry.lanes } } ∧
      (let mode := field (laneOf s l).test.toNat 7 6
       (mode = 1 → (laneOf t l).injLeft = 1) ∧
       (mode = 2 → (laneOf t l).injLeft = field (laneOf s l).test.toNat 19 8) ∧
       (mode = 3 → (laneOf t l).injOn = !(laneOf s l).injOn)))) ∧
  (∀ s l levels, l < 108 → (laneOf s l).slipDue = true → laneInUse s l = false → ∃ t,
    exec (.slip l levels) s = .next t ∧ t = slipLane s l levels ∧ (laneOf t l).slipDue = false ∧
    (laneOf t l).slips = ((laneOf s l).slips + 1) % 64) ∧
  (∀ s l levels lost, l < 108 → (laneOf s l).test.getLsbD 3 = true → laneInUse s l = false →
    let u := receiveLine s l levels
    exec (.patternCheckerLock l levels lost) s = .next (if lost && (laneOf u l).locked
      then leafAdd (modLane u l fun x => { x with locked := false, chkRun := 0 }) (leafLane l 2) 1 else u)) ∧
  (∀ s p m, p < 12 → nextMsg s p 1 0 = some m →
    let e := envOf m.body
    let u := takeMsg s p m
    exec (.remoteHodItem p) s = .next (if isHere s e.dst then remoteItemOf u p e.src (m.body.drop 4)
      else relay u p e 1 0 (m.body.drop 4))) ∧
  (∀ s p m, p < 12 → nextMsg s p 1 1 = some m →
    let e := envOf m.body
    let u := takeMsg s p m
    exec (.remoteHodCreditGrant p) s = .next (if isHere s e.dst then takeGrant u e.src (m.body.drop 4)
      else relay u p e 1 1 (m.body.drop 4))) ∧
  (∀ s src body, isConsumer s (hodOf s (leAt body 0 2)) (.remote src) = true →
    mapGet (takeGrant s src body).pal.rCredit 0 (leAt body 0 2) = leAt body 4 4) ∧
  (∀ s p m, p < 12 → nextMsg s p 2 3 = some m →
    let e := envOf m.body
    let u := takeMsg s p m
    exec (.managementMessage p) s = .next (if isHere s e.dst then u
      else relay u p e 2 3 (m.body.drop 4))) ∧
  (∀ s hod ups, hodEmpty (hodOf (upsets s ups) hod) = true →
    exec (.remoteHodSend hod ups) s = .next (upsets s ups)) ∧
  (∀ s hod ups, let v := upsets s ups
    isConsumer v (hodOf v hod) (.remote ((hodOf v hod).p.consEp % 1024)) = true →
    hodEmpty (hodOf v hod) = false →
    (mapGet v.pal.rCredit 0 hod + 2 ^ 32 - mapGet v.pal.rSent 0 hod % 2 ^ 32) % 2 ^ 32 ≠ 0 →
    ∃ u body, exec (.remoteHodSend hod ups) s =
      .next (routeSend u 1 0 ((hodOf v hod).p.consEp % 1024) body) ∧
      mapGet u.pal.rSent 0 hod = mapGet v.pal.rSent 0 hod + 1)

/-- The transmitter's and the receiver's view of one flit. -/
def Obligations.SentFlitIsAccepted : Prop :=
  ∀ (s : State) (p slot cls kind : Nat) (first last : Bool) (body : List Byte) (errs : SymErrs), p < 12 →
    portUp (portOf s p) = true → (kindFlits cls kind).isSome = true → 1 ≤ body.length →
    body.length ≤ 58 → (portOf s p).rxNext < 65536 → heldFlits (portOf s p) cls < bufferSize cls →
    markerSlot (laneCount (portOf s p)) slot = false →
    mapGet (portOf s p).rxCode none (slot % laneCount (portOf s p)) = none →
    let wire := flitWire (portOf s p).rxNext (flitBody cls kind first last body)
    (∃ t, exec (.sequencedFlit p slot wire []) s = .next t ∧
      (portOf t p).rxNext = ((portOf s p).rxNext + 1) % 65536 ∧ (portOf t p).nakAt = none ∧
      (portOf t p).sinceAck = (if (portOf s p).sinceAck + 1 < 32 then (portOf s p).sinceAck + 1 else 0)) ∧
    (rs10Decode errs = none → ∃ t, exec (.sequencedFlit p slot wire errs) s = .next t ∧
      (portOf t p).rxNext = (portOf s p).rxNext ∧ (portOf t p).nakAt ≠ none)

/-- The frame of chapter 10, but for messages that are delivered. -/
def Obligations.LareyStaysInside : Prop :=
  ∀ (s t : State) (p l n a b c first width : Nat) (h : Hdr) (sig inv ready : BitVec 9)
    (reqs asks : List (Nat × Nat × TapReq)) (marks : List LaneMark) (lost tx : Bool) (ib : InitBody)
    (bytes : List Byte) (errs : SymErrs) (levels : List (BitVec 2)) (cfg w : BitVec 32)
    (lt at_ : Option Nat) (tw : Option (BitVec 32)) (pw : LPower) (ws : Option (BitVec 128))
    (fs : List (Nat × Fwd)) (rs : List (Nat × Nat)) (streams : List Nat) (i : Instr),
    i ∈ [Instr.laneTraining p sig inv reqs asks, .laneTrainingDone p ready marks, .portBringupTimeout p,
      .init p ib, .sequencedFlit p n bytes errs, .ack p n a b c, .nak p n a b c, .ackSend p,
      .ackTimeout p, .quietEnter p, .quietIdleExpiry p, .quietWake p, .wakeSequence p, .retrainReq p,
      .laneLockLoss l, .codewordBurst l, .laneErrorWindow l, .linkTimeoutExpiry p, .injGo l n,
      .slip l levels, .patternCheckerLock l levels lost, .cmdLryPortCfg h p cfg lt at_,
      .cmdLryPortStatus h first width, .cmdLryLaneTaps h l tw, .cmdLryLanePower h l tx pw,
      .cmdLryLaneTest h l w, .cmdLryLaneWords h l ws, .cmdLryFwdWrite h fs, .cmdLryFwdRead h streams,
      .cmdLryRouteWrite h rs,
      .cmdLryPortResetRetrain h p, .cmdLryPortResetReset h p, .cmdLryPortResetClearMarks h p] →
    exec i s = .next t → onlyLarey s t

/-- Ordinal, streams, interval, rollback, export, import. -/
def Obligations.ArrayCommandsAct : Prop :=
  (∀ s h o, granted s h 0x0707 = true → (∀ j, j < 8 → (jobOf s j).state = .empty) → o < 1024 →
    exec (.cmdArrOrdinal h o) s = .next (answer { s with arr := { s.arr with
      ordinal := some o, ordFromChain := false } } h 0x0707 [])) ∧
  (∀ s h st e, granted s h 0x0708 = true → (jobOf s (namedJob h)).state = .empty →
    imageParams s (namedJob h) = none → st < 4096 →
    (srcFits s (namedJob h) st e 384 32 = true → ∃ t, exec (.cmdArrStream h st (.source e)) s = .next t ∧
      srcOf t st = e ∧ srcRunOf t st = {} ∧ (∀ k, k ≠ st → srcOf t k = srcOf s k) ∧
      t = { s with arr := t.arr, hif := t.hif, out := t.out })) ∧
  (∀ s h st e, granted s h 0x0708 = true → (jobOf s (namedJob h)).state = .empty →
    imageParams s (namedJob h) = none → st < 4096 → consFits s (namedJob h) st e 384 32 none = true →
    ∃ t, exec (.cmdArrStream h st (.consumer e)) s = .next t ∧ consOf t st = e ∧ consRunOf t st = {} ∧
      (∀ k, k ≠ st → consOf t k = consOf s k) ∧ t = { s with arr := t.arr, hif := t.hif, out := t.out }) ∧
  (∀ s h n, granted s h 0x0709 = true → 10 ≤ n → n ≤ 32 → exec (.cmdArrCkptPolicy h (2 ^ n)) s =
    .next (answer (modJob s (namedJob h) fun x => { x with ckptLog2 := n }) h 0x0709 [])) ∧
  (∀ s h, granted s h 0x070A = true → rollState (jobOf s (namedJob h)) = true →
    (jobOf s (namedJob h)).replay = none → s.pwr.state ≠ .deepHold → s.hif.accepted.length < 16 →
    lp5xBad s = false →
    ((jobOf s (namedJob h)).recoverable = true → latestCkpt (jobOf s (namedJob h)) ≠ none →
      exec (.cmdArrRollbackLocal h) s = .next (respond (enlist (startRollback s (namedJob h) (some h))
        h 0x070A [namedJob h]) h 0x070A .accepted [])) ∧
    (∀ k epoch ck, ckptAt (jobOf s (namedJob h)) k = some ck →
      exec (.cmdArrRollbackGlobal h k epoch) s = .next (complete (globalRollback
        (respond s h 0x070A .accepted []) (namedJob h) ck epoch) h 0x070A 0x0A04 .ok []))) ∧
  (∀ s h b, granted s h 0x070B = true → bulkReady s b = true →
    (jobOf s (namedJob h)).state = .running ∨ (jobOf s (namedJob h)).state = .releasing ∨
      (jobOf s (namedJob h)).state = .heldCmd →
    (jobOf s (namedJob h)).exportReq = none → (jobOf s (namedJob h)).replay = none →
    s.pwr.state ≠ .deepHold → lp5xBad s = false →
    let u := modJob s (namedJob h) fun x => { x with exportReq := some h }
    let x := jobOf s (namedJob h)
    exec (.cmdArrCkptExport h b) s = .next (respond (enlist
      (if x.state == .heldCmd && x.endDone && atCommit x && x.capturing.isNone
       then startCapture u (namedJob h) else u) h 0x070B [namedJob h])
      h 0x070B .accepted [])) ∧
  (∀ s h e b, granted s h 0x070C = true → bulkReady s b = true →
    heldBeforeZero (jobOf s (namedJob h)) = true → (jobOf s (namedJob h)).capturing = none →
    (jobOf s (namedJob h)).image.map (·.crc) = some e.ckpt.imageCrc → importFits s (namedJob h) e = true →
    lp5xBad s = false → exec (.cmdArrCkptImport h e b) s = .next (respond (enlist (importJob s (namedJob h) e)
      h 0x070C [namedJob h]) h 0x070C .accepted []))

/-- The array events. -/
def Obligations.ArrayEventsAct : Prop :=
  (∀ s p m, p < 12 → nextMsg s p 0 0 = some m → exec (.jointFrame p) s = .next (handleBy
    (takeMsg s p m) m.fwd (frameOf m.body) (some p) ((frameOf m.body).hops + 1))) ∧
  (∀ s p m, p < 12 → nextMsg s p 2 1 = some m →
    let e := envOf m.body
    let u := takeMsg s p m
    exec (.barrierToken p) s = .next (if isHere s e.dst then tokenOf u e.src (m.body.drop 4)
      else relay u p e 2 1 (m.body.drop 4))) ∧
  (∀ s o st ep lo, (srcOf s st).valid = true → ep = (jobOf s (srcOf s st).job).epoch →
    srcRunOf (takeToken s o st ep lo) st =
      putToken (srcRunOf s st) o (extendStamp (jobOf s (srcOf s st).job).cycle lo) ∧
    ((srcOf s st).job, o) ∈ (takeToken s o st ep lo).arr.peers) ∧
  (∀ s p m, p < 12 → nextMsg s p 2 2 = some m →
    let e := envOf m.body
    let u := takeMsg s p m
    exec (.checkpointMarker p) s = .next (if isHere s e.dst then markerOf u e.src (m.body.drop 4)
      else relay u p e 2 2 (m.body.drop 4))) ∧
  (∀ s src st ep target j, streamJob s st = some j → ep = (jobOf s j).epoch →
    (jobOf s j).cycle < target → target ∈ (jobOf (takeMarker s src st ep target) j).earlyAt ∧
      (j, target) ∈ (takeMarker s src st ep target).arr.relayed) ∧
  (∀ s p m, p < 12 → nextMsg s p 2 3 = some m →
    let e := envOf m.body
    let b := m.body.drop 4
    let u := takeMsg s p m
    exec (.resendRequest p) s = .next (if isHere s e.dst
      then takeResend u (leAt b 0 4) (BitVec.ofNat 64 (leAt b 4 8)) else relay u p e 2 3 b)) ∧
  (∀ s st c u, (srcOf s st).valid = true → resendFrom s st c = some u → takeResend s st c = u) ∧
  (∀ s j, (jobOf s j).capturing = some .pausing →
    (masonsOfJob s j).all (fun m => pausedNow (masonOf s m)) = true →
    (jobOf s j).memReqs.all (fun r => r.result.isSome) = true → ∃ t, exec (.checkpointCut j) s = .next t ∧
      (jobOf t j).capturing = some .cut ∧
      (∃ ck, (jobOf t j).cutState = some ck ∧ ck.k = (jobOf s j).cycle)) ∧
  (∀ s j ck failed, (jobOf s j).capturing = some .cut → (jobOf s j).cutState = some ck →
    let done := modJob s j fun y =>
      { y with slotA := if y.nextB then y.slotA else some ck
               slotB := if y.nextB then some ck else y.slotB
               nextB := !y.nextB
               recoverable := true
               imported := false
               earlyAt := y.earlyAt.filter fun t => decide (ck.k < t) }
    let u := if failed then stopEntry (failCapture s j 2)
      else endCapture (writeExport (freeRecords (emitJob done 0x0A01 j [(8, ck.k.toNat)]) j) j ck) j
    let v := modJob u j fun y => { y with skipCkpt := true }
    exec (.ckptDone j failed) s =
      .next (if holdDue (jobOf v j) (jobOf v j).cycle then enterHold v j else v)) ∧
  (∀ s j vt port, (jobOf s j).replay = none → exec (.shadowPop j vt port) s = .next s) ∧
  (∀ s j vt port course h (r : Replay) k cyc w u, (jobOf s j).replay = some r →
    r.shadow = [⟨j, k, cyc, .hodDeliver vt port course h w⟩] → (hodOf s h).valid = true →
    portConsumes s j vt port ≠ none →
    (hodPopWord s h (.tile j vt port) = (some w, u) → exec (.shadowPop j vt port) s = .next
      (stepArrivals (modJob u j fun x => { x with replay := x.replay.map fun r => { r with
        shadow := r.shadow.erase ⟨j, k, cyc, .hodDeliver vt port course h w⟩ } }) j)) ∧
    (∀ v, v ≠ w → hodPopWord s h (.tile j vt port) = (some v, u) →
      ∃ q, exec (.shadowPop j vt port) s = .next (diverge q j 1 h cyc))) ∧
  (∀ s j r, (jobOf s j).replay = some r → atB (jobOf s j) = true → r.shadow = [] →
    exec (.replayDone j) s = .next (endReplay s j))

/-- R363, for user-cycle numbers that do not come near 2^64. -/
def Obligations.StampExtension : Prop :=
  (∀ own c : Word, own.toNat < 2 ^ 63 → c.toNat < own.toNat + 2 ^ 31 → own.toNat < c.toNat + 2 ^ 31 →
    extendStamp own (c.setWidth 32) = c) ∧
  (∀ (own : Word) (lo : BitVec 32), (extendStamp own lo).setWidth 32 = lo) ∧
  (∀ (own : Word) (lo : BitVec 32), 2 ^ 31 ≤ own.toNat → own.toNat < 2 ^ 63 →
    (extendStamp own lo).toNat ≤ own.toNat + 2 ^ 31 ∧ own.toNat ≤ (extendStamp own lo).toNat + 2 ^ 31) ∧
  (∀ (own : Word) (lo : BitVec 32), own.toNat < 2 ^ 63 →
    let ext := own.toNat / 2 ^ 32 * 2 ^ 32 + lo.toNat
    (extendStamp own lo).toNat = if ext + 2 ^ 31 < own.toNat then ext + 2 ^ 32
      else if own.toNat + 2 ^ 31 < ext ∧ 2 ^ 32 ≤ ext then ext - 2 ^ 32 else ext)

/-- The commands and events of the spine. -/
def Obligations.SpineRowsAct : Prop :=
  (∀ s (h : BitVec 128) busy ups, hVn h < 5 → nodeKnown (hSrc h) = true →
    subKnown (hSrc h) (hSrcSub h) = true → s.clk.domainsOn = true →
    exec (.spinePacket h busy ups) s = .next (sendPacket (upsets s ups) h busy)) ∧
  (∀ s rs fs, (∀ e ∈ rs, e.1 < 100 ∧ e.2.1 < 136 ∧ e.2.2 ≤ 4) → (∀ e ∈ fs, e.1 < 100) →
    epochBusy s = false → ∃ t, exec (.epochChange rs fs) s = .next t ∧ t.spn.inject = !s.spn.inject ∧
      t.spn.flipping = true ∧ t = { s with spn := t.spn, freeCtr := t.freeCtr } ∧
      (∀ r e v, rs = [(r, e, v)] → routeAt t (bankOf t.spn.inject) r e = v) ∧
      (∀ r m, fs = [(r, m)] → fenceMask t t.spn.inject r = m)) ∧
  (∀ s, epochBusy s = true → s.spn.unfence = [] → exec .oldCountZero s = .next
    { s with spn := { s.spn with flipping := false, oldCount := 0 } }) ∧
  (∀ s, epochBusy s = true → exec .oldCountZero s = .next (runUnfence
    { s with spn := { s.spn with flipping := false, oldCount := 0 } })) ∧
  (∀ s g, g < 12 → canPowerDown s g = true → ∃ t, exec (.domainPowerDown g) s = .next t ∧
    groupFenced t g = true ∧ t.spn.down = some { group := g, hdr := s.pwr.entering }) ∧
  (∀ s d, s.spn.down = some d → d.group < 12 → groupDrain s d.group = 0 → ∃ u,
    exec .drainDone s = .next (askerDone u d .ok) ∧ u.spn.down = none ∧ (groupOf u d.group).on = false ∧
      (∀ i, i < 16 → s.pwr.entering = none → (masonOf u (16 * d.group + i)).job = none ∧
        ((masonOf u (16 * d.group + i)).st = .off ∨ (masonOf u (16 * d.group + i)).st = .failed)) ∧
      (s.msn.assigning = [] → (groupOf (askerDone u d .ok) d.group).on = false)) ∧
  (∀ s d, s.spn.down = some d →
    let u := emitDev (unfenceGroup { s with spn := { s.spn with down := none } } d.group) 0x0B03 []
    exec .drainTimeout s = .next (if s.pwr.entering.isSome ∧ d.hdr = s.pwr.entering then stopEntry u
      else askerDone u d .timeout)) ∧
  (∀ s r rest, s.spn.trcQueue = r :: rest → s.spn.trcNext + 1 < traceSize → ∃ t,
    exec .traceRecordWrite s = .next t ∧ mapGet t.spn.trcBuf 0 s.spn.trcNext = r ∧
    t.spn.trcNext = s.spn.trcNext + 1 ∧ t.spn.trcQueue = rest ∧ t.spn.trcEn = s.spn.trcEn ∧
    t = { s with spn := t.spn }) ∧
  (∀ s r rest, s.spn.trcQueue = r :: rest → s.spn.trcNext + 1 = traceSize → s.spn.trcWrap = false → ∃ t u,
    exec .traceRecordWrite s = .next t ∧ t = emitDev u 0x0B05 [] ∧ u.spn.trcEn = false ∧
    u.spn.trcFull = true ∧ u.spn.trcNext = 0 ∧ u.spn.trcQueue = []) ∧
  (∀ s h i (cfg m k : BitVec 64), granted s h 0x0920 = true → i < 16 → cfg.toNat / 2 % 128 < 100 →
    cfg.toNat / 256 % 8 < 6 → exec (.cmdSpnProbe h i cfg m k) s = .next (answer { s with spn :=
      { s.spn with probes := mapPut s.spn.probes {} i { cfg := cfg &&& 0x1FFFF, mtch := m, mask := k } } }
      h 0x0920 [])) ∧
  (∀ s h (w : BitVec 64), granted s h 0x0921 = true → ∃ t, exec (.cmdSpnTraceControl h w) s = .next t ∧
    t.spn.trcEn = w.getLsbD 0 ∧ t.spn.trcWrap = w.getLsbD 1 ∧ t.spn.trcBuf = s.spn.trcBuf ∧
    (w.getLsbD 0 = true → s.spn.trcEn = false → t.spn.trcNext = 0 ∧ t.spn.trcLost = 0 ∧
      t.spn.trcFull = false) ∧ t = { s with spn := t.spn, hif := t.hif, out := t.out })

/-- The reset routes are complete and end at the destination's router, where the fence sink is (R398). -/
def Obligations.ResetRoutesDeliver : Prop :=
  ∀ (s : State) (h : BitVec 128) (busy : List (List (BitVec 5))), s.spn.routes = [] → s.spn.routeErr = [] →
    s.clk.domainsOn = true →
    hVn h < 5 → nodeKnown (hSrc h) = true → subKnown (hSrc h) (hSrcSub h) = true →
    nodeKnown (hDst h) = true → subKnown (hDst h) (hDstSub h) = true →
    ∃ t, exec (.spinePacket h busy []) s = .next t ∧ t.spn.badDest = s.spn.badDest ∧
      (s.spn.fences = [] → t.hif = s.hif ∧ t.spn.fenceDisc = s.spn.fenceDisc ∧
        t.spn.drains = (noteDelivery s h).spn.drains ∧ t = { s with spn := t.spn, tel := t.tel }) ∧
      (2 ≤ hVn h → (fenceMask s s.spn.inject (nodeRouter (hDst h) (hDstSub h))).getLsbD
          (fenceSlot (hDst h) (hDstSub h)) = true →
        t.spn.drains = s.spn.drains ∧
        mapGet t.spn.fenceDisc 0 (hSrc h) = mapGet s.spn.fenceDisc 0 (hSrc h) + 1)

/-- The events of chapter 13's clocks. -/
def Obligations.ClockEventsAct : Prop :=
  (∀ s n, islandRuns s = true → s.clk.safeStable = false → s.clk.safeFailed = false → 3750 ≤ n → n ≤ 6250 →
    exec (.safeWindow n) s = .next { s with clk := { s.clk with safeStable := true, belicOnSafe := true } }) ∧
  (∀ s, islandRuns s = true → s.clk.safeStable = false → ∃ t, exec .safeTimeout s = .next t ∧
    t.clk.safeFailed = true ∧ t.rst.held = true ∧ (s.pwr.linkLost = false → t.hv.safeBad = true ∧
    t.pwr.linkEvs.head? = some (0x0103, s.nowUs))) ∧
  (∀ s n l, islandRuns s = true → s.clk.safeStable = true → s.clk.refStable = false →
    s.clk.refLast = some l → s.clk.refRun = 7 → 3932 ≤ n → n ≤ 6554 →
    ((n - l) + (l - n)) * 1000000 ≤ l * 500 → ∃ t, exec (.refWindow n) s = .next t ∧
      t.clk.refStable = true ∧ t.clk.refArmed = true ∧ t = { s with clk := t.clk }) ∧
  (∀ s n, islandRuns s = true → s.clk.safeStable = true → s.clk.refStable = true → s.clk.refArmed = true →
    differs s.clk.refLast n 2000 = true → exec (.refWindow n) s = .next (refLoss s)) ∧
  (∀ s, s.clk.refArmed = true → ∃ t, exec .refMissingEdge s = .next t ∧ t = refLoss s ∧
    t.clk.refLost = true ∧ t.clk.refStable = false ∧ t.clk.belicOnSafe = true ∧ t.lp.retainMask = 0xFF ∧
    (∀ j, j < 8 → active (jobOf s j) = true → (jobOf s j).replay = none → (jobOf t j).state = .heldCmd)) ∧
  (∀ s p n, p < 6 → s.clk.refStable = true → s.rst.held = false → s.clk.pllEn.getLsbD p = false →
    (p < 2 → p = fabPll s ∧ n = s.clk.granted) → ∃ t, exec (.pllEnable p n) s = .next t ∧ t.clk.pllEn = s.clk.pllEn ||| pllBit p ∧
      (p < 2 → mapGet t.clk.pllMhz 0 p = n) ∧ t = { s with clk := t.clk }) ∧
  (∀ s p, p < 6 → s.clk.pllEn.getLsbD p = true → s.clk.pllStable.getLsbD p = false → ∃ t,
    exec (.pllStable p) s = .next t ∧ t.clk.pllStable = s.clk.pllStable ||| pllBit p) ∧
  (∀ s g, g < 12 → (groupOf s g).div ≠ (groupOf s g).target → ∃ t, exec (.dividerStep (5 + g)) s = .next t ∧
    (groupOf t g).div = (if (groupOf s g).div < (groupOf s g).target then (groupOf s g).div + 1
      else (groupOf s g).div - 1) ∧ (groupOf t g).target = (groupOf s g).target) ∧
  (∀ s ch, s.clk.domainsOn = true → s.clk.change = some ch → ch.stage = .rampUp → s.clk.fabDiv = 1 →
    ∃ u, exec (.dividerStep 2) s = .next (applyWaiting (endChange u ch.mhz)) ∧ u.clk.fabDiv = 0 ∧
      u = { s with clk := u.clk }) ∧
  (∀ s ch, s.clk.domainsOn = true → s.clk.change = some ch → ch.stage = .rampDown → ∃ t,
    exec (.dividerStep 2) s = .next t ∧ t = { s with clk := t.clk } ∧
    t.clk.fabDiv = (if s.clk.fabDiv < 3 then s.clk.fabDiv + 1 else 4) ∧
    t.clk.change = some (if s.clk.fabDiv < 3 then ch else { ch with stage := .switching })) ∧
  (∀ s, s.clk.domainsOn = true → s.clk.change = none → exec (.dividerStep 2) s = .next { s with clk :=
    { s.clk with fabDiv := s.clk.fabDiv - 1, ramping := s.clk.ramping && decide (0 < s.clk.fabDiv - 1) } }) ∧
  (∀ s n, ∃ u, endChange s n = settleFab (emitDev u 0x0106 []) ∧ u.clk.granted = n ∧ u.clk.change = none ∧
    (∀ j, j < 8 → (jobOf u j).clockHold = false)) ∧
  (∀ s ch, s.clk.change = some ch → ch.stage = .holding → allAtRest s = true → exec .fabRampStart s =
    .next { s with clk := { s.clk with ramping := true, change := some { ch with stage := .rampDown } } }) ∧
  (∀ s ch, s.clk.change = some ch → ch.stage = .switching →
    let t : State := { s with clk := { s.clk with fabSrc := !s.clk.fabSrc, change := some { ch with stage := .rampUp } } }
    exec (.sourceSwitch 2) s = .next t ∧ exec (.forcedSwitch 2) s =
      .next (emitDev { t with clk := { t.clk with forced := true } } 0x0101 [(1, 3)])) ∧
  (∀ s, s.clk.belicOnSafe = true → s.clk.pllStable.getLsbD 3 = true → s.clk.refLost = false →
    exec (.sourceSwitch 17) s = .next { s with clk := { s.clk with belicOnSafe := false } } ∧
    exec (.forcedSwitch 17) s = .next (emitDev
      { s with clk := { s.clk with belicOnSafe := false, forced := true } } 0x0101 [(1, 18)])) ∧
  (∀ s, s.clk.refLost = true → s.clk.restoring = false → s.clk.domainsOn = true → ∃ t,
    exec .refHoldoverEnd s = .next t ∧ t.clk.domainsOn = false ∧ t.clk.pllEn = 0 ∧ t.clk.restoring = true ∧
    t.hif.linkUp = false) ∧
  (∀ s, s.clk.refLost = true → s.clk.refStable = true → s.clk.restoring = true → s.clk.domainsOn = true →
    chansTrained s = true → ∃ u, exec .refRestore s = .next (emitDev u 0x0104 []) ∧
      u.clk.refLost = false ∧ u.clk.restoring = false)

/-- R420. -/
def Obligations.FabricClockIsGranted : Prop :=
  ∀ s h mhz, granted s h 0x0210 = true →
    (mhz < 400 ∨ 1200 < mhz → exec (.cmdClkFab h mhz) s = .next (respond s h 0x0210 .badParam [])) ∧
    (400 ≤ mhz → mhz ≤ 1200 →
      (s.clk.change ≠ none → exec (.cmdClkFab h mhz) s = .next (respond s h 0x0210 .busy [])) ∧
      (s.clk.change = none → ∃ t, exec (.cmdClkFab h mhz) s = .next t ∧
        t.hif = (answer s h 0x0210 (leBytes 2 (min mhz (fabLimit s)))).hif ∧ t.clk.target = mhz ∧
        (∀ j x, jobOf s j = x → j < 8 → x.image.isSome = true → x.state ≠ .empty →
          fabLimit s ≤ x.desc.fabMax) ∧
        (s.clk.domainsOn = true → min mhz (fabLimit s) ≠ s.clk.granted →
          t.clk.change = some { mhz := min mhz (fabLimit s), stage := .pllWait } ∧
          mapGet t.clk.pllMhz 0 (idlePll s) = min mhz (fabLimit s)) ∧
        (min mhz (fabLimit s) = s.clk.granted → t.clk.change = none)))

/-- RESET_N, PERST_N, die and job resets. -/
def Obligations.ResetRowsAct : Prop :=
  (∀ s n, timesReset s = true → 380 ≤ n → ∃ t, exec (.resetNLow n) s = .next t ∧ t.rst.held = true ∧
    t.rst.lastCause = 2 ∧ t.pwr.resetN = false) ∧
  (∀ s, s.clk.safeFailed = false → s.pwr.rails.getLsbD 0 = true → exec .resetNRise s = .next
    { s with pwr := { s.pwr with resetN := true }, rst := { s.rst with held := false } }) ∧
  (∀ s, s.pwr.state = .ready → exec .perstNLow s = .next
    (perstReset { s with pwr := { s.pwr with perstN := false } })) ∧
  (∀ s, s.pwr.state = .ready → s.clk.domainsOn = true → exec .perstNRise s = .next
    { s with pwr := { s.pwr with perstN := true }, hif := { s.hif with linkTraining := !s.hif.linkUp } }) ∧
  (∀ s h, granted s h 0x0212 = true → s.rst.faceBusy = false → s.rst.courseBusy = false →
    s.pwr.state ≠ .deepHold → s.hif.accepted.length < 16 →
    exec (.cmdRstDieCourse h) s = .next (respond (enlist (startDie s h false) h 0x0212 [0]) h 0x0212 .accepted []) ∧
    exec (.cmdRstDieFace h) s = .next (respond (enlist (startDie s h true) h 0x0212 [1]) h 0x0212 .accepted [])) ∧
  (∀ s h f, (startDie s h f).rst.dieHdr = some h ∧ (startDie s h f).rst.faceBusy = f ∧
    (startDie s h f).rst.courseBusy = !f) ∧
  (∀ s, s.rst.faceBusy = true → s.rst.viasEmpty = false → (dieJobs s).all (dieHeld s) = true →
    exec .viasEmpty s = .next
      (preloadAgain (clearFaceDie { s with rst := { s.rst with viasEmpty := true } }))) ∧
  (∀ s, s.rst.courseBusy = true → s.rst.faceBusy = false → s.rst.viasEmpty = false →
    (dieJobs s).all (dieHeld s) = true → exec .viasEmpty s = .next
      { s with rst := { s.rst with viasEmpty := true } }) ∧
  (∀ s bad, s.rst.courseBusy = true → s.rst.viasEmpty = true → exec (.courseDieCleared bad) s =
    .next (preloadAgain (each (List.range 8) (goldenPlanes bad) (clearCourseDie s)))) ∧
  (∀ s h, granted s h 0x0404 = true → s.pwr.state ≠ .deepHold → s.rst.faceBusy = false →
    s.rst.courseBusy = false → (jobOf s (namedJob h)).resetReq = none → s.hif.accepted.length < 16 →
    ((jobOf s (namedJob h)).state ∉ [JobState.empty, .loading, .running, .releasing] → exec (.cmdJobReset h) s = .next (complete (jobReset
      (respond s h 0x0404 .accepted []) (namedJob h) true) h 0x0404 0x0E02 .ok [])) ∧
    ((jobOf s (namedJob h)).state ∈ [JobState.running, .releasing] → exec (.cmdJobReset h) s = .next (respond (enlist
      (modJob s (namedJob h) fun x => { x with resetReq := some h, go := false }) h 0x0404 [namedJob h])
      h 0x0404 .accepted []))) ∧
  (∀ s j, (jobOf s j).capturing = none → (jobOf s j).replay = none →
    (readSlabs s ((jobOf s j).image.getD {})).1 = false → (jobOf (jobReset s j true) j).release = 0 ∧ (jobOf (jobReset s j true) j).resets = 0x7F ∧
    (jobOf (jobReset s j true) j).state = .heldCmd ∧ (jobOf (jobReset s j true) j).recoverable = false)

/-- Table 13-7's warm reset. -/
def Obligations.WarmResetClearsAndKeeps : Prop :=
  ∀ (s : State) (n : Nat), timesReset s = true → 380 ≤ n → s.lp.scrub = none → ∃ t,
    exec (.resetNLow n) s = .next t ∧
    (∀ j, (jobOf t j).state = .empty ∧ (jobOf t j).key = none ∧ (jobOf t j).image = none) ∧
    t.load = none ∧ t.mem.near = [] ∧ t.mem.far = [] ∧ t.mem.ppt = [] ∧ t.pal.hods = [] ∧
    t.hif.accepted = [] ∧ t.pwr.sysKey = none ∧ t.pwr.state = .standby ∧
    t.hif.log = s.hif.log ∧ t.hif.seq = s.hif.seq ∧ t.spr.map = s.spr.map ∧ t.spr.fuses = s.spr.fuses ∧
    t.hv = s.hv ∧ t.nowUs = s.nowUs ∧ t.pending = s.pending ∧ t.mem.retiredFar = s.mem.retiredFar ∧
    (∀ p, p < 12 → (portOf t p).failed = (portOf s p).failed ∧ (portOf t p).st = .disabled)

/-- R424. -/
def Obligations.PcieResetLeavesTheDesign : Prop :=
  ∀ (s t : State), s.pwr.state = .ready ∨ s.pwr.state = .deepHold → exec .perstNLow s = .next t →
    t = { s with jobs := t.jobs, hif := t.hif, rst := t.rst, pwr := t.pwr, out := t.out } ∧
    t.rst.perstSeen = true ∧ t.hif.rings = [] ∧ t.hif.msix = [] ∧ t.hif.linkUp = false ∧
    t.hif.log = s.hif.log ∧ t.hif.accepted = s.hif.accepted ∧
    (∀ j, j < 8 → (jobOf s j).state = .running → (jobOf s j).replay = none →
      { atCycle := (jobOf s j).cycle + 1 } ∈ (jobOf t j).holdAt) ∧
    (∀ c, c < 8 → dmaOf t c = { fn := (dmaOf s c).fn }) ∧
    (∀ fn k, k < 4 → (mbxOf t fn k).busy = false)

/-- The events and commands of chapter 14. -/
def Obligations.PowerRowsAct : Prop :=
  (∀ s, s.pwr.vin48 = false → ∃ t, exec .vin48Apply s = .next t ∧ t.pwr.vin48 = true ∧ t.pwr.state = .off ∧
    t.pwr.rails = 0 ∧ t.rst.held = true ∧ t.nowUs = 0 ∧ t.hif.log = [] ∧ t.pwr.tripTimes = []) ∧
  (∀ s, s.pwr.vin48 = true → exec .vin48Qualified s = .next { s with pwr := { s.pwr with smbusOn := true } }) ∧
  (∀ s r, r < 9 → 0 < r → railOn s r = false → railReady s r = true → exec (.railInRange r) s = .next
    (tryReady { s with pwr := { s.pwr with rails := s.pwr.rails ||| railBit r } })) ∧
  (∀ s, railOn s 0 = false → s.pwr.smbusOn = true → exec (.railInRange 0) s = .next { s with
    pwr := { s.pwr with rails := s.pwr.rails ||| 1, state := .standby, booting := true }
    rst := { s.rst with held := !s.pwr.resetN } }) ∧
  (∀ s, ∃ t, exec .vin48Fail s = .next t ∧ t.pwr.vin48 = false ∧ t.pwr.rails = 0 ∧ t.pwr.sysKey = none ∧
    t.pwr.state = .off ∧ t.rst.held = true ∧ t.lp.chans = [] ∧ t.mem.far = []) ∧
  (∀ s us, s.pwr.smbusOn = true → 1000 ≤ us ∨ s.pwr.lockout = false → ∃ t, exec (.pwrEnRise us) s = .next t ∧
    t.pwr.rails = 0 ∧ t.pwr.pwrEn = true ∧ t.pwr.lockout = false ∧ t.rst.lastCause = 1 ∧ t.rst.held = true ∧
    t.pwr.tripTimes = if 1000 ≤ us then [] else s.pwr.tripTimes) ∧
  (∀ s, s.pwr.state ≠ .off → ∃ t, exec .pwrEnFall s = .next t ∧ t.pwr.pwrEn = false ∧
    t.pwr.rails = s.pwr.rails &&& 1 ∧ t.pwr.state = .standby ∧ t.pwr.sysKey = none) ∧
  (∀ s, mayBoot s = true → exec .bootRomStart s = .next (bootRom s)) ∧
  (∀ s, railOn s 1 = true → s.pwr.linkLost = false → ∃ u, exec .powerLinkLoss s = .next (emitDev u 0x0206 []) ∧
    u = { s with hv := { s.hv with linkLost := true }, pwr := { s.pwr with linkLost := true } }) ∧
  (∀ s rails, ∃ t, exec (.powerTelemetry rails) s = .next t ∧ t.pwr.linkLost = false ∧
    (∀ r, r < 9 → listAt t.pwr.railMv 0 r = (listAt rails (0, 0) r).1 ∧
      listAt t.pwr.railMa 0 r = (listAt rails (0, 0) r).2) ∧ t = { s with hv := t.hv, pwr := t.pwr }) ∧
  (∀ s v i a w, s.pwr.smbusOn = true → ∃ t, exec (.inputPowerMeasure v i a w false false) s = .next t ∧
    t.pwr.vinMv = v ∧ t.pwr.iinMa = i ∧ t.pwr.inW = w ∧ (s.pwr.linkLost = false →
      (850 < a → t.clk.throttle = true) ∧ (a < 800 → s.pwr.throtTherm = false → t.clk.throttle = false))) ∧
  (∀ s v i a w x y, s.pwr.smbusOn = true → s.pwr.linkLost = false → x = true ∨ y = true →
    s.pwr.tripping = false → s.pwr.state ≠ .trip → s.pwr.state ≠ .off → ∃ t,
    exec (.inputPowerMeasure v i a w x y) s = .next t ∧ t.pwr.tripping = true ∧ t.pwr.thermtripN = false ∧
    t.pwr.lastTrip = 3 ∧ t.pwr.lockout = true) ∧
  (∀ s r, r < 9 → monitored s r = true → ∃ u, exec (.railWarn r) s = .next (emitDev u 0x0207 [(1, r)]) ∧
    u.hv.vWarn = if s.pwr.linkLost then s.hv.vWarn else s.hv.vWarn ||| railBit r) ∧
  (∀ s c, c < 10 → monitored s c = true → exec (.supplyGlitch c) s = .next (glitch s c)) ∧
  (∀ s c, (glitch s c).pwr.sysKey = none ∧ (glitch s c).rst.lastCause = 5) ∧
  (∀ s a b c, kilnRuns s = true → exec (.kilnConversion a b c) s = .next
    (kilnActs (kilnBroken (kilnRead s [kilnCode a, kilnCode b, kilnCode c])))) ∧
  (∀ s, allBelow s 616 = true → ∃ t, exec .kilnClear s = .next t ∧ t.pwr.warn = false ∧
    t.pwr.throtTherm = false ∧ t.clk.throttle = s.pwr.throtPower) ∧
  (∀ s, s.pwr.state = .trip → s.pwr.lastTrip ≠ 3 → s.pwr.linkLost = false → ∃ u, exec .thermTripEvent s = .next u ∧
    u.pwr.linkEvs.head? = some (0x0303, s.nowUs) ∧ u.pwr.state = .trip) ∧
  (∀ s bad, s.pwr.state = .trip → s.pwr.cooling = true → s.pwr.lockout = false → s.pwr.pwrEn = true →
    allBelow s 576 = true → ∃ t, exec (.coolingWaitEnd bad) s = .next t ∧ t.pwr.state = .standby ∧
      t.pwr.booting = true ∧ t.pwr.thermtripN = true ∧ t.rst.lastCause = 4 ∧ t.pwr.restart = some bad) ∧
  (∀ s h, granted s h 0x0201 = true → pwrBusy s = false → s.hif.accepted.length < 16 →
    (s.pwr.state = .ready →
      let t := respond (enlist (startEntry s h) h 0x0201 [0]) h 0x0201 .accepted []
      exec (.cmdPwrStateEnter h) s = .next (if t.pwr.entering.isSome &&
        (List.range 8).any (fun j => entryStuck (jobOf t j)) then stopEntry t else t)) ∧
    (s.pwr.state = .deepHold → exec (.cmdPwrStateWake h) s = .next (respond (enlist (wakeGroups
      { s with pwr := { s.pwr with waking := some h } }) h 0x0201 [1]) h 0x0201 .accepted []))) ∧
  (∀ s h, s.pwr.entering = some h → (∀ j, j < 8 → entryStuck (jobOf s j) = false) → entryReady s = true →
    exec .deepHoldDemotionDone s = .next (enterDeepHold s h)) ∧
  (∀ s h bad, s.pwr.waking = some h → s.pwr.rails = 0x1FF → chansTrained s = true →
    s.msn.groups.any (fun g => g.2.clearing) = false → ∃ u, exec (.wakeRestore bad) s =
      .next (complete (dropAccOf u 0x0201 h) h 0x0201 0x0205 .ok []) ∧ u.pwr.state = .ready ∧
      u.pwr.waking = none)

/-- Table 14-5. -/
def Obligations.TripCutsTheRails : Prop :=
  (∀ s b c, kilnRuns s = true → s.pwr.tripping = false → s.pwr.state ≠ .trip → s.pwr.state ≠ .off →
    s.pwr.brokenEv = 7 → s.lp.scrub = none → listAt s.pwr.atTrip 0 0 = 1 → ∃ t,
    exec (.kilnConversion (some 440) b c) s = .next t ∧ t.pwr.tripping = true ∧ t.pwr.thermtripN = false ∧
      t.pwr.lastTrip = 0 ∧ t.pwr.tripTimes = (s.pwr.hvUs :: s.pwr.tripTimes).take 3 ∧
      t.pwr.lockout = (s.pwr.lockout || decide (3 ≤ (((s.pwr.hvUs :: s.pwr.tripTimes).take 3).filter
        fun x => decide (s.pwr.hvUs < x + 3600000000)).length))) ∧
  (∀ s, s.pwr.tripping = true → ∃ t, exec .killAssert s = .next t ∧ t.pwr.state = .trip ∧
    t.pwr.tripping = false ∧ t.tileMap = [] ∧ t.load = none ∧ t.mem.near = [] ∧
    (∀ h, (hodOf t h).items = [] ∧ (hodOf t h).valid = (hodOf s h).valid) ∧
    (∀ j, j < 8 → (jobOf s j).image.isSome = true → (jobOf s j).state ≠ .loading →
      (jobOf t j).state = .stopped ∧ (jobOf t j).image = (jobOf s j).image) ∧
    (s.pwr.lockout = false → t.pwr.rails = s.pwr.rails &&& 0x1C1 ∧ t.pwr.sysKey = s.pwr.sysKey ∧
      (∀ j, j < 8 → (jobOf s j).state ≠ .loading → (jobOf t j).key = (jobOf s j).key)) ∧
    (s.pwr.lockout = true → t.pwr.rails = s.pwr.rails &&& 1 ∧ t.pwr.sysKey = none ∧
      (∀ j, j < 8 → (jobOf t j).key = none)))

/-- The rest of chapter 15's commands. -/
def Obligations.HostCommandsAct : Prop :=
  (∀ s fn, 1 ≤ fn → fn ≤ 8 → exec (.flrVf fn) s = .next (flrVf s fn)) ∧
  (∀ s fn k, fn ≤ 8 → k < 4 → (mbxOf (flrVf s fn) fn k).busy = false ∧ ringOf (flrVf s fn) fn = {} ∧
    (∀ g, g ≠ fn → mbxOf (flrVf s fn) g k = mbxOf s g k)) ∧
  (∀ s, exec .flrPf0 s = .next (perstReset s)) ∧
  (∀ s h c, granted s h 0x0401 = true → s.hif.accepted.length < 16 →
    ((jobOf s (namedJob h)).state = .running → c = 0 ∨ (jobOf s (namedJob h)).cycle < c →
      exec (.cmdRunHold h c) s = .next (respond (enlist (orderHold s (namedJob h)
        (if c = 0 then (jobOf s (namedJob h)).cycle + 1 else c) (some h)) h 0x0401 [namedJob h])
        h 0x0401 .accepted [])) ∧
    ((jobOf s (namedJob h)).state = .heldCmd → exec (.cmdRunHold h c) s = .next (answer s h 0x0401 []))) ∧
  (∀ s h, granted s h 0x0402 = true → s.pwr.state ≠ .deepHold → (jobOf s (namedJob h)).replay = none →
    (jobOf s (namedJob h)).state = .heldCmd → (jobOf s (namedJob h)).beforeZero = false → ∃ t,
    exec (.cmdRunResume h 0 false) s = .next t ∧ (jobOf t (namedJob h)).cmdHeld = false ∧
      (jobOf t (namedJob h)).state = (if (jobOf s (namedJob h)).release < 3 then .releasing else .running) ∧
      (jobOf t (namedJob h)).cycle = (jobOf s (namedJob h)).cycle) ∧
  (∀ s h c nr, granted s h 0x0402 = true → s.pwr.state ≠ .deepHold → (jobOf s (namedJob h)).replay = none →
    (jobOf s (namedJob h)).state = .heldCmd ∨ (jobOf s (namedJob h)).state = .heldFault ∧ nr = true →
    c = 0 ∨ (jobOf s (namedJob h)).cycle < c →
    let u := if (jobOf s (namedJob h)).state = .heldCmd then resumeHeld s (namedJob h)
      else resumeFault s (namedJob h)
    exec (.cmdRunResume h c nr) s = .next (answer (if c = 0 then u else orderHold u (namedJob h) c none)
      h 0x0402 [])) ∧
  (∀ s h c r, granted s h 0x0403 = true → 3 ≤ (jobOf s (namedJob h)).release →
    c = 0 ∨ firstCycle (jobOf s (namedJob h)) ≤ c →
    let at_ := if c = 0 then firstCycle (jobOf s (namedJob h)) else c
    exec (.cmdRunResets h c r) s = .next (answer (modJob s (namedJob h) fun x =>
      { x with resetAt := x.resetAt ++ [(at_, r)] }) h 0x0403 (leBytes 8 at_.toNat))) ∧
  (∀ s h pins, granted s h 0x0405 = true →
    (∀ p, p < 16 → pins.getLsbD p = true → pinOwner s p = none ∨ pinOwner s p = some (namedJob h)) → ∃ t,
    exec (.cmdTrigGrant h pins) s = .next t ∧ (∀ p, p < 16 → pinOwner t p =
      if pins.getLsbD p then some (namedJob h) else pinOwner s p) ∧
      t = { s with trigPin := t.trigPin, hif := t.hif, out := t.out }) ∧
  (∀ s h pins, granted s h 0x0405 = true → ∃ t, exec (.cmdTrigRelease h pins) s = .next t ∧
    (∀ p, p < 16 → pinOwner t p =
      if pins.getLsbD p && pinOwner s p == some (namedJob h) then none else pinOwner s p)) ∧
  (∀ s h low, granted s h 0x0A01 = true → lowestFree s = some low → s.pwr.state ≠ .deepHold →
    let k := if namedJob h < 8 then namedJob h else low
    (jobOf s k).created = false → ∃ t, exec (.cmdJobCreate h) s = .next t ∧
      jobOf t k = { created := true, key := some s.draws } ∧ t.draws = s.draws + 1 ∧
      (∀ i, i ≠ k → jobOf t i = jobOf s i)) ∧
  (∀ s h, granted s h 0x0A02 = true → s.hif.accepted.length < 16 → exec (.cmdJobDestroy h) s = .next
    (complete (destroyJob (respond s h 0x0A02 .accepted []) (namedJob h)) h 0x0A02 0x0E05 .ok [])) ∧
  (∀ s h bytes b, granted s h 0x0110 = true → bulkReady s b = true → s.fw.updating = none →
    bulkBytes b ≤ 32505856 → (fwImageOf bytes).bodyLen ≤ 32505344 →
    exec (.cmdFwUpdate h bytes b) s = .next (respond
      (enlist { s with fw := { s.fw with updating := some (h, fwImageOf bytes) } } h 0x0110 [])
      h 0x0110 .accepted [])) ∧
  (∀ s h img, s.fw.updating = some (h, img) → s.fw.recovery = false → ∃ t, exec .fwUpdateDone s = .next t ∧
    t.fw.updating = none ∧ (updateStatus s img = .ok →
      t.fw.goodUpdate = some (s.fw.running && !s.fw.runningB)) ∧
    t = { s with fw := t.fw, hif := t.hif, out := t.out }) ∧
  (∀ s h b, granted s h 0x0111 = true → s.fw.goodUpdate = some b →
    exec (.cmdFwActivate h) s = .next (answer { s with fw := { s.fw with preferB := b, trial := true } }
      h 0x0111 []) ∧
    (createdJobs s = [] → exec (.cmdFwActivateResetNow h) s = .next (warmReset (answer
      { s with fw := { s.fw with preferB := b, trial := true } } h 0x0111 []) 6))) ∧
  (∀ s, s.fw.trial = true → s.fw.running = true → s.pwr.state ≠ .ready → ∃ u f,
    exec .trialTimeout s = .next (emitDev u 0x0E04 f) ∧ u.fw.trial = false ∧
      u.fw.preferB = !s.fw.preferB ∧ u.fw.running = false ∧ u.rst.lastCause = 6)

/-- The commands and events of chapter 16. -/
def Obligations.SpareRowsAct : Prop :=
  (∀ s h t, granted s h 0x0802 = true → t < 400 → s.spr.sweeping = none → s.spr.bist = none →
    tileAway s (.tile t) = false → ownerOf s t = none → s.hif.accepted.length < 16 →
    exec (.cmdBistRun h (.tile t)) s = .next (respond (enlist (modSprBlk (modTile s t fun x =>
      { x with underTest := true }) fun p => { p with bist := some (h, .tile t) }) h 0x0802 [])
      h 0x0802 .accepted [])) ∧
  (∀ s h r u, granted s h 0x0802 = true → regionOk r = true → s.spr.sweeping = none → s.spr.bist = none →
    tileAway s r = false → (∀ n, r = .router n → anyLoaded s = false) → beginTest s r = some u →
    u.hif.accepted.length < 16 → exec (.cmdBistRun h r) s = .next (respond (enlist
      { u with spr := { u.spr with bist := some (h, r) } } h 0x0802 []) h 0x0802 .accepted [])) ∧
  (∀ s h r fails, s.spr.bist = some (h, r) → testReady s r = true →
    exec (.bistDone fails) s = .next (bistDone s h r fails)) ∧
  (∀ s h t, bistDone s h (.tile t) [] = complete (dropAccOf (modTile (modSprBlk s fun p =>
    { p with bist := none }) t fun x => { x with underTest := false }) 0x0802 h) h 0x0802 0x0E02 .ok
    [(1, 1), (1, 1), (1, 1), (1, 1)]) ∧
  (∀ s h hours t g, granted s h 0x0803 = true → 1 ≤ hours → hours ≤ 168 → exec (.cmdSweepPolicy h hours t g) s =
    .next (answer { s with spr := { s.spr with hours := hours, tilesEn := t, groupsEn := g } } h 0x0803 [])) ∧
  (∀ s p t, s.spr.sweeping = none → s.spr.bist = none → nextRegion s s.spr.pos = some (p, .tile t) →
    sweepsWait s = false → (tileOf s t).reserved = false → ownerOf s t = none → ∃ u,
    exec .sweepSlot s = .next u ∧ u.spr.sweeping = some (.tile t) ∧ u.spr.pos = (p + 1) % 412 ∧
      (tileOf u t).underTest = true) ∧
  (∀ s p g, s.spr.sweeping = none → s.spr.bist = none → nextRegion s s.spr.pos = some (p, .group g) →
    sweepsWait s = false → (regionJobs s (.group g)).any (jobBusy s) = false → ∃ u,
    exec .sweepSlot s = .next u ∧ u.spr.sweeping = some (.group g) ∧ u.spr.pos = (p + 1) % 412) ∧
  (∀ s t, s.spr.sweeping = some (.tile t) → tileBound s t = false → (tileOf s t).reserved = false →
    s.spr.reloc = [] → s.spr.swept.contains (.tile t) = true → exec (.sweepTestsDone []) s = .next
      (modTile { s with spr := { s.spr with sweeping := none } } t fun x => { x with underTest := false })) ∧
  (∀ s j r gb, j < 8 → s.spr.reloc = [r] → r.job = j → r.copied = false → faultHeld s (jobOf s j) = true →
    requestsDone (jobOf s j) r.vt = true →
    let b := readBlock s ((jobOf s j).image.getD {}) r.vt
    exec (.relocationCopy j gb false) s = .next (if gb || b.1 then goldenLost b.2 j else modJob
      (copyOne false b.2 r) j fun x => { x with go := false, rewriting := true })) ∧
  (∀ s j e, j < 8 → e ∈ s.spr.toSwitch → e.1 = j → standsHeld s j = true → ∃ t,
    exec (.spareSwitch j) s = .next t ∧ (∀ d ∈ t.spr.toSwitch, d.1 ≠ j) ∧
      (jobOf t j).faults.contains .spareSwitch = false) ∧
  (∀ s row i, row < 65536 → repaired s 8 row = false → lowestSpare s 8 row = some i →
    exec (.bedRowSpare true 0 row) s = .next (addRepair s 8 row i)) ∧
  (∀ s bank row, row < 65536 → repaired s 8 row = false → lowestSpare s 8 row = none → ∃ t,
    exec (.bedRowSpare true bank row) s = .next t ∧ row ∈ t.pal.blocksOut ∧
    t = { s with pal := { s.pal with blocksOut := t.pal.blocksOut } }) ∧
  (∀ s bank row i, bank < 4 → row < 2 ^ 21 → repaired s 7 (bank + row * 4) = false →
    lowestSpare s 7 (bank + row * 4) = some i →
    exec (.bedRowSpare false bank row) s = .next (addRepair s 7 (bank + row * 4) i)) ∧
  (∀ s n e ok, s.spr.map[n]? = some e → confirmed e = true → s.spr.fusesUsed < 128 → ∃ t,
    exec (.efuseBurn n ok) s = .next t ∧ t.spr.fusesUsed = s.spr.fusesUsed + 1 ∧
      (ok = true → t.spr.fuses = s.spr.fuses ++ [e] ∧ t.spr.map[n]? = some { e with state := 1 }) ∧
      (ok = false → t.spr.fuses = s.spr.fuses ++ [({} : Repair)] ∧ t.spr.map = s.spr.map) ∧ t = { s with spr := t.spr })

/-- The commands and events of chapter 17. -/
def Obligations.CounterAndCaptureRowsAct : Prop :=
  (∀ s, s.tel.walk < 7680 → s.clk.domainsOn = true → ∃ t, exec (.rollLeaf []) s = .next t ∧ t.tel.walk = s.tel.walk + 1 ∧
    mapGet t.tel.leaves 0 s.tel.walk = 0 ∧ ((rootOf s s.tel.walk).err = 0 → (rootOf s s.tel.walk).valid = true →
      (rootOf s s.tel.walk).sat = false →
      (rootOf s s.tel.walk).value.toNat + mapGet s.tel.leaves 0 s.tel.walk < 2 ^ 48 →
      (rootOf t s.tel.walk).value.toNat =
        (rootOf s s.tel.walk).value.toNat + mapGet s.tel.leaves 0 s.tel.walk)) ∧
  (∀ s, 7680 ≤ s.tel.walk → s.clk.domainsOn = true → ∃ t, exec (.rollLeaf []) s = .next t ∧
    t.tel.walk = (if s.tel.walk + 1 < 8192 then s.tel.walk + 1 else 0) ∧
    t.tel.walkEndUs = (if s.tel.walk + 1 < 8192 then s.tel.walkEndUs else s.nowUs)) ∧
  (∀ s i, i < 7680 → s.clk.domainsOn = true → 32768 ≤ mapGet s.tel.leaves 0 i → exec (.earlyRoll i) s = .next (rollOne s i)) ∧
  (∀ s i n, (rootOf s i).err = 0 → (rootOf s i).valid = true → (rootOf s i).sat = false →
    2 ^ 48 ≤ (rootOf s i).value.toNat + n → rollInto s i n = emitDev (setRoot s i
      { rootOf s i with value := BitVec.allOnes 48, sat := true }) 0x0D01 [(4, i)]) ∧
  (∀ s i n, (rootOf s i).err = 0 → (rootOf s i).sat = true → rollInto s i n = s) ∧
  (∀ s h first count, granted s h 0x0902 = true → rangeOk first count 8192 8192 = true → ∃ t,
    exec (.cmdTelClear h first count) s = .next t ∧
      (∀ i, rootOf t i = if first ≤ i ∧ i < first + count then {} else rootOf s i) ∧
      t.tel.leaves = s.tel.leaves) ∧
  (∀ s h c, granted s h 0x0903 = true → capOn (jobOf s (namedJob h)).capture = false →
    capCfgOk s (namedJob h) c = true → capBytes s (namedJob h) + c.ringBytes ≤ s.mem.regions.capture * 1048576 →
    exec (.cmdCaptureCfg h c) s = .next (answer (modJob s (namedJob h) fun x =>
      { x with capture := { cfg := c } }) h 0x0903 [])) ∧
  (∀ s h, granted s h 0x0904 = true →
    (capOn (jobOf s (namedJob h)).capture = false → (jobOf s (namedJob h)).capture.cfg.ringBytes ≠ 0 →
      exec (.cmdCaptureCtlArm h) s = .next (answer (modJob s (namedJob h) fun x =>
        { x with capture := { cfg := x.capture.cfg, st := .armed } }) h 0x0904 [])) ∧
    ((jobOf s (namedJob h)).capture.st = .armed → ∀ u, exec (.cmdCaptureCtlTrigger h u) s = .next
      (answer (modJob s (namedJob h) fun x => { x with capture := { x.capture with
        cmdAt := some (if u = 0 then firstCycle (jobOf s (namedJob h)) else u) } }) h 0x0904 [])) ∧
    (capOn (jobOf s (namedJob h)).capture = true → ∃ u, exec (.cmdCaptureCtlStop h) s =
      .next (emitJob (answer u h 0x0904 []) 0x0D04 (namedJob h) []) ∧
      (jobOf u (namedJob h)).capture.st = .done ∧ u = { s with jobs := u.jobs }) ∧
    exec (.cmdCaptureCtlDisarm h) s = .next (answer (modJob s (namedJob h) fun x =>
      { x with capture := { cfg := x.capture.cfg } }) h 0x0904 []))
end

