-- ==== Sys2Proof/Laws/State.lean ====
section
/-! SUPPORT. What each update of one record of the state leaves in every field: one lemma per field and
update, so that no proof unfolds an update. -/

namespace Sys2Proof.Machine

/-! ## modMemBlk -/

section
variable (s : State) (f : Mem → Mem)
@[simp] theorem modMemBlk_mem : (modMemBlk s f).mem = f s.mem := rfl
@[simp] theorem modMemBlk_pending : (modMemBlk s f).pending = s.pending := rfl
@[simp] theorem modMemBlk_tiles : (modMemBlk s f).tiles = s.tiles := rfl
@[simp] theorem modMemBlk_tileMap : (modMemBlk s f).tileMap = s.tileMap := rfl
@[simp] theorem modMemBlk_jobs : (modMemBlk s f).jobs = s.jobs := rfl
@[simp] theorem modMemBlk_trigPin : (modMemBlk s f).trigPin = s.trigPin := rfl
@[simp] theorem modMemBlk_load : (modMemBlk s f).load = s.load := rfl
@[simp] theorem modMemBlk_chain : (modMemBlk s f).chain = s.chain := rfl
@[simp] theorem modMemBlk_lp : (modMemBlk s f).lp = s.lp := rfl
@[simp] theorem modMemBlk_pal : (modMemBlk s f).pal = s.pal := rfl
@[simp] theorem modMemBlk_msn : (modMemBlk s f).msn = s.msn := rfl
@[simp] theorem modMemBlk_lry : (modMemBlk s f).lry = s.lry := rfl
@[simp] theorem modMemBlk_arr : (modMemBlk s f).arr = s.arr := rfl
@[simp] theorem modMemBlk_spn : (modMemBlk s f).spn = s.spn := rfl
@[simp] theorem modMemBlk_clk : (modMemBlk s f).clk = s.clk := rfl
@[simp] theorem modMemBlk_rst : (modMemBlk s f).rst = s.rst := rfl
@[simp] theorem modMemBlk_pwr : (modMemBlk s f).pwr = s.pwr := rfl
@[simp] theorem modMemBlk_hv : (modMemBlk s f).hv = s.hv := rfl
@[simp] theorem modMemBlk_hif : (modMemBlk s f).hif = s.hif := rfl
@[simp] theorem modMemBlk_fw : (modMemBlk s f).fw = s.fw := rfl
@[simp] theorem modMemBlk_spr : (modMemBlk s f).spr = s.spr := rfl
@[simp] theorem modMemBlk_tel : (modMemBlk s f).tel = s.tel := rfl
@[simp] theorem modMemBlk_jtag : (modMemBlk s f).jtag = s.jtag := rfl
@[simp] theorem modMemBlk_nowUs : (modMemBlk s f).nowUs = s.nowUs := rfl
@[simp] theorem modMemBlk_sched : (modMemBlk s f).sched = s.sched := rfl
@[simp] theorem modMemBlk_draws : (modMemBlk s f).draws = s.draws := rfl
@[simp] theorem modMemBlk_freeCtr : (modMemBlk s f).freeCtr = s.freeCtr := rfl
@[simp] theorem modMemBlk_out : (modMemBlk s f).out = s.out := rfl
end

/-! ## modLpBlk -/

section
variable (s : State) (f : Lp5x → Lp5x)
@[simp] theorem modLpBlk_lp : (modLpBlk s f).lp = f s.lp := rfl
@[simp] theorem modLpBlk_pending : (modLpBlk s f).pending = s.pending := rfl
@[simp] theorem modLpBlk_tiles : (modLpBlk s f).tiles = s.tiles := rfl
@[simp] theorem modLpBlk_tileMap : (modLpBlk s f).tileMap = s.tileMap := rfl
@[simp] theorem modLpBlk_jobs : (modLpBlk s f).jobs = s.jobs := rfl
@[simp] theorem modLpBlk_trigPin : (modLpBlk s f).trigPin = s.trigPin := rfl
@[simp] theorem modLpBlk_load : (modLpBlk s f).load = s.load := rfl
@[simp] theorem modLpBlk_chain : (modLpBlk s f).chain = s.chain := rfl
@[simp] theorem modLpBlk_mem : (modLpBlk s f).mem = s.mem := rfl
@[simp] theorem modLpBlk_pal : (modLpBlk s f).pal = s.pal := rfl
@[simp] theorem modLpBlk_msn : (modLpBlk s f).msn = s.msn := rfl
@[simp] theorem modLpBlk_lry : (modLpBlk s f).lry = s.lry := rfl
@[simp] theorem modLpBlk_arr : (modLpBlk s f).arr = s.arr := rfl
@[simp] theorem modLpBlk_spn : (modLpBlk s f).spn = s.spn := rfl
@[simp] theorem modLpBlk_clk : (modLpBlk s f).clk = s.clk := rfl
@[simp] theorem modLpBlk_rst : (modLpBlk s f).rst = s.rst := rfl
@[simp] theorem modLpBlk_pwr : (modLpBlk s f).pwr = s.pwr := rfl
@[simp] theorem modLpBlk_hv : (modLpBlk s f).hv = s.hv := rfl
@[simp] theorem modLpBlk_hif : (modLpBlk s f).hif = s.hif := rfl
@[simp] theorem modLpBlk_fw : (modLpBlk s f).fw = s.fw := rfl
@[simp] theorem modLpBlk_spr : (modLpBlk s f).spr = s.spr := rfl
@[simp] theorem modLpBlk_tel : (modLpBlk s f).tel = s.tel := rfl
@[simp] theorem modLpBlk_jtag : (modLpBlk s f).jtag = s.jtag := rfl
@[simp] theorem modLpBlk_nowUs : (modLpBlk s f).nowUs = s.nowUs := rfl
@[simp] theorem modLpBlk_sched : (modLpBlk s f).sched = s.sched := rfl
@[simp] theorem modLpBlk_draws : (modLpBlk s f).draws = s.draws := rfl
@[simp] theorem modLpBlk_freeCtr : (modLpBlk s f).freeCtr = s.freeCtr := rfl
@[simp] theorem modLpBlk_out : (modLpBlk s f).out = s.out := rfl
end

/-! ## modPalBlk -/

section
variable (s : State) (f : Pal → Pal)
@[simp] theorem modPalBlk_pal : (modPalBlk s f).pal = f s.pal := rfl
@[simp] theorem modPalBlk_pending : (modPalBlk s f).pending = s.pending := rfl
@[simp] theorem modPalBlk_tiles : (modPalBlk s f).tiles = s.tiles := rfl
@[simp] theorem modPalBlk_tileMap : (modPalBlk s f).tileMap = s.tileMap := rfl
@[simp] theorem modPalBlk_jobs : (modPalBlk s f).jobs = s.jobs := rfl
@[simp] theorem modPalBlk_trigPin : (modPalBlk s f).trigPin = s.trigPin := rfl
@[simp] theorem modPalBlk_load : (modPalBlk s f).load = s.load := rfl
@[simp] theorem modPalBlk_chain : (modPalBlk s f).chain = s.chain := rfl
@[simp] theorem modPalBlk_mem : (modPalBlk s f).mem = s.mem := rfl
@[simp] theorem modPalBlk_lp : (modPalBlk s f).lp = s.lp := rfl
@[simp] theorem modPalBlk_msn : (modPalBlk s f).msn = s.msn := rfl
@[simp] theorem modPalBlk_lry : (modPalBlk s f).lry = s.lry := rfl
@[simp] theorem modPalBlk_arr : (modPalBlk s f).arr = s.arr := rfl
@[simp] theorem modPalBlk_spn : (modPalBlk s f).spn = s.spn := rfl
@[simp] theorem modPalBlk_clk : (modPalBlk s f).clk = s.clk := rfl
@[simp] theorem modPalBlk_rst : (modPalBlk s f).rst = s.rst := rfl
@[simp] theorem modPalBlk_pwr : (modPalBlk s f).pwr = s.pwr := rfl
@[simp] theorem modPalBlk_hv : (modPalBlk s f).hv = s.hv := rfl
@[simp] theorem modPalBlk_hif : (modPalBlk s f).hif = s.hif := rfl
@[simp] theorem modPalBlk_fw : (modPalBlk s f).fw = s.fw := rfl
@[simp] theorem modPalBlk_spr : (modPalBlk s f).spr = s.spr := rfl
@[simp] theorem modPalBlk_tel : (modPalBlk s f).tel = s.tel := rfl
@[simp] theorem modPalBlk_jtag : (modPalBlk s f).jtag = s.jtag := rfl
@[simp] theorem modPalBlk_nowUs : (modPalBlk s f).nowUs = s.nowUs := rfl
@[simp] theorem modPalBlk_sched : (modPalBlk s f).sched = s.sched := rfl
@[simp] theorem modPalBlk_draws : (modPalBlk s f).draws = s.draws := rfl
@[simp] theorem modPalBlk_freeCtr : (modPalBlk s f).freeCtr = s.freeCtr := rfl
@[simp] theorem modPalBlk_out : (modPalBlk s f).out = s.out := rfl
end

/-! ## modMsnBlk -/

section
variable (s : State) (f : Msn → Msn)
@[simp] theorem modMsnBlk_msn : (modMsnBlk s f).msn = f s.msn := rfl
@[simp] theorem modMsnBlk_pending : (modMsnBlk s f).pending = s.pending := rfl
@[simp] theorem modMsnBlk_tiles : (modMsnBlk s f).tiles = s.tiles := rfl
@[simp] theorem modMsnBlk_tileMap : (modMsnBlk s f).tileMap = s.tileMap := rfl
@[simp] theorem modMsnBlk_jobs : (modMsnBlk s f).jobs = s.jobs := rfl
@[simp] theorem modMsnBlk_trigPin : (modMsnBlk s f).trigPin = s.trigPin := rfl
@[simp] theorem modMsnBlk_load : (modMsnBlk s f).load = s.load := rfl
@[simp] theorem modMsnBlk_chain : (modMsnBlk s f).chain = s.chain := rfl
@[simp] theorem modMsnBlk_mem : (modMsnBlk s f).mem = s.mem := rfl
@[simp] theorem modMsnBlk_lp : (modMsnBlk s f).lp = s.lp := rfl
@[simp] theorem modMsnBlk_pal : (modMsnBlk s f).pal = s.pal := rfl
@[simp] theorem modMsnBlk_lry : (modMsnBlk s f).lry = s.lry := rfl
@[simp] theorem modMsnBlk_arr : (modMsnBlk s f).arr = s.arr := rfl
@[simp] theorem modMsnBlk_spn : (modMsnBlk s f).spn = s.spn := rfl
@[simp] theorem modMsnBlk_clk : (modMsnBlk s f).clk = s.clk := rfl
@[simp] theorem modMsnBlk_rst : (modMsnBlk s f).rst = s.rst := rfl
@[simp] theorem modMsnBlk_pwr : (modMsnBlk s f).pwr = s.pwr := rfl
@[simp] theorem modMsnBlk_hv : (modMsnBlk s f).hv = s.hv := rfl
@[simp] theorem modMsnBlk_hif : (modMsnBlk s f).hif = s.hif := rfl
@[simp] theorem modMsnBlk_fw : (modMsnBlk s f).fw = s.fw := rfl
@[simp] theorem modMsnBlk_spr : (modMsnBlk s f).spr = s.spr := rfl
@[simp] theorem modMsnBlk_tel : (modMsnBlk s f).tel = s.tel := rfl
@[simp] theorem modMsnBlk_jtag : (modMsnBlk s f).jtag = s.jtag := rfl
@[simp] theorem modMsnBlk_nowUs : (modMsnBlk s f).nowUs = s.nowUs := rfl
@[simp] theorem modMsnBlk_sched : (modMsnBlk s f).sched = s.sched := rfl
@[simp] theorem modMsnBlk_draws : (modMsnBlk s f).draws = s.draws := rfl
@[simp] theorem modMsnBlk_freeCtr : (modMsnBlk s f).freeCtr = s.freeCtr := rfl
@[simp] theorem modMsnBlk_out : (modMsnBlk s f).out = s.out := rfl
end

/-! ## modLryBlk -/

section
variable (s : State) (f : Larey → Larey)
@[simp] theorem modLryBlk_lry : (modLryBlk s f).lry = f s.lry := rfl
@[simp] theorem modLryBlk_pending : (modLryBlk s f).pending = s.pending := rfl
@[simp] theorem modLryBlk_tiles : (modLryBlk s f).tiles = s.tiles := rfl
@[simp] theorem modLryBlk_tileMap : (modLryBlk s f).tileMap = s.tileMap := rfl
@[simp] theorem modLryBlk_jobs : (modLryBlk s f).jobs = s.jobs := rfl
@[simp] theorem modLryBlk_trigPin : (modLryBlk s f).trigPin = s.trigPin := rfl
@[simp] theorem modLryBlk_load : (modLryBlk s f).load = s.load := rfl
@[simp] theorem modLryBlk_chain : (modLryBlk s f).chain = s.chain := rfl
@[simp] theorem modLryBlk_mem : (modLryBlk s f).mem = s.mem := rfl
@[simp] theorem modLryBlk_lp : (modLryBlk s f).lp = s.lp := rfl
@[simp] theorem modLryBlk_pal : (modLryBlk s f).pal = s.pal := rfl
@[simp] theorem modLryBlk_msn : (modLryBlk s f).msn = s.msn := rfl
@[simp] theorem modLryBlk_arr : (modLryBlk s f).arr = s.arr := rfl
@[simp] theorem modLryBlk_spn : (modLryBlk s f).spn = s.spn := rfl
@[simp] theorem modLryBlk_clk : (modLryBlk s f).clk = s.clk := rfl
@[simp] theorem modLryBlk_rst : (modLryBlk s f).rst = s.rst := rfl
@[simp] theorem modLryBlk_pwr : (modLryBlk s f).pwr = s.pwr := rfl
@[simp] theorem modLryBlk_hv : (modLryBlk s f).hv = s.hv := rfl
@[simp] theorem modLryBlk_hif : (modLryBlk s f).hif = s.hif := rfl
@[simp] theorem modLryBlk_fw : (modLryBlk s f).fw = s.fw := rfl
@[simp] theorem modLryBlk_spr : (modLryBlk s f).spr = s.spr := rfl
@[simp] theorem modLryBlk_tel : (modLryBlk s f).tel = s.tel := rfl
@[simp] theorem modLryBlk_jtag : (modLryBlk s f).jtag = s.jtag := rfl
@[simp] theorem modLryBlk_nowUs : (modLryBlk s f).nowUs = s.nowUs := rfl
@[simp] theorem modLryBlk_sched : (modLryBlk s f).sched = s.sched := rfl
@[simp] theorem modLryBlk_draws : (modLryBlk s f).draws = s.draws := rfl
@[simp] theorem modLryBlk_freeCtr : (modLryBlk s f).freeCtr = s.freeCtr := rfl
@[simp] theorem modLryBlk_out : (modLryBlk s f).out = s.out := rfl
end

/-! ## modArrBlk -/

section
variable (s : State) (f : Arr → Arr)
@[simp] theorem modArrBlk_arr : (modArrBlk s f).arr = f s.arr := rfl
@[simp] theorem modArrBlk_pending : (modArrBlk s f).pending = s.pending := rfl
@[simp] theorem modArrBlk_tiles : (modArrBlk s f).tiles = s.tiles := rfl
@[simp] theorem modArrBlk_tileMap : (modArrBlk s f).tileMap = s.tileMap := rfl
@[simp] theorem modArrBlk_jobs : (modArrBlk s f).jobs = s.jobs := rfl
@[simp] theorem modArrBlk_trigPin : (modArrBlk s f).trigPin = s.trigPin := rfl
@[simp] theorem modArrBlk_load : (modArrBlk s f).load = s.load := rfl
@[simp] theorem modArrBlk_chain : (modArrBlk s f).chain = s.chain := rfl
@[simp] theorem modArrBlk_mem : (modArrBlk s f).mem = s.mem := rfl
@[simp] theorem modArrBlk_lp : (modArrBlk s f).lp = s.lp := rfl
@[simp] theorem modArrBlk_pal : (modArrBlk s f).pal = s.pal := rfl
@[simp] theorem modArrBlk_msn : (modArrBlk s f).msn = s.msn := rfl
@[simp] theorem modArrBlk_lry : (modArrBlk s f).lry = s.lry := rfl
@[simp] theorem modArrBlk_spn : (modArrBlk s f).spn = s.spn := rfl
@[simp] theorem modArrBlk_clk : (modArrBlk s f).clk = s.clk := rfl
@[simp] theorem modArrBlk_rst : (modArrBlk s f).rst = s.rst := rfl
@[simp] theorem modArrBlk_pwr : (modArrBlk s f).pwr = s.pwr := rfl
@[simp] theorem modArrBlk_hv : (modArrBlk s f).hv = s.hv := rfl
@[simp] theorem modArrBlk_hif : (modArrBlk s f).hif = s.hif := rfl
@[simp] theorem modArrBlk_fw : (modArrBlk s f).fw = s.fw := rfl
@[simp] theorem modArrBlk_spr : (modArrBlk s f).spr = s.spr := rfl
@[simp] theorem modArrBlk_tel : (modArrBlk s f).tel = s.tel := rfl
@[simp] theorem modArrBlk_jtag : (modArrBlk s f).jtag = s.jtag := rfl
@[simp] theorem modArrBlk_nowUs : (modArrBlk s f).nowUs = s.nowUs := rfl
@[simp] theorem modArrBlk_sched : (modArrBlk s f).sched = s.sched := rfl
@[simp] theorem modArrBlk_draws : (modArrBlk s f).draws = s.draws := rfl
@[simp] theorem modArrBlk_freeCtr : (modArrBlk s f).freeCtr = s.freeCtr := rfl
@[simp] theorem modArrBlk_out : (modArrBlk s f).out = s.out := rfl
end

/-! ## modSpnBlk -/

section
variable (s : State) (f : Spn → Spn)
@[simp] theorem modSpnBlk_spn : (modSpnBlk s f).spn = f s.spn := rfl
@[simp] theorem modSpnBlk_pending : (modSpnBlk s f).pending = s.pending := rfl
@[simp] theorem modSpnBlk_tiles : (modSpnBlk s f).tiles = s.tiles := rfl
@[simp] theorem modSpnBlk_tileMap : (modSpnBlk s f).tileMap = s.tileMap := rfl
@[simp] theorem modSpnBlk_jobs : (modSpnBlk s f).jobs = s.jobs := rfl
@[simp] theorem modSpnBlk_trigPin : (modSpnBlk s f).trigPin = s.trigPin := rfl
@[simp] theorem modSpnBlk_load : (modSpnBlk s f).load = s.load := rfl
@[simp] theorem modSpnBlk_chain : (modSpnBlk s f).chain = s.chain := rfl
@[simp] theorem modSpnBlk_mem : (modSpnBlk s f).mem = s.mem := rfl
@[simp] theorem modSpnBlk_lp : (modSpnBlk s f).lp = s.lp := rfl
@[simp] theorem modSpnBlk_pal : (modSpnBlk s f).pal = s.pal := rfl
@[simp] theorem modSpnBlk_msn : (modSpnBlk s f).msn = s.msn := rfl
@[simp] theorem modSpnBlk_lry : (modSpnBlk s f).lry = s.lry := rfl
@[simp] theorem modSpnBlk_arr : (modSpnBlk s f).arr = s.arr := rfl
@[simp] theorem modSpnBlk_clk : (modSpnBlk s f).clk = s.clk := rfl
@[simp] theorem modSpnBlk_rst : (modSpnBlk s f).rst = s.rst := rfl
@[simp] theorem modSpnBlk_pwr : (modSpnBlk s f).pwr = s.pwr := rfl
@[simp] theorem modSpnBlk_hv : (modSpnBlk s f).hv = s.hv := rfl
@[simp] theorem modSpnBlk_hif : (modSpnBlk s f).hif = s.hif := rfl
@[simp] theorem modSpnBlk_fw : (modSpnBlk s f).fw = s.fw := rfl
@[simp] theorem modSpnBlk_spr : (modSpnBlk s f).spr = s.spr := rfl
@[simp] theorem modSpnBlk_tel : (modSpnBlk s f).tel = s.tel := rfl
@[simp] theorem modSpnBlk_jtag : (modSpnBlk s f).jtag = s.jtag := rfl
@[simp] theorem modSpnBlk_nowUs : (modSpnBlk s f).nowUs = s.nowUs := rfl
@[simp] theorem modSpnBlk_sched : (modSpnBlk s f).sched = s.sched := rfl
@[simp] theorem modSpnBlk_draws : (modSpnBlk s f).draws = s.draws := rfl
@[simp] theorem modSpnBlk_freeCtr : (modSpnBlk s f).freeCtr = s.freeCtr := rfl
@[simp] theorem modSpnBlk_out : (modSpnBlk s f).out = s.out := rfl
end

/-! ## modClkBlk -/

section
variable (s : State) (f : Clk → Clk)
@[simp] theorem modClkBlk_clk : (modClkBlk s f).clk = f s.clk := rfl
@[simp] theorem modClkBlk_pending : (modClkBlk s f).pending = s.pending := rfl
@[simp] theorem modClkBlk_tiles : (modClkBlk s f).tiles = s.tiles := rfl
@[simp] theorem modClkBlk_tileMap : (modClkBlk s f).tileMap = s.tileMap := rfl
@[simp] theorem modClkBlk_jobs : (modClkBlk s f).jobs = s.jobs := rfl
@[simp] theorem modClkBlk_trigPin : (modClkBlk s f).trigPin = s.trigPin := rfl
@[simp] theorem modClkBlk_load : (modClkBlk s f).load = s.load := rfl
@[simp] theorem modClkBlk_chain : (modClkBlk s f).chain = s.chain := rfl
@[simp] theorem modClkBlk_mem : (modClkBlk s f).mem = s.mem := rfl
@[simp] theorem modClkBlk_lp : (modClkBlk s f).lp = s.lp := rfl
@[simp] theorem modClkBlk_pal : (modClkBlk s f).pal = s.pal := rfl
@[simp] theorem modClkBlk_msn : (modClkBlk s f).msn = s.msn := rfl
@[simp] theorem modClkBlk_lry : (modClkBlk s f).lry = s.lry := rfl
@[simp] theorem modClkBlk_arr : (modClkBlk s f).arr = s.arr := rfl
@[simp] theorem modClkBlk_spn : (modClkBlk s f).spn = s.spn := rfl
@[simp] theorem modClkBlk_rst : (modClkBlk s f).rst = s.rst := rfl
@[simp] theorem modClkBlk_pwr : (modClkBlk s f).pwr = s.pwr := rfl
@[simp] theorem modClkBlk_hv : (modClkBlk s f).hv = s.hv := rfl
@[simp] theorem modClkBlk_hif : (modClkBlk s f).hif = s.hif := rfl
@[simp] theorem modClkBlk_fw : (modClkBlk s f).fw = s.fw := rfl
@[simp] theorem modClkBlk_spr : (modClkBlk s f).spr = s.spr := rfl
@[simp] theorem modClkBlk_tel : (modClkBlk s f).tel = s.tel := rfl
@[simp] theorem modClkBlk_jtag : (modClkBlk s f).jtag = s.jtag := rfl
@[simp] theorem modClkBlk_nowUs : (modClkBlk s f).nowUs = s.nowUs := rfl
@[simp] theorem modClkBlk_sched : (modClkBlk s f).sched = s.sched := rfl
@[simp] theorem modClkBlk_draws : (modClkBlk s f).draws = s.draws := rfl
@[simp] theorem modClkBlk_freeCtr : (modClkBlk s f).freeCtr = s.freeCtr := rfl
@[simp] theorem modClkBlk_out : (modClkBlk s f).out = s.out := rfl
end

/-! ## modRstBlk -/

section
variable (s : State) (f : Rst → Rst)
@[simp] theorem modRstBlk_rst : (modRstBlk s f).rst = f s.rst := rfl
@[simp] theorem modRstBlk_pending : (modRstBlk s f).pending = s.pending := rfl
@[simp] theorem modRstBlk_tiles : (modRstBlk s f).tiles = s.tiles := rfl
@[simp] theorem modRstBlk_tileMap : (modRstBlk s f).tileMap = s.tileMap := rfl
@[simp] theorem modRstBlk_jobs : (modRstBlk s f).jobs = s.jobs := rfl
@[simp] theorem modRstBlk_trigPin : (modRstBlk s f).trigPin = s.trigPin := rfl
@[simp] theorem modRstBlk_load : (modRstBlk s f).load = s.load := rfl
@[simp] theorem modRstBlk_chain : (modRstBlk s f).chain = s.chain := rfl
@[simp] theorem modRstBlk_mem : (modRstBlk s f).mem = s.mem := rfl
@[simp] theorem modRstBlk_lp : (modRstBlk s f).lp = s.lp := rfl
@[simp] theorem modRstBlk_pal : (modRstBlk s f).pal = s.pal := rfl
@[simp] theorem modRstBlk_msn : (modRstBlk s f).msn = s.msn := rfl
@[simp] theorem modRstBlk_lry : (modRstBlk s f).lry = s.lry := rfl
@[simp] theorem modRstBlk_arr : (modRstBlk s f).arr = s.arr := rfl
@[simp] theorem modRstBlk_spn : (modRstBlk s f).spn = s.spn := rfl
@[simp] theorem modRstBlk_clk : (modRstBlk s f).clk = s.clk := rfl
@[simp] theorem modRstBlk_pwr : (modRstBlk s f).pwr = s.pwr := rfl
@[simp] theorem modRstBlk_hv : (modRstBlk s f).hv = s.hv := rfl
@[simp] theorem modRstBlk_hif : (modRstBlk s f).hif = s.hif := rfl
@[simp] theorem modRstBlk_fw : (modRstBlk s f).fw = s.fw := rfl
@[simp] theorem modRstBlk_spr : (modRstBlk s f).spr = s.spr := rfl
@[simp] theorem modRstBlk_tel : (modRstBlk s f).tel = s.tel := rfl
@[simp] theorem modRstBlk_jtag : (modRstBlk s f).jtag = s.jtag := rfl
@[simp] theorem modRstBlk_nowUs : (modRstBlk s f).nowUs = s.nowUs := rfl
@[simp] theorem modRstBlk_sched : (modRstBlk s f).sched = s.sched := rfl
@[simp] theorem modRstBlk_draws : (modRstBlk s f).draws = s.draws := rfl
@[simp] theorem modRstBlk_freeCtr : (modRstBlk s f).freeCtr = s.freeCtr := rfl
@[simp] theorem modRstBlk_out : (modRstBlk s f).out = s.out := rfl
end

/-! ## modPwrBlk -/

section
variable (s : State) (f : Pwr → Pwr)
@[simp] theorem modPwrBlk_pwr : (modPwrBlk s f).pwr = f s.pwr := rfl
@[simp] theorem modPwrBlk_pending : (modPwrBlk s f).pending = s.pending := rfl
@[simp] theorem modPwrBlk_tiles : (modPwrBlk s f).tiles = s.tiles := rfl
@[simp] theorem modPwrBlk_tileMap : (modPwrBlk s f).tileMap = s.tileMap := rfl
@[simp] theorem modPwrBlk_jobs : (modPwrBlk s f).jobs = s.jobs := rfl
@[simp] theorem modPwrBlk_trigPin : (modPwrBlk s f).trigPin = s.trigPin := rfl
@[simp] theorem modPwrBlk_load : (modPwrBlk s f).load = s.load := rfl
@[simp] theorem modPwrBlk_chain : (modPwrBlk s f).chain = s.chain := rfl
@[simp] theorem modPwrBlk_mem : (modPwrBlk s f).mem = s.mem := rfl
@[simp] theorem modPwrBlk_lp : (modPwrBlk s f).lp = s.lp := rfl
@[simp] theorem modPwrBlk_pal : (modPwrBlk s f).pal = s.pal := rfl
@[simp] theorem modPwrBlk_msn : (modPwrBlk s f).msn = s.msn := rfl
@[simp] theorem modPwrBlk_lry : (modPwrBlk s f).lry = s.lry := rfl
@[simp] theorem modPwrBlk_arr : (modPwrBlk s f).arr = s.arr := rfl
@[simp] theorem modPwrBlk_spn : (modPwrBlk s f).spn = s.spn := rfl
@[simp] theorem modPwrBlk_clk : (modPwrBlk s f).clk = s.clk := rfl
@[simp] theorem modPwrBlk_rst : (modPwrBlk s f).rst = s.rst := rfl
@[simp] theorem modPwrBlk_hv : (modPwrBlk s f).hv = s.hv := rfl
@[simp] theorem modPwrBlk_hif : (modPwrBlk s f).hif = s.hif := rfl
@[simp] theorem modPwrBlk_fw : (modPwrBlk s f).fw = s.fw := rfl
@[simp] theorem modPwrBlk_spr : (modPwrBlk s f).spr = s.spr := rfl
@[simp] theorem modPwrBlk_tel : (modPwrBlk s f).tel = s.tel := rfl
@[simp] theorem modPwrBlk_jtag : (modPwrBlk s f).jtag = s.jtag := rfl
@[simp] theorem modPwrBlk_nowUs : (modPwrBlk s f).nowUs = s.nowUs := rfl
@[simp] theorem modPwrBlk_sched : (modPwrBlk s f).sched = s.sched := rfl
@[simp] theorem modPwrBlk_draws : (modPwrBlk s f).draws = s.draws := rfl
@[simp] theorem modPwrBlk_freeCtr : (modPwrBlk s f).freeCtr = s.freeCtr := rfl
@[simp] theorem modPwrBlk_out : (modPwrBlk s f).out = s.out := rfl
end

/-! ## modHvBlk -/

section
variable (s : State) (f : Hv → Hv)
@[simp] theorem modHvBlk_hv : (modHvBlk s f).hv = f s.hv := rfl
@[simp] theorem modHvBlk_pending : (modHvBlk s f).pending = s.pending := rfl
@[simp] theorem modHvBlk_tiles : (modHvBlk s f).tiles = s.tiles := rfl
@[simp] theorem modHvBlk_tileMap : (modHvBlk s f).tileMap = s.tileMap := rfl
@[simp] theorem modHvBlk_jobs : (modHvBlk s f).jobs = s.jobs := rfl
@[simp] theorem modHvBlk_trigPin : (modHvBlk s f).trigPin = s.trigPin := rfl
@[simp] theorem modHvBlk_load : (modHvBlk s f).load = s.load := rfl
@[simp] theorem modHvBlk_chain : (modHvBlk s f).chain = s.chain := rfl
@[simp] theorem modHvBlk_mem : (modHvBlk s f).mem = s.mem := rfl
@[simp] theorem modHvBlk_lp : (modHvBlk s f).lp = s.lp := rfl
@[simp] theorem modHvBlk_pal : (modHvBlk s f).pal = s.pal := rfl
@[simp] theorem modHvBlk_msn : (modHvBlk s f).msn = s.msn := rfl
@[simp] theorem modHvBlk_lry : (modHvBlk s f).lry = s.lry := rfl
@[simp] theorem modHvBlk_arr : (modHvBlk s f).arr = s.arr := rfl
@[simp] theorem modHvBlk_spn : (modHvBlk s f).spn = s.spn := rfl
@[simp] theorem modHvBlk_clk : (modHvBlk s f).clk = s.clk := rfl
@[simp] theorem modHvBlk_rst : (modHvBlk s f).rst = s.rst := rfl
@[simp] theorem modHvBlk_pwr : (modHvBlk s f).pwr = s.pwr := rfl
@[simp] theorem modHvBlk_hif : (modHvBlk s f).hif = s.hif := rfl
@[simp] theorem modHvBlk_fw : (modHvBlk s f).fw = s.fw := rfl
@[simp] theorem modHvBlk_spr : (modHvBlk s f).spr = s.spr := rfl
@[simp] theorem modHvBlk_tel : (modHvBlk s f).tel = s.tel := rfl
@[simp] theorem modHvBlk_jtag : (modHvBlk s f).jtag = s.jtag := rfl
@[simp] theorem modHvBlk_nowUs : (modHvBlk s f).nowUs = s.nowUs := rfl
@[simp] theorem modHvBlk_sched : (modHvBlk s f).sched = s.sched := rfl
@[simp] theorem modHvBlk_draws : (modHvBlk s f).draws = s.draws := rfl
@[simp] theorem modHvBlk_freeCtr : (modHvBlk s f).freeCtr = s.freeCtr := rfl
@[simp] theorem modHvBlk_out : (modHvBlk s f).out = s.out := rfl
end

/-! ## modHifBlk -/

section
variable (s : State) (f : HostIf → HostIf)
@[simp] theorem modHifBlk_hif : (modHifBlk s f).hif = f s.hif := rfl
@[simp] theorem modHifBlk_pending : (modHifBlk s f).pending = s.pending := rfl
@[simp] theorem modHifBlk_tiles : (modHifBlk s f).tiles = s.tiles := rfl
@[simp] theorem modHifBlk_tileMap : (modHifBlk s f).tileMap = s.tileMap := rfl
@[simp] theorem modHifBlk_jobs : (modHifBlk s f).jobs = s.jobs := rfl
@[simp] theorem modHifBlk_trigPin : (modHifBlk s f).trigPin = s.trigPin := rfl
@[simp] theorem modHifBlk_load : (modHifBlk s f).load = s.load := rfl
@[simp] theorem modHifBlk_chain : (modHifBlk s f).chain = s.chain := rfl
@[simp] theorem modHifBlk_mem : (modHifBlk s f).mem = s.mem := rfl
@[simp] theorem modHifBlk_lp : (modHifBlk s f).lp = s.lp := rfl
@[simp] theorem modHifBlk_pal : (modHifBlk s f).pal = s.pal := rfl
@[simp] theorem modHifBlk_msn : (modHifBlk s f).msn = s.msn := rfl
@[simp] theorem modHifBlk_lry : (modHifBlk s f).lry = s.lry := rfl
@[simp] theorem modHifBlk_arr : (modHifBlk s f).arr = s.arr := rfl
@[simp] theorem modHifBlk_spn : (modHifBlk s f).spn = s.spn := rfl
@[simp] theorem modHifBlk_clk : (modHifBlk s f).clk = s.clk := rfl
@[simp] theorem modHifBlk_rst : (modHifBlk s f).rst = s.rst := rfl
@[simp] theorem modHifBlk_pwr : (modHifBlk s f).pwr = s.pwr := rfl
@[simp] theorem modHifBlk_hv : (modHifBlk s f).hv = s.hv := rfl
@[simp] theorem modHifBlk_fw : (modHifBlk s f).fw = s.fw := rfl
@[simp] theorem modHifBlk_spr : (modHifBlk s f).spr = s.spr := rfl
@[simp] theorem modHifBlk_tel : (modHifBlk s f).tel = s.tel := rfl
@[simp] theorem modHifBlk_jtag : (modHifBlk s f).jtag = s.jtag := rfl
@[simp] theorem modHifBlk_nowUs : (modHifBlk s f).nowUs = s.nowUs := rfl
@[simp] theorem modHifBlk_sched : (modHifBlk s f).sched = s.sched := rfl
@[simp] theorem modHifBlk_draws : (modHifBlk s f).draws = s.draws := rfl
@[simp] theorem modHifBlk_freeCtr : (modHifBlk s f).freeCtr = s.freeCtr := rfl
@[simp] theorem modHifBlk_out : (modHifBlk s f).out = s.out := rfl
end

/-! ## modFwBlk -/

section
variable (s : State) (f : Fw → Fw)
@[simp] theorem modFwBlk_fw : (modFwBlk s f).fw = f s.fw := rfl
@[simp] theorem modFwBlk_pending : (modFwBlk s f).pending = s.pending := rfl
@[simp] theorem modFwBlk_tiles : (modFwBlk s f).tiles = s.tiles := rfl
@[simp] theorem modFwBlk_tileMap : (modFwBlk s f).tileMap = s.tileMap := rfl
@[simp] theorem modFwBlk_jobs : (modFwBlk s f).jobs = s.jobs := rfl
@[simp] theorem modFwBlk_trigPin : (modFwBlk s f).trigPin = s.trigPin := rfl
@[simp] theorem modFwBlk_load : (modFwBlk s f).load = s.load := rfl
@[simp] theorem modFwBlk_chain : (modFwBlk s f).chain = s.chain := rfl
@[simp] theorem modFwBlk_mem : (modFwBlk s f).mem = s.mem := rfl
@[simp] theorem modFwBlk_lp : (modFwBlk s f).lp = s.lp := rfl
@[simp] theorem modFwBlk_pal : (modFwBlk s f).pal = s.pal := rfl
@[simp] theorem modFwBlk_msn : (modFwBlk s f).msn = s.msn := rfl
@[simp] theorem modFwBlk_lry : (modFwBlk s f).lry = s.lry := rfl
@[simp] theorem modFwBlk_arr : (modFwBlk s f).arr = s.arr := rfl
@[simp] theorem modFwBlk_spn : (modFwBlk s f).spn = s.spn := rfl
@[simp] theorem modFwBlk_clk : (modFwBlk s f).clk = s.clk := rfl
@[simp] theorem modFwBlk_rst : (modFwBlk s f).rst = s.rst := rfl
@[simp] theorem modFwBlk_pwr : (modFwBlk s f).pwr = s.pwr := rfl
@[simp] theorem modFwBlk_hv : (modFwBlk s f).hv = s.hv := rfl
@[simp] theorem modFwBlk_hif : (modFwBlk s f).hif = s.hif := rfl
@[simp] theorem modFwBlk_spr : (modFwBlk s f).spr = s.spr := rfl
@[simp] theorem modFwBlk_tel : (modFwBlk s f).tel = s.tel := rfl
@[simp] theorem modFwBlk_jtag : (modFwBlk s f).jtag = s.jtag := rfl
@[simp] theorem modFwBlk_nowUs : (modFwBlk s f).nowUs = s.nowUs := rfl
@[simp] theorem modFwBlk_sched : (modFwBlk s f).sched = s.sched := rfl
@[simp] theorem modFwBlk_draws : (modFwBlk s f).draws = s.draws := rfl
@[simp] theorem modFwBlk_freeCtr : (modFwBlk s f).freeCtr = s.freeCtr := rfl
@[simp] theorem modFwBlk_out : (modFwBlk s f).out = s.out := rfl
end

/-! ## modSprBlk -/

section
variable (s : State) (f : Spares → Spares)
@[simp] theorem modSprBlk_spr : (modSprBlk s f).spr = f s.spr := rfl
@[simp] theorem modSprBlk_pending : (modSprBlk s f).pending = s.pending := rfl
@[simp] theorem modSprBlk_tiles : (modSprBlk s f).tiles = s.tiles := rfl
@[simp] theorem modSprBlk_tileMap : (modSprBlk s f).tileMap = s.tileMap := rfl
@[simp] theorem modSprBlk_jobs : (modSprBlk s f).jobs = s.jobs := rfl
@[simp] theorem modSprBlk_trigPin : (modSprBlk s f).trigPin = s.trigPin := rfl
@[simp] theorem modSprBlk_load : (modSprBlk s f).load = s.load := rfl
@[simp] theorem modSprBlk_chain : (modSprBlk s f).chain = s.chain := rfl
@[simp] theorem modSprBlk_mem : (modSprBlk s f).mem = s.mem := rfl
@[simp] theorem modSprBlk_lp : (modSprBlk s f).lp = s.lp := rfl
@[simp] theorem modSprBlk_pal : (modSprBlk s f).pal = s.pal := rfl
@[simp] theorem modSprBlk_msn : (modSprBlk s f).msn = s.msn := rfl
@[simp] theorem modSprBlk_lry : (modSprBlk s f).lry = s.lry := rfl
@[simp] theorem modSprBlk_arr : (modSprBlk s f).arr = s.arr := rfl
@[simp] theorem modSprBlk_spn : (modSprBlk s f).spn = s.spn := rfl
@[simp] theorem modSprBlk_clk : (modSprBlk s f).clk = s.clk := rfl
@[simp] theorem modSprBlk_rst : (modSprBlk s f).rst = s.rst := rfl
@[simp] theorem modSprBlk_pwr : (modSprBlk s f).pwr = s.pwr := rfl
@[simp] theorem modSprBlk_hv : (modSprBlk s f).hv = s.hv := rfl
@[simp] theorem modSprBlk_hif : (modSprBlk s f).hif = s.hif := rfl
@[simp] theorem modSprBlk_fw : (modSprBlk s f).fw = s.fw := rfl
@[simp] theorem modSprBlk_tel : (modSprBlk s f).tel = s.tel := rfl
@[simp] theorem modSprBlk_jtag : (modSprBlk s f).jtag = s.jtag := rfl
@[simp] theorem modSprBlk_nowUs : (modSprBlk s f).nowUs = s.nowUs := rfl
@[simp] theorem modSprBlk_sched : (modSprBlk s f).sched = s.sched := rfl
@[simp] theorem modSprBlk_draws : (modSprBlk s f).draws = s.draws := rfl
@[simp] theorem modSprBlk_freeCtr : (modSprBlk s f).freeCtr = s.freeCtr := rfl
@[simp] theorem modSprBlk_out : (modSprBlk s f).out = s.out := rfl
end

/-! ## modTelBlk -/

section
variable (s : State) (f : Tel → Tel)
@[simp] theorem modTelBlk_tel : (modTelBlk s f).tel = f s.tel := rfl
@[simp] theorem modTelBlk_pending : (modTelBlk s f).pending = s.pending := rfl
@[simp] theorem modTelBlk_tiles : (modTelBlk s f).tiles = s.tiles := rfl
@[simp] theorem modTelBlk_tileMap : (modTelBlk s f).tileMap = s.tileMap := rfl
@[simp] theorem modTelBlk_jobs : (modTelBlk s f).jobs = s.jobs := rfl
@[simp] theorem modTelBlk_trigPin : (modTelBlk s f).trigPin = s.trigPin := rfl
@[simp] theorem modTelBlk_load : (modTelBlk s f).load = s.load := rfl
@[simp] theorem modTelBlk_chain : (modTelBlk s f).chain = s.chain := rfl
@[simp] theorem modTelBlk_mem : (modTelBlk s f).mem = s.mem := rfl
@[simp] theorem modTelBlk_lp : (modTelBlk s f).lp = s.lp := rfl
@[simp] theorem modTelBlk_pal : (modTelBlk s f).pal = s.pal := rfl
@[simp] theorem modTelBlk_msn : (modTelBlk s f).msn = s.msn := rfl
@[simp] theorem modTelBlk_lry : (modTelBlk s f).lry = s.lry := rfl
@[simp] theorem modTelBlk_arr : (modTelBlk s f).arr = s.arr := rfl
@[simp] theorem modTelBlk_spn : (modTelBlk s f).spn = s.spn := rfl
@[simp] theorem modTelBlk_clk : (modTelBlk s f).clk = s.clk := rfl
@[simp] theorem modTelBlk_rst : (modTelBlk s f).rst = s.rst := rfl
@[simp] theorem modTelBlk_pwr : (modTelBlk s f).pwr = s.pwr := rfl
@[simp] theorem modTelBlk_hv : (modTelBlk s f).hv = s.hv := rfl
@[simp] theorem modTelBlk_hif : (modTelBlk s f).hif = s.hif := rfl
@[simp] theorem modTelBlk_fw : (modTelBlk s f).fw = s.fw := rfl
@[simp] theorem modTelBlk_spr : (modTelBlk s f).spr = s.spr := rfl
@[simp] theorem modTelBlk_jtag : (modTelBlk s f).jtag = s.jtag := rfl
@[simp] theorem modTelBlk_nowUs : (modTelBlk s f).nowUs = s.nowUs := rfl
@[simp] theorem modTelBlk_sched : (modTelBlk s f).sched = s.sched := rfl
@[simp] theorem modTelBlk_draws : (modTelBlk s f).draws = s.draws := rfl
@[simp] theorem modTelBlk_freeCtr : (modTelBlk s f).freeCtr = s.freeCtr := rfl
@[simp] theorem modTelBlk_out : (modTelBlk s f).out = s.out := rfl
end

/-! ## setJob -/

section
variable (s : State) (k : Nat) (v : Job)
@[simp] theorem setJob_jobs : (setJob s k v).jobs = mapPut s.jobs {} k v := rfl
@[simp] theorem setJob_pending : (setJob s k v).pending = s.pending := rfl
@[simp] theorem setJob_tiles : (setJob s k v).tiles = s.tiles := rfl
@[simp] theorem setJob_tileMap : (setJob s k v).tileMap = s.tileMap := rfl
@[simp] theorem setJob_trigPin : (setJob s k v).trigPin = s.trigPin := rfl
@[simp] theorem setJob_load : (setJob s k v).load = s.load := rfl
@[simp] theorem setJob_chain : (setJob s k v).chain = s.chain := rfl
@[simp] theorem setJob_mem : (setJob s k v).mem = s.mem := rfl
@[simp] theorem setJob_lp : (setJob s k v).lp = s.lp := rfl
@[simp] theorem setJob_pal : (setJob s k v).pal = s.pal := rfl
@[simp] theorem setJob_msn : (setJob s k v).msn = s.msn := rfl
@[simp] theorem setJob_lry : (setJob s k v).lry = s.lry := rfl
@[simp] theorem setJob_arr : (setJob s k v).arr = s.arr := rfl
@[simp] theorem setJob_spn : (setJob s k v).spn = s.spn := rfl
@[simp] theorem setJob_clk : (setJob s k v).clk = s.clk := rfl
@[simp] theorem setJob_rst : (setJob s k v).rst = s.rst := rfl
@[simp] theorem setJob_pwr : (setJob s k v).pwr = s.pwr := rfl
@[simp] theorem setJob_hv : (setJob s k v).hv = s.hv := rfl
@[simp] theorem setJob_hif : (setJob s k v).hif = s.hif := rfl
@[simp] theorem setJob_fw : (setJob s k v).fw = s.fw := rfl
@[simp] theorem setJob_spr : (setJob s k v).spr = s.spr := rfl
@[simp] theorem setJob_tel : (setJob s k v).tel = s.tel := rfl
@[simp] theorem setJob_jtag : (setJob s k v).jtag = s.jtag := rfl
@[simp] theorem setJob_nowUs : (setJob s k v).nowUs = s.nowUs := rfl
@[simp] theorem setJob_sched : (setJob s k v).sched = s.sched := rfl
@[simp] theorem setJob_draws : (setJob s k v).draws = s.draws := rfl
@[simp] theorem setJob_freeCtr : (setJob s k v).freeCtr = s.freeCtr := rfl
@[simp] theorem setJob_out : (setJob s k v).out = s.out := rfl
end

/-! ## modJob -/

section
variable (s : State) (k : Nat) (v : Job → Job)
@[simp] theorem modJob_jobs : (modJob s k v).jobs = mapPut s.jobs {} k (v (jobOf s k)) := rfl
@[simp] theorem modJob_pending : (modJob s k v).pending = s.pending := rfl
@[simp] theorem modJob_tiles : (modJob s k v).tiles = s.tiles := rfl
@[simp] theorem modJob_tileMap : (modJob s k v).tileMap = s.tileMap := rfl
@[simp] theorem modJob_trigPin : (modJob s k v).trigPin = s.trigPin := rfl
@[simp] theorem modJob_load : (modJob s k v).load = s.load := rfl
@[simp] theorem modJob_chain : (modJob s k v).chain = s.chain := rfl
@[simp] theorem modJob_mem : (modJob s k v).mem = s.mem := rfl
@[simp] theorem modJob_lp : (modJob s k v).lp = s.lp := rfl
@[simp] theorem modJob_pal : (modJob s k v).pal = s.pal := rfl
@[simp] theorem modJob_msn : (modJob s k v).msn = s.msn := rfl
@[simp] theorem modJob_lry : (modJob s k v).lry = s.lry := rfl
@[simp] theorem modJob_arr : (modJob s k v).arr = s.arr := rfl
@[simp] theorem modJob_spn : (modJob s k v).spn = s.spn := rfl
@[simp] theorem modJob_clk : (modJob s k v).clk = s.clk := rfl
@[simp] theorem modJob_rst : (modJob s k v).rst = s.rst := rfl
@[simp] theorem modJob_pwr : (modJob s k v).pwr = s.pwr := rfl
@[simp] theorem modJob_hv : (modJob s k v).hv = s.hv := rfl
@[simp] theorem modJob_hif : (modJob s k v).hif = s.hif := rfl
@[simp] theorem modJob_fw : (modJob s k v).fw = s.fw := rfl
@[simp] theorem modJob_spr : (modJob s k v).spr = s.spr := rfl
@[simp] theorem modJob_tel : (modJob s k v).tel = s.tel := rfl
@[simp] theorem modJob_jtag : (modJob s k v).jtag = s.jtag := rfl
@[simp] theorem modJob_nowUs : (modJob s k v).nowUs = s.nowUs := rfl
@[simp] theorem modJob_sched : (modJob s k v).sched = s.sched := rfl
@[simp] theorem modJob_draws : (modJob s k v).draws = s.draws := rfl
@[simp] theorem modJob_freeCtr : (modJob s k v).freeCtr = s.freeCtr := rfl
@[simp] theorem modJob_out : (modJob s k v).out = s.out := rfl
end

/-! ## setTile -/

section
variable (s : State) (k : Nat) (v : Tile)
@[simp] theorem setTile_tiles : (setTile s k v).tiles = mapPut s.tiles {} k v := rfl
@[simp] theorem setTile_pending : (setTile s k v).pending = s.pending := rfl
@[simp] theorem setTile_tileMap : (setTile s k v).tileMap = s.tileMap := rfl
@[simp] theorem setTile_jobs : (setTile s k v).jobs = s.jobs := rfl
@[simp] theorem setTile_trigPin : (setTile s k v).trigPin = s.trigPin := rfl
@[simp] theorem setTile_load : (setTile s k v).load = s.load := rfl
@[simp] theorem setTile_chain : (setTile s k v).chain = s.chain := rfl
@[simp] theorem setTile_mem : (setTile s k v).mem = s.mem := rfl
@[simp] theorem setTile_lp : (setTile s k v).lp = s.lp := rfl
@[simp] theorem setTile_pal : (setTile s k v).pal = s.pal := rfl
@[simp] theorem setTile_msn : (setTile s k v).msn = s.msn := rfl
@[simp] theorem setTile_lry : (setTile s k v).lry = s.lry := rfl
@[simp] theorem setTile_arr : (setTile s k v).arr = s.arr := rfl
@[simp] theorem setTile_spn : (setTile s k v).spn = s.spn := rfl
@[simp] theorem setTile_clk : (setTile s k v).clk = s.clk := rfl
@[simp] theorem setTile_rst : (setTile s k v).rst = s.rst := rfl
@[simp] theorem setTile_pwr : (setTile s k v).pwr = s.pwr := rfl
@[simp] theorem setTile_hv : (setTile s k v).hv = s.hv := rfl
@[simp] theorem setTile_hif : (setTile s k v).hif = s.hif := rfl
@[simp] theorem setTile_fw : (setTile s k v).fw = s.fw := rfl
@[simp] theorem setTile_spr : (setTile s k v).spr = s.spr := rfl
@[simp] theorem setTile_tel : (setTile s k v).tel = s.tel := rfl
@[simp] theorem setTile_jtag : (setTile s k v).jtag = s.jtag := rfl
@[simp] theorem setTile_nowUs : (setTile s k v).nowUs = s.nowUs := rfl
@[simp] theorem setTile_sched : (setTile s k v).sched = s.sched := rfl
@[simp] theorem setTile_draws : (setTile s k v).draws = s.draws := rfl
@[simp] theorem setTile_freeCtr : (setTile s k v).freeCtr = s.freeCtr := rfl
@[simp] theorem setTile_out : (setTile s k v).out = s.out := rfl
end

/-! ## modTile -/

section
variable (s : State) (k : Nat) (v : Tile → Tile)
@[simp] theorem modTile_tiles : (modTile s k v).tiles = mapPut s.tiles {} k (v (tileOf s k)) := rfl
@[simp] theorem modTile_pending : (modTile s k v).pending = s.pending := rfl
@[simp] theorem modTile_tileMap : (modTile s k v).tileMap = s.tileMap := rfl
@[simp] theorem modTile_jobs : (modTile s k v).jobs = s.jobs := rfl
@[simp] theorem modTile_trigPin : (modTile s k v).trigPin = s.trigPin := rfl
@[simp] theorem modTile_load : (modTile s k v).load = s.load := rfl
@[simp] theorem modTile_chain : (modTile s k v).chain = s.chain := rfl
@[simp] theorem modTile_mem : (modTile s k v).mem = s.mem := rfl
@[simp] theorem modTile_lp : (modTile s k v).lp = s.lp := rfl
@[simp] theorem modTile_pal : (modTile s k v).pal = s.pal := rfl
@[simp] theorem modTile_msn : (modTile s k v).msn = s.msn := rfl
@[simp] theorem modTile_lry : (modTile s k v).lry = s.lry := rfl
@[simp] theorem modTile_arr : (modTile s k v).arr = s.arr := rfl
@[simp] theorem modTile_spn : (modTile s k v).spn = s.spn := rfl
@[simp] theorem modTile_clk : (modTile s k v).clk = s.clk := rfl
@[simp] theorem modTile_rst : (modTile s k v).rst = s.rst := rfl
@[simp] theorem modTile_pwr : (modTile s k v).pwr = s.pwr := rfl
@[simp] theorem modTile_hv : (modTile s k v).hv = s.hv := rfl
@[simp] theorem modTile_hif : (modTile s k v).hif = s.hif := rfl
@[simp] theorem modTile_fw : (modTile s k v).fw = s.fw := rfl
@[simp] theorem modTile_spr : (modTile s k v).spr = s.spr := rfl
@[simp] theorem modTile_tel : (modTile s k v).tel = s.tel := rfl
@[simp] theorem modTile_jtag : (modTile s k v).jtag = s.jtag := rfl
@[simp] theorem modTile_nowUs : (modTile s k v).nowUs = s.nowUs := rfl
@[simp] theorem modTile_sched : (modTile s k v).sched = s.sched := rfl
@[simp] theorem modTile_draws : (modTile s k v).draws = s.draws := rfl
@[simp] theorem modTile_freeCtr : (modTile s k v).freeCtr = s.freeCtr := rfl
@[simp] theorem modTile_out : (modTile s k v).out = s.out := rfl
end

/-! ## setHod -/

section
variable (s : State) (k : Nat) (v : Hod)
@[simp] theorem setHod_pal : (setHod s k v).pal = { s.pal with hods := mapPut s.pal.hods {} k v } := rfl
@[simp] theorem setHod_pending : (setHod s k v).pending = s.pending := rfl
@[simp] theorem setHod_tiles : (setHod s k v).tiles = s.tiles := rfl
@[simp] theorem setHod_tileMap : (setHod s k v).tileMap = s.tileMap := rfl
@[simp] theorem setHod_jobs : (setHod s k v).jobs = s.jobs := rfl
@[simp] theorem setHod_trigPin : (setHod s k v).trigPin = s.trigPin := rfl
@[simp] theorem setHod_load : (setHod s k v).load = s.load := rfl
@[simp] theorem setHod_chain : (setHod s k v).chain = s.chain := rfl
@[simp] theorem setHod_mem : (setHod s k v).mem = s.mem := rfl
@[simp] theorem setHod_lp : (setHod s k v).lp = s.lp := rfl
@[simp] theorem setHod_msn : (setHod s k v).msn = s.msn := rfl
@[simp] theorem setHod_lry : (setHod s k v).lry = s.lry := rfl
@[simp] theorem setHod_arr : (setHod s k v).arr = s.arr := rfl
@[simp] theorem setHod_spn : (setHod s k v).spn = s.spn := rfl
@[simp] theorem setHod_clk : (setHod s k v).clk = s.clk := rfl
@[simp] theorem setHod_rst : (setHod s k v).rst = s.rst := rfl
@[simp] theorem setHod_pwr : (setHod s k v).pwr = s.pwr := rfl
@[simp] theorem setHod_hv : (setHod s k v).hv = s.hv := rfl
@[simp] theorem setHod_hif : (setHod s k v).hif = s.hif := rfl
@[simp] theorem setHod_fw : (setHod s k v).fw = s.fw := rfl
@[simp] theorem setHod_spr : (setHod s k v).spr = s.spr := rfl
@[simp] theorem setHod_tel : (setHod s k v).tel = s.tel := rfl
@[simp] theorem setHod_jtag : (setHod s k v).jtag = s.jtag := rfl
@[simp] theorem setHod_nowUs : (setHod s k v).nowUs = s.nowUs := rfl
@[simp] theorem setHod_sched : (setHod s k v).sched = s.sched := rfl
@[simp] theorem setHod_draws : (setHod s k v).draws = s.draws := rfl
@[simp] theorem setHod_freeCtr : (setHod s k v).freeCtr = s.freeCtr := rfl
@[simp] theorem setHod_out : (setHod s k v).out = s.out := rfl
end

/-! ## modHod -/

section
variable (s : State) (k : Nat) (v : Hod → Hod)
@[simp] theorem modHod_pal : (modHod s k v).pal = { s.pal with hods := mapPut s.pal.hods {} k (v (hodOf s k)) } := rfl
@[simp] theorem modHod_pending : (modHod s k v).pending = s.pending := rfl
@[simp] theorem modHod_tiles : (modHod s k v).tiles = s.tiles := rfl
@[simp] theorem modHod_tileMap : (modHod s k v).tileMap = s.tileMap := rfl
@[simp] theorem modHod_jobs : (modHod s k v).jobs = s.jobs := rfl
@[simp] theorem modHod_trigPin : (modHod s k v).trigPin = s.trigPin := rfl
@[simp] theorem modHod_load : (modHod s k v).load = s.load := rfl
@[simp] theorem modHod_chain : (modHod s k v).chain = s.chain := rfl
@[simp] theorem modHod_mem : (modHod s k v).mem = s.mem := rfl
@[simp] theorem modHod_lp : (modHod s k v).lp = s.lp := rfl
@[simp] theorem modHod_msn : (modHod s k v).msn = s.msn := rfl
@[simp] theorem modHod_lry : (modHod s k v).lry = s.lry := rfl
@[simp] theorem modHod_arr : (modHod s k v).arr = s.arr := rfl
@[simp] theorem modHod_spn : (modHod s k v).spn = s.spn := rfl
@[simp] theorem modHod_clk : (modHod s k v).clk = s.clk := rfl
@[simp] theorem modHod_rst : (modHod s k v).rst = s.rst := rfl
@[simp] theorem modHod_pwr : (modHod s k v).pwr = s.pwr := rfl
@[simp] theorem modHod_hv : (modHod s k v).hv = s.hv := rfl
@[simp] theorem modHod_hif : (modHod s k v).hif = s.hif := rfl
@[simp] theorem modHod_fw : (modHod s k v).fw = s.fw := rfl
@[simp] theorem modHod_spr : (modHod s k v).spr = s.spr := rfl
@[simp] theorem modHod_tel : (modHod s k v).tel = s.tel := rfl
@[simp] theorem modHod_jtag : (modHod s k v).jtag = s.jtag := rfl
@[simp] theorem modHod_nowUs : (modHod s k v).nowUs = s.nowUs := rfl
@[simp] theorem modHod_sched : (modHod s k v).sched = s.sched := rfl
@[simp] theorem modHod_draws : (modHod s k v).draws = s.draws := rfl
@[simp] theorem modHod_freeCtr : (modHod s k v).freeCtr = s.freeCtr := rfl
@[simp] theorem modHod_out : (modHod s k v).out = s.out := rfl
end

/-! ## setMason -/

section
variable (s : State) (k : Nat) (v : Mason)
@[simp] theorem setMason_msn : (setMason s k v).msn = { s.msn with masons := mapPut s.msn.masons (masonInit k) k v } := rfl
@[simp] theorem setMason_pending : (setMason s k v).pending = s.pending := rfl
@[simp] theorem setMason_tiles : (setMason s k v).tiles = s.tiles := rfl
@[simp] theorem setMason_tileMap : (setMason s k v).tileMap = s.tileMap := rfl
@[simp] theorem setMason_jobs : (setMason s k v).jobs = s.jobs := rfl
@[simp] theorem setMason_trigPin : (setMason s k v).trigPin = s.trigPin := rfl
@[simp] theorem setMason_load : (setMason s k v).load = s.load := rfl
@[simp] theorem setMason_chain : (setMason s k v).chain = s.chain := rfl
@[simp] theorem setMason_mem : (setMason s k v).mem = s.mem := rfl
@[simp] theorem setMason_lp : (setMason s k v).lp = s.lp := rfl
@[simp] theorem setMason_pal : (setMason s k v).pal = s.pal := rfl
@[simp] theorem setMason_lry : (setMason s k v).lry = s.lry := rfl
@[simp] theorem setMason_arr : (setMason s k v).arr = s.arr := rfl
@[simp] theorem setMason_spn : (setMason s k v).spn = s.spn := rfl
@[simp] theorem setMason_clk : (setMason s k v).clk = s.clk := rfl
@[simp] theorem setMason_rst : (setMason s k v).rst = s.rst := rfl
@[simp] theorem setMason_pwr : (setMason s k v).pwr = s.pwr := rfl
@[simp] theorem setMason_hv : (setMason s k v).hv = s.hv := rfl
@[simp] theorem setMason_hif : (setMason s k v).hif = s.hif := rfl
@[simp] theorem setMason_fw : (setMason s k v).fw = s.fw := rfl
@[simp] theorem setMason_spr : (setMason s k v).spr = s.spr := rfl
@[simp] theorem setMason_tel : (setMason s k v).tel = s.tel := rfl
@[simp] theorem setMason_jtag : (setMason s k v).jtag = s.jtag := rfl
@[simp] theorem setMason_nowUs : (setMason s k v).nowUs = s.nowUs := rfl
@[simp] theorem setMason_sched : (setMason s k v).sched = s.sched := rfl
@[simp] theorem setMason_draws : (setMason s k v).draws = s.draws := rfl
@[simp] theorem setMason_freeCtr : (setMason s k v).freeCtr = s.freeCtr := rfl
@[simp] theorem setMason_out : (setMason s k v).out = s.out := rfl
end

/-! ## modMason -/

section
variable (s : State) (k : Nat) (v : Mason → Mason)
@[simp] theorem modMason_msn : (modMason s k v).msn = { s.msn with masons := mapPut s.msn.masons (masonInit k) k (v (masonOf s k)) } := rfl
@[simp] theorem modMason_pending : (modMason s k v).pending = s.pending := rfl
@[simp] theorem modMason_tiles : (modMason s k v).tiles = s.tiles := rfl
@[simp] theorem modMason_tileMap : (modMason s k v).tileMap = s.tileMap := rfl
@[simp] theorem modMason_jobs : (modMason s k v).jobs = s.jobs := rfl
@[simp] theorem modMason_trigPin : (modMason s k v).trigPin = s.trigPin := rfl
@[simp] theorem modMason_load : (modMason s k v).load = s.load := rfl
@[simp] theorem modMason_chain : (modMason s k v).chain = s.chain := rfl
@[simp] theorem modMason_mem : (modMason s k v).mem = s.mem := rfl
@[simp] theorem modMason_lp : (modMason s k v).lp = s.lp := rfl
@[simp] theorem modMason_pal : (modMason s k v).pal = s.pal := rfl
@[simp] theorem modMason_lry : (modMason s k v).lry = s.lry := rfl
@[simp] theorem modMason_arr : (modMason s k v).arr = s.arr := rfl
@[simp] theorem modMason_spn : (modMason s k v).spn = s.spn := rfl
@[simp] theorem modMason_clk : (modMason s k v).clk = s.clk := rfl
@[simp] theorem modMason_rst : (modMason s k v).rst = s.rst := rfl
@[simp] theorem modMason_pwr : (modMason s k v).pwr = s.pwr := rfl
@[simp] theorem modMason_hv : (modMason s k v).hv = s.hv := rfl
@[simp] theorem modMason_hif : (modMason s k v).hif = s.hif := rfl
@[simp] theorem modMason_fw : (modMason s k v).fw = s.fw := rfl
@[simp] theorem modMason_spr : (modMason s k v).spr = s.spr := rfl
@[simp] theorem modMason_tel : (modMason s k v).tel = s.tel := rfl
@[simp] theorem modMason_jtag : (modMason s k v).jtag = s.jtag := rfl
@[simp] theorem modMason_nowUs : (modMason s k v).nowUs = s.nowUs := rfl
@[simp] theorem modMason_sched : (modMason s k v).sched = s.sched := rfl
@[simp] theorem modMason_draws : (modMason s k v).draws = s.draws := rfl
@[simp] theorem modMason_freeCtr : (modMason s k v).freeCtr = s.freeCtr := rfl
@[simp] theorem modMason_out : (modMason s k v).out = s.out := rfl
end

/-! ## modGroup -/

section
variable (s : State) (k : Nat) (v : MGroup → MGroup)
@[simp] theorem modGroup_msn : (modGroup s k v).msn = { s.msn with groups := mapMod s.msn.groups {} k v } := rfl
@[simp] theorem modGroup_pending : (modGroup s k v).pending = s.pending := rfl
@[simp] theorem modGroup_tiles : (modGroup s k v).tiles = s.tiles := rfl
@[simp] theorem modGroup_tileMap : (modGroup s k v).tileMap = s.tileMap := rfl
@[simp] theorem modGroup_jobs : (modGroup s k v).jobs = s.jobs := rfl
@[simp] theorem modGroup_trigPin : (modGroup s k v).trigPin = s.trigPin := rfl
@[simp] theorem modGroup_load : (modGroup s k v).load = s.load := rfl
@[simp] theorem modGroup_chain : (modGroup s k v).chain = s.chain := rfl
@[simp] theorem modGroup_mem : (modGroup s k v).mem = s.mem := rfl
@[simp] theorem modGroup_lp : (modGroup s k v).lp = s.lp := rfl
@[simp] theorem modGroup_pal : (modGroup s k v).pal = s.pal := rfl
@[simp] theorem modGroup_lry : (modGroup s k v).lry = s.lry := rfl
@[simp] theorem modGroup_arr : (modGroup s k v).arr = s.arr := rfl
@[simp] theorem modGroup_spn : (modGroup s k v).spn = s.spn := rfl
@[simp] theorem modGroup_clk : (modGroup s k v).clk = s.clk := rfl
@[simp] theorem modGroup_rst : (modGroup s k v).rst = s.rst := rfl
@[simp] theorem modGroup_pwr : (modGroup s k v).pwr = s.pwr := rfl
@[simp] theorem modGroup_hv : (modGroup s k v).hv = s.hv := rfl
@[simp] theorem modGroup_hif : (modGroup s k v).hif = s.hif := rfl
@[simp] theorem modGroup_fw : (modGroup s k v).fw = s.fw := rfl
@[simp] theorem modGroup_spr : (modGroup s k v).spr = s.spr := rfl
@[simp] theorem modGroup_tel : (modGroup s k v).tel = s.tel := rfl
@[simp] theorem modGroup_jtag : (modGroup s k v).jtag = s.jtag := rfl
@[simp] theorem modGroup_nowUs : (modGroup s k v).nowUs = s.nowUs := rfl
@[simp] theorem modGroup_sched : (modGroup s k v).sched = s.sched := rfl
@[simp] theorem modGroup_draws : (modGroup s k v).draws = s.draws := rfl
@[simp] theorem modGroup_freeCtr : (modGroup s k v).freeCtr = s.freeCtr := rfl
@[simp] theorem modGroup_out : (modGroup s k v).out = s.out := rfl
end

/-! ## setPort -/

section
variable (s : State) (k : Nat) (v : Port)
@[simp] theorem setPort_lry : (setPort s k v).lry = { s.lry with ports := mapPut s.lry.ports {} k v } := rfl
@[simp] theorem setPort_pending : (setPort s k v).pending = s.pending := rfl
@[simp] theorem setPort_tiles : (setPort s k v).tiles = s.tiles := rfl
@[simp] theorem setPort_tileMap : (setPort s k v).tileMap = s.tileMap := rfl
@[simp] theorem setPort_jobs : (setPort s k v).jobs = s.jobs := rfl
@[simp] theorem setPort_trigPin : (setPort s k v).trigPin = s.trigPin := rfl
@[simp] theorem setPort_load : (setPort s k v).load = s.load := rfl
@[simp] theorem setPort_chain : (setPort s k v).chain = s.chain := rfl
@[simp] theorem setPort_mem : (setPort s k v).mem = s.mem := rfl
@[simp] theorem setPort_lp : (setPort s k v).lp = s.lp := rfl
@[simp] theorem setPort_pal : (setPort s k v).pal = s.pal := rfl
@[simp] theorem setPort_msn : (setPort s k v).msn = s.msn := rfl
@[simp] theorem setPort_arr : (setPort s k v).arr = s.arr := rfl
@[simp] theorem setPort_spn : (setPort s k v).spn = s.spn := rfl
@[simp] theorem setPort_clk : (setPort s k v).clk = s.clk := rfl
@[simp] theorem setPort_rst : (setPort s k v).rst = s.rst := rfl
@[simp] theorem setPort_pwr : (setPort s k v).pwr = s.pwr := rfl
@[simp] theorem setPort_hv : (setPort s k v).hv = s.hv := rfl
@[simp] theorem setPort_hif : (setPort s k v).hif = s.hif := rfl
@[simp] theorem setPort_fw : (setPort s k v).fw = s.fw := rfl
@[simp] theorem setPort_spr : (setPort s k v).spr = s.spr := rfl
@[simp] theorem setPort_tel : (setPort s k v).tel = s.tel := rfl
@[simp] theorem setPort_jtag : (setPort s k v).jtag = s.jtag := rfl
@[simp] theorem setPort_nowUs : (setPort s k v).nowUs = s.nowUs := rfl
@[simp] theorem setPort_sched : (setPort s k v).sched = s.sched := rfl
@[simp] theorem setPort_draws : (setPort s k v).draws = s.draws := rfl
@[simp] theorem setPort_freeCtr : (setPort s k v).freeCtr = s.freeCtr := rfl
@[simp] theorem setPort_out : (setPort s k v).out = s.out := rfl
end

/-! ## modPort -/

section
variable (s : State) (k : Nat) (v : Port → Port)
@[simp] theorem modPort_lry : (modPort s k v).lry = { s.lry with ports := mapPut s.lry.ports {} k (v (portOf s k)) } := rfl
@[simp] theorem modPort_pending : (modPort s k v).pending = s.pending := rfl
@[simp] theorem modPort_tiles : (modPort s k v).tiles = s.tiles := rfl
@[simp] theorem modPort_tileMap : (modPort s k v).tileMap = s.tileMap := rfl
@[simp] theorem modPort_jobs : (modPort s k v).jobs = s.jobs := rfl
@[simp] theorem modPort_trigPin : (modPort s k v).trigPin = s.trigPin := rfl
@[simp] theorem modPort_load : (modPort s k v).load = s.load := rfl
@[simp] theorem modPort_chain : (modPort s k v).chain = s.chain := rfl
@[simp] theorem modPort_mem : (modPort s k v).mem = s.mem := rfl
@[simp] theorem modPort_lp : (modPort s k v).lp = s.lp := rfl
@[simp] theorem modPort_pal : (modPort s k v).pal = s.pal := rfl
@[simp] theorem modPort_msn : (modPort s k v).msn = s.msn := rfl
@[simp] theorem modPort_arr : (modPort s k v).arr = s.arr := rfl
@[simp] theorem modPort_spn : (modPort s k v).spn = s.spn := rfl
@[simp] theorem modPort_clk : (modPort s k v).clk = s.clk := rfl
@[simp] theorem modPort_rst : (modPort s k v).rst = s.rst := rfl
@[simp] theorem modPort_pwr : (modPort s k v).pwr = s.pwr := rfl
@[simp] theorem modPort_hv : (modPort s k v).hv = s.hv := rfl
@[simp] theorem modPort_hif : (modPort s k v).hif = s.hif := rfl
@[simp] theorem modPort_fw : (modPort s k v).fw = s.fw := rfl
@[simp] theorem modPort_spr : (modPort s k v).spr = s.spr := rfl
@[simp] theorem modPort_tel : (modPort s k v).tel = s.tel := rfl
@[simp] theorem modPort_jtag : (modPort s k v).jtag = s.jtag := rfl
@[simp] theorem modPort_nowUs : (modPort s k v).nowUs = s.nowUs := rfl
@[simp] theorem modPort_sched : (modPort s k v).sched = s.sched := rfl
@[simp] theorem modPort_draws : (modPort s k v).draws = s.draws := rfl
@[simp] theorem modPort_freeCtr : (modPort s k v).freeCtr = s.freeCtr := rfl
@[simp] theorem modPort_out : (modPort s k v).out = s.out := rfl
end

/-! ## modLane -/

section
variable (s : State) (k : Nat) (v : Lane → Lane)
@[simp] theorem modLane_lry : (modLane s k v).lry = { s.lry with lanes := mapMod s.lry.lanes {} k v } := rfl
@[simp] theorem modLane_pending : (modLane s k v).pending = s.pending := rfl
@[simp] theorem modLane_tiles : (modLane s k v).tiles = s.tiles := rfl
@[simp] theorem modLane_tileMap : (modLane s k v).tileMap = s.tileMap := rfl
@[simp] theorem modLane_jobs : (modLane s k v).jobs = s.jobs := rfl
@[simp] theorem modLane_trigPin : (modLane s k v).trigPin = s.trigPin := rfl
@[simp] theorem modLane_load : (modLane s k v).load = s.load := rfl
@[simp] theorem modLane_chain : (modLane s k v).chain = s.chain := rfl
@[simp] theorem modLane_mem : (modLane s k v).mem = s.mem := rfl
@[simp] theorem modLane_lp : (modLane s k v).lp = s.lp := rfl
@[simp] theorem modLane_pal : (modLane s k v).pal = s.pal := rfl
@[simp] theorem modLane_msn : (modLane s k v).msn = s.msn := rfl
@[simp] theorem modLane_arr : (modLane s k v).arr = s.arr := rfl
@[simp] theorem modLane_spn : (modLane s k v).spn = s.spn := rfl
@[simp] theorem modLane_clk : (modLane s k v).clk = s.clk := rfl
@[simp] theorem modLane_rst : (modLane s k v).rst = s.rst := rfl
@[simp] theorem modLane_pwr : (modLane s k v).pwr = s.pwr := rfl
@[simp] theorem modLane_hv : (modLane s k v).hv = s.hv := rfl
@[simp] theorem modLane_hif : (modLane s k v).hif = s.hif := rfl
@[simp] theorem modLane_fw : (modLane s k v).fw = s.fw := rfl
@[simp] theorem modLane_spr : (modLane s k v).spr = s.spr := rfl
@[simp] theorem modLane_tel : (modLane s k v).tel = s.tel := rfl
@[simp] theorem modLane_jtag : (modLane s k v).jtag = s.jtag := rfl
@[simp] theorem modLane_nowUs : (modLane s k v).nowUs = s.nowUs := rfl
@[simp] theorem modLane_sched : (modLane s k v).sched = s.sched := rfl
@[simp] theorem modLane_draws : (modLane s k v).draws = s.draws := rfl
@[simp] theorem modLane_freeCtr : (modLane s k v).freeCtr = s.freeCtr := rfl
@[simp] theorem modLane_out : (modLane s k v).out = s.out := rfl
end

/-! ## setPpt -/

section
variable (s : State) (k : Nat) (v : Ppt)
@[simp] theorem setPpt_mem : (setPpt s k v).mem = { s.mem with ppt := mapPut s.mem.ppt {} k v } := rfl
@[simp] theorem setPpt_pending : (setPpt s k v).pending = s.pending := rfl
@[simp] theorem setPpt_tiles : (setPpt s k v).tiles = s.tiles := rfl
@[simp] theorem setPpt_tileMap : (setPpt s k v).tileMap = s.tileMap := rfl
@[simp] theorem setPpt_jobs : (setPpt s k v).jobs = s.jobs := rfl
@[simp] theorem setPpt_trigPin : (setPpt s k v).trigPin = s.trigPin := rfl
@[simp] theorem setPpt_load : (setPpt s k v).load = s.load := rfl
@[simp] theorem setPpt_chain : (setPpt s k v).chain = s.chain := rfl
@[simp] theorem setPpt_lp : (setPpt s k v).lp = s.lp := rfl
@[simp] theorem setPpt_pal : (setPpt s k v).pal = s.pal := rfl
@[simp] theorem setPpt_msn : (setPpt s k v).msn = s.msn := rfl
@[simp] theorem setPpt_lry : (setPpt s k v).lry = s.lry := rfl
@[simp] theorem setPpt_arr : (setPpt s k v).arr = s.arr := rfl
@[simp] theorem setPpt_spn : (setPpt s k v).spn = s.spn := rfl
@[simp] theorem setPpt_clk : (setPpt s k v).clk = s.clk := rfl
@[simp] theorem setPpt_rst : (setPpt s k v).rst = s.rst := rfl
@[simp] theorem setPpt_pwr : (setPpt s k v).pwr = s.pwr := rfl
@[simp] theorem setPpt_hv : (setPpt s k v).hv = s.hv := rfl
@[simp] theorem setPpt_hif : (setPpt s k v).hif = s.hif := rfl
@[simp] theorem setPpt_fw : (setPpt s k v).fw = s.fw := rfl
@[simp] theorem setPpt_spr : (setPpt s k v).spr = s.spr := rfl
@[simp] theorem setPpt_tel : (setPpt s k v).tel = s.tel := rfl
@[simp] theorem setPpt_jtag : (setPpt s k v).jtag = s.jtag := rfl
@[simp] theorem setPpt_nowUs : (setPpt s k v).nowUs = s.nowUs := rfl
@[simp] theorem setPpt_sched : (setPpt s k v).sched = s.sched := rfl
@[simp] theorem setPpt_draws : (setPpt s k v).draws = s.draws := rfl
@[simp] theorem setPpt_freeCtr : (setPpt s k v).freeCtr = s.freeCtr := rfl
@[simp] theorem setPpt_out : (setPpt s k v).out = s.out := rfl
end

/-! ## modPpt -/

section
variable (s : State) (k : Nat) (v : Ppt → Ppt)
@[simp] theorem modPpt_mem : (modPpt s k v).mem = { s.mem with ppt := mapPut s.mem.ppt {} k (v (pptOf s k)) } := rfl
@[simp] theorem modPpt_pending : (modPpt s k v).pending = s.pending := rfl
@[simp] theorem modPpt_tiles : (modPpt s k v).tiles = s.tiles := rfl
@[simp] theorem modPpt_tileMap : (modPpt s k v).tileMap = s.tileMap := rfl
@[simp] theorem modPpt_jobs : (modPpt s k v).jobs = s.jobs := rfl
@[simp] theorem modPpt_trigPin : (modPpt s k v).trigPin = s.trigPin := rfl
@[simp] theorem modPpt_load : (modPpt s k v).load = s.load := rfl
@[simp] theorem modPpt_chain : (modPpt s k v).chain = s.chain := rfl
@[simp] theorem modPpt_lp : (modPpt s k v).lp = s.lp := rfl
@[simp] theorem modPpt_pal : (modPpt s k v).pal = s.pal := rfl
@[simp] theorem modPpt_msn : (modPpt s k v).msn = s.msn := rfl
@[simp] theorem modPpt_lry : (modPpt s k v).lry = s.lry := rfl
@[simp] theorem modPpt_arr : (modPpt s k v).arr = s.arr := rfl
@[simp] theorem modPpt_spn : (modPpt s k v).spn = s.spn := rfl
@[simp] theorem modPpt_clk : (modPpt s k v).clk = s.clk := rfl
@[simp] theorem modPpt_rst : (modPpt s k v).rst = s.rst := rfl
@[simp] theorem modPpt_pwr : (modPpt s k v).pwr = s.pwr := rfl
@[simp] theorem modPpt_hv : (modPpt s k v).hv = s.hv := rfl
@[simp] theorem modPpt_hif : (modPpt s k v).hif = s.hif := rfl
@[simp] theorem modPpt_fw : (modPpt s k v).fw = s.fw := rfl
@[simp] theorem modPpt_spr : (modPpt s k v).spr = s.spr := rfl
@[simp] theorem modPpt_tel : (modPpt s k v).tel = s.tel := rfl
@[simp] theorem modPpt_jtag : (modPpt s k v).jtag = s.jtag := rfl
@[simp] theorem modPpt_nowUs : (modPpt s k v).nowUs = s.nowUs := rfl
@[simp] theorem modPpt_sched : (modPpt s k v).sched = s.sched := rfl
@[simp] theorem modPpt_draws : (modPpt s k v).draws = s.draws := rfl
@[simp] theorem modPpt_freeCtr : (modPpt s k v).freeCtr = s.freeCtr := rfl
@[simp] theorem modPpt_out : (modPpt s k v).out = s.out := rfl
end

/-! ## modMirror -/

section
variable (s : State) (k : Nat) (v : Mirror → Mirror)
@[simp] theorem modMirror_mem : (modMirror s k v).mem = { s.mem with mirror := mapMod s.mem.mirror none k (Option.map v) } := rfl
@[simp] theorem modMirror_pending : (modMirror s k v).pending = s.pending := rfl
@[simp] theorem modMirror_tiles : (modMirror s k v).tiles = s.tiles := rfl
@[simp] theorem modMirror_tileMap : (modMirror s k v).tileMap = s.tileMap := rfl
@[simp] theorem modMirror_jobs : (modMirror s k v).jobs = s.jobs := rfl
@[simp] theorem modMirror_trigPin : (modMirror s k v).trigPin = s.trigPin := rfl
@[simp] theorem modMirror_load : (modMirror s k v).load = s.load := rfl
@[simp] theorem modMirror_chain : (modMirror s k v).chain = s.chain := rfl
@[simp] theorem modMirror_lp : (modMirror s k v).lp = s.lp := rfl
@[simp] theorem modMirror_pal : (modMirror s k v).pal = s.pal := rfl
@[simp] theorem modMirror_msn : (modMirror s k v).msn = s.msn := rfl
@[simp] theorem modMirror_lry : (modMirror s k v).lry = s.lry := rfl
@[simp] theorem modMirror_arr : (modMirror s k v).arr = s.arr := rfl
@[simp] theorem modMirror_spn : (modMirror s k v).spn = s.spn := rfl
@[simp] theorem modMirror_clk : (modMirror s k v).clk = s.clk := rfl
@[simp] theorem modMirror_rst : (modMirror s k v).rst = s.rst := rfl
@[simp] theorem modMirror_pwr : (modMirror s k v).pwr = s.pwr := rfl
@[simp] theorem modMirror_hv : (modMirror s k v).hv = s.hv := rfl
@[simp] theorem modMirror_hif : (modMirror s k v).hif = s.hif := rfl
@[simp] theorem modMirror_fw : (modMirror s k v).fw = s.fw := rfl
@[simp] theorem modMirror_spr : (modMirror s k v).spr = s.spr := rfl
@[simp] theorem modMirror_tel : (modMirror s k v).tel = s.tel := rfl
@[simp] theorem modMirror_jtag : (modMirror s k v).jtag = s.jtag := rfl
@[simp] theorem modMirror_nowUs : (modMirror s k v).nowUs = s.nowUs := rfl
@[simp] theorem modMirror_sched : (modMirror s k v).sched = s.sched := rfl
@[simp] theorem modMirror_draws : (modMirror s k v).draws = s.draws := rfl
@[simp] theorem modMirror_freeCtr : (modMirror s k v).freeCtr = s.freeCtr := rfl
@[simp] theorem modMirror_out : (modMirror s k v).out = s.out := rfl
end

/-! ## setFar -/

section
variable (s : State) (k : Nat) (v : FarLine)
@[simp] theorem setFar_mem : (setFar s k v).mem = { s.mem with far := mapPut s.mem.far none k (some v) } := rfl
@[simp] theorem setFar_pending : (setFar s k v).pending = s.pending := rfl
@[simp] theorem setFar_tiles : (setFar s k v).tiles = s.tiles := rfl
@[simp] theorem setFar_tileMap : (setFar s k v).tileMap = s.tileMap := rfl
@[simp] theorem setFar_jobs : (setFar s k v).jobs = s.jobs := rfl
@[simp] theorem setFar_trigPin : (setFar s k v).trigPin = s.trigPin := rfl
@[simp] theorem setFar_load : (setFar s k v).load = s.load := rfl
@[simp] theorem setFar_chain : (setFar s k v).chain = s.chain := rfl
@[simp] theorem setFar_lp : (setFar s k v).lp = s.lp := rfl
@[simp] theorem setFar_pal : (setFar s k v).pal = s.pal := rfl
@[simp] theorem setFar_msn : (setFar s k v).msn = s.msn := rfl
@[simp] theorem setFar_lry : (setFar s k v).lry = s.lry := rfl
@[simp] theorem setFar_arr : (setFar s k v).arr = s.arr := rfl
@[simp] theorem setFar_spn : (setFar s k v).spn = s.spn := rfl
@[simp] theorem setFar_clk : (setFar s k v).clk = s.clk := rfl
@[simp] theorem setFar_rst : (setFar s k v).rst = s.rst := rfl
@[simp] theorem setFar_pwr : (setFar s k v).pwr = s.pwr := rfl
@[simp] theorem setFar_hv : (setFar s k v).hv = s.hv := rfl
@[simp] theorem setFar_hif : (setFar s k v).hif = s.hif := rfl
@[simp] theorem setFar_fw : (setFar s k v).fw = s.fw := rfl
@[simp] theorem setFar_spr : (setFar s k v).spr = s.spr := rfl
@[simp] theorem setFar_tel : (setFar s k v).tel = s.tel := rfl
@[simp] theorem setFar_jtag : (setFar s k v).jtag = s.jtag := rfl
@[simp] theorem setFar_nowUs : (setFar s k v).nowUs = s.nowUs := rfl
@[simp] theorem setFar_sched : (setFar s k v).sched = s.sched := rfl
@[simp] theorem setFar_draws : (setFar s k v).draws = s.draws := rfl
@[simp] theorem setFar_freeCtr : (setFar s k v).freeCtr = s.freeCtr := rfl
@[simp] theorem setFar_out : (setFar s k v).out = s.out := rfl
end

/-! ## modChan -/

section
variable (s : State) (k : Nat) (v : Chan → Chan)
@[simp] theorem modChan_lp : (modChan s k v).lp = { s.lp with chans := mapMod s.lp.chans {} k v } := rfl
@[simp] theorem modChan_pending : (modChan s k v).pending = s.pending := rfl
@[simp] theorem modChan_tiles : (modChan s k v).tiles = s.tiles := rfl
@[simp] theorem modChan_tileMap : (modChan s k v).tileMap = s.tileMap := rfl
@[simp] theorem modChan_jobs : (modChan s k v).jobs = s.jobs := rfl
@[simp] theorem modChan_trigPin : (modChan s k v).trigPin = s.trigPin := rfl
@[simp] theorem modChan_load : (modChan s k v).load = s.load := rfl
@[simp] theorem modChan_chain : (modChan s k v).chain = s.chain := rfl
@[simp] theorem modChan_mem : (modChan s k v).mem = s.mem := rfl
@[simp] theorem modChan_pal : (modChan s k v).pal = s.pal := rfl
@[simp] theorem modChan_msn : (modChan s k v).msn = s.msn := rfl
@[simp] theorem modChan_lry : (modChan s k v).lry = s.lry := rfl
@[simp] theorem modChan_arr : (modChan s k v).arr = s.arr := rfl
@[simp] theorem modChan_spn : (modChan s k v).spn = s.spn := rfl
@[simp] theorem modChan_clk : (modChan s k v).clk = s.clk := rfl
@[simp] theorem modChan_rst : (modChan s k v).rst = s.rst := rfl
@[simp] theorem modChan_pwr : (modChan s k v).pwr = s.pwr := rfl
@[simp] theorem modChan_hv : (modChan s k v).hv = s.hv := rfl
@[simp] theorem modChan_hif : (modChan s k v).hif = s.hif := rfl
@[simp] theorem modChan_fw : (modChan s k v).fw = s.fw := rfl
@[simp] theorem modChan_spr : (modChan s k v).spr = s.spr := rfl
@[simp] theorem modChan_tel : (modChan s k v).tel = s.tel := rfl
@[simp] theorem modChan_jtag : (modChan s k v).jtag = s.jtag := rfl
@[simp] theorem modChan_nowUs : (modChan s k v).nowUs = s.nowUs := rfl
@[simp] theorem modChan_sched : (modChan s k v).sched = s.sched := rfl
@[simp] theorem modChan_draws : (modChan s k v).draws = s.draws := rfl
@[simp] theorem modChan_freeCtr : (modChan s k v).freeCtr = s.freeCtr := rfl
@[simp] theorem modChan_out : (modChan s k v).out = s.out := rfl
end

/-! ## modMbx -/

section
variable (s : State) (fn m : Nat) (f : Mbx → Mbx)
@[simp] theorem modMbx_hif : (modMbx s fn m f).hif = { s.hif with mbx := mapMod s.hif.mbx {} (mbxKey fn m) f } := rfl
@[simp] theorem modMbx_pending : (modMbx s fn m f).pending = s.pending := rfl
@[simp] theorem modMbx_tiles : (modMbx s fn m f).tiles = s.tiles := rfl
@[simp] theorem modMbx_tileMap : (modMbx s fn m f).tileMap = s.tileMap := rfl
@[simp] theorem modMbx_jobs : (modMbx s fn m f).jobs = s.jobs := rfl
@[simp] theorem modMbx_trigPin : (modMbx s fn m f).trigPin = s.trigPin := rfl
@[simp] theorem modMbx_load : (modMbx s fn m f).load = s.load := rfl
@[simp] theorem modMbx_chain : (modMbx s fn m f).chain = s.chain := rfl
@[simp] theorem modMbx_mem : (modMbx s fn m f).mem = s.mem := rfl
@[simp] theorem modMbx_lp : (modMbx s fn m f).lp = s.lp := rfl
@[simp] theorem modMbx_pal : (modMbx s fn m f).pal = s.pal := rfl
@[simp] theorem modMbx_msn : (modMbx s fn m f).msn = s.msn := rfl
@[simp] theorem modMbx_lry : (modMbx s fn m f).lry = s.lry := rfl
@[simp] theorem modMbx_arr : (modMbx s fn m f).arr = s.arr := rfl
@[simp] theorem modMbx_spn : (modMbx s fn m f).spn = s.spn := rfl
@[simp] theorem modMbx_clk : (modMbx s fn m f).clk = s.clk := rfl
@[simp] theorem modMbx_rst : (modMbx s fn m f).rst = s.rst := rfl
@[simp] theorem modMbx_pwr : (modMbx s fn m f).pwr = s.pwr := rfl
@[simp] theorem modMbx_hv : (modMbx s fn m f).hv = s.hv := rfl
@[simp] theorem modMbx_fw : (modMbx s fn m f).fw = s.fw := rfl
@[simp] theorem modMbx_spr : (modMbx s fn m f).spr = s.spr := rfl
@[simp] theorem modMbx_tel : (modMbx s fn m f).tel = s.tel := rfl
@[simp] theorem modMbx_jtag : (modMbx s fn m f).jtag = s.jtag := rfl
@[simp] theorem modMbx_nowUs : (modMbx s fn m f).nowUs = s.nowUs := rfl
@[simp] theorem modMbx_sched : (modMbx s fn m f).sched = s.sched := rfl
@[simp] theorem modMbx_draws : (modMbx s fn m f).draws = s.draws := rfl
@[simp] theorem modMbx_freeCtr : (modMbx s fn m f).freeCtr = s.freeCtr := rfl
@[simp] theorem modMbx_out : (modMbx s fn m f).out = s.out := rfl
end

/-! ## setRing -/

section
variable (s : State) (k : Nat) (v : Ring)
@[simp] theorem setRing_hif : (setRing s k v).hif = { s.hif with rings := mapPut s.hif.rings {} k v } := rfl
@[simp] theorem setRing_pending : (setRing s k v).pending = s.pending := rfl
@[simp] theorem setRing_tiles : (setRing s k v).tiles = s.tiles := rfl
@[simp] theorem setRing_tileMap : (setRing s k v).tileMap = s.tileMap := rfl
@[simp] theorem setRing_jobs : (setRing s k v).jobs = s.jobs := rfl
@[simp] theorem setRing_trigPin : (setRing s k v).trigPin = s.trigPin := rfl
@[simp] theorem setRing_load : (setRing s k v).load = s.load := rfl
@[simp] theorem setRing_chain : (setRing s k v).chain = s.chain := rfl
@[simp] theorem setRing_mem : (setRing s k v).mem = s.mem := rfl
@[simp] theorem setRing_lp : (setRing s k v).lp = s.lp := rfl
@[simp] theorem setRing_pal : (setRing s k v).pal = s.pal := rfl
@[simp] theorem setRing_msn : (setRing s k v).msn = s.msn := rfl
@[simp] theorem setRing_lry : (setRing s k v).lry = s.lry := rfl
@[simp] theorem setRing_arr : (setRing s k v).arr = s.arr := rfl
@[simp] theorem setRing_spn : (setRing s k v).spn = s.spn := rfl
@[simp] theorem setRing_clk : (setRing s k v).clk = s.clk := rfl
@[simp] theorem setRing_rst : (setRing s k v).rst = s.rst := rfl
@[simp] theorem setRing_pwr : (setRing s k v).pwr = s.pwr := rfl
@[simp] theorem setRing_hv : (setRing s k v).hv = s.hv := rfl
@[simp] theorem setRing_fw : (setRing s k v).fw = s.fw := rfl
@[simp] theorem setRing_spr : (setRing s k v).spr = s.spr := rfl
@[simp] theorem setRing_tel : (setRing s k v).tel = s.tel := rfl
@[simp] theorem setRing_jtag : (setRing s k v).jtag = s.jtag := rfl
@[simp] theorem setRing_nowUs : (setRing s k v).nowUs = s.nowUs := rfl
@[simp] theorem setRing_sched : (setRing s k v).sched = s.sched := rfl
@[simp] theorem setRing_draws : (setRing s k v).draws = s.draws := rfl
@[simp] theorem setRing_freeCtr : (setRing s k v).freeCtr = s.freeCtr := rfl
@[simp] theorem setRing_out : (setRing s k v).out = s.out := rfl
end

/-! ## modDma -/

section
variable (s : State) (k : Nat) (v : DmaChan → DmaChan)
@[simp] theorem modDma_hif : (modDma s k v).hif = { s.hif with dma := mapMod s.hif.dma {} k v } := rfl
@[simp] theorem modDma_pending : (modDma s k v).pending = s.pending := rfl
@[simp] theorem modDma_tiles : (modDma s k v).tiles = s.tiles := rfl
@[simp] theorem modDma_tileMap : (modDma s k v).tileMap = s.tileMap := rfl
@[simp] theorem modDma_jobs : (modDma s k v).jobs = s.jobs := rfl
@[simp] theorem modDma_trigPin : (modDma s k v).trigPin = s.trigPin := rfl
@[simp] theorem modDma_load : (modDma s k v).load = s.load := rfl
@[simp] theorem modDma_chain : (modDma s k v).chain = s.chain := rfl
@[simp] theorem modDma_mem : (modDma s k v).mem = s.mem := rfl
@[simp] theorem modDma_lp : (modDma s k v).lp = s.lp := rfl
@[simp] theorem modDma_pal : (modDma s k v).pal = s.pal := rfl
@[simp] theorem modDma_msn : (modDma s k v).msn = s.msn := rfl
@[simp] theorem modDma_lry : (modDma s k v).lry = s.lry := rfl
@[simp] theorem modDma_arr : (modDma s k v).arr = s.arr := rfl
@[simp] theorem modDma_spn : (modDma s k v).spn = s.spn := rfl
@[simp] theorem modDma_clk : (modDma s k v).clk = s.clk := rfl
@[simp] theorem modDma_rst : (modDma s k v).rst = s.rst := rfl
@[simp] theorem modDma_pwr : (modDma s k v).pwr = s.pwr := rfl
@[simp] theorem modDma_hv : (modDma s k v).hv = s.hv := rfl
@[simp] theorem modDma_fw : (modDma s k v).fw = s.fw := rfl
@[simp] theorem modDma_spr : (modDma s k v).spr = s.spr := rfl
@[simp] theorem modDma_tel : (modDma s k v).tel = s.tel := rfl
@[simp] theorem modDma_jtag : (modDma s k v).jtag = s.jtag := rfl
@[simp] theorem modDma_nowUs : (modDma s k v).nowUs = s.nowUs := rfl
@[simp] theorem modDma_sched : (modDma s k v).sched = s.sched := rfl
@[simp] theorem modDma_draws : (modDma s k v).draws = s.draws := rfl
@[simp] theorem modDma_freeCtr : (modDma s k v).freeCtr = s.freeCtr := rfl
@[simp] theorem modDma_out : (modDma s k v).out = s.out := rfl
end

/-! ## emitOut -/

section
variable (s : State) (o : Out)
@[simp] theorem emitOut_out : (emitOut s o).out = o :: s.out := rfl
@[simp] theorem emitOut_pending : (emitOut s o).pending = s.pending := rfl
@[simp] theorem emitOut_tiles : (emitOut s o).tiles = s.tiles := rfl
@[simp] theorem emitOut_tileMap : (emitOut s o).tileMap = s.tileMap := rfl
@[simp] theorem emitOut_jobs : (emitOut s o).jobs = s.jobs := rfl
@[simp] theorem emitOut_trigPin : (emitOut s o).trigPin = s.trigPin := rfl
@[simp] theorem emitOut_load : (emitOut s o).load = s.load := rfl
@[simp] theorem emitOut_chain : (emitOut s o).chain = s.chain := rfl
@[simp] theorem emitOut_mem : (emitOut s o).mem = s.mem := rfl
@[simp] theorem emitOut_lp : (emitOut s o).lp = s.lp := rfl
@[simp] theorem emitOut_pal : (emitOut s o).pal = s.pal := rfl
@[simp] theorem emitOut_msn : (emitOut s o).msn = s.msn := rfl
@[simp] theorem emitOut_lry : (emitOut s o).lry = s.lry := rfl
@[simp] theorem emitOut_arr : (emitOut s o).arr = s.arr := rfl
@[simp] theorem emitOut_spn : (emitOut s o).spn = s.spn := rfl
@[simp] theorem emitOut_clk : (emitOut s o).clk = s.clk := rfl
@[simp] theorem emitOut_rst : (emitOut s o).rst = s.rst := rfl
@[simp] theorem emitOut_pwr : (emitOut s o).pwr = s.pwr := rfl
@[simp] theorem emitOut_hv : (emitOut s o).hv = s.hv := rfl
@[simp] theorem emitOut_hif : (emitOut s o).hif = s.hif := rfl
@[simp] theorem emitOut_fw : (emitOut s o).fw = s.fw := rfl
@[simp] theorem emitOut_spr : (emitOut s o).spr = s.spr := rfl
@[simp] theorem emitOut_tel : (emitOut s o).tel = s.tel := rfl
@[simp] theorem emitOut_jtag : (emitOut s o).jtag = s.jtag := rfl
@[simp] theorem emitOut_nowUs : (emitOut s o).nowUs = s.nowUs := rfl
@[simp] theorem emitOut_sched : (emitOut s o).sched = s.sched := rfl
@[simp] theorem emitOut_draws : (emitOut s o).draws = s.draws := rfl
@[simp] theorem emitOut_freeCtr : (emitOut s o).freeCtr = s.freeCtr := rfl
end

/-! ## leafAdd -/

section
variable (s : State) (r n : Nat)
@[simp] theorem leafAdd_tel : (leafAdd s r n).tel = { s.tel with leaves := mapMod s.tel.leaves 0 r (· + n) } := rfl
@[simp] theorem leafAdd_pending : (leafAdd s r n).pending = s.pending := rfl
@[simp] theorem leafAdd_tiles : (leafAdd s r n).tiles = s.tiles := rfl
@[simp] theorem leafAdd_tileMap : (leafAdd s r n).tileMap = s.tileMap := rfl
@[simp] theorem leafAdd_jobs : (leafAdd s r n).jobs = s.jobs := rfl
@[simp] theorem leafAdd_trigPin : (leafAdd s r n).trigPin = s.trigPin := rfl
@[simp] theorem leafAdd_load : (leafAdd s r n).load = s.load := rfl
@[simp] theorem leafAdd_chain : (leafAdd s r n).chain = s.chain := rfl
@[simp] theorem leafAdd_mem : (leafAdd s r n).mem = s.mem := rfl
@[simp] theorem leafAdd_lp : (leafAdd s r n).lp = s.lp := rfl
@[simp] theorem leafAdd_pal : (leafAdd s r n).pal = s.pal := rfl
@[simp] theorem leafAdd_msn : (leafAdd s r n).msn = s.msn := rfl
@[simp] theorem leafAdd_lry : (leafAdd s r n).lry = s.lry := rfl
@[simp] theorem leafAdd_arr : (leafAdd s r n).arr = s.arr := rfl
@[simp] theorem leafAdd_spn : (leafAdd s r n).spn = s.spn := rfl
@[simp] theorem leafAdd_clk : (leafAdd s r n).clk = s.clk := rfl
@[simp] theorem leafAdd_rst : (leafAdd s r n).rst = s.rst := rfl
@[simp] theorem leafAdd_pwr : (leafAdd s r n).pwr = s.pwr := rfl
@[simp] theorem leafAdd_hv : (leafAdd s r n).hv = s.hv := rfl
@[simp] theorem leafAdd_hif : (leafAdd s r n).hif = s.hif := rfl
@[simp] theorem leafAdd_fw : (leafAdd s r n).fw = s.fw := rfl
@[simp] theorem leafAdd_spr : (leafAdd s r n).spr = s.spr := rfl
@[simp] theorem leafAdd_jtag : (leafAdd s r n).jtag = s.jtag := rfl
@[simp] theorem leafAdd_nowUs : (leafAdd s r n).nowUs = s.nowUs := rfl
@[simp] theorem leafAdd_sched : (leafAdd s r n).sched = s.sched := rfl
@[simp] theorem leafAdd_draws : (leafAdd s r n).draws = s.draws := rfl
@[simp] theorem leafAdd_freeCtr : (leafAdd s r n).freeCtr = s.freeCtr := rfl
@[simp] theorem leafAdd_out : (leafAdd s r n).out = s.out := rfl
end

/-! ## linkEvent -/

section
variable (s : State) (c : Nat)
@[simp] theorem linkEvent_pwr : (linkEvent s c).pwr = if s.pwr.linkLost then s.pwr else { s.pwr with linkEvs := ((c, s.nowUs) :: s.pwr.linkEvs).take 4 } := rfl
@[simp] theorem linkEvent_pending : (linkEvent s c).pending = s.pending := rfl
@[simp] theorem linkEvent_tiles : (linkEvent s c).tiles = s.tiles := rfl
@[simp] theorem linkEvent_tileMap : (linkEvent s c).tileMap = s.tileMap := rfl
@[simp] theorem linkEvent_jobs : (linkEvent s c).jobs = s.jobs := rfl
@[simp] theorem linkEvent_trigPin : (linkEvent s c).trigPin = s.trigPin := rfl
@[simp] theorem linkEvent_load : (linkEvent s c).load = s.load := rfl
@[simp] theorem linkEvent_chain : (linkEvent s c).chain = s.chain := rfl
@[simp] theorem linkEvent_mem : (linkEvent s c).mem = s.mem := rfl
@[simp] theorem linkEvent_lp : (linkEvent s c).lp = s.lp := rfl
@[simp] theorem linkEvent_pal : (linkEvent s c).pal = s.pal := rfl
@[simp] theorem linkEvent_msn : (linkEvent s c).msn = s.msn := rfl
@[simp] theorem linkEvent_lry : (linkEvent s c).lry = s.lry := rfl
@[simp] theorem linkEvent_arr : (linkEvent s c).arr = s.arr := rfl
@[simp] theorem linkEvent_spn : (linkEvent s c).spn = s.spn := rfl
@[simp] theorem linkEvent_clk : (linkEvent s c).clk = s.clk := rfl
@[simp] theorem linkEvent_rst : (linkEvent s c).rst = s.rst := rfl
@[simp] theorem linkEvent_hv : (linkEvent s c).hv = s.hv := rfl
@[simp] theorem linkEvent_hif : (linkEvent s c).hif = s.hif := rfl
@[simp] theorem linkEvent_fw : (linkEvent s c).fw = s.fw := rfl
@[simp] theorem linkEvent_spr : (linkEvent s c).spr = s.spr := rfl
@[simp] theorem linkEvent_tel : (linkEvent s c).tel = s.tel := rfl
@[simp] theorem linkEvent_jtag : (linkEvent s c).jtag = s.jtag := rfl
@[simp] theorem linkEvent_nowUs : (linkEvent s c).nowUs = s.nowUs := rfl
@[simp] theorem linkEvent_sched : (linkEvent s c).sched = s.sched := rfl
@[simp] theorem linkEvent_draws : (linkEvent s c).draws = s.draws := rfl
@[simp] theorem linkEvent_freeCtr : (linkEvent s c).freeCtr = s.freeCtr := rfl
@[simp] theorem linkEvent_out : (linkEvent s c).out = s.out := rfl
end

/-! ## tellHv -/

section
variable (s : State) (f : Hv → Hv)
@[simp] theorem tellHv_hv : (tellHv s f).hv = if s.pwr.linkLost then s.hv else f s.hv := rfl
@[simp] theorem tellHv_pending : (tellHv s f).pending = s.pending := rfl
@[simp] theorem tellHv_tiles : (tellHv s f).tiles = s.tiles := rfl
@[simp] theorem tellHv_tileMap : (tellHv s f).tileMap = s.tileMap := rfl
@[simp] theorem tellHv_jobs : (tellHv s f).jobs = s.jobs := rfl
@[simp] theorem tellHv_trigPin : (tellHv s f).trigPin = s.trigPin := rfl
@[simp] theorem tellHv_load : (tellHv s f).load = s.load := rfl
@[simp] theorem tellHv_chain : (tellHv s f).chain = s.chain := rfl
@[simp] theorem tellHv_mem : (tellHv s f).mem = s.mem := rfl
@[simp] theorem tellHv_lp : (tellHv s f).lp = s.lp := rfl
@[simp] theorem tellHv_pal : (tellHv s f).pal = s.pal := rfl
@[simp] theorem tellHv_msn : (tellHv s f).msn = s.msn := rfl
@[simp] theorem tellHv_lry : (tellHv s f).lry = s.lry := rfl
@[simp] theorem tellHv_arr : (tellHv s f).arr = s.arr := rfl
@[simp] theorem tellHv_spn : (tellHv s f).spn = s.spn := rfl
@[simp] theorem tellHv_clk : (tellHv s f).clk = s.clk := rfl
@[simp] theorem tellHv_rst : (tellHv s f).rst = s.rst := rfl
@[simp] theorem tellHv_pwr : (tellHv s f).pwr = s.pwr := rfl
@[simp] theorem tellHv_hif : (tellHv s f).hif = s.hif := rfl
@[simp] theorem tellHv_fw : (tellHv s f).fw = s.fw := rfl
@[simp] theorem tellHv_spr : (tellHv s f).spr = s.spr := rfl
@[simp] theorem tellHv_tel : (tellHv s f).tel = s.tel := rfl
@[simp] theorem tellHv_jtag : (tellHv s f).jtag = s.jtag := rfl
@[simp] theorem tellHv_nowUs : (tellHv s f).nowUs = s.nowUs := rfl
@[simp] theorem tellHv_sched : (tellHv s f).sched = s.sched := rfl
@[simp] theorem tellHv_draws : (tellHv s f).draws = s.draws := rfl
@[simp] theorem tellHv_freeCtr : (tellHv s f).freeCtr = s.freeCtr := rfl
@[simp] theorem tellHv_out : (tellHv s f).out = s.out := rfl
end

end Sys2Proof.Machine
end

