-- ==== Sys2Proof/Laws/Host.lean ====
section
/-! SUPPORT. What the shared operations of the host side can do: events, responses, completions and the
list of accepted commands change the host interface and what is driven outward, nothing else. -/

namespace Sys2Proof.Machine

/-- Only the host interface and what is driven outward differ. -/
def HostFrame (s t : State) : Prop := ∃ a b, t = { s with hif := a, out := b }

theorem HostFrame.rfl' (s : State) : HostFrame s s := ⟨s.hif, s.out, rfl⟩

theorem HostFrame.trans {s t u : State} (h : HostFrame s t) (g : HostFrame t u) : HostFrame s u := by
  obtain ⟨a, b, rfl⟩ := h
  obtain ⟨c, d, rfl⟩ := g
  exact ⟨c, d, rfl⟩

/-- A fold keeps the frame that each of its steps keeps. -/
theorem HostFrame.foldl {α : Type} (f : State → α → State) (h : ∀ s a, HostFrame s (f s a)) :
    ∀ (l : List α) (s : State), HostFrame s (l.foldl f s)
  | [], s => HostFrame.rfl' s
  | a :: l, s => (h s a).trans (HostFrame.foldl f h l (f s a))

theorem setRing_frame (s : State) (k : Nat) (r : Ring) : HostFrame s (setRing s k r) := ⟨_, _, rfl⟩
theorem modMbx_frame (s : State) (fn m : Nat) (f : Mbx → Mbx) : HostFrame s (modMbx s fn m f) :=
  ⟨_, _, rfl⟩
theorem emitOut_frame (s : State) (o : Out) : HostFrame s (emitOut s o) := ⟨_, _, rfl⟩

theorem ringStep_frame (s : State) (fn : Nat) (e : Ev) (i : Nat) : HostFrame s (ringStep s fn e i) :=
  ⟨_, _, rfl⟩

theorem ringSignal_frame (s : State) (fn : Nat) : HostFrame s (ringSignal s fn) := by
  simp only [ringSignal]
  split
  · exact ⟨_, _, rfl⟩
  · split <;> exact ⟨_, _, rfl⟩

theorem ringPut_frame (s : State) (fn : Nat) (e : Ev) : HostFrame s (ringPut s fn e) := by
  simp only [ringPut]
  split
  · exact HostFrame.rfl' s
  · split
    · exact ⟨_, _, rfl⟩
    · exact (HostFrame.foldl _ (fun s i => ringStep_frame s fn e i) _ s).trans (ringSignal_frame _ fn)

theorem logPut_frame (s : State) (e : Ev) : HostFrame s (logPut s e) := ⟨_, _, rfl⟩

theorem newEv_frame (s : State) (code job : Nat) (pl : List Byte) :
    HostFrame s (newEv s code job pl).2 := ⟨_, _, rfl⟩

theorem ringOverflow_frame (s : State) (fn : Nat) : HostFrame s (ringOverflow s fn) := by
  simp only [ringOverflow]
  split
  · exact (newEv_frame s _ _ _).trans
      ((logPut_frame _ _).trans ((setRing_frame _ _ _).trans (ringPut_frame _ fn _)))
  · exact HostFrame.rfl' s

theorem toRing_frame (e : Ev) (s : State) (fn : Nat) : HostFrame s (toRing e s fn) :=
  (ringOverflow_frame s fn).trans (ringPut_frame _ fn e)

theorem emitTo_frame (s : State) (fns : List Nat) (code job : Nat) (fs : List (Nat × Nat)) :
    HostFrame s (emitTo s fns code job fs) := by
  simp only [emitTo]
  exact (newEv_frame s _ _ _).trans
    ((logPut_frame _ _).trans (HostFrame.foldl _ (toRing_frame _) fns _))

theorem emitJob_frame (s : State) (code j : Nat) (fs : List (Nat × Nat)) :
    HostFrame s (emitJob s code j fs) := emitTo_frame _ _ _ _ _

theorem emitDev_frame (s : State) (code : Nat) (fs : List (Nat × Nat)) :
    HostFrame s (emitDev s code fs) := emitTo_frame _ _ _ _ _

theorem emitLog_frame (s : State) (code : Nat) (fs : List (Nat × Nat)) :
    HostFrame s (emitLog s code fs) := emitTo_frame _ _ _ _ _

theorem respondJ_frame (s : State) (h : Hdr) (op : Nat) (st : St) (j : Nat) (pl : List Byte) :
    HostFrame s (respondJ s h op st j pl) := by
  simp only [respondJ]
  split
  · exact (modMbx_frame s _ _ _).trans (emitTo_frame _ _ _ _ _)
  · split
    · exact (modMbx_frame s _ _ _).trans (emitTo_frame _ _ _ _ _)
    · exact ⟨_, _, rfl⟩

theorem respond_frame (s : State) (h : Hdr) (op : Nat) (st : St) (pl : List Byte) :
    HostFrame s (respond s h op st pl) := respondJ_frame _ _ _ _ _ _

theorem answer_frame (s : State) (h : Hdr) (op : Nat) (pl : List Byte) :
    HostFrame s (answer s h op pl) := respondJ_frame _ _ _ _ _ _

theorem fail_frame (s : State) (h : Hdr) (op : Nat) (st : St) : HostFrame s (fail s h op st) :=
  respondJ_frame _ _ _ _ _ _

theorem complete_frame (s : State) (h : Hdr) (op code : Nat) (st : St) (fs : List (Nat × Nat)) :
    HostFrame s (complete s h op code st fs) := emitTo_frame _ _ _ _ _

theorem dropAcc_frame (s : State) (op : Nat) : HostFrame s (dropAcc s op) := by
  simp only [dropAcc]
  split
  · exact ⟨_, _, rfl⟩
  · exact HostFrame.rfl' s

theorem dropAccOf_frame (s : State) (op : Nat) (h : Hdr) : HostFrame s (dropAccOf s op h) := by
  simp only [dropAccOf]
  split
  · exact ⟨_, _, rfl⟩
  · exact HostFrame.rfl' s

/-! ## Field by field -/


theorem HostFrame.pending {s t : State} (h : HostFrame s t) : t.pending = s.pending := by
  obtain ⟨a, b, rfl⟩ := h; rfl
theorem HostFrame.tiles {s t : State} (h : HostFrame s t) : t.tiles = s.tiles := by
  obtain ⟨a, b, rfl⟩ := h; rfl
theorem HostFrame.tileMap {s t : State} (h : HostFrame s t) : t.tileMap = s.tileMap := by
  obtain ⟨a, b, rfl⟩ := h; rfl
theorem HostFrame.jobs {s t : State} (h : HostFrame s t) : t.jobs = s.jobs := by
  obtain ⟨a, b, rfl⟩ := h; rfl
theorem HostFrame.trigPin {s t : State} (h : HostFrame s t) : t.trigPin = s.trigPin := by
  obtain ⟨a, b, rfl⟩ := h; rfl
theorem HostFrame.load {s t : State} (h : HostFrame s t) : t.load = s.load := by
  obtain ⟨a, b, rfl⟩ := h; rfl
theorem HostFrame.chain {s t : State} (h : HostFrame s t) : t.chain = s.chain := by
  obtain ⟨a, b, rfl⟩ := h; rfl
theorem HostFrame.mem {s t : State} (h : HostFrame s t) : t.mem = s.mem := by
  obtain ⟨a, b, rfl⟩ := h; rfl
theorem HostFrame.lp {s t : State} (h : HostFrame s t) : t.lp = s.lp := by
  obtain ⟨a, b, rfl⟩ := h; rfl
theorem HostFrame.pal {s t : State} (h : HostFrame s t) : t.pal = s.pal := by
  obtain ⟨a, b, rfl⟩ := h; rfl
theorem HostFrame.msn {s t : State} (h : HostFrame s t) : t.msn = s.msn := by
  obtain ⟨a, b, rfl⟩ := h; rfl
theorem HostFrame.lry {s t : State} (h : HostFrame s t) : t.lry = s.lry := by
  obtain ⟨a, b, rfl⟩ := h; rfl
theorem HostFrame.arr {s t : State} (h : HostFrame s t) : t.arr = s.arr := by
  obtain ⟨a, b, rfl⟩ := h; rfl
theorem HostFrame.spn {s t : State} (h : HostFrame s t) : t.spn = s.spn := by
  obtain ⟨a, b, rfl⟩ := h; rfl
theorem HostFrame.clk {s t : State} (h : HostFrame s t) : t.clk = s.clk := by
  obtain ⟨a, b, rfl⟩ := h; rfl
theorem HostFrame.rst {s t : State} (h : HostFrame s t) : t.rst = s.rst := by
  obtain ⟨a, b, rfl⟩ := h; rfl
theorem HostFrame.pwr {s t : State} (h : HostFrame s t) : t.pwr = s.pwr := by
  obtain ⟨a, b, rfl⟩ := h; rfl
theorem HostFrame.hv {s t : State} (h : HostFrame s t) : t.hv = s.hv := by
  obtain ⟨a, b, rfl⟩ := h; rfl
theorem HostFrame.fw {s t : State} (h : HostFrame s t) : t.fw = s.fw := by
  obtain ⟨a, b, rfl⟩ := h; rfl
theorem HostFrame.spr {s t : State} (h : HostFrame s t) : t.spr = s.spr := by
  obtain ⟨a, b, rfl⟩ := h; rfl
theorem HostFrame.tel {s t : State} (h : HostFrame s t) : t.tel = s.tel := by
  obtain ⟨a, b, rfl⟩ := h; rfl
theorem HostFrame.jtag {s t : State} (h : HostFrame s t) : t.jtag = s.jtag := by
  obtain ⟨a, b, rfl⟩ := h; rfl
theorem HostFrame.nowUs {s t : State} (h : HostFrame s t) : t.nowUs = s.nowUs := by
  obtain ⟨a, b, rfl⟩ := h; rfl
theorem HostFrame.sched {s t : State} (h : HostFrame s t) : t.sched = s.sched := by
  obtain ⟨a, b, rfl⟩ := h; rfl
theorem HostFrame.draws {s t : State} (h : HostFrame s t) : t.draws = s.draws := by
  obtain ⟨a, b, rfl⟩ := h; rfl
theorem HostFrame.freeCtr {s t : State} (h : HostFrame s t) : t.freeCtr = s.freeCtr := by
  obtain ⟨a, b, rfl⟩ := h; rfl

section
variable (s : State) (fn : Nat) (e : Ev) (i : Nat)
@[simp] theorem ringStep_pending : (ringStep s fn e i).pending = s.pending := (ringStep_frame s fn e i).pending
@[simp] theorem ringStep_tiles : (ringStep s fn e i).tiles = s.tiles := (ringStep_frame s fn e i).tiles
@[simp] theorem ringStep_tileMap : (ringStep s fn e i).tileMap = s.tileMap := (ringStep_frame s fn e i).tileMap
@[simp] theorem ringStep_jobs : (ringStep s fn e i).jobs = s.jobs := (ringStep_frame s fn e i).jobs
@[simp] theorem ringStep_trigPin : (ringStep s fn e i).trigPin = s.trigPin := (ringStep_frame s fn e i).trigPin
@[simp] theorem ringStep_load : (ringStep s fn e i).load = s.load := (ringStep_frame s fn e i).load
@[simp] theorem ringStep_chain : (ringStep s fn e i).chain = s.chain := (ringStep_frame s fn e i).chain
@[simp] theorem ringStep_mem : (ringStep s fn e i).mem = s.mem := (ringStep_frame s fn e i).mem
@[simp] theorem ringStep_lp : (ringStep s fn e i).lp = s.lp := (ringStep_frame s fn e i).lp
@[simp] theorem ringStep_pal : (ringStep s fn e i).pal = s.pal := (ringStep_frame s fn e i).pal
@[simp] theorem ringStep_msn : (ringStep s fn e i).msn = s.msn := (ringStep_frame s fn e i).msn
@[simp] theorem ringStep_lry : (ringStep s fn e i).lry = s.lry := (ringStep_frame s fn e i).lry
@[simp] theorem ringStep_arr : (ringStep s fn e i).arr = s.arr := (ringStep_frame s fn e i).arr
@[simp] theorem ringStep_spn : (ringStep s fn e i).spn = s.spn := (ringStep_frame s fn e i).spn
@[simp] theorem ringStep_clk : (ringStep s fn e i).clk = s.clk := (ringStep_frame s fn e i).clk
@[simp] theorem ringStep_rst : (ringStep s fn e i).rst = s.rst := (ringStep_frame s fn e i).rst
@[simp] theorem ringStep_pwr : (ringStep s fn e i).pwr = s.pwr := (ringStep_frame s fn e i).pwr
@[simp] theorem ringStep_hv : (ringStep s fn e i).hv = s.hv := (ringStep_frame s fn e i).hv
@[simp] theorem ringStep_fw : (ringStep s fn e i).fw = s.fw := (ringStep_frame s fn e i).fw
@[simp] theorem ringStep_spr : (ringStep s fn e i).spr = s.spr := (ringStep_frame s fn e i).spr
@[simp] theorem ringStep_tel : (ringStep s fn e i).tel = s.tel := (ringStep_frame s fn e i).tel
@[simp] theorem ringStep_jtag : (ringStep s fn e i).jtag = s.jtag := (ringStep_frame s fn e i).jtag
@[simp] theorem ringStep_nowUs : (ringStep s fn e i).nowUs = s.nowUs := (ringStep_frame s fn e i).nowUs
@[simp] theorem ringStep_sched : (ringStep s fn e i).sched = s.sched := (ringStep_frame s fn e i).sched
@[simp] theorem ringStep_draws : (ringStep s fn e i).draws = s.draws := (ringStep_frame s fn e i).draws
@[simp] theorem ringStep_freeCtr : (ringStep s fn e i).freeCtr = s.freeCtr := (ringStep_frame s fn e i).freeCtr
end

section
variable (s : State) (fn : Nat)
@[simp] theorem ringSignal_pending : (ringSignal s fn).pending = s.pending := (ringSignal_frame s fn).pending
@[simp] theorem ringSignal_tiles : (ringSignal s fn).tiles = s.tiles := (ringSignal_frame s fn).tiles
@[simp] theorem ringSignal_tileMap : (ringSignal s fn).tileMap = s.tileMap := (ringSignal_frame s fn).tileMap
@[simp] theorem ringSignal_jobs : (ringSignal s fn).jobs = s.jobs := (ringSignal_frame s fn).jobs
@[simp] theorem ringSignal_trigPin : (ringSignal s fn).trigPin = s.trigPin := (ringSignal_frame s fn).trigPin
@[simp] theorem ringSignal_load : (ringSignal s fn).load = s.load := (ringSignal_frame s fn).load
@[simp] theorem ringSignal_chain : (ringSignal s fn).chain = s.chain := (ringSignal_frame s fn).chain
@[simp] theorem ringSignal_mem : (ringSignal s fn).mem = s.mem := (ringSignal_frame s fn).mem
@[simp] theorem ringSignal_lp : (ringSignal s fn).lp = s.lp := (ringSignal_frame s fn).lp
@[simp] theorem ringSignal_pal : (ringSignal s fn).pal = s.pal := (ringSignal_frame s fn).pal
@[simp] theorem ringSignal_msn : (ringSignal s fn).msn = s.msn := (ringSignal_frame s fn).msn
@[simp] theorem ringSignal_lry : (ringSignal s fn).lry = s.lry := (ringSignal_frame s fn).lry
@[simp] theorem ringSignal_arr : (ringSignal s fn).arr = s.arr := (ringSignal_frame s fn).arr
@[simp] theorem ringSignal_spn : (ringSignal s fn).spn = s.spn := (ringSignal_frame s fn).spn
@[simp] theorem ringSignal_clk : (ringSignal s fn).clk = s.clk := (ringSignal_frame s fn).clk
@[simp] theorem ringSignal_rst : (ringSignal s fn).rst = s.rst := (ringSignal_frame s fn).rst
@[simp] theorem ringSignal_pwr : (ringSignal s fn).pwr = s.pwr := (ringSignal_frame s fn).pwr
@[simp] theorem ringSignal_hv : (ringSignal s fn).hv = s.hv := (ringSignal_frame s fn).hv
@[simp] theorem ringSignal_fw : (ringSignal s fn).fw = s.fw := (ringSignal_frame s fn).fw
@[simp] theorem ringSignal_spr : (ringSignal s fn).spr = s.spr := (ringSignal_frame s fn).spr
@[simp] theorem ringSignal_tel : (ringSignal s fn).tel = s.tel := (ringSignal_frame s fn).tel
@[simp] theorem ringSignal_jtag : (ringSignal s fn).jtag = s.jtag := (ringSignal_frame s fn).jtag
@[simp] theorem ringSignal_nowUs : (ringSignal s fn).nowUs = s.nowUs := (ringSignal_frame s fn).nowUs
@[simp] theorem ringSignal_sched : (ringSignal s fn).sched = s.sched := (ringSignal_frame s fn).sched
@[simp] theorem ringSignal_draws : (ringSignal s fn).draws = s.draws := (ringSignal_frame s fn).draws
@[simp] theorem ringSignal_freeCtr : (ringSignal s fn).freeCtr = s.freeCtr := (ringSignal_frame s fn).freeCtr
end

section
variable (s : State) (fn : Nat) (e : Ev)
@[simp] theorem ringPut_pending : (ringPut s fn e).pending = s.pending := (ringPut_frame s fn e).pending
@[simp] theorem ringPut_tiles : (ringPut s fn e).tiles = s.tiles := (ringPut_frame s fn e).tiles
@[simp] theorem ringPut_tileMap : (ringPut s fn e).tileMap = s.tileMap := (ringPut_frame s fn e).tileMap
@[simp] theorem ringPut_jobs : (ringPut s fn e).jobs = s.jobs := (ringPut_frame s fn e).jobs
@[simp] theorem ringPut_trigPin : (ringPut s fn e).trigPin = s.trigPin := (ringPut_frame s fn e).trigPin
@[simp] theorem ringPut_load : (ringPut s fn e).load = s.load := (ringPut_frame s fn e).load
@[simp] theorem ringPut_chain : (ringPut s fn e).chain = s.chain := (ringPut_frame s fn e).chain
@[simp] theorem ringPut_mem : (ringPut s fn e).mem = s.mem := (ringPut_frame s fn e).mem
@[simp] theorem ringPut_lp : (ringPut s fn e).lp = s.lp := (ringPut_frame s fn e).lp
@[simp] theorem ringPut_pal : (ringPut s fn e).pal = s.pal := (ringPut_frame s fn e).pal
@[simp] theorem ringPut_msn : (ringPut s fn e).msn = s.msn := (ringPut_frame s fn e).msn
@[simp] theorem ringPut_lry : (ringPut s fn e).lry = s.lry := (ringPut_frame s fn e).lry
@[simp] theorem ringPut_arr : (ringPut s fn e).arr = s.arr := (ringPut_frame s fn e).arr
@[simp] theorem ringPut_spn : (ringPut s fn e).spn = s.spn := (ringPut_frame s fn e).spn
@[simp] theorem ringPut_clk : (ringPut s fn e).clk = s.clk := (ringPut_frame s fn e).clk
@[simp] theorem ringPut_rst : (ringPut s fn e).rst = s.rst := (ringPut_frame s fn e).rst
@[simp] theorem ringPut_pwr : (ringPut s fn e).pwr = s.pwr := (ringPut_frame s fn e).pwr
@[simp] theorem ringPut_hv : (ringPut s fn e).hv = s.hv := (ringPut_frame s fn e).hv
@[simp] theorem ringPut_fw : (ringPut s fn e).fw = s.fw := (ringPut_frame s fn e).fw
@[simp] theorem ringPut_spr : (ringPut s fn e).spr = s.spr := (ringPut_frame s fn e).spr
@[simp] theorem ringPut_tel : (ringPut s fn e).tel = s.tel := (ringPut_frame s fn e).tel
@[simp] theorem ringPut_jtag : (ringPut s fn e).jtag = s.jtag := (ringPut_frame s fn e).jtag
@[simp] theorem ringPut_nowUs : (ringPut s fn e).nowUs = s.nowUs := (ringPut_frame s fn e).nowUs
@[simp] theorem ringPut_sched : (ringPut s fn e).sched = s.sched := (ringPut_frame s fn e).sched
@[simp] theorem ringPut_draws : (ringPut s fn e).draws = s.draws := (ringPut_frame s fn e).draws
@[simp] theorem ringPut_freeCtr : (ringPut s fn e).freeCtr = s.freeCtr := (ringPut_frame s fn e).freeCtr
end

section
variable (s : State) (e : Ev)
@[simp] theorem logPut_pending : (logPut s e).pending = s.pending := (logPut_frame s e).pending
@[simp] theorem logPut_tiles : (logPut s e).tiles = s.tiles := (logPut_frame s e).tiles
@[simp] theorem logPut_tileMap : (logPut s e).tileMap = s.tileMap := (logPut_frame s e).tileMap
@[simp] theorem logPut_jobs : (logPut s e).jobs = s.jobs := (logPut_frame s e).jobs
@[simp] theorem logPut_trigPin : (logPut s e).trigPin = s.trigPin := (logPut_frame s e).trigPin
@[simp] theorem logPut_load : (logPut s e).load = s.load := (logPut_frame s e).load
@[simp] theorem logPut_chain : (logPut s e).chain = s.chain := (logPut_frame s e).chain
@[simp] theorem logPut_mem : (logPut s e).mem = s.mem := (logPut_frame s e).mem
@[simp] theorem logPut_lp : (logPut s e).lp = s.lp := (logPut_frame s e).lp
@[simp] theorem logPut_pal : (logPut s e).pal = s.pal := (logPut_frame s e).pal
@[simp] theorem logPut_msn : (logPut s e).msn = s.msn := (logPut_frame s e).msn
@[simp] theorem logPut_lry : (logPut s e).lry = s.lry := (logPut_frame s e).lry
@[simp] theorem logPut_arr : (logPut s e).arr = s.arr := (logPut_frame s e).arr
@[simp] theorem logPut_spn : (logPut s e).spn = s.spn := (logPut_frame s e).spn
@[simp] theorem logPut_clk : (logPut s e).clk = s.clk := (logPut_frame s e).clk
@[simp] theorem logPut_rst : (logPut s e).rst = s.rst := (logPut_frame s e).rst
@[simp] theorem logPut_pwr : (logPut s e).pwr = s.pwr := (logPut_frame s e).pwr
@[simp] theorem logPut_hv : (logPut s e).hv = s.hv := (logPut_frame s e).hv
@[simp] theorem logPut_fw : (logPut s e).fw = s.fw := (logPut_frame s e).fw
@[simp] theorem logPut_spr : (logPut s e).spr = s.spr := (logPut_frame s e).spr
@[simp] theorem logPut_tel : (logPut s e).tel = s.tel := (logPut_frame s e).tel
@[simp] theorem logPut_jtag : (logPut s e).jtag = s.jtag := (logPut_frame s e).jtag
@[simp] theorem logPut_nowUs : (logPut s e).nowUs = s.nowUs := (logPut_frame s e).nowUs
@[simp] theorem logPut_sched : (logPut s e).sched = s.sched := (logPut_frame s e).sched
@[simp] theorem logPut_draws : (logPut s e).draws = s.draws := (logPut_frame s e).draws
@[simp] theorem logPut_freeCtr : (logPut s e).freeCtr = s.freeCtr := (logPut_frame s e).freeCtr
end

section
variable (s : State) (fn : Nat)
@[simp] theorem ringOverflow_pending : (ringOverflow s fn).pending = s.pending := (ringOverflow_frame s fn).pending
@[simp] theorem ringOverflow_tiles : (ringOverflow s fn).tiles = s.tiles := (ringOverflow_frame s fn).tiles
@[simp] theorem ringOverflow_tileMap : (ringOverflow s fn).tileMap = s.tileMap := (ringOverflow_frame s fn).tileMap
@[simp] theorem ringOverflow_jobs : (ringOverflow s fn).jobs = s.jobs := (ringOverflow_frame s fn).jobs
@[simp] theorem ringOverflow_trigPin : (ringOverflow s fn).trigPin = s.trigPin := (ringOverflow_frame s fn).trigPin
@[simp] theorem ringOverflow_load : (ringOverflow s fn).load = s.load := (ringOverflow_frame s fn).load
@[simp] theorem ringOverflow_chain : (ringOverflow s fn).chain = s.chain := (ringOverflow_frame s fn).chain
@[simp] theorem ringOverflow_mem : (ringOverflow s fn).mem = s.mem := (ringOverflow_frame s fn).mem
@[simp] theorem ringOverflow_lp : (ringOverflow s fn).lp = s.lp := (ringOverflow_frame s fn).lp
@[simp] theorem ringOverflow_pal : (ringOverflow s fn).pal = s.pal := (ringOverflow_frame s fn).pal
@[simp] theorem ringOverflow_msn : (ringOverflow s fn).msn = s.msn := (ringOverflow_frame s fn).msn
@[simp] theorem ringOverflow_lry : (ringOverflow s fn).lry = s.lry := (ringOverflow_frame s fn).lry
@[simp] theorem ringOverflow_arr : (ringOverflow s fn).arr = s.arr := (ringOverflow_frame s fn).arr
@[simp] theorem ringOverflow_spn : (ringOverflow s fn).spn = s.spn := (ringOverflow_frame s fn).spn
@[simp] theorem ringOverflow_clk : (ringOverflow s fn).clk = s.clk := (ringOverflow_frame s fn).clk
@[simp] theorem ringOverflow_rst : (ringOverflow s fn).rst = s.rst := (ringOverflow_frame s fn).rst
@[simp] theorem ringOverflow_pwr : (ringOverflow s fn).pwr = s.pwr := (ringOverflow_frame s fn).pwr
@[simp] theorem ringOverflow_hv : (ringOverflow s fn).hv = s.hv := (ringOverflow_frame s fn).hv
@[simp] theorem ringOverflow_fw : (ringOverflow s fn).fw = s.fw := (ringOverflow_frame s fn).fw
@[simp] theorem ringOverflow_spr : (ringOverflow s fn).spr = s.spr := (ringOverflow_frame s fn).spr
@[simp] theorem ringOverflow_tel : (ringOverflow s fn).tel = s.tel := (ringOverflow_frame s fn).tel
@[simp] theorem ringOverflow_jtag : (ringOverflow s fn).jtag = s.jtag := (ringOverflow_frame s fn).jtag
@[simp] theorem ringOverflow_nowUs : (ringOverflow s fn).nowUs = s.nowUs := (ringOverflow_frame s fn).nowUs
@[simp] theorem ringOverflow_sched : (ringOverflow s fn).sched = s.sched := (ringOverflow_frame s fn).sched
@[simp] theorem ringOverflow_draws : (ringOverflow s fn).draws = s.draws := (ringOverflow_frame s fn).draws
@[simp] theorem ringOverflow_freeCtr : (ringOverflow s fn).freeCtr = s.freeCtr := (ringOverflow_frame s fn).freeCtr
end

section
variable (e : Ev) (s : State) (fn : Nat)
@[simp] theorem toRing_pending : (toRing e s fn).pending = s.pending := (toRing_frame e s fn).pending
@[simp] theorem toRing_tiles : (toRing e s fn).tiles = s.tiles := (toRing_frame e s fn).tiles
@[simp] theorem toRing_tileMap : (toRing e s fn).tileMap = s.tileMap := (toRing_frame e s fn).tileMap
@[simp] theorem toRing_jobs : (toRing e s fn).jobs = s.jobs := (toRing_frame e s fn).jobs
@[simp] theorem toRing_trigPin : (toRing e s fn).trigPin = s.trigPin := (toRing_frame e s fn).trigPin
@[simp] theorem toRing_load : (toRing e s fn).load = s.load := (toRing_frame e s fn).load
@[simp] theorem toRing_chain : (toRing e s fn).chain = s.chain := (toRing_frame e s fn).chain
@[simp] theorem toRing_mem : (toRing e s fn).mem = s.mem := (toRing_frame e s fn).mem
@[simp] theorem toRing_lp : (toRing e s fn).lp = s.lp := (toRing_frame e s fn).lp
@[simp] theorem toRing_pal : (toRing e s fn).pal = s.pal := (toRing_frame e s fn).pal
@[simp] theorem toRing_msn : (toRing e s fn).msn = s.msn := (toRing_frame e s fn).msn
@[simp] theorem toRing_lry : (toRing e s fn).lry = s.lry := (toRing_frame e s fn).lry
@[simp] theorem toRing_arr : (toRing e s fn).arr = s.arr := (toRing_frame e s fn).arr
@[simp] theorem toRing_spn : (toRing e s fn).spn = s.spn := (toRing_frame e s fn).spn
@[simp] theorem toRing_clk : (toRing e s fn).clk = s.clk := (toRing_frame e s fn).clk
@[simp] theorem toRing_rst : (toRing e s fn).rst = s.rst := (toRing_frame e s fn).rst
@[simp] theorem toRing_pwr : (toRing e s fn).pwr = s.pwr := (toRing_frame e s fn).pwr
@[simp] theorem toRing_hv : (toRing e s fn).hv = s.hv := (toRing_frame e s fn).hv
@[simp] theorem toRing_fw : (toRing e s fn).fw = s.fw := (toRing_frame e s fn).fw
@[simp] theorem toRing_spr : (toRing e s fn).spr = s.spr := (toRing_frame e s fn).spr
@[simp] theorem toRing_tel : (toRing e s fn).tel = s.tel := (toRing_frame e s fn).tel
@[simp] theorem toRing_jtag : (toRing e s fn).jtag = s.jtag := (toRing_frame e s fn).jtag
@[simp] theorem toRing_nowUs : (toRing e s fn).nowUs = s.nowUs := (toRing_frame e s fn).nowUs
@[simp] theorem toRing_sched : (toRing e s fn).sched = s.sched := (toRing_frame e s fn).sched
@[simp] theorem toRing_draws : (toRing e s fn).draws = s.draws := (toRing_frame e s fn).draws
@[simp] theorem toRing_freeCtr : (toRing e s fn).freeCtr = s.freeCtr := (toRing_frame e s fn).freeCtr
end

section
variable (s : State) (fns : List Nat) (code job : Nat) (fs : List (Nat × Nat))
@[simp] theorem emitTo_pending : (emitTo s fns code job fs).pending = s.pending := (emitTo_frame s fns code job fs).pending
@[simp] theorem emitTo_tiles : (emitTo s fns code job fs).tiles = s.tiles := (emitTo_frame s fns code job fs).tiles
@[simp] theorem emitTo_tileMap : (emitTo s fns code job fs).tileMap = s.tileMap := (emitTo_frame s fns code job fs).tileMap
@[simp] theorem emitTo_jobs : (emitTo s fns code job fs).jobs = s.jobs := (emitTo_frame s fns code job fs).jobs
@[simp] theorem emitTo_trigPin : (emitTo s fns code job fs).trigPin = s.trigPin := (emitTo_frame s fns code job fs).trigPin
@[simp] theorem emitTo_load : (emitTo s fns code job fs).load = s.load := (emitTo_frame s fns code job fs).load
@[simp] theorem emitTo_chain : (emitTo s fns code job fs).chain = s.chain := (emitTo_frame s fns code job fs).chain
@[simp] theorem emitTo_mem : (emitTo s fns code job fs).mem = s.mem := (emitTo_frame s fns code job fs).mem
@[simp] theorem emitTo_lp : (emitTo s fns code job fs).lp = s.lp := (emitTo_frame s fns code job fs).lp
@[simp] theorem emitTo_pal : (emitTo s fns code job fs).pal = s.pal := (emitTo_frame s fns code job fs).pal
@[simp] theorem emitTo_msn : (emitTo s fns code job fs).msn = s.msn := (emitTo_frame s fns code job fs).msn
@[simp] theorem emitTo_lry : (emitTo s fns code job fs).lry = s.lry := (emitTo_frame s fns code job fs).lry
@[simp] theorem emitTo_arr : (emitTo s fns code job fs).arr = s.arr := (emitTo_frame s fns code job fs).arr
@[simp] theorem emitTo_spn : (emitTo s fns code job fs).spn = s.spn := (emitTo_frame s fns code job fs).spn
@[simp] theorem emitTo_clk : (emitTo s fns code job fs).clk = s.clk := (emitTo_frame s fns code job fs).clk
@[simp] theorem emitTo_rst : (emitTo s fns code job fs).rst = s.rst := (emitTo_frame s fns code job fs).rst
@[simp] theorem emitTo_pwr : (emitTo s fns code job fs).pwr = s.pwr := (emitTo_frame s fns code job fs).pwr
@[simp] theorem emitTo_hv : (emitTo s fns code job fs).hv = s.hv := (emitTo_frame s fns code job fs).hv
@[simp] theorem emitTo_fw : (emitTo s fns code job fs).fw = s.fw := (emitTo_frame s fns code job fs).fw
@[simp] theorem emitTo_spr : (emitTo s fns code job fs).spr = s.spr := (emitTo_frame s fns code job fs).spr
@[simp] theorem emitTo_tel : (emitTo s fns code job fs).tel = s.tel := (emitTo_frame s fns code job fs).tel
@[simp] theorem emitTo_jtag : (emitTo s fns code job fs).jtag = s.jtag := (emitTo_frame s fns code job fs).jtag
@[simp] theorem emitTo_nowUs : (emitTo s fns code job fs).nowUs = s.nowUs := (emitTo_frame s fns code job fs).nowUs
@[simp] theorem emitTo_sched : (emitTo s fns code job fs).sched = s.sched := (emitTo_frame s fns code job fs).sched
@[simp] theorem emitTo_draws : (emitTo s fns code job fs).draws = s.draws := (emitTo_frame s fns code job fs).draws
@[simp] theorem emitTo_freeCtr : (emitTo s fns code job fs).freeCtr = s.freeCtr := (emitTo_frame s fns code job fs).freeCtr
end

section
variable (s : State) (code j : Nat) (fs : List (Nat × Nat))
@[simp] theorem emitJob_pending : (emitJob s code j fs).pending = s.pending := (emitJob_frame s code j fs).pending
@[simp] theorem emitJob_tiles : (emitJob s code j fs).tiles = s.tiles := (emitJob_frame s code j fs).tiles
@[simp] theorem emitJob_tileMap : (emitJob s code j fs).tileMap = s.tileMap := (emitJob_frame s code j fs).tileMap
@[simp] theorem emitJob_jobs : (emitJob s code j fs).jobs = s.jobs := (emitJob_frame s code j fs).jobs
@[simp] theorem emitJob_trigPin : (emitJob s code j fs).trigPin = s.trigPin := (emitJob_frame s code j fs).trigPin
@[simp] theorem emitJob_load : (emitJob s code j fs).load = s.load := (emitJob_frame s code j fs).load
@[simp] theorem emitJob_chain : (emitJob s code j fs).chain = s.chain := (emitJob_frame s code j fs).chain
@[simp] theorem emitJob_mem : (emitJob s code j fs).mem = s.mem := (emitJob_frame s code j fs).mem
@[simp] theorem emitJob_lp : (emitJob s code j fs).lp = s.lp := (emitJob_frame s code j fs).lp
@[simp] theorem emitJob_pal : (emitJob s code j fs).pal = s.pal := (emitJob_frame s code j fs).pal
@[simp] theorem emitJob_msn : (emitJob s code j fs).msn = s.msn := (emitJob_frame s code j fs).msn
@[simp] theorem emitJob_lry : (emitJob s code j fs).lry = s.lry := (emitJob_frame s code j fs).lry
@[simp] theorem emitJob_arr : (emitJob s code j fs).arr = s.arr := (emitJob_frame s code j fs).arr
@[simp] theorem emitJob_spn : (emitJob s code j fs).spn = s.spn := (emitJob_frame s code j fs).spn
@[simp] theorem emitJob_clk : (emitJob s code j fs).clk = s.clk := (emitJob_frame s code j fs).clk
@[simp] theorem emitJob_rst : (emitJob s code j fs).rst = s.rst := (emitJob_frame s code j fs).rst
@[simp] theorem emitJob_pwr : (emitJob s code j fs).pwr = s.pwr := (emitJob_frame s code j fs).pwr
@[simp] theorem emitJob_hv : (emitJob s code j fs).hv = s.hv := (emitJob_frame s code j fs).hv
@[simp] theorem emitJob_fw : (emitJob s code j fs).fw = s.fw := (emitJob_frame s code j fs).fw
@[simp] theorem emitJob_spr : (emitJob s code j fs).spr = s.spr := (emitJob_frame s code j fs).spr
@[simp] theorem emitJob_tel : (emitJob s code j fs).tel = s.tel := (emitJob_frame s code j fs).tel
@[simp] theorem emitJob_jtag : (emitJob s code j fs).jtag = s.jtag := (emitJob_frame s code j fs).jtag
@[simp] theorem emitJob_nowUs : (emitJob s code j fs).nowUs = s.nowUs := (emitJob_frame s code j fs).nowUs
@[simp] theorem emitJob_sched : (emitJob s code j fs).sched = s.sched := (emitJob_frame s code j fs).sched
@[simp] theorem emitJob_draws : (emitJob s code j fs).draws = s.draws := (emitJob_frame s code j fs).draws
@[simp] theorem emitJob_freeCtr : (emitJob s code j fs).freeCtr = s.freeCtr := (emitJob_frame s code j fs).freeCtr
end

section
variable (s : State) (code : Nat) (fs : List (Nat × Nat))
@[simp] theorem emitDev_pending : (emitDev s code fs).pending = s.pending := (emitDev_frame s code fs).pending
@[simp] theorem emitDev_tiles : (emitDev s code fs).tiles = s.tiles := (emitDev_frame s code fs).tiles
@[simp] theorem emitDev_tileMap : (emitDev s code fs).tileMap = s.tileMap := (emitDev_frame s code fs).tileMap
@[simp] theorem emitDev_jobs : (emitDev s code fs).jobs = s.jobs := (emitDev_frame s code fs).jobs
@[simp] theorem emitDev_trigPin : (emitDev s code fs).trigPin = s.trigPin := (emitDev_frame s code fs).trigPin
@[simp] theorem emitDev_load : (emitDev s code fs).load = s.load := (emitDev_frame s code fs).load
@[simp] theorem emitDev_chain : (emitDev s code fs).chain = s.chain := (emitDev_frame s code fs).chain
@[simp] theorem emitDev_mem : (emitDev s code fs).mem = s.mem := (emitDev_frame s code fs).mem
@[simp] theorem emitDev_lp : (emitDev s code fs).lp = s.lp := (emitDev_frame s code fs).lp
@[simp] theorem emitDev_pal : (emitDev s code fs).pal = s.pal := (emitDev_frame s code fs).pal
@[simp] theorem emitDev_msn : (emitDev s code fs).msn = s.msn := (emitDev_frame s code fs).msn
@[simp] theorem emitDev_lry : (emitDev s code fs).lry = s.lry := (emitDev_frame s code fs).lry
@[simp] theorem emitDev_arr : (emitDev s code fs).arr = s.arr := (emitDev_frame s code fs).arr
@[simp] theorem emitDev_spn : (emitDev s code fs).spn = s.spn := (emitDev_frame s code fs).spn
@[simp] theorem emitDev_clk : (emitDev s code fs).clk = s.clk := (emitDev_frame s code fs).clk
@[simp] theorem emitDev_rst : (emitDev s code fs).rst = s.rst := (emitDev_frame s code fs).rst
@[simp] theorem emitDev_pwr : (emitDev s code fs).pwr = s.pwr := (emitDev_frame s code fs).pwr
@[simp] theorem emitDev_hv : (emitDev s code fs).hv = s.hv := (emitDev_frame s code fs).hv
@[simp] theorem emitDev_fw : (emitDev s code fs).fw = s.fw := (emitDev_frame s code fs).fw
@[simp] theorem emitDev_spr : (emitDev s code fs).spr = s.spr := (emitDev_frame s code fs).spr
@[simp] theorem emitDev_tel : (emitDev s code fs).tel = s.tel := (emitDev_frame s code fs).tel
@[simp] theorem emitDev_jtag : (emitDev s code fs).jtag = s.jtag := (emitDev_frame s code fs).jtag
@[simp] theorem emitDev_nowUs : (emitDev s code fs).nowUs = s.nowUs := (emitDev_frame s code fs).nowUs
@[simp] theorem emitDev_sched : (emitDev s code fs).sched = s.sched := (emitDev_frame s code fs).sched
@[simp] theorem emitDev_draws : (emitDev s code fs).draws = s.draws := (emitDev_frame s code fs).draws
@[simp] theorem emitDev_freeCtr : (emitDev s code fs).freeCtr = s.freeCtr := (emitDev_frame s code fs).freeCtr
end

section
variable (s : State) (code : Nat) (fs : List (Nat × Nat))
@[simp] theorem emitLog_pending : (emitLog s code fs).pending = s.pending := (emitLog_frame s code fs).pending
@[simp] theorem emitLog_tiles : (emitLog s code fs).tiles = s.tiles := (emitLog_frame s code fs).tiles
@[simp] theorem emitLog_tileMap : (emitLog s code fs).tileMap = s.tileMap := (emitLog_frame s code fs).tileMap
@[simp] theorem emitLog_jobs : (emitLog s code fs).jobs = s.jobs := (emitLog_frame s code fs).jobs
@[simp] theorem emitLog_trigPin : (emitLog s code fs).trigPin = s.trigPin := (emitLog_frame s code fs).trigPin
@[simp] theorem emitLog_load : (emitLog s code fs).load = s.load := (emitLog_frame s code fs).load
@[simp] theorem emitLog_chain : (emitLog s code fs).chain = s.chain := (emitLog_frame s code fs).chain
@[simp] theorem emitLog_mem : (emitLog s code fs).mem = s.mem := (emitLog_frame s code fs).mem
@[simp] theorem emitLog_lp : (emitLog s code fs).lp = s.lp := (emitLog_frame s code fs).lp
@[simp] theorem emitLog_pal : (emitLog s code fs).pal = s.pal := (emitLog_frame s code fs).pal
@[simp] theorem emitLog_msn : (emitLog s code fs).msn = s.msn := (emitLog_frame s code fs).msn
@[simp] theorem emitLog_lry : (emitLog s code fs).lry = s.lry := (emitLog_frame s code fs).lry
@[simp] theorem emitLog_arr : (emitLog s code fs).arr = s.arr := (emitLog_frame s code fs).arr
@[simp] theorem emitLog_spn : (emitLog s code fs).spn = s.spn := (emitLog_frame s code fs).spn
@[simp] theorem emitLog_clk : (emitLog s code fs).clk = s.clk := (emitLog_frame s code fs).clk
@[simp] theorem emitLog_rst : (emitLog s code fs).rst = s.rst := (emitLog_frame s code fs).rst
@[simp] theorem emitLog_pwr : (emitLog s code fs).pwr = s.pwr := (emitLog_frame s code fs).pwr
@[simp] theorem emitLog_hv : (emitLog s code fs).hv = s.hv := (emitLog_frame s code fs).hv
@[simp] theorem emitLog_fw : (emitLog s code fs).fw = s.fw := (emitLog_frame s code fs).fw
@[simp] theorem emitLog_spr : (emitLog s code fs).spr = s.spr := (emitLog_frame s code fs).spr
@[simp] theorem emitLog_tel : (emitLog s code fs).tel = s.tel := (emitLog_frame s code fs).tel
@[simp] theorem emitLog_jtag : (emitLog s code fs).jtag = s.jtag := (emitLog_frame s code fs).jtag
@[simp] theorem emitLog_nowUs : (emitLog s code fs).nowUs = s.nowUs := (emitLog_frame s code fs).nowUs
@[simp] theorem emitLog_sched : (emitLog s code fs).sched = s.sched := (emitLog_frame s code fs).sched
@[simp] theorem emitLog_draws : (emitLog s code fs).draws = s.draws := (emitLog_frame s code fs).draws
@[simp] theorem emitLog_freeCtr : (emitLog s code fs).freeCtr = s.freeCtr := (emitLog_frame s code fs).freeCtr
end

section
variable (s : State) (h : Hdr) (op : Nat) (st : St) (j : Nat) (pl : List Byte)
@[simp] theorem respondJ_pending : (respondJ s h op st j pl).pending = s.pending := (respondJ_frame s h op st j pl).pending
@[simp] theorem respondJ_tiles : (respondJ s h op st j pl).tiles = s.tiles := (respondJ_frame s h op st j pl).tiles
@[simp] theorem respondJ_tileMap : (respondJ s h op st j pl).tileMap = s.tileMap := (respondJ_frame s h op st j pl).tileMap
@[simp] theorem respondJ_jobs : (respondJ s h op st j pl).jobs = s.jobs := (respondJ_frame s h op st j pl).jobs
@[simp] theorem respondJ_trigPin : (respondJ s h op st j pl).trigPin = s.trigPin := (respondJ_frame s h op st j pl).trigPin
@[simp] theorem respondJ_load : (respondJ s h op st j pl).load = s.load := (respondJ_frame s h op st j pl).load
@[simp] theorem respondJ_chain : (respondJ s h op st j pl).chain = s.chain := (respondJ_frame s h op st j pl).chain
@[simp] theorem respondJ_mem : (respondJ s h op st j pl).mem = s.mem := (respondJ_frame s h op st j pl).mem
@[simp] theorem respondJ_lp : (respondJ s h op st j pl).lp = s.lp := (respondJ_frame s h op st j pl).lp
@[simp] theorem respondJ_pal : (respondJ s h op st j pl).pal = s.pal := (respondJ_frame s h op st j pl).pal
@[simp] theorem respondJ_msn : (respondJ s h op st j pl).msn = s.msn := (respondJ_frame s h op st j pl).msn
@[simp] theorem respondJ_lry : (respondJ s h op st j pl).lry = s.lry := (respondJ_frame s h op st j pl).lry
@[simp] theorem respondJ_arr : (respondJ s h op st j pl).arr = s.arr := (respondJ_frame s h op st j pl).arr
@[simp] theorem respondJ_spn : (respondJ s h op st j pl).spn = s.spn := (respondJ_frame s h op st j pl).spn
@[simp] theorem respondJ_clk : (respondJ s h op st j pl).clk = s.clk := (respondJ_frame s h op st j pl).clk
@[simp] theorem respondJ_rst : (respondJ s h op st j pl).rst = s.rst := (respondJ_frame s h op st j pl).rst
@[simp] theorem respondJ_pwr : (respondJ s h op st j pl).pwr = s.pwr := (respondJ_frame s h op st j pl).pwr
@[simp] theorem respondJ_hv : (respondJ s h op st j pl).hv = s.hv := (respondJ_frame s h op st j pl).hv
@[simp] theorem respondJ_fw : (respondJ s h op st j pl).fw = s.fw := (respondJ_frame s h op st j pl).fw
@[simp] theorem respondJ_spr : (respondJ s h op st j pl).spr = s.spr := (respondJ_frame s h op st j pl).spr
@[simp] theorem respondJ_tel : (respondJ s h op st j pl).tel = s.tel := (respondJ_frame s h op st j pl).tel
@[simp] theorem respondJ_jtag : (respondJ s h op st j pl).jtag = s.jtag := (respondJ_frame s h op st j pl).jtag
@[simp] theorem respondJ_nowUs : (respondJ s h op st j pl).nowUs = s.nowUs := (respondJ_frame s h op st j pl).nowUs
@[simp] theorem respondJ_sched : (respondJ s h op st j pl).sched = s.sched := (respondJ_frame s h op st j pl).sched
@[simp] theorem respondJ_draws : (respondJ s h op st j pl).draws = s.draws := (respondJ_frame s h op st j pl).draws
@[simp] theorem respondJ_freeCtr : (respondJ s h op st j pl).freeCtr = s.freeCtr := (respondJ_frame s h op st j pl).freeCtr
end

section
variable (s : State) (h : Hdr) (op : Nat) (st : St) (pl : List Byte)
@[simp] theorem respond_pending : (respond s h op st pl).pending = s.pending := (respond_frame s h op st pl).pending
@[simp] theorem respond_tiles : (respond s h op st pl).tiles = s.tiles := (respond_frame s h op st pl).tiles
@[simp] theorem respond_tileMap : (respond s h op st pl).tileMap = s.tileMap := (respond_frame s h op st pl).tileMap
@[simp] theorem respond_jobs : (respond s h op st pl).jobs = s.jobs := (respond_frame s h op st pl).jobs
@[simp] theorem respond_trigPin : (respond s h op st pl).trigPin = s.trigPin := (respond_frame s h op st pl).trigPin
@[simp] theorem respond_load : (respond s h op st pl).load = s.load := (respond_frame s h op st pl).load
@[simp] theorem respond_chain : (respond s h op st pl).chain = s.chain := (respond_frame s h op st pl).chain
@[simp] theorem respond_mem : (respond s h op st pl).mem = s.mem := (respond_frame s h op st pl).mem
@[simp] theorem respond_lp : (respond s h op st pl).lp = s.lp := (respond_frame s h op st pl).lp
@[simp] theorem respond_pal : (respond s h op st pl).pal = s.pal := (respond_frame s h op st pl).pal
@[simp] theorem respond_msn : (respond s h op st pl).msn = s.msn := (respond_frame s h op st pl).msn
@[simp] theorem respond_lry : (respond s h op st pl).lry = s.lry := (respond_frame s h op st pl).lry
@[simp] theorem respond_arr : (respond s h op st pl).arr = s.arr := (respond_frame s h op st pl).arr
@[simp] theorem respond_spn : (respond s h op st pl).spn = s.spn := (respond_frame s h op st pl).spn
@[simp] theorem respond_clk : (respond s h op st pl).clk = s.clk := (respond_frame s h op st pl).clk
@[simp] theorem respond_rst : (respond s h op st pl).rst = s.rst := (respond_frame s h op st pl).rst
@[simp] theorem respond_pwr : (respond s h op st pl).pwr = s.pwr := (respond_frame s h op st pl).pwr
@[simp] theorem respond_hv : (respond s h op st pl).hv = s.hv := (respond_frame s h op st pl).hv
@[simp] theorem respond_fw : (respond s h op st pl).fw = s.fw := (respond_frame s h op st pl).fw
@[simp] theorem respond_spr : (respond s h op st pl).spr = s.spr := (respond_frame s h op st pl).spr
@[simp] theorem respond_tel : (respond s h op st pl).tel = s.tel := (respond_frame s h op st pl).tel
@[simp] theorem respond_jtag : (respond s h op st pl).jtag = s.jtag := (respond_frame s h op st pl).jtag
@[simp] theorem respond_nowUs : (respond s h op st pl).nowUs = s.nowUs := (respond_frame s h op st pl).nowUs
@[simp] theorem respond_sched : (respond s h op st pl).sched = s.sched := (respond_frame s h op st pl).sched
@[simp] theorem respond_draws : (respond s h op st pl).draws = s.draws := (respond_frame s h op st pl).draws
@[simp] theorem respond_freeCtr : (respond s h op st pl).freeCtr = s.freeCtr := (respond_frame s h op st pl).freeCtr
end

section
variable (s : State) (h : Hdr) (op : Nat) (pl : List Byte)
@[simp] theorem answer_pending : (answer s h op pl).pending = s.pending := (answer_frame s h op pl).pending
@[simp] theorem answer_tiles : (answer s h op pl).tiles = s.tiles := (answer_frame s h op pl).tiles
@[simp] theorem answer_tileMap : (answer s h op pl).tileMap = s.tileMap := (answer_frame s h op pl).tileMap
@[simp] theorem answer_jobs : (answer s h op pl).jobs = s.jobs := (answer_frame s h op pl).jobs
@[simp] theorem answer_trigPin : (answer s h op pl).trigPin = s.trigPin := (answer_frame s h op pl).trigPin
@[simp] theorem answer_load : (answer s h op pl).load = s.load := (answer_frame s h op pl).load
@[simp] theorem answer_chain : (answer s h op pl).chain = s.chain := (answer_frame s h op pl).chain
@[simp] theorem answer_mem : (answer s h op pl).mem = s.mem := (answer_frame s h op pl).mem
@[simp] theorem answer_lp : (answer s h op pl).lp = s.lp := (answer_frame s h op pl).lp
@[simp] theorem answer_pal : (answer s h op pl).pal = s.pal := (answer_frame s h op pl).pal
@[simp] theorem answer_msn : (answer s h op pl).msn = s.msn := (answer_frame s h op pl).msn
@[simp] theorem answer_lry : (answer s h op pl).lry = s.lry := (answer_frame s h op pl).lry
@[simp] theorem answer_arr : (answer s h op pl).arr = s.arr := (answer_frame s h op pl).arr
@[simp] theorem answer_spn : (answer s h op pl).spn = s.spn := (answer_frame s h op pl).spn
@[simp] theorem answer_clk : (answer s h op pl).clk = s.clk := (answer_frame s h op pl).clk
@[simp] theorem answer_rst : (answer s h op pl).rst = s.rst := (answer_frame s h op pl).rst
@[simp] theorem answer_pwr : (answer s h op pl).pwr = s.pwr := (answer_frame s h op pl).pwr
@[simp] theorem answer_hv : (answer s h op pl).hv = s.hv := (answer_frame s h op pl).hv
@[simp] theorem answer_fw : (answer s h op pl).fw = s.fw := (answer_frame s h op pl).fw
@[simp] theorem answer_spr : (answer s h op pl).spr = s.spr := (answer_frame s h op pl).spr
@[simp] theorem answer_tel : (answer s h op pl).tel = s.tel := (answer_frame s h op pl).tel
@[simp] theorem answer_jtag : (answer s h op pl).jtag = s.jtag := (answer_frame s h op pl).jtag
@[simp] theorem answer_nowUs : (answer s h op pl).nowUs = s.nowUs := (answer_frame s h op pl).nowUs
@[simp] theorem answer_sched : (answer s h op pl).sched = s.sched := (answer_frame s h op pl).sched
@[simp] theorem answer_draws : (answer s h op pl).draws = s.draws := (answer_frame s h op pl).draws
@[simp] theorem answer_freeCtr : (answer s h op pl).freeCtr = s.freeCtr := (answer_frame s h op pl).freeCtr
end

section
variable (s : State) (h : Hdr) (op : Nat) (st : St)
@[simp] theorem fail_pending : (fail s h op st).pending = s.pending := (fail_frame s h op st).pending
@[simp] theorem fail_tiles : (fail s h op st).tiles = s.tiles := (fail_frame s h op st).tiles
@[simp] theorem fail_tileMap : (fail s h op st).tileMap = s.tileMap := (fail_frame s h op st).tileMap
@[simp] theorem fail_jobs : (fail s h op st).jobs = s.jobs := (fail_frame s h op st).jobs
@[simp] theorem fail_trigPin : (fail s h op st).trigPin = s.trigPin := (fail_frame s h op st).trigPin
@[simp] theorem fail_load : (fail s h op st).load = s.load := (fail_frame s h op st).load
@[simp] theorem fail_chain : (fail s h op st).chain = s.chain := (fail_frame s h op st).chain
@[simp] theorem fail_mem : (fail s h op st).mem = s.mem := (fail_frame s h op st).mem
@[simp] theorem fail_lp : (fail s h op st).lp = s.lp := (fail_frame s h op st).lp
@[simp] theorem fail_pal : (fail s h op st).pal = s.pal := (fail_frame s h op st).pal
@[simp] theorem fail_msn : (fail s h op st).msn = s.msn := (fail_frame s h op st).msn
@[simp] theorem fail_lry : (fail s h op st).lry = s.lry := (fail_frame s h op st).lry
@[simp] theorem fail_arr : (fail s h op st).arr = s.arr := (fail_frame s h op st).arr
@[simp] theorem fail_spn : (fail s h op st).spn = s.spn := (fail_frame s h op st).spn
@[simp] theorem fail_clk : (fail s h op st).clk = s.clk := (fail_frame s h op st).clk
@[simp] theorem fail_rst : (fail s h op st).rst = s.rst := (fail_frame s h op st).rst
@[simp] theorem fail_pwr : (fail s h op st).pwr = s.pwr := (fail_frame s h op st).pwr
@[simp] theorem fail_hv : (fail s h op st).hv = s.hv := (fail_frame s h op st).hv
@[simp] theorem fail_fw : (fail s h op st).fw = s.fw := (fail_frame s h op st).fw
@[simp] theorem fail_spr : (fail s h op st).spr = s.spr := (fail_frame s h op st).spr
@[simp] theorem fail_tel : (fail s h op st).tel = s.tel := (fail_frame s h op st).tel
@[simp] theorem fail_jtag : (fail s h op st).jtag = s.jtag := (fail_frame s h op st).jtag
@[simp] theorem fail_nowUs : (fail s h op st).nowUs = s.nowUs := (fail_frame s h op st).nowUs
@[simp] theorem fail_sched : (fail s h op st).sched = s.sched := (fail_frame s h op st).sched
@[simp] theorem fail_draws : (fail s h op st).draws = s.draws := (fail_frame s h op st).draws
@[simp] theorem fail_freeCtr : (fail s h op st).freeCtr = s.freeCtr := (fail_frame s h op st).freeCtr
end

section
variable (s : State) (h : Hdr) (op code : Nat) (st : St) (fs : List (Nat × Nat))
@[simp] theorem complete_pending : (complete s h op code st fs).pending = s.pending := (complete_frame s h op code st fs).pending
@[simp] theorem complete_tiles : (complete s h op code st fs).tiles = s.tiles := (complete_frame s h op code st fs).tiles
@[simp] theorem complete_tileMap : (complete s h op code st fs).tileMap = s.tileMap := (complete_frame s h op code st fs).tileMap
@[simp] theorem complete_jobs : (complete s h op code st fs).jobs = s.jobs := (complete_frame s h op code st fs).jobs
@[simp] theorem complete_trigPin : (complete s h op code st fs).trigPin = s.trigPin := (complete_frame s h op code st fs).trigPin
@[simp] theorem complete_load : (complete s h op code st fs).load = s.load := (complete_frame s h op code st fs).load
@[simp] theorem complete_chain : (complete s h op code st fs).chain = s.chain := (complete_frame s h op code st fs).chain
@[simp] theorem complete_mem : (complete s h op code st fs).mem = s.mem := (complete_frame s h op code st fs).mem
@[simp] theorem complete_lp : (complete s h op code st fs).lp = s.lp := (complete_frame s h op code st fs).lp
@[simp] theorem complete_pal : (complete s h op code st fs).pal = s.pal := (complete_frame s h op code st fs).pal
@[simp] theorem complete_msn : (complete s h op code st fs).msn = s.msn := (complete_frame s h op code st fs).msn
@[simp] theorem complete_lry : (complete s h op code st fs).lry = s.lry := (complete_frame s h op code st fs).lry
@[simp] theorem complete_arr : (complete s h op code st fs).arr = s.arr := (complete_frame s h op code st fs).arr
@[simp] theorem complete_spn : (complete s h op code st fs).spn = s.spn := (complete_frame s h op code st fs).spn
@[simp] theorem complete_clk : (complete s h op code st fs).clk = s.clk := (complete_frame s h op code st fs).clk
@[simp] theorem complete_rst : (complete s h op code st fs).rst = s.rst := (complete_frame s h op code st fs).rst
@[simp] theorem complete_pwr : (complete s h op code st fs).pwr = s.pwr := (complete_frame s h op code st fs).pwr
@[simp] theorem complete_hv : (complete s h op code st fs).hv = s.hv := (complete_frame s h op code st fs).hv
@[simp] theorem complete_fw : (complete s h op code st fs).fw = s.fw := (complete_frame s h op code st fs).fw
@[simp] theorem complete_spr : (complete s h op code st fs).spr = s.spr := (complete_frame s h op code st fs).spr
@[simp] theorem complete_tel : (complete s h op code st fs).tel = s.tel := (complete_frame s h op code st fs).tel
@[simp] theorem complete_jtag : (complete s h op code st fs).jtag = s.jtag := (complete_frame s h op code st fs).jtag
@[simp] theorem complete_nowUs : (complete s h op code st fs).nowUs = s.nowUs := (complete_frame s h op code st fs).nowUs
@[simp] theorem complete_sched : (complete s h op code st fs).sched = s.sched := (complete_frame s h op code st fs).sched
@[simp] theorem complete_draws : (complete s h op code st fs).draws = s.draws := (complete_frame s h op code st fs).draws
@[simp] theorem complete_freeCtr : (complete s h op code st fs).freeCtr = s.freeCtr := (complete_frame s h op code st fs).freeCtr
end

section
variable (s : State) (op : Nat)
@[simp] theorem dropAcc_pending : (dropAcc s op).pending = s.pending := (dropAcc_frame s op).pending
@[simp] theorem dropAcc_tiles : (dropAcc s op).tiles = s.tiles := (dropAcc_frame s op).tiles
@[simp] theorem dropAcc_tileMap : (dropAcc s op).tileMap = s.tileMap := (dropAcc_frame s op).tileMap
@[simp] theorem dropAcc_jobs : (dropAcc s op).jobs = s.jobs := (dropAcc_frame s op).jobs
@[simp] theorem dropAcc_trigPin : (dropAcc s op).trigPin = s.trigPin := (dropAcc_frame s op).trigPin
@[simp] theorem dropAcc_load : (dropAcc s op).load = s.load := (dropAcc_frame s op).load
@[simp] theorem dropAcc_chain : (dropAcc s op).chain = s.chain := (dropAcc_frame s op).chain
@[simp] theorem dropAcc_mem : (dropAcc s op).mem = s.mem := (dropAcc_frame s op).mem
@[simp] theorem dropAcc_lp : (dropAcc s op).lp = s.lp := (dropAcc_frame s op).lp
@[simp] theorem dropAcc_pal : (dropAcc s op).pal = s.pal := (dropAcc_frame s op).pal
@[simp] theorem dropAcc_msn : (dropAcc s op).msn = s.msn := (dropAcc_frame s op).msn
@[simp] theorem dropAcc_lry : (dropAcc s op).lry = s.lry := (dropAcc_frame s op).lry
@[simp] theorem dropAcc_arr : (dropAcc s op).arr = s.arr := (dropAcc_frame s op).arr
@[simp] theorem dropAcc_spn : (dropAcc s op).spn = s.spn := (dropAcc_frame s op).spn
@[simp] theorem dropAcc_clk : (dropAcc s op).clk = s.clk := (dropAcc_frame s op).clk
@[simp] theorem dropAcc_rst : (dropAcc s op).rst = s.rst := (dropAcc_frame s op).rst
@[simp] theorem dropAcc_pwr : (dropAcc s op).pwr = s.pwr := (dropAcc_frame s op).pwr
@[simp] theorem dropAcc_hv : (dropAcc s op).hv = s.hv := (dropAcc_frame s op).hv
@[simp] theorem dropAcc_fw : (dropAcc s op).fw = s.fw := (dropAcc_frame s op).fw
@[simp] theorem dropAcc_spr : (dropAcc s op).spr = s.spr := (dropAcc_frame s op).spr
@[simp] theorem dropAcc_tel : (dropAcc s op).tel = s.tel := (dropAcc_frame s op).tel
@[simp] theorem dropAcc_jtag : (dropAcc s op).jtag = s.jtag := (dropAcc_frame s op).jtag
@[simp] theorem dropAcc_nowUs : (dropAcc s op).nowUs = s.nowUs := (dropAcc_frame s op).nowUs
@[simp] theorem dropAcc_sched : (dropAcc s op).sched = s.sched := (dropAcc_frame s op).sched
@[simp] theorem dropAcc_draws : (dropAcc s op).draws = s.draws := (dropAcc_frame s op).draws
@[simp] theorem dropAcc_freeCtr : (dropAcc s op).freeCtr = s.freeCtr := (dropAcc_frame s op).freeCtr
end

section
variable (s : State) (op : Nat) (h : Hdr)
@[simp] theorem dropAccOf_pending : (dropAccOf s op h).pending = s.pending := (dropAccOf_frame s op h).pending
@[simp] theorem dropAccOf_tiles : (dropAccOf s op h).tiles = s.tiles := (dropAccOf_frame s op h).tiles
@[simp] theorem dropAccOf_tileMap : (dropAccOf s op h).tileMap = s.tileMap := (dropAccOf_frame s op h).tileMap
@[simp] theorem dropAccOf_jobs : (dropAccOf s op h).jobs = s.jobs := (dropAccOf_frame s op h).jobs
@[simp] theorem dropAccOf_trigPin : (dropAccOf s op h).trigPin = s.trigPin := (dropAccOf_frame s op h).trigPin
@[simp] theorem dropAccOf_load : (dropAccOf s op h).load = s.load := (dropAccOf_frame s op h).load
@[simp] theorem dropAccOf_chain : (dropAccOf s op h).chain = s.chain := (dropAccOf_frame s op h).chain
@[simp] theorem dropAccOf_mem : (dropAccOf s op h).mem = s.mem := (dropAccOf_frame s op h).mem
@[simp] theorem dropAccOf_lp : (dropAccOf s op h).lp = s.lp := (dropAccOf_frame s op h).lp
@[simp] theorem dropAccOf_pal : (dropAccOf s op h).pal = s.pal := (dropAccOf_frame s op h).pal
@[simp] theorem dropAccOf_msn : (dropAccOf s op h).msn = s.msn := (dropAccOf_frame s op h).msn
@[simp] theorem dropAccOf_lry : (dropAccOf s op h).lry = s.lry := (dropAccOf_frame s op h).lry
@[simp] theorem dropAccOf_arr : (dropAccOf s op h).arr = s.arr := (dropAccOf_frame s op h).arr
@[simp] theorem dropAccOf_spn : (dropAccOf s op h).spn = s.spn := (dropAccOf_frame s op h).spn
@[simp] theorem dropAccOf_clk : (dropAccOf s op h).clk = s.clk := (dropAccOf_frame s op h).clk
@[simp] theorem dropAccOf_rst : (dropAccOf s op h).rst = s.rst := (dropAccOf_frame s op h).rst
@[simp] theorem dropAccOf_pwr : (dropAccOf s op h).pwr = s.pwr := (dropAccOf_frame s op h).pwr
@[simp] theorem dropAccOf_hv : (dropAccOf s op h).hv = s.hv := (dropAccOf_frame s op h).hv
@[simp] theorem dropAccOf_fw : (dropAccOf s op h).fw = s.fw := (dropAccOf_frame s op h).fw
@[simp] theorem dropAccOf_spr : (dropAccOf s op h).spr = s.spr := (dropAccOf_frame s op h).spr
@[simp] theorem dropAccOf_tel : (dropAccOf s op h).tel = s.tel := (dropAccOf_frame s op h).tel
@[simp] theorem dropAccOf_jtag : (dropAccOf s op h).jtag = s.jtag := (dropAccOf_frame s op h).jtag
@[simp] theorem dropAccOf_nowUs : (dropAccOf s op h).nowUs = s.nowUs := (dropAccOf_frame s op h).nowUs
@[simp] theorem dropAccOf_sched : (dropAccOf s op h).sched = s.sched := (dropAccOf_frame s op h).sched
@[simp] theorem dropAccOf_draws : (dropAccOf s op h).draws = s.draws := (dropAccOf_frame s op h).draws
@[simp] theorem dropAccOf_freeCtr : (dropAccOf s op h).freeCtr = s.freeCtr := (dropAccOf_frame s op h).freeCtr
end

end Sys2Proof.Machine
end

