-- ==== Sys2Proof/Laws/Tables.lean ====
section
/-! SUPPORT. Sparse tables: reading after writing, and the canonical form that every write keeps. -/

namespace Sys2Proof.Machine

variable {α : Type}

/-! ## Reading after writing, in any list -/

theorem mapGet_mapDel_same (m : SMap α) (d : α) (k : Nat) : mapGet (mapDel m k) d k = d := by
  induction m with
  | nil => rfl
  | cons e t ih =>
    obtain ⟨k', v'⟩ := e
    simp only [mapDel]
    split
    · exact ih
    · simp [mapGet, *]

theorem mapGet_mapDel_other (m : SMap α) (d : α) (k q : Nat) (h : q ≠ k) :
    mapGet (mapDel m k) d q = mapGet m d q := by
  induction m with
  | nil => rfl
  | cons e t ih =>
    obtain ⟨k', v'⟩ := e
    simp only [mapDel, mapGet]
    split
    · rename_i hk; subst hk
      rw [ih, if_neg (fun hc => h hc.symm)]
    · simp only [mapGet, ih]

theorem mapGet_mapIns_same (m : SMap α) (d : α) (k : Nat) (v : α) (h : ∀ e ∈ m, e.1 ≠ k) :
    mapGet (mapIns m k v) d k = v := by
  induction m with
  | nil => simp [mapIns, mapGet]
  | cons e t ih =>
    obtain ⟨k', v'⟩ := e
    have hk : k' ≠ k := h (k', v') (by simp)
    simp only [mapIns]
    split
    · simp [mapGet]
    · simp only [mapGet, if_neg hk]
      exact ih fun e he => h e (by simp [he])

theorem mapGet_mapIns_other (m : SMap α) (d : α) (k q : Nat) (v : α) (h : q ≠ k) :
    mapGet (mapIns m k v) d q = mapGet m d q := by
  induction m with
  | nil => simp [mapIns, mapGet, h.symm]
  | cons e t ih =>
    obtain ⟨k', v'⟩ := e
    simp only [mapIns]
    split
    · simp [mapGet, h.symm]
    · simp only [mapGet, ih]

theorem mem_mapDel (m : SMap α) (k : Nat) : ∀ e ∈ mapDel m k, e ∈ m ∧ e.1 ≠ k := by
  induction m with
  | nil => simp [mapDel]
  | cons e t ih =>
    obtain ⟨k', v'⟩ := e
    simp only [mapDel]
    split
    · intro e he; exact ⟨List.mem_cons_of_mem _ (ih e he).1, (ih e he).2⟩
    · intro e he
      rcases List.mem_cons.1 he with rfl | he
      · exact ⟨List.mem_cons_self, ‹_›⟩
      · exact ⟨List.mem_cons_of_mem _ (ih e he).1, (ih e he).2⟩

variable [DecidableEq α]

/-- What was written is read back. -/
@[simp] theorem mapGet_mapPut_same (m : SMap α) (d : α) (k : Nat) (v : α) :
    mapGet (mapPut m d k v) d k = v := by
  simp only [mapPut]
  split
  · rename_i h; rw [mapGet_mapDel_same, h]
  · exact mapGet_mapIns_same _ _ _ _ fun e he => (mem_mapDel m k e he).2

/-- Every other key reads as before. -/
theorem mapGet_mapPut_other (m : SMap α) (d : α) (k q : Nat) (v : α) (h : q ≠ k) :
    mapGet (mapPut m d k v) d q = mapGet m d q := by
  simp only [mapPut]
  split
  · exact mapGet_mapDel_other m d k q h
  · rw [mapGet_mapIns_other _ _ _ _ _ h, mapGet_mapDel_other m d k q h]

theorem mapGet_mapPut (m : SMap α) (d : α) (k q : Nat) (v : α) :
    mapGet (mapPut m d k v) d q = if q = k then v else mapGet m d q := by
  split
  · rename_i h; rw [h, mapGet_mapPut_same]
  · exact mapGet_mapPut_other m d k q v ‹_›

@[simp] theorem mapGet_mapMod_same (m : SMap α) (d : α) (k : Nat) (f : α → α) :
    mapGet (mapMod m d k f) d k = f (mapGet m d k) := mapGet_mapPut_same _ _ _ _

theorem mapGet_mapMod_other (m : SMap α) (d : α) (k q : Nat) (f : α → α) (h : q ≠ k) :
    mapGet (mapMod m d k f) d q = mapGet m d q := mapGet_mapPut_other _ _ _ _ _ h

/-! ## The canonical form -/

/-- Keys that rise from above `lo`. -/
theorem mapOk_cons (k : Nat) (v : α) (t : SMap α) (d : α) (lo : Option Nat) :
    mapOk ((k, v) :: t) d lo = true ↔
      (∀ l, lo = some l → l < k) ∧ v ≠ d ∧ mapOk t d (some k) = true := by
  cases lo <;> simp [mapOk, and_assoc]

theorem mapOk_weaken (m : SMap α) (d : α) {lo lo' : Option Nat}
    (h : ∀ l, lo' = some l → ∃ u, lo = some u ∧ l ≤ u) (hm : mapOk m d lo = true) :
    mapOk m d lo' = true := by
  cases m with
  | nil => rfl
  | cons e t =>
    obtain ⟨k, v⟩ := e
    rw [mapOk_cons] at hm ⊢
    refine ⟨fun l hl => ?_, hm.2⟩
    obtain ⟨u, hu, hle⟩ := h l hl
    exact Nat.lt_of_le_of_lt hle (hm.1 u hu)

theorem mapOk_mapDel (m : SMap α) (d : α) (k : Nat) (lo : Option Nat) (hm : mapOk m d lo = true) :
    mapOk (mapDel m k) d lo = true := by
  induction m generalizing lo with
  | nil => exact hm
  | cons e t ih =>
    obtain ⟨k', v'⟩ := e
    rw [mapOk_cons] at hm
    simp only [mapDel]
    split
    · exact mapOk_weaken _ d (fun l hl => ⟨k', rfl, Nat.le_of_lt (hm.1 l hl)⟩) (ih _ hm.2.2)
    · rw [mapOk_cons]; exact ⟨hm.1, hm.2.1, ih _ hm.2.2⟩

theorem mapOk_mapIns (m : SMap α) (d : α) (k : Nat) (v : α) (lo : Option Nat) (hv : v ≠ d)
    (hlo : ∀ l, lo = some l → l < k) (hk : ∀ e ∈ m, e.1 ≠ k) (hm : mapOk m d lo = true) :
    mapOk (mapIns m k v) d lo = true := by
  induction m generalizing lo with
  | nil => rw [mapIns, mapOk_cons]; exact ⟨hlo, hv, rfl⟩
  | cons e t ih =>
    obtain ⟨k', v'⟩ := e
    have hm' := (mapOk_cons k' v' t d lo).1 hm
    simp only [mapIns]
    split
    · rename_i h
      rw [mapOk_cons, mapOk_cons]
      exact ⟨hlo, hv, fun l hl => by cases hl; exact h, hm'.2⟩
    · rename_i h
      have hne : k' ≠ k := hk (k', v') (by simp)
      rw [mapOk_cons]
      refine ⟨hm'.1, hm'.2.1, ih _ (fun l hl => ?_) (fun e he => hk e (by simp [he])) hm'.2.2⟩
      cases hl; omega

/-- A write keeps the canonical form. -/
theorem mapWf_mapPut (m : SMap α) (d : α) (k : Nat) (v : α) (hm : mapWf m d = true) :
    mapWf (mapPut m d k v) d = true := by
  simp only [mapPut]
  split
  · exact mapOk_mapDel m d k none hm
  · exact mapOk_mapIns _ d k v none ‹_› (fun _ h => by cases h) (fun e he => (mem_mapDel m k e he).2)
      (mapOk_mapDel m d k none hm)

theorem mapWf_mapMod (m : SMap α) (d : α) (k : Nat) (f : α → α) (hm : mapWf m d = true) :
    mapWf (mapMod m d k f) d = true := mapWf_mapPut _ _ _ _ hm

/-- Taking entries out keeps the canonical form. -/
theorem mapOk_filter (m : SMap α) (d : α) (p : Nat × α → Bool) (lo : Option Nat)
    (hm : mapOk m d lo = true) : mapOk (m.filter p) d lo = true := by
  induction m generalizing lo with
  | nil => exact hm
  | cons e t ih =>
    obtain ⟨k, v⟩ := e
    rw [mapOk_cons] at hm
    by_cases hp : p (k, v) = true
    · rw [List.filter_cons_of_pos hp, mapOk_cons]; exact ⟨hm.1, hm.2.1, ih _ hm.2.2⟩
    · rw [List.filter_cons_of_neg hp]
      exact mapOk_weaken _ d (fun l hl => ⟨k, rfl, Nat.le_of_lt (hm.1 l hl)⟩) (ih _ hm.2.2)

theorem mapWf_mapDrop (m : SMap α) (d : α) (p : Nat → Bool) (hm : mapWf m d = true) :
    mapWf (mapDrop m p) d = true := mapOk_filter m d _ none hm

/-! ## Records by number -/

@[simp] theorem jobOf_setJob_same (s : State) (j : Nat) (v : Job) : jobOf (setJob s j v) j = v :=
  mapGet_mapPut_same _ _ _ _
@[simp] theorem jobOf_modJob_same (s : State) (j : Nat) (f : Job → Job) :
    jobOf (modJob s j f) j = f (jobOf s j) := mapGet_mapPut_same _ _ _ _
theorem jobOf_modJob_other (s : State) (j k : Nat) (f : Job → Job) (h : k ≠ j) :
    jobOf (modJob s j f) k = jobOf s k := mapGet_mapPut_other _ _ _ _ _ h
@[simp] theorem tileOf_setTile_same (s : State) (j : Nat) (v : Tile) : tileOf (setTile s j v) j = v :=
  mapGet_mapPut_same _ _ _ _
@[simp] theorem tileOf_modTile_same (s : State) (j : Nat) (f : Tile → Tile) :
    tileOf (modTile s j f) j = f (tileOf s j) := mapGet_mapPut_same _ _ _ _
theorem tileOf_modTile_other (s : State) (j k : Nat) (f : Tile → Tile) (h : k ≠ j) :
    tileOf (modTile s j f) k = tileOf s k := mapGet_mapPut_other _ _ _ _ _ h
@[simp] theorem hodOf_setHod_same (s : State) (j : Nat) (v : Hod) : hodOf (setHod s j v) j = v :=
  mapGet_mapPut_same _ _ _ _
@[simp] theorem hodOf_modHod_same (s : State) (j : Nat) (f : Hod → Hod) :
    hodOf (modHod s j f) j = f (hodOf s j) := mapGet_mapPut_same _ _ _ _
theorem hodOf_modHod_other (s : State) (j k : Nat) (f : Hod → Hod) (h : k ≠ j) :
    hodOf (modHod s j f) k = hodOf s k := mapGet_mapPut_other _ _ _ _ _ h
@[simp] theorem portOf_setPort_same (s : State) (j : Nat) (v : Port) : portOf (setPort s j v) j = v :=
  mapGet_mapPut_same _ _ _ _
@[simp] theorem portOf_modPort_same (s : State) (j : Nat) (f : Port → Port) :
    portOf (modPort s j f) j = f (portOf s j) := mapGet_mapPut_same _ _ _ _
theorem portOf_modPort_other (s : State) (j k : Nat) (f : Port → Port) (h : k ≠ j) :
    portOf (modPort s j f) k = portOf s k := mapGet_mapPut_other _ _ _ _ _ h
@[simp] theorem laneOf_modLane_same (s : State) (j : Nat) (f : Lane → Lane) :
    laneOf (modLane s j f) j = f (laneOf s j) := mapGet_mapPut_same _ _ _ _
theorem laneOf_modLane_other (s : State) (j k : Nat) (f : Lane → Lane) (h : k ≠ j) :
    laneOf (modLane s j f) k = laneOf s k := mapGet_mapPut_other _ _ _ _ _ h
@[simp] theorem pptOf_setPpt_same (s : State) (j : Nat) (v : Ppt) : pptOf (setPpt s j v) j = v :=
  mapGet_mapPut_same _ _ _ _
@[simp] theorem pptOf_modPpt_same (s : State) (j : Nat) (f : Ppt → Ppt) :
    pptOf (modPpt s j f) j = f (pptOf s j) := mapGet_mapPut_same _ _ _ _
theorem pptOf_modPpt_other (s : State) (j k : Nat) (f : Ppt → Ppt) (h : k ≠ j) :
    pptOf (modPpt s j f) k = pptOf s k := mapGet_mapPut_other _ _ _ _ _ h
@[simp] theorem chanOf_modChan_same (s : State) (j : Nat) (f : Chan → Chan) :
    chanOf (modChan s j f) j = f (chanOf s j) := mapGet_mapPut_same _ _ _ _
theorem chanOf_modChan_other (s : State) (j k : Nat) (f : Chan → Chan) (h : k ≠ j) :
    chanOf (modChan s j f) k = chanOf s k := mapGet_mapPut_other _ _ _ _ _ h
@[simp] theorem groupOf_modGroup_same (s : State) (j : Nat) (f : MGroup → MGroup) :
    groupOf (modGroup s j f) j = f (groupOf s j) := mapGet_mapPut_same _ _ _ _
@[simp] theorem ringOf_setRing_same (s : State) (j : Nat) (v : Ring) : ringOf (setRing s j v) j = v :=
  mapGet_mapPut_same _ _ _ _
theorem ringOf_setRing_other (s : State) (j k : Nat) (v : Ring) (h : k ≠ j) :
    ringOf (setRing s j v) k = ringOf s k := mapGet_mapPut_other _ _ _ _ _ h
@[simp] theorem mbxOf_modMbx_same (s : State) (fn m : Nat) (f : Mbx → Mbx) :
    mbxOf (modMbx s fn m f) fn m = f (mbxOf s fn m) := mapGet_mapPut_same _ _ _ _
theorem mbxOf_modMbx_other (s : State) (fn m fn' m' : Nat) (f : Mbx → Mbx)
    (h : mbxKey fn' m' ≠ mbxKey fn m) : mbxOf (modMbx s fn m f) fn' m' = mbxOf s fn' m' :=
  mapGet_mapPut_other _ _ _ _ _ h
@[simp] theorem dmaOf_modDma_same (s : State) (j : Nat) (f : DmaChan → DmaChan) :
    dmaOf (modDma s j f) j = f (dmaOf s j) := mapGet_mapPut_same _ _ _ _
theorem dmaOf_modDma_other (s : State) (j k : Nat) (f : DmaChan → DmaChan) (h : k ≠ j) :
    dmaOf (modDma s j f) k = dmaOf s k := mapGet_mapPut_other _ _ _ _ _ h

omit [DecidableEq α] in
theorem find_mapDel (m : SMap α) (k q : Nat) (h : q ≠ k) :
    (mapDel m k).find? (fun e => e.1 == q) = m.find? (fun e => e.1 == q) := by
  induction m with
  | nil => rfl
  | cons e t ih =>
    obtain ⟨k', v'⟩ := e
    simp only [mapDel]
    split
    · rename_i hk; subst hk
      rw [ih, List.find?_cons_of_neg (by simpa using fun hc => h hc.symm)]
    · simp only [List.find?_cons, ih]

omit [DecidableEq α] in
theorem mapGet_find (m : SMap α) (d : α) (k : Nat) :
    (match m.find? (fun e => e.1 == k) with | some e => e.2 | none => d) = mapGet m d k := by
  induction m with
  | nil => rfl
  | cons e t ih =>
    obtain ⟨k', v'⟩ := e
    by_cases hk : k' = k
    · simp [mapGet, hk]
    · simp [mapGet, hk, ih]

theorem masonOf_get (s : State) (m : Nat) : masonOf s m = mapGet s.msn.masons (masonInit m) m := by
  rw [← mapGet_find, masonOf]
  cases s.msn.masons.find? (fun e => e.1 == m) <;> rfl

@[simp] theorem masonOf_setMason_same (s : State) (m : Nat) (v : Mason) :
    masonOf (setMason s m v) m = v := by
  rw [masonOf_get, setMason_msn]; exact mapGet_mapPut_same _ _ _ _

@[simp] theorem masonOf_modMason_same (s : State) (m : Nat) (f : Mason → Mason) :
    masonOf (modMason s m f) m = f (masonOf s m) := masonOf_setMason_same _ _ _

theorem mapGet_mapPut_default (m : SMap α) (d d' : α) (k q : Nat) (v : α) (h : q ≠ k) :
    mapGet (mapPut m d k v) d' q = mapGet m d' q := by
  simp only [mapPut]
  split
  · exact mapGet_mapDel_other m d' k q h
  · rw [mapGet_mapIns_other _ _ _ _ _ h, mapGet_mapDel_other m d' k q h]

theorem masonOf_setMason_other (s : State) (m n : Nat) (v : Mason) (h : n ≠ m) :
    masonOf (setMason s m v) n = masonOf s n := by
  rw [masonOf_get, masonOf_get, setMason_msn]; exact mapGet_mapPut_default _ _ _ _ _ _ h

end Sys2Proof.Machine
end

