-- ==== Sys2Proof/Laws/Commands.lean ====
section
/-! SUPPORT. What a granted request, a bulk command and a response come to. -/

namespace Sys2Proof.Machine

/-- A granted request of Table 15-9 passes its head checks. -/
theorem headCheck_of_granted {s : State} {h : Hdr} {op : Nat} {who : From} {need : Bool}
    (ht : commandTable.find? (fun e => e.1 == op) = some (op, who, need))
    (hg : granted s h op = true) : headCheck s h op who need = none := by
  simp only [granted, requestCheck, ht] at hg
  split at hg
  · simp at hg
  · simpa [Option.isNone_iff_eq_none] using hg

/-- A granted command runs its body on the job it names. -/
theorem runCmd_of_granted {s : State} {h : Hdr} {op : Nat} {who : From} {need : Bool}
    {body : Nat → State} (ht : commandTable.find? (fun e => e.1 == op) = some (op, who, need))
    (hg : granted s h op = true) : runCmd s h op who need body = body (namedJob h) := by
  rw [runCmd, headCheck_of_granted ht hg]

/-- A command that fails its head checks only answers. -/
theorem runCmd_of_failing {s : State} {h : Hdr} {op : Nat} {who : From} {need : Bool} {st : St}
    {body : Nat → State} (hc : headCheck s h op who need = some st) :
    runCmd s h op who need body = respond s h op st [] := by
  rw [runCmd, hc]

/-- ASSIGN, START and RESET of masons name a job that must exist. -/
theorem headCheck_need {s : State} {h : Hdr} {op : Nat} {who who' : From}
    (hc : headCheck s h op who' false = none) (hw : who = .pf0 → h.fn = 0)
    (hf : who' = .any → h.fn = 0) (hj : (jobOf s (namedJob h)).created = true) :
    headCheck s h op who true = none := by
  simp only [headCheck] at hc ⊢
  split at hc
  · simp at hc
  · rename_i h1; rw [if_neg h1]
    split at hc
    · simp at hc
    · rename_i h2
      have h2' : ¬ (who = .pf0 ∧ h.fn ≠ 0) := fun hh => hh.2 (hw hh.1)
      rw [if_neg h2']
      split at hc
      · simp at hc
      · rename_i h3
        have h3' : ¬ (h.fn ≠ 0 ∧ namedJob h ≠ h.fn - 1 ∧ who ≠ .any) := by
          intro hh
          exact h3 ⟨hh.1, hh.2.1, fun he => hh.1 (hf he)⟩
        rw [if_neg h3']
        split at hc
        · simp at hc
        · rename_i h4; rw [if_neg h4]; simp [hj]

/-- ST_ACCEPTED while there is room. -/
theorem accept_eq {s : State} {h : Hdr} {op : Nat} {args : List Nat} {f : State → State}
    (hr : s.hif.accepted.length < 16) :
    accept s h op args f = respond (enlist (f s) h op args) h op .accepted [] := by
  simp only [accept, if_neg (Nat.not_le.2 hr)]
  rfl

/-- A bulk read that is ready is accepted with its records driven out. -/
theorem bulkOut_eq {s : State} {h : Hdr} {op : Nat} {b : Bulk} {rs : List (List Byte)}
    (hr : bulkReady s b = true) :
    bulkOut s h op b rs =
      respond (enlist (emitOut s (.records h.fn rs)) h op []) h op .accepted [] := by
  simp only [bulkReady, Bool.and_eq_true, decide_eq_true_eq, Option.isNone_iff_eq_none] at hr
  rw [bulkOut, hr.1]
  exact accept_eq hr.2

/-- The response to a mailbox that expects it. -/
theorem respondJ_eq {s : State} {h : Hdr} {op : Nat} {st : St} {j : Nat} {pl : List Byte}
    (he : expects s h = true) :
    respondJ s h op st j pl = emitOut (modMbx s h.fn h.mbx fun m =>
      { m with rsp := BitVec.ofNat 2048 (leNat (rspBytes op h.tag st j pl)),
               busy := false, done := true }) (.msix h.fn 1) := by
  simp only [expects, Bool.and_eq_true, Bool.not_eq_true'] at he
  simp only [respondJ, he.1, he.2]
  rfl

end Sys2Proof.Machine
end

