-- ==== Sys2Proof/Tests/Slice0.lean ====
section
/-! SUPPORT. Witnesses: for each statement, states and operands that meet its hypotheses, clause by
clause; then tests of well-formedness and of the spec's own examples. -/

namespace Sys2Proof.Tests

open Sys2Proof Sys2Proof.Machine

set_option Elab.async false

/-! ## Small states -/

/-- PF0 naming job 0, and VF1. -/
def h0 : Hdr := { job := 0 }
def h1 : Hdr := { fn := 1, job := 0 }

/-- READY, firmware running, the PCIe link up, job 0 created. -/
def rdy : State := { State.reset with
  jobs := [(0, { created := true, key := some 0 })]
  pwr := { state := .ready, vin48 := true, smbusOn := true, pwrEn := true, perstN := true, rails := 0x1FF }
  clk := { domainsOn := true, safeStable := true, refStable := true, refArmed := true }
  rst := { held := false }
  fw := { running := true }
  hif := { linkUp := true } }

def one : Bulk := { lens := [8] }
def jb (f : Job → Job) : State := modJob rdy 0 f

/-- Job 0 with an image, at work in course 0 of user cycle 5. -/
def desc1 : Desc := { courseCount := 1, static := true, patLen := 1, fabMax := 400, depth := [12],
                      budget := [1], pattern := [0] }
def run : State := jb fun x => { x with
  state := .running, image := some { vtCount := 1 }, desc := desc1, release := 3, cycle := 5 }
def held : State := modJob run 0 fun x => { x with state := .heldCmd, cmdHeld := true, endDone := true }

def acc (op : Nat) (args : List Nat) (s : State) : State :=
  { s with hif := { s.hif with accepted := [{ opcode := op, hdr := h0, args := args }] } }

/-! ## Statements about every command -/

theorem wit_StepRunsFrontCommand : ∃ t, step { rdy with pending := [.cmdIdentify h0] } = .next t :=
  ⟨_, rfl⟩
theorem wit_EmptyQueueLetsTimePass : rdy.pending = [] := by decide
theorem wit_CommandsLeaveTheQueue : ∃ t, exec (.cmdIdentify h0) rdy = .next t := ⟨_, rfl⟩
theorem wit_StepKeepsBounds : bounded rdy = true ∧ ∃ t, step rdy = .next t := ⟨by decide, _, rfl⟩
theorem wit_StepKeepsMemoryForm : memoryWf rdy = true ∧ ∃ t, step rdy = .next t := ⟨by decide, _, rfl⟩
theorem wit_TurnedAwayCommandsOnlyAnswer :
    requestOf (.cmdDevStatus h1) = some (h1, 0x0102, .pf0, false) ∧
    headCheck rdy h1 0x0102 .pf0 false = some .noRights := by decide
theorem wit_ResponseReachesItsMailbox : expects rdy h0 = true ∧ (0x0101 : Nat) < 65536 ∧ h0.mbx < 4 := by
  decide
theorem wit_EventEntersTheLog : (packFields [(8, 1), (8, 2)]).length ≤ 16 ∧
    ∀ fn ∈ [0, 1], (ringOf rdy fn).en = false := by decide

def hodRdy : State := { rdy with pal := { rdy.pal with hods := [(7, { valid := true, p := { prodKind := 3, consKind := 3 } })] } }
/-- Far page 3 of job 0. -/
def pageRdy : State := { rdy with mem := { rdy.mem with
  mirror := [(3, some { farFrame := 9 })], ppt := [(3, { state := .far, farFrame := 9 })] } }

theorem wit_QueriesAnswer :
    ([0x0101, 0x0102, 0x0103, 0x0104, 0x070D, 0x0211, 0x0202, 0x0203, 0x0801, 0x0922, 0x0606, 0x0605,
      0x0608, 0x0505, 0x0509, 0x050C, 0x050F, 0x060C, 0x0702, 0x0704, 0x0705, 0x050D].all
        (granted hodRdy h0)) = true ∧
    rangeOk 385 15 400 15 = true ∧ hodCheck hodRdy h0 7 = none ∧ flowOk 0xFFFF = true ∧
    [1, 0xFFFF].all flowOk = true ∧ granted pageRdy h0 0x0505 = true ∧
    rangeOk 131042 30 131072 30 = true ∧ pagesAllowed pageRdy h0 (pagesFrom 3 1) = true ∧
    rangeOk 0 32 32 32 = true ∧ masonsOk [0, 191] = true ∧ [0, 191].length ≤ 59 ∧
    rangeOk 0 12 12 12 = true ∧ (∀ i ∈ [0, 4095], i < 4096) ∧ (∀ i ∈ [1023], i < 1024) ∧
    diagChipOk hodRdy 1 0 = true := by decide +kernel

theorem wit_BulkReadsAreAccepted :
    ([0x0105, 0x0303, 0x0804, 0x0905, 0x0921, 0x0901].all (granted run h0)) = true ∧
    bulkReady run one = true ∧ (jobOf run 0).image = some { vtCount := 1 } ∧
    readbackOk (jobOf run 0) 0 1 0 1 = true ∧ lp5xBad run = false ∧
    capOn (jobOf run 0).capture = false ∧ run.spn.trcEn = false ∧
    rangeOk (traceSize - 1) 1 traceSize traceSize = true ∧ h0.fn = 0 ∧ rangeOk 8164 28 8192 8192 = true ∧
    bulkOpcodes.contains 0x0303 = true ∧
    findAcc (acc 0x0303 [0] run) 0x0303 = some { opcode := 0x0303, hdr := h0, args := [0] } := by
  decide +kernel

theorem wit_ReadsChangeOnlyTheHostInterface :
    readsOnly (.cmdDevStatus h0) = true ∧ ∃ t, exec (.cmdDevStatus h0) rdy = .next t := ⟨by decide, _, rfl⟩

def mb (b : Mbx) : State := modMbx rdy 0 3 fun _ => b
def sub (req : Nat) : State := { mb { copy := BitVec.ofNat 2048 req, busy := true } with
  hif := { (mb { copy := BitVec.ofNat 2048 req, busy := true }).hif with submitted := [(0, 3)] } }
def rings (r : Ring) : State := { rdy with hif := { rdy.hif with rings := [(8, r)] } }

theorem wit_MailboxEventsAct :
    hasMbx rdy 0 3 = true ∧ (mbxOf rdy 0 3).busy = false ∧ (mbxOf rdy 0 3).done = false ∧
    (1#32).getLsbD 0 = true ∧ (sub 0x0101).hif.submitted = [(0, 3)] ∧
    requestCheck (sub 0x0101) (hdrOf 0 3 0x0101) 0x0101 0 = none ∧
    (mbxOf (sub 1) 0 3).busy = true ∧ (mbxOf (sub 1) 0 3).late = false ∧ rdy.hif.linkUp = true ∧
    (ringOf rdy 8).en = false ∧ (ringOf rdy 8).lostSince = 0 ∧
    (ringOf (rings { running := true, waiting := true }) 8).running = true ∧
    (ringOf (rings { running := true, waiting := true }) 8).waiting = true ∧
    hodWindow hodRdy 0 7 = true := by decide +kernel
theorem wit_EventRingPhase : rdy.hif.linkUp = true ∧ (ringOf rdy 8).en = false ∧
    (ringOf (rings { en := true }) 8).en = true := by decide +kernel

/-! ## The board side -/

theorem wit_PmbusRowsAct : rdy.pwr.smbusOn = true ∧ (8#8).toNat ≤ 8 ∧ 8 < (9#8).toNat ∧
    rdy.pwr.linkLost = false := by decide
theorem wit_ReadingFormats : linearAt 48000 1000 linearExps = (-4, 768) ∧ 0 < 1000 ∧
    (48000 : Int).natAbs < 33554432 * 1000 ∧ (∃ t, exec .clearFaults rdy = .next t) ∧
    (∃ t, exec .pmbusReadingRefresh { rdy with pwr := { rdy.pwr with linkLost := true } } = .next t) :=
  ⟨by decide +kernel, by decide, by decide, ⟨_, rfl⟩, ⟨_, rfl⟩⟩
theorem wit_IdcodeValue : tapOn rdy = true ∧ 0x10 ≤ rdy.rst.stepping.toNat ∧ rdy.rst.stepping.toNat < 0x44 ∧
    rdy.rst.stepping.toNat % 16 < 4 ∧ rdy.rst.stepping = 0x11 := by decide
def noJobs : State := { rdy with jobs := [] }
theorem wit_JtagAndLinkRowsAct : tapOn rdy = true ∧ locked noJobs = false ∧ locked rdy = true ∧
    (memUp { rdy with pwr := { rdy.pwr with state := .deepHold } } = false ∧
      tapOn { rdy with pwr := { rdy.pwr with state := .deepHold } } = true) ∧
    pageJob rdy (linePage (field 0 36 3 * 8 / 128)) = none ∧ rdy.pwr.perstN = true ∧
    { rdy.hif with linkTraining := true }.linkTraining = true := by decide +kernel
theorem wit_BoardSideStaysOutside : boardRow .clearFaults = true ∧ ∃ t, exec .clearFaults rdy = .next t :=
  ⟨by decide, _, rfl⟩

/-! ## Courses and the trowel -/

def wit (f : Job → Job) : State := modJob run 0 f

/-- What a sample sees of job 0. -/
def sampled (s : State) : State := setAsides (frameFaults (jobNet s 0) 0 s) 0

theorem wit_SequencerEventsAct :
    (let s := run
     seqOn s (jobOf s 0) = true ∧ active (jobOf s 0) = true ∧ (jobOf s 0).go = false ∧
     (jobOf s 0).endDone = false ∧ (jobOf s 0).charge = 0 ∧ atB (jobOf s 0) = false ∧
     pendingCauses (sampled s) 0 12 = []) ∧
    pendingCauses (sampled (wit fun x => { x with sweepDue := true })) 0 12 = [2] ∧
    1 ∈ pendingCauses (sampled (wit fun x => { x with faults := [.mismatch] })) 0 12 ∧
    (let s := wit fun x => { x with go := true, desc := { desc1 with depth := [4] } }
     (jobOf s 0).go = true ∧ (jobOf s 0).charge = 0 ∧ sampleAhead (jobOf s 0) = true ∧
     causesAhead s 0 1 12 = []) ∧
    sampleAhead (jobOf (wit fun x => { x with go := true }) 0) = false ∧
    (let s := wit fun x => { x with charge := 2, waits := 2 }
     (jobOf s 0).state ≠ .stopped ∧ (jobOf s 0).charge ≠ 0 ∧ (jobOf s 0).endDone = false ∧
     pendingCauses (sampled (leafAdd s (leafJob 0 1) 9)) 0 12 = []) ∧
    (let s := wit fun x => { x with endDone := true }
     (jobOf s 0).charge = 0 ∧ (jobOf s 0).endDone = true ∧ pendingCauses (setAsides s 0) 0 12 = [] ∧
     atCommit (jobOf s 0) = true ∧ holdDue (jobOf s 0) 5 = false) ∧
    (let s := wit fun x => { x with endDone := true, holdAt := [{ hdr := h0, atCycle := 5 }] }
     holdDue (jobOf s 0) 5 = true ∧ pendingCauses (setAsides s 0) 0 12 = []) ∧
    (let s := wit fun x => { x with endDone := true, state := .heldCmd }
     pendingCauses (setAsides s 0) 0 12 = [] ∧ active (jobOf s 0) = false) ∧
    (let s := wit fun x => { x with go := true }
     (jobOf s 0).go = true ∧ (jobOf s 0).desc.static = true ∧ lastCourse (jobOf s 0) = true) := by
  decide +kernel
theorem wit_CommitCountsUserCycles : (7 : Nat) ≠ 0 := by decide

def dyn (f : Job → Job) : State := modJob (wit fun x => { x with desc := { desc1 with
  courseCount := 2, static := false, depth := [12, 12], budget := [1, 1] } }) 0 f
def upTile (t : Nat) (x : Tile) : State := { run with tiles := [(t, x)] }
def starting : State := { jb fun x => { x with state := .loading, image := some { vtCount := 1 },
                                               desc := desc1 } with load := some { stage := .starting } }
theorem wit_TrowelRowsAct :
    starting.pwr.state = .ready ∧ startupDue starting 0 = true ∧
    (let s := dyn id
     startupDue s 0 = false ∧ seqOn s (jobOf s 0) = true ∧ (jobOf s 0).state ≠ .stopped ∧
     (jobOf s 0).desc.static = false ∧ preloadDue (modTile { s with tileMap := [(0, { valid := true, vt := 0 })] } 0 id) 0 = true) ∧
    (seqOn run (jobOf run 0) = true ∧ (jobOf run 0).desc.static = true ∧ relocsWait run 0 = false ∧
      (jobOf run 0).faults = []) ∧
    (let s := wit fun x => { x with sweepDue := true, waits := 2 }
     (jobOf s 0).sweepDue = true ∧ (jobOf s 0).waits.getLsbD 1 = true) ∧
    (∀ e ∈ (tileOf (upTile 399 { storeWb := [(511 * 320, 5)] }) 399).storeWb, e.1 / 320 = 511) ∧
    faultHeld (wit fun x => { x with faults := [.mismatch], state := .heldFault })
      (jobOf (wit fun x => { x with faults := [.mismatch], state := .heldFault }) 0) = true ∧
    trwWrong (tileOf (upTile 399 { trw1 := 1 }) 399) = 1 ∧
    2 ≤ trwWrong (tileOf (upTile 399 { trw0 := 1, trw1 := 2 }) 399) ∧
    (∀ t, t < 400 → trwVote (tileOf run t) = (tileOf run t).trwRecord) ∧
    (let s := upTile 399 { trw0 := 0x800, trw1 := 0x800, trw2 := 0x800, trwRecord := 0x800 }
     trwStopped (tileOf s 399) = false ∧ (trwVote (tileOf s 399)).getLsbD 11 = true) := by
  decide +kernel

/-! ## Loads -/

def zeros (n : Nat) : List Byte := List.replicate n 0
def withCrc (bs : List Byte) : List Byte := bs ++ leBytes 4 (crc32c bs).toNat
/-- Header of an image of one virtual tile, one course, no slab block (Table 4-2). -/
def header : List Byte := withCrc (leBytes 4 0x49435A4B ++ [0, 1] ++ leBytes 2 0x6532 ++ [0x11, 0xFF]
  ++ leBytes 2 1 ++ [1, 0] ++ leBytes 2 0 ++ leBytes 8 0x100 ++ leBytes 8 0x50248 ++ leBytes 8 0x50248
  ++ leBytes 8 0x50280 ++ leBytes 2 0 ++ zeros 202)
def descBytes : List Byte := [1, 1, 1, 0, 0, 0] ++ leBytes 2 400 ++ zeros 8 ++ leBytes 2 12 ++ zeros 62
  ++ [1] ++ zeros 175
def loading (l : Load) : State :=
  { rdy with load := some { l with hdr := some h0, covered := 0x50280 } }
def ld (g : LoadStage) : Load := { stage := g, off := 512, vtCount := 1, courseCount := 1 }

theorem test_header_length : header.length = 256 ∧ descBytes.length = 256 := by decide +kernel

set_option maxRecDepth 20000 in
theorem wit_LoadsOpenAndEnd :
    granted rdy h0 0x0301 = true ∧ badBulk one = none ∧ rdy.load = none ∧ lp5xBad rdy = false ∧
    rdy.chain.armed = false ∧ header.length = 256 ∧ (headerCheck (loading {}) { covered := 0x50280 } header).toOption = some 0 ∧
    (headerCheck (loading {}) {} (zeros 256)).toOption = none ∧ rdy.hif.accepted.length < 16 ∧
    granted rdy h0 0x0302 = true ∧ (loading {}).load.isSome = true ∧ (ld .tiles).stage ≠ .starting ∧
    granted run h0 0x0303 = true ∧ bulkReady run one = true ∧ run.pwr.state ≠ .deepHold ∧
    (jobOf run 0).state ≠ .loading ∧ readbackOk (jobOf run 0) 0 1 0 1 = true := by
  decide +kernel

/-- A tile block with one run of no frame. -/
def noFrames : List Byte := leBytes 2 1 ++ leBytes 4 0 ++ leBytes 2 1 ++ leBytes 8 72 ++ zeros 48 ++ zeros 8
/-- A slab block without contents for the last slab, a signature table and an end record. -/
def slabBlock : List Byte := leBytes 2 2 ++ leBytes 2 0 ++ [47, 0, 0, 0] ++ leBytes 8 16
def sigTable (v : Nat) : List Byte := leBytes 4 3 ++ leBytes 4 1 ++ leBytes 8 24 ++ leBytes 4 0 ++ leBytes 4 v
def endRec (crc : Nat) : List Byte := leBytes 8 4 ++ leBytes 8 5120 ++ leBytes 8 544 ++ leBytes 4 crc ++ zeros 4

theorem wit_SectionsAdvanceTheLoad :
    descBytes.length = 256 ∧ descOk (parseDesc descBytes) = true ∧ (parseDesc descBytes).courseCount = 1 ∧
    hodsFit rdy 0 1 = true ∧ streamsFit rdy 0 1 1 0 = true ∧
    pickTile (loading (ld .tiles)) = some 0 ∧ (parseBlock noFrames).isSome = true ∧
    ((parseBlock noFrames).bind (blockCheck (ld .tiles) noFrames)) = some .badParam ∧
    slabBlock.length = 16 ∧ slabCheck (ld .slabs) slabBlock = true ∧
    inboundOk (ld .signatures) = true ∧ tableOk (ld .signatures) (sigTable 0) = true ∧
    sigsOk { ld .signatures with courseCount := 0 } (sigTable 1) = false ∧
    sigsOk { ld .signatures with courseCount := 0 } (sigTable (tileSig [] 0).toNat) = true ∧
    endOk { ld .endRecord with total := 544 } (endRec 0) = true ∧
    endCrcOk { ld .endRecord with total := 544 } (endRec 0) = true ∧
    endCrcOk { ld .endRecord with total := 544 } (endRec 1) = false := by
  decide +kernel

/-! A whole tile block: one run with all 5,120 frames of the course, each zero. The frames stay a
variable until the last step, so that no check unfolds them. -/

def blockHead : List Byte := leBytes 2 1 ++ leBytes 4 0 ++ leBytes 2 1 ++ leBytes 8 327752 ++ zeros 48
def runHead : List Byte := leBytes 4 0 ++ leBytes 4 5120
def block (z : List Byte) : List Byte := blockHead ++ (runHead ++ z)
def lastTile : Load := { ld .tiles with slabOff := 512 + 327752 }

theorem heads_length : blockHead.length = 64 ∧ runHead.length = 8 := by decide

theorem leAt_front (a b : List Byte) (o n : Nat) (h : o + n ≤ a.length) : leAt (a ++ b) o n = leAt a o n := by
  simp only [leAt]
  rw [List.drop_append_of_le_length (by omega), List.take_append_of_le_length (by simp; omega)]

theorem leNat_zeros (k : Nat) : leNat (zeros k) = 0 := by
  induction k with
  | zero => rfl
  | succ k ih => rw [show zeros (k + 1) = 0 :: zeros k from rfl, leNat, ih]; rfl

theorem runRows_zeros (k : Nat) : runRows (0, zeros k) = [] := by
  simp only [runRows, List.filterMap_eq_nil_iff]
  intro i _
  have : ((zeros k).drop (64 * i)).take 64 = zeros (min 64 (k - 64 * i)) := by
    simp only [zeros, List.drop_replicate, List.take_replicate]
  rw [this, rowOfBytes, leNat_zeros]
  exact if_pos rfl

theorem parseBlock_block (z : List Byte) (hz : z.length = 327680) :
    parseBlock (block z) = some { words := [], runs := [(0, z)], rows := runRows (0, z) } := by
  have l1 := heads_length.1
  have l2 := heads_length.2
  have hn : leAt (block z) 4 2 = 0 := (leAt_front _ _ _ _ (by rw [l1]; omega)).trans (by decide)
  have hr : leAt (block z) 6 2 = 1 := (leAt_front _ _ _ _ (by rw [l1]; omega)).trans (by decide)
  have hd : (block z).drop 64 = runHead ++ z := by rw [block, ← l1, List.drop_left]
  have h4 : leAt (runHead ++ z) 4 4 = 5120 := (leAt_front _ _ _ _ (by rw [l2])).trans (by decide)
  have h0' : leAt (runHead ++ z) 0 4 = 0 := (leAt_front _ _ _ _ (by rw [l2]; omega)).trans (by decide)
  have hd8 : (runHead ++ z).drop 8 = z := by rw [← l2, List.drop_left]
  have hlen : (runHead ++ z).length = 8 + 64 * 5120 := by rw [List.length_append, l2, hz]
  have hp : parseRuns 1 (runHead ++ z) = some [(0, z)] := by
    rw [parseRuns]
    simp only [h4, h0', hd8, parseRuns]
    rw [if_neg (by rw [hlen]; omega), List.drop_of_length_le (by rw [hlen]), List.take_of_length_le (by rw [hz])]
    rfl
  have hs : sortRuns [(0, z)] = [(0, z)] := by
    have : ([((0 : Nat), z)].filter fun r => !r.2.isEmpty) = [(0, z)] := by
      cases z with
      | nil => simp at hz
      | cons => rfl
    rw [sortRuns, this, List.mergeSort_singleton]
  have hl : ¬ (block z).length < 64 + 8 * 0 := by
    rw [block, List.length_append, l1]; omega
  simp only [parseBlock, hn, hr]
  rw [if_neg hl, show 64 + 8 * 0 = 64 from rfl, hd, hp]
  simp only [hs, List.flatMap_cons, List.flatMap_nil, List.append_nil, List.range_zero, List.map_nil]

theorem blockCheck_block (z : List Byte) (hz : z.length = 327680) :
    blockCheck lastTile (block z) { words := [], runs := [(0, z)], rows := [] } = none := by
  have l1 := heads_length.1
  have l2 := heads_length.2
  have hf (o n : Nat) (h : o + n ≤ 64) : leAt (block z) o n = leAt blockHead o n :=
    leAt_front _ _ _ _ (by rw [l1]; exact h)
  have hlen : (block z).length = 327752 := by
    rw [block]; simp only [List.length_append, l1, l2, hz]
  have hr : rangeZero (block z) 0x10 48 = true := by
    have : ((block z).drop 0x10).take 48 = (blockHead.drop 0x10).take 48 := by
      rw [block, List.drop_append_of_le_length (by rw [l1]; omega),
        List.take_append_of_le_length (by rw [List.length_drop, l1])]
    simp only [rangeZero, this]; decide
  have hb : blockOk lastTile (block z) { words := [], runs := [(0, z)], rows := [] } = true := by
    simp only [blockOk, hlen, hr, hf 0 2 (by omega), hf 2 2 (by omega), hf 6 2 (by omega), hf 8 8 (by omega),
      covers, runOk, hz, List.all_cons, List.all_nil]
    have k : leAt blockHead 0 2 = 1 ∧ leAt blockHead 2 2 = 0 ∧ leAt blockHead 6 2 = 1 ∧
        leAt blockHead 8 8 = 327752 := by decide
    simp [k, lastTile, ld, field, frameIndex]
  simp only [blockCheck, hb, hlen]
  rfl

theorem wit_WholeTileBlock : ∃ bs b, parseBlock bs = some b ∧ blockCheck lastTile bs b = none :=
  ⟨block (zeros 327680), _, parseBlock_block _ List.length_replicate, by
    rw [runRows_zeros]; exact blockCheck_block _ List.length_replicate⟩

/-! ## Design memory -/

def chans2 : SMap Chan := (List.range 32).map fun c => (c, { st := 2 })
/-- Far page 3 of job 0 in frame 9, every channel operating, PF0 with every right. -/
def mem3 : State := { pageRdy with
  mem := { pageRdy.mem with rights := 0xFFFF :: pageRdy.mem.rights.tail }
  lp := { pageRdy.lp with chans := chans2 } }
def moving : State := { mem3 with mem := { mem3.mem with
  ppt := [(3, { state := .migrating, farFrame := 9, nearFrame := 1, dir := false })], moves := [(3, false)] } }
def memAcc (op : Nat) (args : List Nat) : State := { mem3 with hif := (acc op args rdy).hif }

theorem wit_PlacementRowsAct :
    ([0x0501, 0x0502, 0x0503, 0x0504, 0x050A].all (granted mem3 h0)) = true ∧
    rangeOk 131071 1 131072 131072 = true ∧ (∀ p ∈ pagesFrom 131071 1, isMapped mem3 p = false) ∧
    lp5xBad mem3 = false ∧ 1 ≤ (freeFar mem3 1).length ∧ mem3.hif.accepted.length < 16 ∧
    findAcc (memAcc 0x0501 [0, 3, 1]) 0x0501 = some { opcode := 0x0501, hdr := h0, args := [0, 3, 1] } ∧
    (jobOf mem3 0).created = true ∧ mapGet mem3.mem.mirror none 3 = some { farFrame := 9 } ∧
    jobQuiet mem3 0 = true ∧ (∀ p ∈ pagesFrom 3 1, mappedTo mem3 0 p = true) ∧ knobsOk {} = true ∧
    pinCheck mem3 h0 3 1 = none ∧ (∀ p ∈ pagesFrom 3 1, isExcluded mem3 p = false ∧ isPinned mem3 p = false) ∧
    pinsWith mem3 (pagesFrom 3 1) ≤ mem3.mem.knobs.pinLimit ∧
    (findAcc (memAcc 0x050A [0, 3]) 0x050A).isSome = true ∧ memUp mem3 = true ∧
    (∀ c ∈ moving.lp.chans, c.2.st ≠ 1) ∧ (pptOf moving 3).state = .migrating ∧
    moving.mem.stalled.contains 3 = false ∧ mapGet moving.mem.pptErr 0 3 = 0 ∧
    [131071].contains 131071 = true := by decide +kernel

def chan7 (d : DmaChan) : State := { mem3 with hif := { mem3.hif with dma := [(7, d)] } }
/-- A descriptor of 8 bytes at 0x300000 to the host. -/
def dmaBytes : List Byte := leBytes 8 0x1000 ++ leBytes 8 0x300000 ++ leBytes 4 8 ++ leBytes 4 3
theorem wit_MemoryControlRowsAct :
    ([0x0506, 0x0507, 0x0508, 0x0509].all (granted mem3 h0)) = true ∧
    (∀ j, j < 8 → (jobOf mem3 j).image = none) ∧ regionsOk {} = true ∧
    regionsSum {} + (usedFrames mem3).length ≤ 122880 ∧ rightsOk mem3 1 0x2B = true ∧
    mem3.mem.rights.length = 19 ∧ dmaActive (dmaOf mem3 7) = false ∧ mem3.hif.linkUp = true ∧
    (dmaOf (chan7 { fn := some 8 }) 7).fn = some 8 ∧
    (let s := chan7 { fn := some 0, doorbell := 1 }
     dmaActive (dmaOf s 7) = true ∧ (dmaOf s 7).stopped = false ∧ (dmaOf s 7).cur = none ∧
     dmaWaits s (descOf dmaBytes []) = false ∧ (descOf dmaBytes []).toHost = true) ∧
    (dmaOf (chan7 { fn := some 0, cur := some (0, true) }) 7).cur = some (0, true) ∧
    (dmaOf (chan7 { fn := some 0, stopped := true }) 7).stopped = true := by decide +kernel

def req0 : MemReq :=
  { vt := 0, port := 1, sampled := 0, nominal := 1, write := false, unit := 0xC000, data := 0, be := 0 }
def trains : State := { mem3 with lp := { mem3.lp with chans := [(lineChannel (farIndex 9 0x6000), { st := 1 })] } }
theorem wit_oldestBatch : oldestBatch [req0] = [req0] := by simp [oldestBatch, req0]
theorem wit_AccessRowsAct :
    memUp mem3 = true ∧ (fetchAll [req0] mem3).1 = true ∧
    lineWaits (fetchAll [req0] mem3).2 (unitLine req0.unit) = false ∧
    mem3.hif.linkUp = true ∧ mem3.lp.waiting = [] ∧ (2 ^ 37 - 8) + 8 ≤ 2 ^ 37 ∧
    rangeWaits mem3 (2 ^ 37 - 8) 8 = false ∧ rangeWaits trains 0x300000 8 = true ∧
    servedFar mem3 0x6000 = true ∧ lineWaits mem3 0x6000 = false := by decide +kernel

theorem wit_FarLineReadsBackWhatWasWritten :
    memUp mem3 = true ∧ servedFar mem3 0x6000 = true ∧ (zeros 128).length = 128 ∧
    accessFenced mem3 9 (pptOf mem3 (linePage 0x6000)) 0x6000 = false ∧
    (pptOf mem3 (linePage 0x6000)).state = .far ∧ (pptOf mem3 (linePage 0x6000)).job = 0 ∧
    rightsOf mem3 0 0 = 3 ∧ mem3.mem.stalled.contains (linePage 0x6000) = false ∧
    mapGet mem3.mem.pptErr 0 (linePage 0x6000) = 0 ∧ (jobOf mem3 0).key = some 0 ∧
    (jobOf mem3 0).replay = none ∧ (jobOf mem3 0).journaling = false ∧ isListed mem3 0x6000 = false ∧
    (chanOf mem3 (lineChannel (farIndex (pptOf mem3 (linePage 0x6000)).farFrame 0x6000))).st = 2 := by
  decide +kernel
theorem wit_NoRightNoAccess :
    mem3.hif.linkUp = true ∧ memUp mem3 = true ∧ mem3.lp.waiting = [] ∧ rangeWaits mem3 0x300078 8 = false ∧
    mem3.mem.stalled.contains (linePage (0x300078 / 128)) = false ∧
    mapGet mem3.mem.pptErr 0 (linePage (0x300078 / 128)) = 0 ∧ 0x300078 % 128 + 8 ≤ 128 ∧
    pageJob mem3 (linePage (0x300078 / 128)) = some 0 ∧ rightsOf mem3 2 0 = 0 := by decide +kernel

/-! ## Channels, hods and pallets -/

def lp31 (c : Chan) : State := { mem3 with lp := { mem3.lp with chans := [(31, c)] } }
theorem wit_ChannelRowsAct :
    (31 : Nat) < 32 ∧ (chanOf (lp31 { st := 3 }) 31).st = 3 ∧ (chanOf (lp31 { st := 1 }) 31).st = 1 ∧
    (chanOf (lp31 { st := 2 }) 31).over105 = false ∧ (chanOf (lp31 { st := 2, over105 := true }) 31).over105 = true ∧
    (let s := lp31 { st := 2, retrainDue := true }
     (chanOf s 31).st = 2 ∧ (chanOf s 31).retrainDue = true) ∧
    (lp31 { st := 1 }).lp.training = false ∧ mem3.lp.waiting = [] ∧
    (let s := lp31 { st := 5 }
     s.clk.domainsOn = true ∧ s.lp.training = false ∧
     s.lp.chans.all (fun c => c.2.st != 2 && c.2.st != 3) = true ∧ trainsFromReset s = true) ∧
    (let s := { lp31 { st := 1 } with lp := { (lp31 { st := 1 }).lp with training := true } }
     s.lp.training = true ∧ s.pwr.booting = false ∧ trainsFromReset s = true) ∧
    (let s := { mem3 with lp := { mem3.lp with candidates := [rowOfLine (farLines - 1)] } }
     farLines - 1 < farLines ∧ s.lp.candidates.contains (rowOfLine (farLines - 1)) = true ∧
     (chanOf s (lineChannel (farLines - 1))).st = 2) := by decide +kernel

def scrubs : State := { mem3 with lp := { mem3.lp with scrub := some { next := 5, stop := 6 } } }
/-- A far line of page 3 that has been written. -/
def written : State := { mem3 with mem := { mem3.mem with far := [(farIndex 9 0x6000, some {})] } }
theorem wit_MemoryServiceRowsAct :
    ([0x050B, 0x050C, 0x050D, 0x050E].all (granted mem3 h0)) = true ∧
    (let first := 128 * (farLines - 1)
     first % 128 = 0 ∧ 128 % 128 = 0 ∧ (first + 128) / 128 ≤ farLines ∧ (50 : Nat) ≤ 50) ∧
    bulkReady mem3 one = true ∧ mem3.lp.scrub = none ∧ lp5xBad mem3 = false ∧
    scrubs.lp.scrub = some { next := 5, stop := 6 } ∧ granted scrubs h0 0x050B = true ∧
    diagFarCheck mem3 (128 * farIndex 9 0x6000) = none ∧
    diagFarCheck written (128 * farIndex 9 0x6000) = none ∧
    (mapGet written.mem.far none (128 * farIndex 9 0x6000 / 128)).isSome = true ∧
    diagChipOk mem3 1 (991 * 131072 + 131071) = true ∧ diagChipOk mem3 3 (399 * 163840 + 163839) = true ∧
    (15 : Nat) < 16 ∧ (farLines * 128 - 1) / 128 < farLines ∧ mem3.hif.accepted.length < 16 ∧
    namedJob h0 < 8 := by decide +kernel
theorem wit_DiagnosticWriteReadsBack : ∃ t,
    exec (.cmdMemEccDiagWriteFar h0 (128 * farIndex 9 0x6000) 0 1 2) mem3 = .next t ∧
    granted t h0 0x050D = true :=
  ⟨_, rfl, by decide +kernel⟩

/-- Job 0's host functions at both ends of hod 32767. -/
def hostHod : HodParams := { prodKind := 3, consKind := 3, msix := 16 }
def hodLast (x : Hod) : State := { rdy with pal := { rdy.pal with hods := [(32767, x)] } }
def hostPair : Hod := { valid := true, p := hostHod }
theorem wit_HodRowsAct :
    ([0x0601, 0x0602, 0x0603, 0x0606].all (granted rdy h0)) = true ∧ hodParamsOk rdy 0 hostHod = true ∧
    freeHodId rdy = some 0 ∧ freeBlock rdy (2 ^ hostHod.sizeLog2) = some 0 ∧ hostHod.prodKind ≠ 4 ∧
    (let s := hodLast hostPair
     granted s h0 0x0602 = true ∧ hodCheck s h0 32767 = none ∧ hodPortBusy s (hodOf s 32767) = false ∧
     isProducer s (hodOf s 32767) (.host 0) = true ∧ isConsumer s (hodOf s 32767) (.host 0) = true ∧
     s.hif.linkUp = true ∧ hodControls s 0 32767 = true) := by decide +kernel
theorem wit_PushedWordIsPopped :
    (let s := hodLast hostPair
     isProducer s (hodOf s 32767) (.host 0) = true ∧ isConsumer s (hodOf s 32767) (.host 0) = true ∧
     (hodOf s 32767).items = [] ∧ (hodOf s 32767).part = [] ∧ (hodOf s 32767).openIt = [] ∧
     (hodOf s 32767).ignoring = [] ∧ hodFull (hodOf s 32767) = false ∧ (jobOf s 0).replay = none ∧
     (jobOf s 0).journaling = false ∧ (jobOf s 0).capturing = none ∧ s.hif.linkUp = true) := by
  decide +kernel

def rbWith (k : RbKind) : State := { rdy with pal := { rdy.pal with rb := [{ job := 0, flow := 1, seq := 0, kind := k }] } }
theorem wit_PalletRowsAct :
    ([0x0604, 0x0605, 0x0607].all (granted rdy h0)) = true ∧ rangeOk 255 1 256 256 = true ∧
    flowOk 0xFFFF = true ∧ (18 : Nat) ≤ 18 ∧ (jobOf rdy 7).capturing = none ∧
    (jobOf (jb fun x => { x with capturing := some .cut }) 0).capturing ≠ none ∧
    drainable (rbWith .done) = some 0 ∧ drainable (rbWith (.item 3 0 0 [5] true)) = some 0 := by
  decide +kernel

/-! ## Masons -/

/-- Mason 191, and its group 11 powered. -/
def msn (m : Mason) : State := { mem3 with msn := { mem3.msn with
  masons := [(191, m)], groups := [(11, { on := true })] } }
def ex (m : Mason) : Mason := { m with st := .running, job := some 0 }
def m191 : Mason := { st := .reset, job := some 0, phys := 202 }
/-- A program of one word at entry 0. -/
def prog (crc : Nat) : List Byte := leBytes 4 0x504D5A4B ++ [1, 0, 0, 0] ++ leBytes 4 0 ++ leBytes 4 4 ++ leBytes 4 0
  ++ leBytes 4 crc ++ zeros 40 ++ leBytes 4 0x00000073
def progSum : Nat := (crc32c (prog 0)).toNat
def msnExtra (f : Msn → Msn) (s : State) : State := { s with msn := f s.msn }

theorem wit_MasonControlRowsAct :
    ([0x0609, 0x060A, 0x060B].all (granted (msn m191) h0)) = true ∧ (jobOf (msn m191) 0).created = true ∧
    masonsOk [191] = true ∧ movable (masonOf (msn { m191 with job := none }) 191) = true ∧
    (msn m191).msn.assigning = [] ∧ (∀ g ∈ groupsOf [191], (groupOf (msn m191) g).on = true) ∧
    (groupOf mem3 11).on = false ∧ (masonOf (msn m191) 191).job = some 0 ∧
    (masonOf (msn m191) 191).st = .reset ∧
    (∀ m ∈ resetTargets (msnExtra (fun x => { x with masons := (List.range 16).map fun i => (176 + i, m191) }) mem3)
      (some 11) [], (masonOf (msnExtra (fun x => { x with masons := (List.range 16).map fun i => (176 + i, m191) }) mem3) m).st ≠ .off) ∧
    bulkReady (msn m191) one = true ∧ progOk (prog progSum) = true ∧ progCrcOk (prog progSum) = true ∧
    loadable (masonOf (msn m191) 191) = true ∧
    (msnExtra (fun x => { x with loads := [(h0, [191], prog progSum)] }) (msn m191)).msn.loads =
      [(h0, [191], prog progSum)] ∧
    (groupOf (msnExtra (fun x => { x with groups := [(11, { clearing := true })] }) (msn m191)) 11).clearing = true ∧
    (let s := msn (ex { m191 with pausePending := true })
     (masonOf s 191).pausePending = true ∧ (masonOf s 191).cur = none ∧ (masonOf s 191).pusho = none ∧
     (masonOf s 191).st = .running) ∧
    (let s := modJob (msn (ex m191)) 0 fun x => { x with capturing := some .pausing }
     s.spr.sweeping = none ∧ s.spr.bist = none ∧ (jobOf s 0).capturing = some .pausing ∧
     (masonsOfJob s 0).any (fun m => !pausedNow (masonOf s m)) = true) ∧
    (let s := msnExtra (fun x => { x with failedPhys := [202] }) (msn m191)
     s.msn.failedPhys.contains (masonOf s 191).phys = true ∧ (groupOf s 11).spare = some 16) ∧
    (groupOf (msnExtra (fun x => { x with groups := [(11, { on := true, spare := none })] }) (msn m191)) 11).spare = none := by
  decide +kernel

/-- Hod 7 between masons. -/
def msnHod (m : Mason) : State := { msn (ex m) with pal := { mem3.pal with
  hods := [(7, { valid := true, p := { prodKind := 2, consKind := 2 } })] } }
def slot1 (flow : Nat) : Slot := { w0 := BitVec.ofNat 64 0, w1 := BitVec.ofNat 64 flow, w2 := 0, w3 := 0, handler := 3 }
def atHod : Mason := { regs := [(1, 7)] }
theorem wit_MasonInstructionsRetire :
    (let s := msnHod atHod
     runs (masonOf s 191) = true ∧ (31#7).toNat < 32 ∧
     hodFault s 191 (hodIdOf (masonOf s 191) 1) (fun y => y.p.prodKind == 2) = none ∧
     hodFault s 191 (hodIdOf (masonOf s 191) 1) (fun y => y.p.consKind == 2) = none ∧
     hodFault s 191 (hodIdOf (masonOf s 191) 1) (fun _ => true) = none ∧
     watchFault s 191 (regOf (masonOf s 191) 0) = none ∧ (masonOf s 191).pausePending = false ∧
     (masonOf s 191).cur = none ∧ (masonOf s 191).safe = false) ∧
    (let s := msn { st := .waiting, wait := some (3, 0), slots := [slot1 0] }
     (masonOf s 191).st = .waiting ∧ (masonOf s 191).wait = some (3, 0) ∧ wakeBits s 191 0 ≠ 0) ∧
    (let s := msn (ex { slots := [slot1 0], regs := [(1, 0x7FFE0)] })
     (masonOf s 191).slots = slot1 0 :: [] ∧ (regOf (masonOf s 191) 1).toNat % 32 = 0 ∧
     palletRoom (regOf (masonOf s 191) 1).toNat = true) ∧
    (let s := msnHod { atHod with cur := some (slot1 0) }
     (masonOf s 191).cur = some (slot1 0) ∧ (masonOf s 191).job = some 0 ∧
     doneWaits (rbDrop s (isOpenOf 191)) 0 (slot1 0) = false ∧ slotFlow (slot1 0) = 0) ∧
    (let s := msn (ex { cur := some (slot1 0), pusho := some (7, 0, 5, true, 3) })
     (masonOf s 191).pusho = some (7, 0, 5, true, 3) ∧ rbFull s = false) := by
  decide +kernel

def at1 (a : Nat) : State := msn (ex { regs := [(1, BitVec.ofNat 64 a)] })
theorem wit_MasonMemoryRowsAct :
    (let s := at1 (designBase + 0x300000)
     runs (masonOf s 191) = true ∧ memUp s = true ∧ (masonOf s 191).job = some 0 ∧
     inDesign (effAddr (masonOf s 191) 1 0) (opSize 6) = true ∧
     rangeWaits s (effAddr (masonOf s 191) 1 0 - designBase) (opSize 6) = false) ∧
    (let s := at1 peerBase
     let t := msnExtra (fun x => { x with masons := (0, { job := some 0 }) :: x.masons }) s
     runs (masonOf t 191) = true ∧ inPeer (effAddr (masonOf t 191) 1 0) (opSize 3) = true ∧
     (peerParts (effAddr (masonOf t 191) 1 0) (opSize 3)).all (fun w => peerAllowed t 191 w.1) = true ∧
     (peerRead t (peerParts (effAddr (masonOf t 191) 1 0) (opSize 3))).1.isSome = true ∧
     (peerWrite t (peerParts (effAddr (masonOf t 191) 1 0) (opSize 3)) 5).1 = true) ∧
    (let s := at1 0x7FFF8
     inData (effAddr (masonOf s 191) 1 0) 8 = true ∧ effAddr (masonOf s 191) 1 0 % 8 = 0 ∧
     (scratchRead s 191 (effAddr (masonOf s 191) 1 0) (opSize 3)).1 = some 0 ∧
     (regOf (masonOf s 191) 1).toNat % amoSize true = 0 ∧ (masonOf s 191).resv ≠ some 0x7FFF8) ∧
    (masonOf (msn (ex { regs := [(1, 0x7FFF8)], resv := some 0x7FFF8 })) 191).resv = some 0x7FFF8 ∧
    (∃ z, amoOp 28 64 0 0 = some z) ∧ amoOp 28 64 0 (regOf (masonOf (at1 0x7FFF8) 191) 1).toNat = some 0x7FFF8 ∧
    inLocal (effAddr (masonOf (at1 0x100000) 191) 1 0) (opSize 3) = true ∧
    effAddr (masonOf (at1 0xFFF8) 191) 1 0 + 8 ≤ 0x10000 ∧
    (let s := msn (ex { pc := 0x10000, scratch := [(0x2000, BitVec.ofNat 72 (secEncode 8 64 0x00100093))] })
     inInst (masonOf s 191).pc.toNat 4 = true ∧ 0x0093 % 4 = 3 ∧
     (scratchRead s 191 (masonOf s 191).pc.toNat 2).1 = some 0x0093 ∧
     (scratchRead s 191 (masonOf s 191).pc.toNat 4).1 = some 0x00100093) ∧
    (31 : Nat) < 32 ∧ (4095 : Nat) < 4096 :=
  ⟨by decide +kernel, by decide +kernel, by decide +kernel, by decide +kernel, ⟨_, rfl⟩, by decide +kernel⟩

theorem wit_ExceptionsTrapThenHalt :
    (let s := msn (ex { safe := true })
     runs (masonOf s 191) = true ∧ (masonOf s 191).safe = true ∧ (masonOf s 191).trapped = false) ∧
    (let s := msn (ex { safe := true, trapped := true })
     (masonOf s 191).trapped = true ∧ (masonOf s 191).job = some 0) := by decide +kernel
theorem wit_RegisterInstructionFrame : ∃ t, exec (.mret 191) (msn (ex {})) = .next t := ⟨_, rfl⟩

/-! ## Larey -/

/-- Port 11 as given, all others as after reset. -/
def lport (q : Port) : State := { rdy with lry := { rdy.lry with ports := [(11, q)] } }
def lane107 (x : Lane) (s : State) : State := { s with lry := { s.lry with lanes := [(107, x)] } }
def upPort : Port := { st := .up, laneMask := 0xFF, actWidth := 8 }
def signals : State := { lport {} with lry := { (lport {}).lry with
  lanes := (List.range 9).map fun j => (99 + j, { signal := true }) } }
def marks8 : List LaneMark := (List.range 8).map fun j => some (j, 3, 10)
def msgAt (cls kind : Nat) (body : List Byte) : State :=
  lport { upPort with inbox := [{ cls := cls, kind := kind, body := body, flits := 1 }] }

theorem wit_LinkEventsAct :
    mayTrain signals (portOf signals 11) = true ∧
    (let usable := usableLanes signals 11 0xFF
     let w := portWidth 8 (weight 9 usable.toNat)
     (portOf signals 11).minWidth ≤ w ∧ w ≠ 0 ∧ deskewed (lowLanes (List.range 9) w usable) marks8 = true) ∧
    deskewed 0xFF [] = false ∧
    (let s := lport { st := .chain }
     mayTrain s (portOf s 11) = true ∧ (portOf s 11).st = .chain) ∧
    (portOf (lport { st := .retrain }) 11).st = .retrain ∧
    (let s := lport { st := .init }
     (portOf s 11).st = .init ∧ initMismatch s (portOf s 11) {} = false ∧
     initMismatch s (portOf s 11) { width := 4 } = true) ∧
    portUp (portOf (lport upPort) 11) = true ∧ 0 < (portOf (lport { upPort with sinceAck := 31 }) 11).sinceAck ∧
    (let s := lport { upPort with txQuiet := true }
     portUp (portOf s 11) = true ∧ (portOf s 11).txQuiet = true ∧ (portOf s 11).txAsleep = false ∧
     (portOf s 11).replay = [] ∧ (portOf s 11).queue = [] ∧ (portOf s 11).sinceAck = 0) ∧
    (portOf (lport { upPort with txAsleep := true }) 11).txAsleep = true ∧
    laneInUse (lport upPort) 106 = true ∧ (portOf (lport upPort) (106 / 9)).st = .up ∧
    (portOf (lport { st := .retrain, leftUp := true }) 11).leftUp = true := by decide +kernel

theorem wit_LareyCommandsAct :
    ([0x0701, 0x0703, 0x0704, 0x0705, 0x0706].all (granted (lport upPort) h0)) = true ∧
    portCfgOk 0x00080008 none none = false ∧ portCfgOk 0x00005018 (some 10000) (some 255) = true ∧
    tapsOk 0x8000 = true ∧ tapsOk 0 = false ∧ laneInUse (lport upPort) 107 = false ∧
    (LPower.quiet ≠ .off ∨ laneInUse (lport upPort) 106 = false) ∧
    laneTestOk 0x01400100 = true ∧ needsIdleLane 0x01400100 = false ∧ needsIdleLane 0x01400109 = true ∧
    (4095 < 4096 ∧ 7 < 8 ∧ 1023 < 1024) ∧
    (laneOf (lane107 { injDue := true } rdy) 107).injDue = true ∧
    (laneOf (lane107 { test := 0x01400180 } rdy) 107).test.getLsbD 0 = false ∧
    (laneOf (lane107 { slipDue := true } rdy) 107).slipDue = true ∧
    (laneOf (lane107 { test := 8 } rdy) 107).test.getLsbD 3 = true ∧
    (nextMsg (msgAt 1 0 (zeros 32)) 11 1 0).isSome = true ∧ (nextMsg (msgAt 1 1 (zeros 12)) 11 1 1).isSome = true ∧
    (nextMsg (msgAt 2 3 (zeros 8)) 11 2 3).isSome = true ∧
    isHere { rdy with lry := { rdy.lry with route := [(0, 0xF)] } } 0 = true ∧ isHere rdy 1023 = false ∧
    (let s := { rdy with pal := { rdy.pal with rCredit := [(9, 1)], hods := [(9, { valid := true, p := { prodKind := 3, consKind := 4, consEp := 5 }, items := [{}] })] } }
     isConsumer s (hodOf s 9) (.remote ((hodOf s 9).p.consEp % 1024)) = true ∧ hodEmpty (hodOf s 9) = false ∧
     (mapGet s.pal.rCredit 0 9 + 2 ^ 32 - mapGet s.pal.rSent 0 9 % 2 ^ 32) % 2 ^ 32 ≠ 0) ∧
    hodEmpty (hodOf rdy 9) = true := by decide +kernel

theorem wit_SentFlitIsAccepted :
    portUp (portOf (lport upPort) 11) = true ∧ (kindFlits 2 3).isSome = true ∧ (zeros 58).length ≤ 58 ∧
    (portOf (lport { upPort with rxNext := 65535 }) 11).rxNext < 65536 ∧
    heldFlits (portOf (lport upPort) 11) 2 < bufferSize 2 ∧
    markerSlot (laneCount (portOf (lport upPort) 11)) 8 = false ∧
    (mapGet (portOf (lport upPort) 11).rxCode none (8 % laneCount (portOf (lport upPort) 11))).isNone = true :=
  by decide +kernel
/-- Seventeen symbol errors that form a polynomial with the first sixteen roots of the code. -/
def manyErrs : SymErrs := [(543, 888), (542, 960), (541, 746), (540, 461), (539, 595), (538, 218), (537, 617),
  (536, 204), (535, 27), (534, 744), (533, 1005), (532, 650), (531, 724), (530, 748), (529, 550), (528, 568),
  (527, 1)]
def manySyn : List (BitVec 10) := [0, 0, 0, 0, 0, 0, 0, 0, 0, 0, 0, 0, 0, 0, 0, 0, 1002, 849, 608, 448, 621, 446,
  819, 675, 51, 231, 321, 244, 4, 583]
theorem manyErrs_syndromes : rs10Syndromes manyErrs = manySyn := by decide +kernel
theorem locator_len_at_16 : 15 < ((List.range 17).foldl (locatorStep manySyn) {}).len := by decide +kernel
theorem locatorStep_len (syn : List (BitVec 10)) (l : Locator) (n : Nat) : l.len ≤ (locatorStep syn l n).len := by
  simp only [locatorStep]
  split
  · exact Nat.le_refl _
  · split
    · simp only; omega
    · exact Nat.le_refl _
theorem locator_len_grows (syn : List (BitVec 10)) (ns : List Nat) (l : Locator) :
    l.len ≤ (ns.foldl (locatorStep syn) l).len := by
  induction ns generalizing l with
  | nil => exact Nat.le_refl _
  | cons n ns ih => exact Nat.le_trans (locatorStep_len syn l n) (ih _)
theorem rs10Locate_none (syn : List (BitVec 10))
    (h : 15 < ((List.range 30).foldl (locatorStep syn) {}).len) : rs10Locate syn = none := by
  unfold rs10Locate; exact if_pos h
theorem rs10Decode_none (e : Nat × BitVec 10) (errs : SymErrs)
    (h : rs10Locate (rs10Syndromes (e :: errs)) = none) : rs10Decode (e :: errs) = none := by
  unfold rs10Decode
  exact (congrArg (Option.map _) h).trans rfl
theorem locator_len_at_end (syn : List (BitVec 10))
    (h : 15 < ((List.range 17).foldl (locatorStep syn) {}).len) :
    15 < ((List.range 30).foldl (locatorStep syn) {}).len := by
  rw [show List.range 30 = List.range 17 ++ (List.range 13).map (17 + ·) by decide, List.foldl_append]
  exact Nat.lt_of_lt_of_le h (locator_len_grows _ _ _)
theorem wit_uncorrectable : rs10Decode manyErrs = none := by
  have h := locator_len_at_end manySyn locator_len_at_16
  exact rs10Decode_none _ _ (manyErrs_syndromes ▸ rs10Locate_none _ h)
theorem wit_LareyStaysInside : ∃ t, exec (.ackTimeout 11) (lport upPort) = .next t := ⟨_, rfl⟩

/-! ## Arrays -/

def src0 : SrcEntry := { valid := true, vts := [0] }
def snap : Ckpt := ⟨0, 0, [], [], 0, 0x7F, [], 0, true, true, [], [], [], [], [], [], []⟩
def atHold (f : Job → Job) : State := modJob held 0 f

theorem wit_ArrayCommandsAct :
    ([0x0707, 0x0708, 0x0709, 0x070A, 0x070B, 0x070C].all (granted held h0)) = true ∧
    (∀ j, j < 8 → (jobOf rdy j).state = .empty) ∧ granted rdy h0 0x0707 = true ∧ (1023 : Nat) < 1024 ∧
    imageParams rdy 0 = none ∧ srcFits rdy 0 4095 src0 384 32 = true ∧
    consFits rdy 0 4095 { valid := true, mask := 1, vts := [0] } 384 32 none = true ∧ (32 : Nat) ≤ 32 ∧
    rollState (jobOf held 0) = true ∧ (jobOf held 0).replay = none ∧ held.pwr.state ≠ .deepHold ∧
    held.hif.accepted.length < 16 ∧ lp5xBad held = false ∧
    (let s := atHold fun x => { x with recoverable := true, slotA := some snap }
     (jobOf s 0).recoverable = true ∧ (latestCkpt (jobOf s 0)).isSome = true ∧ (ckptAt (jobOf s 0) 0).isSome = true) ∧
    bulkReady held one = true ∧ (jobOf held 0).state = .heldCmd ∧ (jobOf held 0).exportReq = none ∧
    (let s := atHold fun x => { x with beforeZero := true }
     heldBeforeZero (jobOf s 0) = true ∧ (jobOf s 0).capturing = none ∧
     (jobOf s 0).image.map (·.crc) = some snap.imageCrc ∧
     importFits s 0 { ckpt := snap, pages := [], lines := [] } = true) := by decide +kernel

def jntMsg (kind : Nat) : State := msgAt (if kind = 0 then 0 else 2) kind (zeros 40)
def running0 : State := modJob run 0 fun x => { x with capturing := some .pausing }
def replay0 (sh : List JEntry) : Replay :=
  { k := 0, e := 5, bCourse := 0, bEnd := false, byCommand := true, hdr := none, recs := [], shadow := sh,
    diverged := false }
def item5 : Hod := { valid := true, p := { prodKind := 3, consKind := 1 }, items := [{ words := [5] }] }
def replays (sh : List JEntry) : State :=
  let s := modJob run 0 fun x => { x with replay := some (replay0 sh) }
  { s with tileMap := [(0, { valid := true })], pal := { run.pal with hods := [(7, item5)] } }
theorem wit_ArrayEventsAct :
    (nextMsg (jntMsg 0) 11 0 0).isSome = true ∧ ([1, 2, 3].all fun k => (nextMsg (jntMsg k) 11 2 k).isSome) = true ∧
    (let s := { run with arr := { run.arr with src := [(4095, src0)] } }
     (srcOf s 4095).valid = true ∧ (0 : BitVec 4) = (jobOf s (srcOf s 4095).job).epoch ∧
     streamJob s 4095 = some 0 ∧ (jobOf s 0).cycle < 6 ∧ (resendFrom s 4095 9).isSome = true) ∧
    (jobOf running0 0).capturing = some .pausing ∧
    (masonsOfJob running0 0).all (fun m => pausedNow (masonOf running0 m)) = true ∧
    (jobOf running0 0).memReqs.all (fun r => r.result.isSome) = true ∧
    (let s := modJob run 0 fun x => { x with capturing := some .cut, cutState := some snap }
     (jobOf s 0).capturing = some .cut ∧ (jobOf s 0).cutState.isSome = true) ∧
    (jobOf run 0).replay = none ∧
    (let s := replays [⟨0, 0, 4, .hodDeliver 0 0 0 7 {}⟩]
     (hodOf s 7).valid = true ∧ portConsumes s 0 0 0 ≠ none ∧
     (hodPopWord s 7 (.tile 0 0 0)).1 = some { data := 5, last := true }) ∧
    atB (jobOf (replays []) 0) = true := by decide +kernel
theorem wit_StampExtension :
    (9223372036854775807 : Word).toNat < 2 ^ 63 ∧
    (9223372039002259454 : Word).toNat < (9223372036854775807 : Word).toNat + 2 ^ 31 ∧
    (2147483648 : Word).toNat = 2 ^ 31 := by decide +kernel

/-! ## Spine, clocks, resets and power -/

def spn (f : Spn → Spn) : State := { rdy with spn := f rdy.spn }
def onGroup : State := { spn id with msn := { rdy.msn with groups := [(11, { on := true })] } }
theorem wit_SpineRowsAct :
    (let h : BitVec 128 := BitVec.ofNat 128 (121 + 121 * 2 ^ 15 + 4 * 2 ^ 30)
     hVn h < 5 ∧ nodeKnown (hSrc h) = true ∧ subKnown (hSrc h) (hSrcSub h) = true) ∧
    rdy.clk.domainsOn = true ∧ epochBusy rdy = false ∧
    (∀ e ∈ [(99, 135, 4)], e.1 < 100 ∧ e.2.1 < 136 ∧ e.2.2 ≤ 4) ∧
    epochBusy (spn fun x => { x with flipping := true }) = true ∧ rdy.spn.unfence = [] ∧
    canPowerDown onGroup 11 = true ∧
    (let s := spn fun x => { x with down := some { group := 11 } }
     s.spn.down = some { group := 11 } ∧ groupDrain s 11 = 0 ∧ s.pwr.entering = none) ∧
    (let s := spn fun x => { x with trcQueue := [5], trcNext := traceSize - 2 }
     s.spn.trcQueue = 5 :: [] ∧ s.spn.trcNext + 1 < traceSize) ∧
    (let s := spn fun x => { x with trcQueue := [5], trcNext := traceSize - 1 }
     s.spn.trcNext + 1 = traceSize ∧ s.spn.trcWrap = false) ∧
    granted rdy h0 0x0920 = true ∧ granted rdy h0 0x0921 = true ∧
    ((99 * 2 + 5 * 256 : BitVec 64).toNat / 2 % 128 < 100 ∧ (99 * 2 + 5 * 256 : BitVec 64).toNat / 256 % 8 < 6) := by
  decide +kernel
theorem wit_ResetRoutesDeliver :
    (let h : BitVec 128 := BitVec.ofNat 128 (121 + 121 * 2 ^ 15 + 4 * 2 ^ 30)
     rdy.spn.routes = [] ∧ rdy.spn.routeErr = [] ∧ rdy.spn.fences = [] ∧ 2 ≤ hVn h ∧ nodeKnown (hDst h) = true ∧
     subKnown (hDst h) (hDstSub h) = true ∧
     (fenceMask (spn fun x => { x with fences := [(bankOf false * 100 + nodeRouter (hDst h) (hDstSub h), 0x3F)] })
       false (nodeRouter (hDst h) (hDstSub h))).getLsbD (fenceSlot (hDst h) (hDstSub h)) = true) := by
  decide +kernel

def clk (f : Clk → Clk) : State := { rdy with clk := f rdy.clk }
def change (st : ChgStage) : State := clk fun x => { x with change := some { mhz := 900, stage := st }, fabDiv := 1 }
def trained : State := { clk fun x => { x with refLost := true, restoring := true } with
  lp := { rdy.lp with chans := chans2 } }
theorem wit_ClockEventsAct :
    (let s := clk fun x => { x with safeStable := false, refStable := false, refArmed := false }
     islandRuns s = true ∧ s.clk.safeStable = false ∧ s.clk.safeFailed = false ∧ s.pwr.linkLost = false) ∧
    (let s := clk fun x => { x with refStable := false, refLast := some 5243, refRun := 7 }
     s.clk.safeStable = true ∧ s.clk.refStable = false ∧ s.clk.refLast = some 5243 ∧ s.clk.refRun = 7 ∧
     ((5245 - 5243) + (5243 - 5245)) * 1000000 ≤ 5243 * 500) ∧
    (let s := clk fun x => { x with refLast := some 5000 }
     s.clk.refStable = true ∧ s.clk.refArmed = true ∧ differs s.clk.refLast 5011 2000 = true ∧
     differs s.clk.refLast 5010 2000 = false) ∧
    (rdy.rst.held = false ∧ rdy.clk.pllEn.getLsbD 0 = false ∧ fabPll rdy = 0 ∧ rdy.clk.granted = 400) ∧
    (clk fun x => { x with pllEn := 0x20 }).clk.pllEn.getLsbD 5 = true ∧
    (let s := { rdy with msn := { rdy.msn with groups := [(11, { target := 2 })] } }
     (groupOf s 11).div ≠ (groupOf s 11).target) ∧
    (change .rampUp).clk.fabDiv = 1 ∧ rdy.clk.change = none ∧ (change .switching).clk.change.isSome = true ∧
    allAtRest (change .holding) = true ∧
    (let s := clk fun x => { x with pllStable := 0x3F }
     s.clk.belicOnSafe = true ∧ s.clk.pllStable.getLsbD 3 = true ∧ s.clk.refLost = false) ∧
    (let s := clk fun x => { x with refLost := true, restoring := false }
     s.clk.refLost = true ∧ s.clk.restoring = false ∧ s.clk.domainsOn = true) ∧
    (trained.clk.refLost = true ∧ trained.clk.refStable = true ∧ trained.clk.restoring = true ∧
      trained.clk.domainsOn = true ∧ chansTrained trained = true) := by decide +kernel
theorem wit_FabricClockIsGranted :
    granted rdy h0 0x0210 = true ∧ (change .holding).clk.change.isSome = true ∧ granted (change .holding) h0 0x0210 = true ∧
    rdy.clk.change = none ∧ min 1200 (fabLimit rdy) ≠ rdy.clk.granted ∧ min 400 (fabLimit rdy) = rdy.clk.granted ∧
    (jobOf run 0).image.isSome = true ∧ (jobOf run 0).state ≠ .empty := by decide +kernel
def rst (f : Rst → Rst) : State := { rdy with rst := f rdy.rst }
theorem wit_ResetRowsAct :
    timesReset rdy = true ∧ rdy.clk.safeFailed = false ∧ rdy.pwr.rails.getLsbD 0 = true ∧ rdy.pwr.state = .ready ∧
    ([0x0212, 0x0404].all (granted rdy h0)) = true ∧ rdy.rst.faceBusy = false ∧ rdy.rst.courseBusy = false ∧
    (let s := rst fun x => { x with faceBusy := true }
     s.rst.faceBusy = true ∧ s.rst.viasEmpty = false ∧ (dieJobs s).all (dieHeld s) = true) ∧
    (let s := rst fun x => { x with courseBusy := true }
     s.rst.courseBusy = true ∧ s.rst.faceBusy = false ∧ s.rst.viasEmpty = false) ∧
    (rst fun x => { x with courseBusy := true, viasEmpty := true }).rst.viasEmpty = true ∧
    (jobOf held 0).resetReq = none ∧ (jobOf held 0).state ∉ [JobState.empty, .loading, .running, .releasing] ∧
    (jobOf run 0).state ∈ [JobState.running, .releasing] ∧ granted held h0 0x0404 = true ∧
    granted run h0 0x0404 = true ∧ (jobOf held 0).capturing = none ∧ (jobOf held 0).replay = none ∧
    (readSlabs held ((jobOf held 0).image.getD {})).1 = false := by decide +kernel
theorem wit_WarmResetClearsAndKeeps : timesReset rdy = true ∧ rdy.lp.scrub = none := by decide
theorem wit_PcieResetLeavesTheDesign :
    run.pwr.state = .ready ∧ (jobOf run 0).state = .running ∧ (jobOf run 0).replay = none ∧
    ∃ t, exec .perstNLow run = .next t := ⟨by decide, by decide +kernel, by decide +kernel, _, rfl⟩

def pwr (f : Pwr → Pwr) : State := { rdy with pwr := f rdy.pwr }
def tripped : State := pwr fun x => { x with state := .trip, cooling := true }
theorem wit_PowerRowsAct :
    (pwr fun x => { x with vin48 := false }).pwr.vin48 = false ∧ rdy.pwr.vin48 = true ∧
    (let s := pwr fun x => { x with rails := 1 }
     railOn s 1 = false ∧ railReady s 1 = true) ∧
    (let s := pwr fun x => { x with rails := 0 }
     railOn s 0 = false ∧ s.pwr.smbusOn = true) ∧
    rdy.pwr.lockout = false ∧ rdy.pwr.state ≠ .off ∧
    mayBoot { pwr fun x => { x with booting := true } with fw := {} } = true ∧
    railOn rdy 1 = true ∧ rdy.pwr.linkLost = false ∧ rdy.pwr.tripping = false ∧ rdy.pwr.state ≠ .trip ∧
    monitored rdy 8 = true ∧ monitored rdy 9 = true ∧ kilnRuns rdy = true ∧ allBelow rdy 616 = true ∧
    (tripped.pwr.state = .trip ∧ tripped.pwr.lastTrip ≠ 3 ∧ tripped.pwr.cooling = true ∧
      tripped.pwr.pwrEn = true ∧ allBelow tripped 576 = true) ∧
    granted rdy h0 0x0201 = true ∧ pwrBusy rdy = false ∧ rdy.hif.accepted.length < 16 ∧
    (let s := pwr fun x => { x with state := .deepHold }
     granted s h0 0x0201 = true ∧ s.pwr.state = .deepHold) ∧
    (let s := pwr fun x => { x with entering := some h0 }
     s.pwr.entering = some h0 ∧ (∀ j, j < 8 → entryStuck (jobOf s j) = false) ∧ entryReady s = true) ∧
    (let s := { mem3 with pwr := { mem3.pwr with waking := some h0 } }
     s.pwr.waking = some h0 ∧ s.pwr.rails = 0x1FF ∧ chansTrained s = true ∧
     s.msn.groups.any (fun g => g.2.clearing) = false) := by decide +kernel
theorem wit_TripCutsTheRails :
    (let s := pwr fun x => { x with brokenEv := 7, atTrip := [1, 0, 0] }
     kilnRuns s = true ∧ s.pwr.tripping = false ∧ s.pwr.state ≠ .trip ∧ s.pwr.state ≠ .off ∧
     s.pwr.brokenEv = 7 ∧ s.lp.scrub = none ∧ listAt s.pwr.atTrip 0 0 = 1) ∧
    (let s := { run with pwr := { run.pwr with tripping := true } }
     s.pwr.tripping = true ∧ s.pwr.lockout = false ∧ (jobOf s 0).image.isSome = true ∧
     (jobOf s 0).state ≠ .loading) ∧
    (pwr fun x => { x with tripping := true, lockout := true }).pwr.lockout = true := by decide +kernel

/-! ## Jobs, firmware, spares, counters and captures -/

def fwGood : FwImage := {}
def fwAt (f : Fw → Fw) : State := { rdy with fw := f rdy.fw }
theorem wit_HostCommandsAct :
    ([0x0401, 0x0402, 0x0403, 0x0405, 0x0A01, 0x0A02, 0x0110, 0x0111].all (granted run h0)) = true ∧
    run.hif.accepted.length < 16 ∧ (jobOf run 0).state = .running ∧ (jobOf run 0).cycle < 6 ∧
    (jobOf held 0).state = .heldCmd ∧ run.pwr.state ≠ .deepHold ∧ (jobOf held 0).replay = none ∧
    (jobOf held 0).beforeZero = false ∧ 3 ≤ (jobOf run 0).release ∧ firstCycle (jobOf run 0) ≤ 6 ∧
    (∀ p, p < 16 → pinOwner run p = none) ∧
    (let h : Hdr := { job := 0xFF }
     granted rdy h 0x0A01 = true ∧ lowestFree rdy = some 1 ∧ (jobOf rdy 1).created = false) ∧
    bulkReady rdy one = true ∧ rdy.fw.updating = none ∧ bulkBytes one ≤ 32505856 ∧
    (fwImageOf (zeros 64)).bodyLen ≤ 32505344 ∧
    (fwAt fun x => { x with updating := some (h0, fwGood) }).fw.updating = some (h0, fwGood) ∧
    rdy.fw.recovery = false ∧ (fwAt fun x => { x with goodUpdate := some true }).fw.goodUpdate = some true ∧
    createdJobs noJobs = [] ∧
    (let s := { fwAt fun x => { x with trial := true } with pwr := { rdy.pwr with state := .standby } }
     s.fw.trial = true ∧ s.fw.running = true ∧ s.pwr.state ≠ .ready) := by decide +kernel

def spr (f : Spares → Spares) (s : State) : State := { s with spr := f s.spr }
def moveOf : Reloc := { job := 0, vt := 0, src := 5, dst := 6, frm := 5, retire := false, reason := 0 }
def soft8 : Repair := { kind := 8, loc := 3, spare := 1, det := 3, first := 0, last := 2, passed := 1 }
theorem wit_SpareRowsAct :
    granted rdy h0 0x0802 = true ∧ granted rdy h0 0x0803 = true ∧ rdy.spr.sweeping = none ∧ rdy.spr.bist = none ∧
    tileAway rdy (.tile 399) = false ∧ ownerOf rdy 399 = none ∧ rdy.hif.accepted.length < 16 ∧
    regionOk (.router 99) = true ∧ anyLoaded rdy = false ∧ (beginTest rdy (.router 99)).isSome = true ∧
    (let s := spr (fun x => { x with bist := some (h0, .router 99) }) rdy
     s.spr.bist = some (h0, .router 99) ∧ testReady s (.router 99) = true) ∧
    nextRegion rdy rdy.spr.pos = some (0, .tile 0) ∧ (tileOf rdy 0).reserved = false ∧ ownerOf rdy 0 = none ∧
    sweepsWait rdy = false ∧
    (let s := spr (fun x => { x with pos := 411 }) rdy
     nextRegion s s.spr.pos = some (411, .group 11) ∧ (regionJobs s (.group 11)).any (jobBusy s) = false) ∧
    (let s := spr (fun x => { x with sweeping := some (.tile 399), swept := [.tile 399] }) rdy
     s.spr.sweeping = some (.tile 399) ∧ tileBound s 399 = false ∧ s.spr.reloc = [] ∧
     s.spr.swept.contains (.tile 399) = true) ∧
    (let s := spr (fun x => { x with reloc := [moveOf] }) (wit fun x => { x with faults := [.relocation], state := .heldFault })
     s.spr.reloc = [moveOf] ∧ moveOf.copied = false ∧ requestsDone (jobOf s 0) 0 = true ∧
     faultHeld s (jobOf s 0) = true) ∧
    (let s := spr (fun x => { x with toSwitch := [(0, soft8)] }) held
     (0, soft8) ∈ s.spr.toSwitch ∧ standsHeld s 0 = true) ∧
    repaired rdy 8 65535 = false ∧ (lowestSpare rdy 8 65535).isSome = true ∧ (65535 : Nat) < 65536 ∧
    repaired rdy 7 (3 + (2 ^ 21 - 1) * 4) = false ∧ (lowestSpare rdy 7 (3 + (2 ^ 21 - 1) * 4)).isSome = true ∧
    (let s := spr (fun x => { x with map := [soft8] }) rdy
     s.spr.map[0]? = some soft8 ∧ confirmed soft8 = true ∧ s.spr.fusesUsed < 128) := by decide +kernel

theorem wit_CounterAndCaptureRowsAct :
    rdy.clk.domainsOn = true ∧ rdy.tel.walk < 7680 ∧ (rootOf rdy rdy.tel.walk).err = 0 ∧
    ((rootOf { rdy with tel := { rdy.tel with roots := [(7, { valid := true, value := BitVec.allOnes 48 })] } } 7).value.toNat
      + 1 = 2 ^ 48) ∧
    7680 ≤ ({ rdy with tel := { rdy.tel with walk := 8191 } } : State).tel.walk ∧
    32768 ≤ mapGet ({ rdy with tel := { rdy.tel with leaves := [(7679, 32768)] } } : State).tel.leaves 0 7679 ∧
    ([0x0902, 0x0903, 0x0904].all (granted run h0)) = true ∧ rangeOk 8191 1 8192 8192 = true ∧
    capOn (jobOf run 0).capture = false ∧ capCfgOk run 0 { ringBytes := 1048576 } = true ∧
    capBytes run 0 + 1048576 ≤ run.mem.regions.capture * 1048576 ∧
    (let s := wit fun x => { x with capture := { st := .armed, cfg := { ringBytes := 1048576 } } }
     (jobOf s 0).capture.st = .armed ∧ capOn (jobOf s 0).capture = true) ∧
    (jobOf (wit fun x => { x with capture := { cfg := { ringBytes := 1048576 } } }) 0).capture.cfg.ringBytes ≠ 0 := by
  decide +kernel

/-! ## Clauses whose witnesses need the states above -/

def memPage (op : Nat) : BitVec 128 := BitVec.ofNat 128 (0x300000 / 8 * 2 ^ 3 + op * 2 ^ 40)
theorem wit_DebugAccess :
    tapOn mem3 = true ∧ memUp mem3 = true ∧ rangeWaits mem3 (field (memPage 1).toNat 36 3 * 8) 8 = false ∧
    pageJob mem3 (linePage (field (memPage 1).toNat 36 3 * 8 / 128)) = some (field (memPage 1).toNat 39 37) ∧
    bitOf (memPage 1).toNat 40 = true ∧ bitOf (memPage 0).toNat 40 = false ∧
    rangeWaits trains (field (memPage 0).toNat 36 3 * 8) 8 = true ∧ memUp trains = true ∧
    (1 : Nat) ≠ field (memPage 0).toNat 39 37 := by decide +kernel
theorem wit_ReadsOfHeldTables :
    mem3.mem.stalled = [] ∧ mem3.mem.pptErr = [] ∧ mapGet mem3.lry.fwdErr 0 4095 = 0 ∧
    (∀ e ∈ [soft8], e.kind ≠ 0) ∧ h0.fn = 0 ∧ 28 < 29 ∧ rangeOk 8163 29 8192 8192 = true ∧
    (∃ t, exec (.cmdPlcQuery h0 3 1) mem3 = .next t) :=
  ⟨rfl, rfl, rfl, by decide, rfl, by decide, by decide, _, rfl⟩
theorem wit_TrowelClauses :
    (tileOf (upTile 399 { holding := true }) 399).holding = true ∧ run.clk.domainsOn = true ∧
    (let s := { upTile 399 {} with tileMap := [(0, { valid := true, phys := 399, vt := 0 })] }
     ownerOf s 399 = some (0, 0) ∧ trwStopped (tileOf s 399) = false) := by decide +kernel

def ended (l : Load) : State := { loading l with clk := { rdy.clk with granted := 400 } }
def atEnd : Load := { ld .endRecord with total := 544, desc := desc1 }
def bound1 : Load := { ld .tiles with bound := [(0, 7)], image := { vtCount := 1 } }
theorem wit_LoadClauses :
    fabWithin (settleFab (ended atEnd)) 400 = true ∧
    (readGolden (settleFab (ended atEnd)) {} 0 544).1 = false ∧
    fabWithin (settleFab { ended atEnd with clk := { rdy.clk with granted := 900 } }) 400 = false ∧
    512 + 32 ≤ 0x50280 ∧ bound1.bound.find? (fun e => e.1 == 0) = some (0, 7) ∧
    pickTile (loading bound1) = some 0 ∧ (readBlock (loading bound1) bound1.image 0).1 = false ∧
    inboundOk { ld .tiles with image := { links := [(0, ⟨0, 0, 0, 0, 0⟩)] } } = true := by decide +kernel

def chainOf (c : Chain) (q : Port) : State := { rdy with chain := c, lry := { rdy.lry with ports := [(0, q)] } }
theorem wit_ChainRowsAct :
    granted rdy h0 0x0304 = true ∧ chainPortsUsed rdy = false ∧ rdy.chain.armed = false ∧ rdy.load = none ∧
    (let s := { chainOf { armed := true, session := true } { st := .chain } with load := some { chain := true } }
     granted s h0 0x0304 = true ∧ s.chain.armed = true ∧ s.chain.session = true ∧ s.load.isSome = true) ∧
    (let s := chainOf {} { st := .chain, inbox := [{ cls := 2, kind := 0, body := zeros 8, flits := 1 },
                                                   { cls := 2, kind := 3, body := zeros 4, flits := 1 }] }
     (nextMsg s 0 2 0).isSome = true ∧ (nextMsg s 0 2 3).isSome = true ∧ (portOf s 0).st = .chain ∧
     (portOf s 0).enable = true ∧ s.chain.armed = false) := by decide +kernel

/-! ## Well-formedness: an ill-formed term for each check -/

theorem test_ill_formed_terms_are_refused :
    [Instr.courseEnd 8 0 [], .refreshTimerExpiry 8, .storeWriteback 400 0, .storeWriteback 0 512, .holdingSweep 400,
   .tileRebind 384, .tileMemoryReply 8 0 0, .tileMemoryReply 0 384 0, .tileMemoryReply 0 0 2,
   .shadowPop 0 0 4, .cmdMemQuarantineRead {} 64, .bar4Read 9 0 0 [], .mbxDmaDoorbell 9 0 0,
   .mbxDmaDoorbell 0 8 0, .dmaDescriptorComplete 8, .lp5xRefresh 32, .hodCtlFlush 0 32768, .hodPushMid 9 0 8 0,
   .hodPushMid 0 32768 8 0, .hodPushMid 0 0 3 0, .hodPush 192 0 0 0 0, .hodPush 0 0 32 0 0, .hodPush 0 0 0 32 0,
   .hodPush 0 0 0 0 32, .masonPaused 192, .scratchAccess 192 .fetch [], .ackSend 12, .laneLockLoss 108,
   .domainPowerDown 12, .domainClearDone 12, .pllStable 6, .dividerStep 25, .railWarn 9, .mbxTimeout 9 0,
   .mbxTimeout 0 4, .mbxTimeout 1 2, .flrVf 9, .earlyRoll 8192, .registerWrite 9 0 8 0, .registerWrite 0 0 16 0,
   .cmdIdentify { fn := 9 }, .cmdIdentify { mbx := 4 }, .cmdIdentify { fn := 1, mbx := 2 },
   .cmdIdentify { job := 256 }].all (fun i => !i.wf) = true := by decide
theorem test_last_units_are_well_formed :
    [Instr.courseEnd 7 0 [], .storeWriteback 399 511, .tileMemoryReply 7 383 1, .shadowPop 7 383 3,
     .lp5xRefresh 31, .hodPushMid 8 32767 8 0, .hodPush 191 0x7F 31 31 31, .laneLockLoss 107, .ackSend 11,
     .mbxTimeout 0 3, .mbxTimeout 8 1, .railWarn 8, .dividerStep 24,
     .cmdIdentify { fn := 8, mbx := 1, job := 255 }].all Instr.wf = true := by decide

/-! ## The spec's own examples -/

/-- Chapter 0: 0x0004_2000 at byte 0x10. -/
theorem test_little_endian : leBytes 4 0x00042000 = [0x00, 0x20, 0x04, 0x00] ∧ field 0x00042000 15 8 = 0x20 := by
  decide
/-- R538: the columns of data bits 0–4, 55 and 56–63 of 64 data bits. -/
theorem test_check_columns : (secCols 8 64).take 5 = [0x07, 0x0B, 0x0D, 0x0E, 0x13] ∧
    (secCols 8 64).drop 55 = [0xE0, 0x1F, 0x2F, 0x37, 0x3B, 0x3D, 0x3E, 0x4F, 0x57] := by decide +kernel
theorem test_single_error_is_corrected : secDecode 8 64 (secEncode 8 64 5 ^^^ 2 ^ 71) = some (secEncode 8 64 5, true) ∧
    secDecode 8 64 (secEncode 8 64 5 ^^^ 3) = none := by decide +kernel
/-- R39: cluster position 34 as brick 37 counts it is brick 66. -/
theorem test_cluster_position : clusterBrick 37 ((21 + 4 * 3 + 20 / 16) % 64) = 66 := by decide
/-- R110: the frame address of virtual tile 5, course 2, brick 300, row 7, and its place in the block. -/
theorem test_frame_address : field 0x001452C7 26 18 = 5 ∧ frameIndex 0x001452C7 = 13247 := by decide
/-- R165: 0x1_2340_0048 lies in page 0x1234. -/
theorem test_design_address : linePage (0x123400048 / 128) = 0x1234 ∧ 0x123400048 / 128 = 0x2468000 := by decide
/-- R211, R212: far byte address 0x0010_0180. -/
theorem test_far_line : lineChannel 8195 = 3 ∧ chanController 3 = 0 ∧ lineSlot 8195 = 1 ∧ lineBank 8195 = 1 ∧
    lineRow 8195 = 1 := by decide
/-- R292: 0x1AC5_950B is hod.pushl x10, x11, x12 with start and priority 5. -/
theorem test_custom_word : customOf 0 0x1AC5950B = some (.hodPushl 0 0x0D 12 11 10) := by decide
/-- R363: cycle_lo 1 against own 0x0000_0001_FFFF_FFFE. -/
theorem test_stamp : extendStamp 0x00000001FFFFFFFE 0x00000001 = 0x0000000200000001 := by decide
/-- R532: 48.25 V reads as 0xE304, and 0.70 V of a rail as 0x0B33. -/
theorem test_linear11 : linear11 48250 1000 = 0xE304 ∧ 700 * 4096 / 1000 % 65536 = 0x0B33 := by decide +kernel
/-- R534: stepping A1. -/
theorem test_idcode : ∃ t, exec .idcode rdy = .next t ∧ t.jtag.dr = 0x165329EB := ⟨_, rfl, by decide⟩
/-- R517: a record with 65,536 taps takes 8,256 bytes. -/
theorem test_capture_record : capRecBytes 65536 = 8256 := by decide
def lateTrip : State :=
  pwr fun x => { x with hvUs := 3900000000, tripTimes := [2400000000, 0], brokenEv := 7, atTrip := [1, 0, 0] }
def earlyTrip : State :=
  pwr fun x => { x with hvUs := 3000000000, tripTimes := [1500000000, 0], brokenEv := 7, atTrip := [1, 0, 0] }
/-- R446: a third trip counts while the first lies within 60 minutes: 0, 25 and 50, not 0, 40 and 65. -/
theorem test_trips : ∃ t u, exec (.kilnConversion (some 440) none none) earlyTrip = .next t ∧
    exec (.kilnConversion (some 440) none none) lateTrip = .next u ∧
    t.pwr.lockout = true ∧ u.pwr.lockout = false ∧ u.pwr.tripping = true :=
  ⟨_, _, rfl, rfl, by decide +kernel, by decide +kernel, by decide +kernel⟩

/-! ## Whole steps on small states -/

/-- R263: a word pushed alone through the host's window is popped whole. -/
theorem test_push_then_pop : ∃ t u, exec (.hodPushOnly 0 32767 8 0x1122) (hodLast hostPair) = .next t ∧
    exec (.hodPop 0 32767 []) t = .next u ∧ u.out.head? = some (.cpl 0 [0x22, 0x11, 0, 0, 0, 0, 0, 0]) :=
  ⟨_, _, rfl, rfl, by decide +kernel⟩
/-- R302: a mason that finds an illegal instruction traps to mtvec, and halts when it is TRAPPED. -/
theorem test_trap_then_halt : ∃ t u,
    exec (.counterCsrRead 191 0xC00 3) (msn (ex { safe := true, mtvec := 0x10100 })) = .next t ∧
    exec (.counterCsrRead 191 0xC00 3) (msn (ex { safe := true, trapped := true })) = .next u ∧
    (masonOf t 191).pc = 0x10100 ∧ (masonOf t 191).mcause = 2 ∧ (masonOf u 191).st = .halted :=
  ⟨_, _, rfl, rfl, by decide +kernel, by decide +kernel, by decide +kernel⟩
/-- A step takes the command at the front of its queue. -/
theorem test_step : ∃ t, step { rdy with pending := [.cmdPalPolicy h0 18, .cmdIdentify h0] } = .next t ∧
    t.pal.affinity = 18 ∧ t.pending = [.cmdIdentify h0] := ⟨_, rfl, by decide +kernel, by decide +kernel⟩
/-- The table gives no row any bits. -/
theorem test_no_word_spells_a_command : decodeTableWord 32 0x1AC5950B = none := rfl
/-- R103: the CRC of the nine ASCII bytes "123456789". -/
theorem test_crc32c : crc32c [0x31, 0x32, 0x33, 0x34, 0x35, 0x36, 0x37, 0x38, 0x39] = 0xE3069283 := by decide +kernel

end Sys2Proof.Tests
end

section
/-! PROOFS. What a granted status command or query answers. Each row is carried out by `runCmd`, so a
granted one is its body on the job it names; what remains is its check of the operands and, for the two
table reads with ECC, that a read of entries without upsets leaves the tables as they are. -/

namespace Sys2Proof.Machine

/-! ## SEC-DED reads without an upset (R538) -/

/-- Data bits read with their own check bits are used as they are. -/
theorem secRead_secCheck (r k d : Nat) :
    secRead r k d (secCheck r k d) = some (d, secCheck r k d, false) := by
  simp [secRead]

/-- A stored word that holds no upset is read uncorrected. -/
theorem secDecode_secEncode {r k d : Nat} (hd : d < 2 ^ k) :
    secDecode r k (secEncode r k d) = some (secEncode r k d, false) := by
  have hdata : secEncode r k d % 2 ^ k = d := by
    rw [secEncode, Nat.add_mul_mod_self_right, Nat.mod_eq_of_lt hd]
  have hcheck : secEncode r k d / 2 ^ k = secCheck r k d := by
    rw [secEncode, Nat.add_mul_div_right _ _ (Nat.two_pow_pos k), Nat.div_eq_of_lt hd, Nat.zero_add]
  rw [secDecode, hdata, hcheck, secRead_secCheck]
  rfl

/-! ## Table reads without an upset -/

/-- The read of a page entry whose word holds no upset and whose page does not wait for a rebuild
(R176, R179) changes nothing. -/
theorem readEntry_of_clean {s : State} {p : Nat} (hst : s.mem.stalled.contains p = false)
    (herr : mapGet s.mem.pptErr 0 p = 0) : readEntry s p = (pptOf s p, s) := by
  have hfetch : fetchEntry s p = (true, s) := by
    rw [fetchEntry, if_neg (by rw [hst]; exact Bool.false_ne_true)]
    exact if_pos herr
  rw [readEntry, hfetch]
  rfl

/-- A forwarding entry takes 17 of its 32 data bits (R343). -/
theorem fwdWord_lt (e : Fwd) : fwdWord e < 2 ^ 32 := by
  have hout := e.out.isLt
  have hjob := Nat.mod_lt e.job (show 0 < 8 by decide)
  have hvalid : b2n e.valid ≤ 1 := by cases e.valid <;> decide
  have hloc : b2n e.loc ≤ 1 := by cases e.loc <;> decide
  simp only [fwdWord]
  omega

/-- The read of a forwarding entry whose word holds no upset (R343, R344) changes nothing. The
definition is opened as a function, before it meets its arguments: the kernel that compares
`fwdRead s i` with its body would run the decoder on the open word. -/
theorem fwdRead_of_clean {s : State} {i : Nat} (herr : mapGet s.lry.fwdErr 0 i = 0) :
    fwdRead s i = (mapGet s.lry.fwd {} i, s) := by
  have hdec : secDecode 7 32 (secEncode 7 32 (fwdWord (mapGet s.lry.fwd {} i))
      ^^^ (mapGet s.lry.fwdErr 0 i).toNat)
      = some (secEncode 7 32 (fwdWord (mapGet s.lry.fwd {} i)), false) := by
    rw [herr]
    exact (congrArg _ (Nat.xor_zero _)).trans (secDecode_secEncode (fwdWord_lt _))
  generalize hF : fwdRead = F
  delta fwdRead at hF
  subst hF
  beta_reduce
  simp only [hdec, Bool.false_eq_true, if_false]

/-- CMD_LRY_FWD's read gathers the words of the entries, and changes nothing where none of them holds
an upset. -/
theorem foldl_readFwd_of_clean {s : State} : ∀ {is : List Nat} (bs : List Byte),
    (∀ i ∈ is, mapGet s.lry.fwdErr 0 i = 0) →
    is.foldl readFwd (bs, s) =
      (bs ++ is.flatMap fun i => leBytes 4 (fwdWord (mapGet s.lry.fwd {} i)), s)
  | [], bs, _ => by simp
  | i :: is, bs, herr => by
    have hread : readFwd (bs, s) i = (bs ++ leBytes 4 (fwdWord (mapGet s.lry.fwd {} i)), s) := by
      simp only [readFwd, fwdRead_of_clean (herr i List.mem_cons_self)]
    rw [List.foldl_cons, hread,
      foldl_readFwd_of_clean _ fun j hj => herr j (List.mem_cons_of_mem i hj)]
    simp

/-! ## Granted rows -/

/-- A row that `runCmd` carries out is, once granted, its body on the job it names (R454). -/
theorem exec_of_granted {c : Instr} {s : State} {h : Hdr} {op : Nat} {who : From} {need : Bool}
    {body : Nat → State} (hc : exec c s = .next (runCmd s h op who need body))
    (ht : commandTable.find? (fun e => e.1 == op) = some (op, who, need))
    (hg : granted s h op = true) : exec c s = .next (body (namedJob h)) := by
  rw [hc, runCmd_of_granted ht hg]

/-- A check of the operands that they pass. -/
theorem ite_not_of_true {α : Type} {b : Bool} {x y : α} (hb : b = true) :
    (if !b then x else y) = y := if_neg (by simp [hb])

/-- Indices within the bound `n`, no more of them than `k`: the check of the two list reads of Larey
tables lets them pass. -/
theorem indexCheck_eq_false {is : List Nat} {n k : Nat} (hn : ∀ i ∈ is, i < n)
    (hk : is.length ≤ k) :
    (is.any (fun i => decide (n ≤ i)) || decide (k < is.length)) = false := by
  simp only [Bool.or_eq_false_iff, List.any_eq_false, decide_eq_true_eq, decide_eq_false_iff_not,
    Nat.not_le, Nat.not_lt]
  exact ⟨hn, hk⟩

theorem exec_cmdTileStatus_of_granted {s : State} {h : Hdr} {first count : Nat} {fm tm : BitVec 32}
    (hg : granted s h 0x0103 = true) (hr : rangeOk first count 400 15 = true) :
    exec (.cmdTileStatus h first count fm tm) s =
      .next (each ((List.range count).map (first + ·)) (clearTileBits fm tm)
        (answer s h 0x0103 (((List.range count).map (first + ·)).flatMap (tileRecord s)))) := by
  rw [exec_of_granted rfl rfl hg]
  exact congrArg _ (ite_not_of_true hr)

/-- CMD_CLK_STATUS reports before its two write-1-to-clear bits act (Tables 13-5 and 13-9; log 91). -/
theorem exec_cmdClkStatus_of_granted {s : State} {h : Hdr} {cm rm : BitVec 32}
    (hg : granted s h 0x0211 = true) : ∃ t, exec (.cmdClkStatus h cm rm) s = .next t ∧
      t.clk = { s.clk with forced := s.clk.forced && !cm.getLsbD 23 } ∧
      t.rst = { s.rst with perstSeen := s.rst.perstSeen && !rm.getLsbD 3 } ∧
      t.hif = (answer s h 0x0211
        (leBytes 4 (clkWord s) ++ leBytes 4 (clkFabCtl s.clk) ++ leBytes 4 (rstStatus s.rst))).hif ∧
      t = { s with clk := t.clk, rst := t.rst, hif := t.hif, out := t.out } := by
  obtain ⟨hif, out, hans⟩ := answer_frame s h 0x0211
    (leBytes 4 (clkWord s) ++ leBytes 4 (clkFabCtl s.clk) ++ leBytes 4 (rstStatus s.rst))
  refine ⟨_, exec_of_granted rfl rfl hg, ?_⟩
  simp only [hans]
  exact ⟨rfl, rfl, rfl, rfl⟩

theorem exec_cmdHodQuery_of_granted {s : State} {h : Hdr} {hod : Nat}
    (hg : granted s h 0x0606 = true) (hh : hodCheck s h hod = none) :
    exec (.cmdHodQuery h hod) s = .next (answer s h 0x0606 (hodReport (hodOf s hod))) := by
  rw [exec_of_granted rfl rfl hg, hh]

theorem exec_cmdPlcQuery_of_granted {s : State} {h : Hdr} {first count : Nat}
    (hg : granted s h 0x0505 = true) (hr : rangeOk first count 131072 30 = true)
    (hp : pagesAllowed s h (pagesFrom first count) = true) :
    exec (.cmdPlcQuery h first count) s =
      .next (answer (each (pagesFrom first count) (fun s p => (readEntry s p).2) s) h 0x0505
        ((pagesFrom first count).flatMap fun p => leBytes 8
          (pptWord (pptOf (each (pagesFrom first count) (fun s p => (readEntry s p).2) s) p)))) := by
  rw [exec_of_granted rfl rfl hg]
  exact congrArg _ ((ite_not_of_true hr).trans (ite_not_of_true hp))

theorem exec_cmdMsnStatus_of_granted {s : State} {h : Hdr} {ms : List Nat}
    (hg : granted s h 0x060C = true) (hm : masonsOk ms = true) (hl : ms.length ≤ 59)
    (hown : h.fn = 0 ∨ ∀ m ∈ ms, (masonOf s m).job = some (namedJob h)) :
    exec (.cmdMsnStatus h ms) s = .next (answer s h 0x060C
      (ms.flatMap (fun m => leBytes 4 (msnStatus (masonOf s m) (groupOf s (m / 16))))
        ++ [BitVec.ofNat 8 (b2n (replaySafe s (namedJob h)))])) := by
  have hrights : ¬ (h.fn ≠ 0 ∧ ms.any (fun m => (masonOf s m).job != some (namedJob h))) := by
    rintro ⟨hfn, hany⟩
    obtain ⟨m, hmem, hne⟩ := List.any_eq_true.1 hany
    exact bne_iff_ne.1 hne (hown.resolve_left hfn m hmem)
  rw [exec_of_granted rfl rfl hg]
  exact congrArg _ ((if_neg hrights).trans (if_neg (by simp [hm, hl])))

/-- Settles O10. The forms of the answers are the model's choice where the spec leaves them open
(logs 19 and 42), as is the order of the report and the bits it clears (log 91). -/
theorem queriesAnswer : Obligations.QueriesAnswer := by
  unfold Obligations.QueriesAnswer
  refine ⟨?identify, ?devStatus, ?clearAlert, ?tileStatus, ?jobStatus, ?arrStatus, ?clkStatus,
    ?pwrStatus, ?klnStatus, ?spareStatus, ?spnStatus, ?hodQuery, ?flowRead, ?palStats, ?plcQuery,
    ?quarantine, ?repairList, ?channels, ?masons, ?ports, ?fwdRead, ?routeRead, ?eccWord⟩
  case identify | spareStatus =>
    intro s h hg
    rw [exec_of_granted rfl rfl hg]
    rfl
  case devStatus | jobStatus | arrStatus | pwrStatus | klnStatus | spnStatus | repairList =>
    intro s h hg
    rw [exec_of_granted rfl rfl hg]
  case clearAlert | quarantine =>
    intro s h x hg
    rw [exec_of_granted rfl rfl hg]
  case tileStatus => exact fun _ _ _ _ _ _ hg hr => exec_cmdTileStatus_of_granted hg hr
  case clkStatus => exact fun _ _ _ _ hg => exec_cmdClkStatus_of_granted hg
  case hodQuery => exact fun _ _ _ hg hh => exec_cmdHodQuery_of_granted hg hh
  case flowRead =>
    intro s h flow hg hf
    rw [exec_of_granted rfl rfl hg]
    exact congrArg _ (ite_not_of_true hf)
  case palStats =>
    intro s h flows hg hf first
    rw [exec_of_granted rfl rfl hg]
    exact congrArg _ (ite_not_of_true hf)
  case plcQuery =>
    refine fun s h first count hg hr hp => ⟨exec_cmdPlcQuery_of_granted hg hr hp, fun hst herr => ?_⟩
    refine List.foldl_fixed' (fun p => ?_) _
    rw [readEntry_of_clean (by simp [hst]) (by simp [herr, mapGet])]
  case channels | ports =>
    intro s h first count hg hr
    rw [exec_of_granted rfl rfl hg]
    exact congrArg _ (ite_not_of_true hr)
  case masons => exact fun _ _ _ hg hm hl hown => exec_cmdMsnStatus_of_granted hg hm hl hown
  case fwdRead =>
    refine fun s h is hg hn hl => ⟨?_, fun herr => by simpa using foldl_readFwd_of_clean [] herr⟩
    rw [exec_of_granted rfl rfl hg]
    exact congrArg _ (if_neg (by simp [indexCheck_eq_false hn hl]))
  case routeRead =>
    intro s h is hg hn hl
    rw [exec_of_granted rfl rfl hg]
    exact congrArg _ (if_neg (by simp [indexCheck_eq_false hn hl]))
  case eccWord =>
    intro s h target addr hg hd
    rw [exec_of_granted rfl rfl hg]
    exact congrArg _ (ite_not_of_true hd)

end Sys2Proof.Machine
end

section
/-! PROOFS. The commit of a user cycle counts the cycle of its own job and of no other (R74). What the commit
does besides, the journal record of a sampled TRIG value, the markers of an early checkpoint it may bring, the
capture record, touches job records in other fields only. -/

namespace Sys2Proof.Machine

/-! ## Sending a message changes Larey alone

`onlyLarey` as a frame: reflexive, transitive, kept by a fold. -/

theorem onlyLarey_iff {s t : State} : onlyLarey s t ↔ ∃ lry spr hif tel draws ctr out,
    t = { s with lry := lry, spr := spr, hif := hif, tel := tel, draws := draws,
                 freeCtr := ctr, out := out } := by
  constructor
  · intro h
    exact ⟨_, _, _, _, _, _, _, h⟩
  · rintro ⟨_, _, _, _, _, _, _, rfl⟩
    rfl

theorem onlyLarey.refl (s : State) : onlyLarey s s := rfl

theorem onlyLarey.trans {s t u : State} (h : onlyLarey s t) (g : onlyLarey t u) : onlyLarey s u := by
  obtain ⟨_, _, _, _, _, _, _, rfl⟩ := onlyLarey_iff.1 h
  obtain ⟨_, _, _, _, _, _, _, rfl⟩ := onlyLarey_iff.1 g
  rfl

theorem onlyLarey.foldl {α : Type} {f : State → α → State} (h : ∀ s a, onlyLarey s (f s a)) :
    ∀ (l : List α) (s : State), onlyLarey s (l.foldl f s)
  | [], s => onlyLarey.refl s
  | a :: l, s => (h s a).trans (onlyLarey.foldl h l (f s a))

theorem HostFrame.onlyLarey {s t : State} (h : HostFrame s t) : onlyLarey s t := by
  obtain ⟨_, _, rfl⟩ := h
  rfl

theorem onlyLarey.jobs {s t : State} (h : onlyLarey s t) : t.jobs = s.jobs := by
  obtain ⟨_, _, _, _, _, _, _, rfl⟩ := onlyLarey_iff.1 h
  rfl

theorem takeLevels_onlyLarey (s : State) (l : Nat) (ls : List (BitVec 2)) :
    onlyLarey s (takeLevels s l ls).2 := by
  simp only [takeLevels]
  split
  · exact onlyLarey.refl s
  · rfl

theorem putLevels_onlyLarey (s : State) (l : Nat) (ps : List (BitVec 2)) :
    onlyLarey s (putLevels s l ps).2 := rfl

theorem sendPairs_onlyLarey (s : State) (l : Nat) (ps : List (BitVec 2)) :
    onlyLarey s (sendPairs s l ps) := by
  simp only [sendPairs]
  split
  · exact (putLevels_onlyLarey s l ps).trans (takeLevels_onlyLarey _ _ _)
  · exact putLevels_onlyLarey s l ps

theorem setPort_onlyLarey (s : State) (p : Nat) (q : Port) : onlyLarey s (setPort s p q) := rfl

theorem fillSlotOf_onlyLarey (s : State) (p slot : Nat) (flag : Bool) (bytes : List Byte) :
    onlyLarey s (fillSlotOf s p slot flag bytes) := by
  simp only [fillSlotOf]
  split
  · exact setPort_onlyLarey _ _ _
  · exact (setPort_onlyLarey _ _ _).trans (sendPairs_onlyLarey _ _ _)

theorem sendMarker_onlyLarey (s : State) (p : Nat) : onlyLarey s (sendMarker s p) :=
  ((setPort_onlyLarey _ _ _).trans (emitOut_frame _ _).onlyLarey).trans (fillSlotOf_onlyLarey _ _ _ _ _)

theorem putSlot_onlyLarey (s : State) (p : Nat) (bytes : List Byte) :
    onlyLarey s (putSlot s p bytes) :=
  (((onlyLarey.foldl (fun s _ => sendMarker_onlyLarey s p) _ s).trans (setPort_onlyLarey _ _ _)).trans
    (emitOut_frame _ _).onlyLarey).trans (fillSlotOf_onlyLarey _ _ _ _ _)

theorem leafAdd_onlyLarey (s : State) (r n : Nat) : onlyLarey s (leafAdd s r n) := rfl

theorem sendSlot_onlyLarey {s t : State} {p : Nat} (h : sendSlot s p = some t) : onlyLarey s t := by
  simp only [sendSlot] at h
  split at h
  · cases h
  · split at h
    · cases h
    · split at h
      · cases h
      · cases h
        exact ((setPort_onlyLarey _ _ _).trans (putSlot_onlyLarey _ _ _)).trans (leafAdd_onlyLarey _ _ _)

theorem pumpN_onlyLarey : ∀ (n : Nat) (s : State) (p : Nat), onlyLarey s (pumpN n s p)
  | 0, s, _ => onlyLarey.refl s
  | n + 1, s, p => by
    simp only [pumpN]
    split
    next h => exact (sendSlot_onlyLarey h).trans (pumpN_onlyLarey n _ p)
    next => exact onlyLarey.refl s

theorem sendMsg_onlyLarey (s : State) (p cls kind : Nat) (body : List Byte) :
    onlyLarey s (sendMsg s p cls kind body) :=
  (setPort_onlyLarey s p _).trans (pumpN_onlyLarey _ _ _)

/-- A message that this device originates (R346). -/
theorem routeSend_onlyLarey (s : State) (cls kind dst : Nat) (body : List Byte) :
    onlyLarey s (routeSend s cls kind dst body) := by
  simp only [routeSend]
  split
  · exact sendMsg_onlyLarey _ _ _ _ _
  · split
    · exact setPort_onlyLarey _ _ _
    · exact (leafAdd_onlyLarey s _ _).trans (emitDev_frame _ _ _).onlyLarey

/-! ## User-cycle numbers -/

/-- Every job's user-cycle number is what it was. -/
def KeepsCycles (s t : State) : Prop := ∀ k, (jobOf t k).cycle = (jobOf s k).cycle

theorem KeepsCycles.refl (s : State) : KeepsCycles s s := fun _ => rfl

theorem KeepsCycles.trans {s t u : State} (h : KeepsCycles s t) (g : KeepsCycles t u) :
    KeepsCycles s u := fun k => (g k).trans (h k)

theorem KeepsCycles.foldl {α : Type} {f : State → α → State} (h : ∀ s a, KeepsCycles s (f s a)) :
    ∀ (l : List α) (s : State), KeepsCycles s (l.foldl f s)
  | [], s => KeepsCycles.refl s
  | a :: l, s => (h s a).trans (KeepsCycles.foldl h l (f s a))

theorem keepsCycles_of_jobs {s t : State} (h : t.jobs = s.jobs) : KeepsCycles s t := fun k => by
  simp only [jobOf, h]

theorem keepsCycles_modJob {s : State} {j : Nat} {f : Job → Job}
    (hf : (f (jobOf s j)).cycle = (jobOf s j).cycle) : KeepsCycles s (modJob s j f) := fun k => by
  by_cases hk : k = j
  · rw [hk, jobOf_modJob_same, hf]
  · rw [jobOf_modJob_other s j k f hk]

theorem KeepsCycles.ite {s t u : State} {c : Prop} [Decidable c] (ht : KeepsCycles s t)
    (hu : KeepsCycles s u) : KeepsCycles s (if c then t else u) := by
  split
  · exact ht
  · exact hu

/-! ## What a commit does besides -/

theorem sendMarkers_keepsCycles (s : State) (j stream : Nat) (target : Word) :
    KeepsCycles s (sendMarkers s j stream target) :=
  KeepsCycles.foldl (fun _ _ =>
    (KeepsCycles.refl _).ite (keepsCycles_of_jobs (routeSend_onlyLarey _ _ _ _ _).jobs)) _ s

theorem scheduleEarly_keepsCycles (s : State) (j : Nat) : KeepsCycles s (scheduleEarly s j) :=
  (KeepsCycles.refl s).ite ((keepsCycles_modJob rfl).trans (sendMarkers_keepsCycles _ _ _ _))

theorem logFull_keepsCycles (s : State) (js : List Nat) : KeepsCycles s (logFull s js) :=
  KeepsCycles.foldl (fun _ _ =>
    (keepsCycles_modJob rfl).trans (keepsCycles_of_jobs (emitJob_jobs _ _ _ _))) _ s

/-- A journal record (R370), with the early checkpoints that the fill brings (R365). -/
theorem addRecord_keepsCycles (s : State) (j : Nat) (c : Word) (r : JRec) :
    KeepsCycles s (addRecord s j c r) :=
  (KeepsCycles.refl s).ite <| (logFull_keepsCycles s _).ite <|
    (keepsCycles_of_jobs (modArrBlk_jobs s _)).trans <|
      (KeepsCycles.foldl scheduleEarly_keepsCycles _ _).ite (KeepsCycles.refl _)

theorem sampleTrig_keepsCycles (s : State) (j : Nat) (pins : BitVec 16) :
    KeepsCycles s (sampleTrig s j pins) := by
  simp only [sampleTrig]
  split
  · exact keepsCycles_modJob rfl
  · exact (KeepsCycles.refl s).ite ((addRecord_keepsCycles s j _ _).trans (keepsCycles_modJob rfl))

theorem emitJob_if_keepsCycles (s : State) (c : Prop) [Decidable c] (code j : Nat)
    (fs : List (Nat × Nat)) : KeepsCycles s (if c then emitJob s code j fs else s) :=
  (keepsCycles_of_jobs (emitJob_jobs s code j fs)).ite (KeepsCycles.refl s)

/-- The capture engine (R515 to R521). -/
theorem captureCommit_keepsCycles (s : State) (j : Nat) (u : Word) :
    KeepsCycles s (captureCommit s j u) := by
  dsimp only [captureCommit]
  refine (KeepsCycles.refl s).ite ?_
  refine KeepsCycles.trans ?_ (emitJob_if_keepsCycles _ _ _ _ _)
  refine KeepsCycles.trans ?_ (emitJob_if_keepsCycles _ _ _ _ _)
  refine KeepsCycles.trans ?_ (keepsCycles_modJob rfl)
  exact (keepsCycles_of_jobs (modTelBlk_jobs s _)).ite
    ((keepsCycles_of_jobs (leafAdd_jobs s _ _)).ite (KeepsCycles.refl s))

/-- A fold of changes of single tiles changes the tiles alone. -/
theorem each_modTile_frame {α : Type} (g : α → Nat) (f : α → Tile → Tile) : ∀ (l : List α) (s : State),
    ∃ tiles, each l (fun s a => modTile s (g a) (f a)) s = { s with tiles := tiles }
  | [], s => ⟨s.tiles, rfl⟩
  | a :: l, s => each_modTile_frame g f l (modTile s (g a) (f a))

theorem each_modTile_jobs {α : Type} (g : α → Nat) (f : α → Tile → Tile) (l : List α) (s : State) :
    (each l (fun s a => modTile s (g a) (f a)) s).jobs = s.jobs := by
  obtain ⟨_, h⟩ := each_modTile_frame g f l s
  rw [h]

/-- The commit up to the number itself. -/
def commitEffects (s : State) (j : Nat) (pins : BitVec 16) : State :=
  leafAdd (captureCommit (sampleTrig
    (each (jobTiles s j) (fun t e => modTile t e.2 (commitTile (jobOf s j))) s) j pins) j
    (jobOf s j).cycle) (leafJob j 8) 1

theorem commitJob_eq (s : State) (j : Nat) (pins : BitVec 16) : commitJob s j pins =
    modJob (commitEffects s j pins) j fun x => { x with cycle := x.cycle + 1 } := rfl

theorem commitEffects_keepsCycles (s : State) (j : Nat) (pins : BitVec 16) :
    KeepsCycles s (commitEffects s j pins) :=
  (((keepsCycles_of_jobs (each_modTile_jobs _ _ _ s)).trans (sampleTrig_keepsCycles _ j pins)).trans
    (captureCommit_keepsCycles _ j _)).trans (keepsCycles_of_jobs (leafAdd_jobs _ _ _))

/-- Settles O21: all that the commit does before it counts keeps every job's number. -/
theorem commitCountsUserCycles : Obligations.CommitCountsUserCycles := by
  unfold Obligations.CommitCountsUserCycles
  intro s j pins
  have hkeep := commitEffects_keepsCycles s j pins
  rw [commitJob_eq]
  constructor
  · rw [jobOf_modJob_same, hkeep j]
  · intro k hk
    rw [jobOf_modJob_other _ _ _ _ hk, hkeep k]

end Sys2Proof.Machine
end

section
/-! PROOFS. The rows of the trowel: verdicts, refresh and store sweeps, votes, stops and audits
(R79, R94 to R97, R141 to R162). -/

namespace Sys2Proof.Machine

/-! ## Shared operations -/

/-- An event at a unit that the device has. -/
theorem atUnit_of_lt {i n : Nat} {s : State} (h : i < n) : atUnit (decide (i < n)) s = .next s :=
  if_pos (decide_eq_true h)

/-- Upsets change stored bits; no Tile Map entry is among them. -/
theorem upset_tileMap (s : State) (u : Upset) : (upset s u).tileMap = s.tileMap := by
  cases u <;> rfl

theorem upsets_tileMap : ∀ (us : List Upset) (s : State), (upsets s us).tileMap = s.tileMap
  | [], _ => rfl
  | u :: us, s => (upsets_tileMap us (upset s u)).trans (upset_tileMap s u)

theorem jobTiles_congr {s t : State} (h : t.tileMap = s.tileMap) (j : Nat) :
    jobTiles t j = jobTiles s j := by
  simp only [jobTiles, h]

theorem tileOf_congr {s t : State} (h : t.tiles = s.tiles) (i : Nat) : tileOf t i = tileOf s i := by
  simp only [tileOf, h]

theorem leafAdd_leaf_same (s : State) (r n : Nat) :
    mapGet (leafAdd s r n).tel.leaves 0 r = mapGet s.tel.leaves 0 r + n :=
  mapGet_mapMod_same _ _ _ (· + n)

/-- A fold whose every step leaves the state. -/
theorem each_eq_self {α : Type} {f : State → α → State} {s : State} :
    ∀ {l : List α}, (∀ a ∈ l, f s a = s) → each l f s = s
  | [], _ => rfl
  | a :: l, h => by
    rw [each, List.foldl_cons, h a List.mem_cons_self]
    exact each_eq_self fun b hb => h b (List.mem_cons_of_mem a hb)

/-! ## Verdicts -/

section
variable {s : State} {j : Nat} {ups : List Upset}

theorem exec_trowelVerdict_startup (hst : s.pwr.state = .ready) (hdom : s.clk.domainsOn = true)
    (hup : startupDue s j = true) :
    exec (.trowelVerdict j ups) s = .next (verdict (upsets s ups) j 0) :=
  congrArg Host.Outcome.next (if_pos (by simp [hst, hdom, hup]))

theorem exec_trowelVerdict_pending (hup : startupDue s j = false)
    (hon : seqOn s (jobOf s j) = true) (hrun : (jobOf s j).state ≠ .stopped)
    (hdyn : (jobOf s j).desc.static = false) (hdue : preloadDue s j = true) :
    exec (.trowelVerdict j ups) s = .next (verdict (upsets s ups) j (nextCourse (jobOf s j))) :=
  congrArg Host.Outcome.next
    ((if_neg (by simp [hup])).trans (if_pos (by simp [hon, hrun, hdyn, hdue])))

/-- Firmware has acted on the faults, or there is none for it to act on. -/
theorem exec_staticPreload_of_due (hon : seqOn s (jobOf s j) = true)
    (hrun : (jobOf s j).state ≠ .stopped) (hstat : (jobOf s j).desc.static = true)
    (hmoves : relocsWait s j = false)
    (hfaults : (jobOf s j).rewriting = true ∨
      ∀ c ∈ (jobOf s j).faults, actionable c = false ∧ c ≠ .dieReset) :
    exec (.staticPreload j ups) s = .next (verdict (upsets s ups) j 0) := by
  have hjudge : ((jobOf s j).rewriting || !((jobOf s j).faults.any actionable
      || (jobOf s j).faults.contains .dieReset)) = true := by
    rcases hfaults with hrew | hnone
    · rw [hrew, Bool.true_or]
    · have hact : (jobOf s j).faults.any actionable = false := by
        simpa using fun c hc => (hnone c hc).1
      have hdie : (jobOf s j).faults.contains .dieReset = false := by
        simpa using fun hc => (hnone _ hc).2 rfl
      rw [hact, hdie, Bool.or_false, Bool.not_false, Bool.or_true]
  exact congrArg Host.Outcome.next (if_pos (by simp only [hjudge]; simp [hon, hrun, hstat, hmoves]))

end

/-! ## Refresh sweeps -/

theorem exec_refreshTimerExpiry_of_on {s : State} {j : Nat} (hon : seqOn s (jobOf s j) = true) :
    exec (.refreshTimerExpiry j) s = .next (modJob s j fun x => { x with sweepDue := true }) :=
  congrArg Host.Outcome.next (if_pos hon)

/-- Upsets leave the tiles that a sweep visits. -/
theorem exec_refreshSweep_of_held {s : State} {j : Nat} {ups : List Upset}
    (hon : seqOn s (jobOf s j) = true) (hdue : (jobOf s j).sweepDue = true)
    (hheld : (jobOf s j).waits.getLsbD 1 = true ∨ (jobOf s j).capturing.isSome = true ∨
      (jobOf s j).state = .stopped ∨ (jobOf s j).replay.isNone = true ∧
        ((jobOf s j).state = .heldCmd ∨ (jobOf s j).state = .heldFault)) :
    exec (.refreshSweep j ups) s =
      .next (each (jobTiles s j) (sweepTile j (jobOf s j).desc.courseCount)
        (modJob (upsets s ups) j fun y =>
          { y with sweepDue := false, sweepRun := true, waits := y.waits ||| 2 })) := by
  have hwaits : ((jobOf s j).waits.getLsbD 1 || (jobOf s j).capturing.isSome
      || (jobOf s j).state == .stopped || ((jobOf s j).replay.isNone
        && ((jobOf s j).state == .heldCmd || (jobOf s j).state == .heldFault))) = true := by
    simpa [or_assoc] using hheld
  rw [← jobTiles_congr (s := s) (t := modJob (upsets s ups) j _) (upsets_tileMap ups s) j]
  exact congrArg Host.Outcome.next (if_neg (by simp only [hwaits]; simp [hon, hdue]))

theorem exec_holdingSweep_of_holding {s : State} {tile : Nat} (ht : tile < 400)
    (hhold : (tileOf s tile).holding = true) (hdom : s.clk.domainsOn = true) :
    exec (.holdingSweep tile) s = .next (modTile s tile fun t => { t with holdUs := s.nowUs }) :=
  (atUnit_of_lt ht).trans (congrArg Host.Outcome.next (if_pos (by simp [hhold, hdom])))

/-! ## Votes -/

/-- One differing copy: all three take the vote, and the tile counts it (R159). -/
theorem checkVote_of_one {s : State} {t : Nat} (h : trwWrong (tileOf s t) = 1) :
    checkVote s t = leafAdd (setTile s t (setTrwBits 8 { tileOf s t with
      trw0 := trwVote (tileOf s t), trw1 := trwVote (tileOf s t), trw2 := trwVote (tileOf s t) }))
      (leafTile t 3) 1 := if_pos h

/-- Two differing copies: the trowel stops (R160). -/
theorem checkVote_of_two {s : State} {t : Nat} (h : 2 ≤ trwWrong (tileOf s t)) :
    checkVote s t = trowelStop s t := (if_neg (by omega)).trans (if_pos h)

/-- What a stop does to the tile and its count, before anything is reported (R160, R161). -/
def markStop (s : State) (t : Nat) : State :=
  leafAdd (modTile (noteStop s t 0x10) t fun x => { x with swapOn := false, swapClear := [] })
    (leafTile t 4) 1

/-- A stop on a tile that a job owns is reported and holds that job. -/
theorem trowelStop_of_owned {s : State} {t : Nat} {o : Nat × Nat} (ho : ownerOf s t = some o)
    (hrun : trwStopped (tileOf s t) = false) :
    trowelStop s t = faultHold .trowelStop (emitJob (markStop s t) 0x0403 o.1
      [(2, t), (1, o.1), (1, b2n (tileOf (markStop s t) t).stopAgain)]) o.1 := by
  have howner : ownerOf (markStop s t) t = some o := ho
  simp only [markStop] at howner
  simp only [trowelStop, hrun, howner, Bool.false_eq_true, if_false]
  rfl

theorem tileOf_markStop (s : State) (t : Nat) : tileOf (markStop s t) t = { tileOf s t with
    trwStatus := (tileOf s t).trwStatus ||| 0x10, lastStop := some s.nowUs,
    stopAgain := stopRepeats s (tileOf s t), swapOn := false, swapClear := [] } := by
  rw [markStop, tileOf_congr (leafAdd_tiles _ _ _), tileOf_modTile_same, noteStop, tileOf_modTile_same]

theorem tileOf_trowelStop_of_owned {s : State} {t : Nat} {o : Nat × Nat} (ho : ownerOf s t = some o)
    (hrun : trwStopped (tileOf s t) = false) :
    tileOf (trowelStop s t) t = tileOf (markStop s t) t := by
  rw [trowelStop_of_owned ho hrun, faultHold, tileOf_congr (modJob_tiles _ _ _),
    tileOf_congr (emitJob_tiles _ _ _ _)]

/-- A tile whose vote equals firmware's record passes the audit (R159). -/
theorem auditTile_of_record {s : State} {t : Nat} (h : trwVote (tileOf s t) = (tileOf s t).trwRecord) :
    auditTile s t = s := if_pos h

theorem exec_trwRegisterAudit_of_records {s : State}
    (h : ∀ t, t < 400 → trwVote (tileOf s t) = (tileOf s t).trwRecord) :
    exec (.trwRegisterAudit []) s = .next s :=
  congrArg Host.Outcome.next
    (each_eq_self fun t ht => auditTile_of_record (h t (List.mem_range.1 ht)))

/-! ## Store sweeps -/

/-- A running trowel with SWEEP_EN reads one entry of every brick (R158). -/
theorem exec_storeSweepRead_of_running {s : State} {tile : Nat} {ups : List Upset} (ht : tile < 400)
    (hrun : trwStopped (tileOf (upsets s ups) tile) = false)
    (hen : (trwVote (tileOf (upsets s ups) tile)).getLsbD 11 = true) :
    exec (.storeSweepRead tile ups) s =
      .next (modTile (each (List.range 512) (sweepEntry tile (tileOf (upsets s ups) tile).sweepPos)
        (upsets s ups)) tile fun t =>
          { t with sweepPos := ((tileOf (upsets s ups) tile).sweepPos + 1) % 320 }) :=
  (atUnit_of_lt ht).trans (congrArg Host.Outcome.next (if_neg (by simp [hrun, hen])))

/-- Settles O22, row by row: each acts as its operation does on the state where its checks pass. -/
theorem trowelRowsAct : Obligations.TrowelRowsAct := by
  unfold Obligations.TrowelRowsAct
  refine ⟨?startup, ?pending, ?static, ?timer, ?sweep, ?sweepEnd, ?holding, ?writeback, ?handling,
    ?vote, ?stop, ?stopped, ?auditClean, ?audit, ?storeSweep, ?expiry⟩
  case startup => exact fun _ _ _ => exec_trowelVerdict_startup
  case pending => exact fun _ _ _ => exec_trowelVerdict_pending
  case static => exact fun _ _ _ => exec_staticPreload_of_due
  case timer => exact fun s j hon => ⟨_, exec_refreshTimerExpiry_of_on hon, jobOf_modJob_same _ _ _, rfl⟩
  case sweep => exact fun _ _ _ => exec_refreshSweep_of_held
  case sweepEnd => exact fun s j => ⟨_, rfl, jobOf_modJob_same _ _ _, rfl⟩
  case holding =>
    exact fun s tile ht hhold hdom =>
      ⟨_, exec_holdingSweep_of_holding ht hhold hdom, tileOf_modTile_same _ _ _, rfl⟩
  case writeback => exact fun s tile brick ht => ⟨_, atUnit_of_lt ht, tileOf_modTile_same _ _ _, rfl⟩
  case handling => exact fun s j g hheld => congrArg Host.Outcome.next (if_pos hheld)
  case vote =>
    intro s tile ups ht hone u w
    refine ⟨_, (atUnit_of_lt ht).trans (congrArg Host.Outcome.next (checkVote_of_one hone)),
      ?_, leafAdd_leaf_same _ _ _, rfl⟩
    rw [tileOf_congr (leafAdd_tiles _ _ _), tileOf_setTile_same]
    rfl
  case stop =>
    exact fun s tile ups ht htwo =>
      (atUnit_of_lt ht).trans (congrArg Host.Outcome.next (checkVote_of_two htwo))
  case stopped =>
    intro s tile o ho hrun
    rw [tileOf_trowelStop_of_owned ho hrun, tileOf_markStop]
    exact ⟨by simp [trwStopped], rfl, rfl⟩
  case auditClean => exact fun _ => exec_trwRegisterAudit_of_records
  case audit => exact fun _ _ => rfl
  case storeSweep =>
    exact fun s tile ups ht hrun hen =>
      ⟨_, exec_storeSweepRead_of_running ht hrun hen, congrArg Tile.sweepPos (tileOf_modTile_same _ _ _)⟩
  case expiry => exact fun _ => rfl

end Sys2Proof.Machine
end

section
/-! PROOFS. Each section of an image that passes its steps moves the load on, and one that fails ends it
(R83, R107 to R117): first what a failing load, a bound tile and an applied image leave, then the sections in
their order. -/

namespace Sys2Proof.Machine

/-! ## Sections of the host's image -/

/-- The operation that takes a section at each stage. -/
def takeStage : LoadStage → State → Load → List Byte → State
  | .header => takeHeader
  | .descriptor => takeDescriptor
  | .tiles => takeBlock
  | .slabs => takeSlab
  | .signatures => takeSignatures
  | .endRecord => takeEnd
  | .ramping => fun s _ _ => s
  | .starting => fun s _ _ => s

/-- A section that comes whole, within what the host's list covers, at the stage the load stands at. -/
theorem hostSection_eq {s : State} {l : Load} {stage : LoadStage} {least : Nat} {bs : List Byte}
    (hl : s.load = some l) (hs : l.stage = stage) (hc : l.chain = false) (hlen : least ≤ bs.length)
    (hcov : l.off + bs.length ≤ l.covered) :
    hostSection s stage least bs = takeStage stage s l bs := by
  have hcovered : ¬ shortList l bs.length = true := by
    simp only [shortList, Bool.and_eq_true, decide_eq_true_eq]
    omega
  have hturn : ¬ (l.stage ≠ stage ∨ l.chain = true) := by simp [hs, hc]
  simp only [hostSection, hl]
  rw [if_neg hturn, if_neg (Nat.not_lt.2 hlen), takeSection, if_neg hcovered, hs]
  cases stage <;> rfl

/-! ## A load that fails after its header (R131) -/

theorem loadDone_frame (s : State) (j : Nat) (h : Option Hdr) (st : St) (held : Bool) (c : Nat) :
    HostFrame s (loadDone s j h st held c) := by
  simp only [loadDone]
  split
  · exact (dropAccOf_frame s _ _).trans (emitTo_frame _ _ _ _ _)
  · exact emitTo_frame _ _ _ _ _

/-- What the end of a load leaves of the device, before EV_LOAD_DONE. -/
def endLoad (s : State) (l : Load) : State :=
  modJob (dropEntries (freeGolden
    (each l.bound (fun s e => clearTile s e.2) { s with load := none }) l.image) l.job) l.job emptyJob

theorem failLoad_eq {s : State} {l : Load} {st : St} (hl : s.load = some l) (hc : l.chain = false)
    (hs : l.stage ≠ .header) : failLoad s st = loadDone (endLoad s l) l.job l.hdr st false 0 := by
  simp only [failLoad, hl, hc, Bool.false_eq_true, if_false]
  rw [if_neg hs]
  rfl

theorem endLoad_load (s : State) (l : Load) : (endLoad s l).load = none := by
  obtain ⟨_, h⟩ := each_modTile_frame (fun e : Nat × Nat => e.2) (fun _ => bareTile) l.bound
    { s with load := none }
  exact congrArg State.load h

theorem failLoad_empties {s : State} {l : Load} {st : St} (hl : s.load = some l)
    (hc : l.chain = false) (hs : l.stage ≠ .header) :
    (failLoad s st).load = none ∧ (jobOf (failLoad s st) l.job).state = .empty := by
  have hframe := loadDone_frame (endLoad s l) l.job l.hdr st false 0
  rw [failLoad_eq hl hc hs]
  constructor
  · rw [hframe.load, endLoad_load]
  · rw [jobOf, hframe.jobs]
    exact congrArg Job.state (jobOf_modJob_same _ _ emptyJob)

/-! ## The descriptor (R83) -/

theorem takeDescriptor_of_ok {s : State} {l : Load} {bs : List Byte}
    (hd : descOk (parseDesc bs) = true) (hn : (parseDesc bs).courseCount = l.courseCount)
    (hh : hodsFit s l.job l.vtCount = true)
    (hst : streamsFit s l.job l.vtCount l.courseCount (parseDesc bs).intraMask = true) :
    takeDescriptor s l bs =
      { s with load := some { advance l bs with stage := .tiles, desc := parseDesc bs } } :=
  if_neg (by simp [hd, hn, hh, hst])

/-! ## Tile blocks (R107, R116) -/

theorem endSweepOf_frame (s : State) (t : Nat) :
    ∃ tiles spr, endSweepOf s t = { s with tiles := tiles, spr := spr } := by
  simp only [endSweepOf]
  split
  · exact ⟨_, _, rfl⟩
  · exact ⟨_, _, rfl⟩

/-- The tile reserved for the load's next virtual tile, with its Tile Map entry (R16, R116). -/
def reserveTile (s : State) (l : Load) (t : Nat) : State :=
  { modTile (endSweepOf s t) t (fun x => { x with reserved := true }) with
    tileMap := mapPut s.tileMap {} (freeEntry s) { phys := t, job := l.job, vt := l.nextVt } }

theorem bindTile_of_free {s : State} {l : Load} {t : Nat} (hp : pickTile s = some t) :
    bindTile s l l.nextVt = some (t, reserveTile s l t) := by
  obtain ⟨tiles, spr, hsweep⟩ := endSweepOf_frame s t
  simp only [bindTile, hp, reserveTile, hsweep]
  rfl

/-- The frames of a block in the planes of its tile. -/
def fillTile (s : State) (l : Load) (t : Nat) (b : Block) : State :=
  modTile (reserveTile s l t) t fun x => { x with
    planes := b.rows, planesLost := false, holding := true, holdUs := (reserveTile s l t).nowUs }

/-- The load once a block has passed steps 3a to 3d. -/
def blockLoad (l : Load) (bs : List Byte) (t : Nat) (b : Block) : Load :=
  { l with
    off := l.off + bs.length
    bound := l.bound ++ [(l.nextVt, t)]
    image := { l.image with
      bytes := l.image.bytes ++ bs
      rows := l.image.rows ++ imageRows l.nextVt b.rows
      links := l.image.links ++ b.words.map fun w => (l.nextVt, parseLink w) }
    nextVt := l.nextVt + 1
    stage := if !(l.nextVt + 1 == l.vtCount) then .tiles
             else if l.slabBlocks = 0 then .signatures else .slabs }

section
variable {s : State} {l : Load} {bs : List Byte} {t : Nat} {b : Block} (hp : pickTile s = some t)
  (hb : parseBlock bs = some b)
include hp hb

/-- Steps 3a to 3d pass, and step 5 where the block is the last. -/
theorem takeBlock_of_ok (hck : blockCheck l bs b = none)
    (hin : (l.nextVt + 1 == l.vtCount) = true → inboundOk (blockLoad l bs t b) = true) :
    takeBlock s l bs = { fillTile s l t b with load := some (blockLoad l bs t b) } := by
  have hpass : ¬ ((l.nextVt + 1 == l.vtCount) && !inboundOk (blockLoad l bs t b)) = true := by
    simpa using hin
  simp only [takeBlock, bindTile_of_free hp, hb, hck]
  exact if_neg hpass

theorem takeBlock_of_refused {st : St} (hck : blockCheck l bs b = some st) :
    takeBlock s l bs = failLoad { fillTile s l t b with
      load := some { l with bound := l.bound ++ [(l.nextVt, t)] } } st := by
  simp only [takeBlock, bindTile_of_free hp, hb, hck]
  rfl

/-- Step 5 fails: too many inbound links, or a claim without one (R45, R47). -/
theorem takeBlock_of_unlinked (hck : blockCheck l bs b = none)
    (hlast : (l.nextVt + 1 == l.vtCount) = true) (hin : inboundOk (blockLoad l bs t b) = false) :
    takeBlock s l bs =
      failLoad { fillTile s l t b with load := some (blockLoad l bs t b) } .badParam := by
  have hfail : ((l.nextVt + 1 == l.vtCount) && !inboundOk (blockLoad l bs t b)) = true := by
    rw [hlast, hin]
    rfl
  simp only [takeBlock, bindTile_of_free hp, hb, hck]
  exact if_pos hfail

end

theorem fillTile_frame (s : State) (l : Load) (t : Nat) (b : Block) : ∃ tiles spr,
    fillTile s l t b = { s with
      tiles := tiles, spr := spr,
      tileMap := mapPut s.tileMap {} (freeEntry s) { phys := t, job := l.job, vt := l.nextVt } } := by
  obtain ⟨_, _, hsweep⟩ := endSweepOf_frame s t
  simp only [fillTile, reserveTile, hsweep]
  exact ⟨_, _, rfl⟩

theorem tileOf_fillTile (s : State) (l : Load) (t : Nat) (b : Block) :
    (tileOf (fillTile s l t b) t).planes = b.rows ∧
    (tileOf (fillTile s l t b) t).reserved = true ∧ (tileOf (fillTile s l t b) t).holding = true := by
  have hreserved : (tileOf (reserveTile s l t) t).reserved = true :=
    congrArg Tile.reserved
      (tileOf_modTile_same (endSweepOf s t) t fun x => { x with reserved := true })
  rw [fillTile, tileOf_modTile_same]
  exact ⟨rfl, hreserved, rfl⟩

theorem blockLoad_stage_ne_header (l : Load) (bs : List Byte) (t : Nat) (b : Block) :
    (blockLoad l bs t b).stage ≠ .header := by
  simp only [blockLoad]
  split
  · decide
  · split <;> decide

/-! ## Slab blocks, the signature table and the end record (R108 to R112) -/

theorem takeSlab_of_ok {s : State} {l : Load} {bs : List Byte} (hck : slabCheck l bs = true)
    (hlast : (l.slabSeen + 1 == l.slabBlocks) = true → l.off + bs.length = l.sigOff)
    (hmore : (l.slabSeen + 1 == l.slabBlocks) = false → l.off + bs.length < l.sigOff) :
    takeSlab s l bs = { s with load := some { l with
      off := l.off + bs.length, slabSeen := l.slabSeen + 1,
      lastSlab := leAt bs 2 2 * 48 + leAt bs 4 1 + 1,
      stage := if (l.slabSeen + 1 == l.slabBlocks) = true then .signatures else .slabs,
      image := { l.image with
        bytes := l.image.bytes ++ bs,
        slabs := l.image.slabs ++ slabRows bs (leAt bs 2 2) (leAt bs 4 1) (bitOf (leAt bs 5 1) 5)
          (bitOf (leAt bs 5 1) 4),
        slabCfg := mapPut l.image.slabCfg 0 (leAt bs 2 2 * 48 + leAt bs 4 1)
          (BitVec.ofNat 5 (leAt bs 5 1)) } } } := by
  refine if_neg ?_
  cases hend : l.slabSeen + 1 == l.slabBlocks with
  | true => simp [hck, hlast hend]
  | false => simpa [hck] using hmore hend

theorem takeSignatures_of_ok {s : State} {l : Load} {bs : List Byte} (ht : tableOk l bs = true)
    (hs : sigsOk l bs = true) :
    takeSignatures s l bs = { s with load := some { advance l bs with stage := .endRecord } } :=
  (if_neg (by simp [ht])).trans (if_neg (by simp [hs]))

theorem takeSignatures_of_mismatch {s : State} {l : Load} {bs : List Byte} (ht : tableOk l bs = true)
    (hs : sigsOk l bs = false) : takeSignatures s l bs = failLoad s .imageCrc :=
  (if_neg (by simp [ht])).trans (if_pos (by simp [hs]))

theorem takeEnd_of_badCrc {s : State} {l : Load} {bs : List Byte} (he : endOk l bs = true)
    (hcrc : endCrcOk l bs = false) : takeEnd s l bs = failLoad s .imageCrc :=
  (if_neg (by simp [he])).trans (if_pos (by simp [hcrc]))

/-- The load once its end record has passed, waiting for the fabric clock. -/
def endedLoad (l : Load) (bs : List Byte) : Load :=
  { l with
    stage := .ramping, off := l.total
    image := { l.image with bytes := l.image.bytes ++ bs, crc := BitVec.ofNat 32 (leAt bs 24 4) } }

theorem takeEnd_of_ok {s : State} {l : Load} {bs : List Byte} (he : endOk l bs = true)
    (hcrc : endCrcOk l bs = true) :
    takeEnd s l bs = applyWaiting (settleFab { s with load := some (endedLoad l bs) }) :=
  (if_neg (by simp [he])).trans (if_neg (by simp [hcrc]))

/-! ## Applying (R115) -/

theorem settleFab_frame (s : State) : ∃ clk, settleFab s = { s with clk := clk } := by
  simp only [settleFab, startChange]
  split
  · split
    · exact ⟨_, rfl⟩
    · exact ⟨_, rfl⟩
  · exact ⟨_, rfl⟩

theorem settleFab_load (s : State) : (settleFab s).load = s.load := by
  obtain ⟨_, h⟩ := settleFab_frame s
  rw [h]

theorem settleFab_tileMap (s : State) : (settleFab s).tileMap = s.tileMap := by
  obtain ⟨_, h⟩ := settleFab_frame s
  rw [h]

theorem applyWaiting_of_fast {s : State} {l : Load} (hl : s.load = some l)
    (hf : fabWithin s l.desc.fabMax = false) : applyWaiting s = s := by
  simp only [applyWaiting, hl]
  exact if_pos (by simp [hf])

theorem applyWaiting_of_within {s : State} {l : Load} (hl : s.load = some l)
    (hs : l.stage = .ramping) (hf : fabWithin s l.desc.fabMax = true)
    (hg : readGolden s l.image 0 l.total = (false, s)) : applyWaiting s = applyImage s l := by
  simp only [applyWaiting, hl]
  rw [if_neg (by simp [hs, hf]), hg]
  rfl

theorem jobOf_restartFlows (s : State) (j k : Nat) : jobOf (restartFlows s j) k = jobOf s k := rfl

theorem applyImage_effect {s : State} {l : Load} (hc : l.chain = false) :
    (applyImage s l).load = some { l with stage := .starting } ∧
    (jobOf (applyImage s l) l.job).image = some l.image ∧
    (jobOf (applyImage s l) l.job).desc = l.desc ∧
    (applyImage s l).tileMap = s.tileMap.map fun e =>
      if e.2.job == l.job then (e.1, { e.2 with valid := true }) else e := by
  obtain ⟨_, hbound⟩ := each_modTile_frame (fun e : Nat × Nat => e.2)
    (fun e => imageTile l.image e.1 l.job l.desc) l.bound s
  simp only [applyImage, hbound, hc, Bool.false_and, Bool.false_eq_true, if_false]
  rw [jobOf_restartFlows, jobOf_modJob_same]
  exact ⟨rfl, rfl, rfl, rfl⟩

/-! ## A failed tile's virtual tile (R117) -/

/-- Another tile takes the virtual tile, and the failed one is cleared. -/
def rebound (s : State) (l : Load) (vt old t : Nat) : State :=
  { modTile (clearTile (endSweepOf s t) old) t (rebindTile l vt) with
    tileMap := s.tileMap.map fun e =>
      if e.2.job == l.job && e.2.vt == vt then (e.1, { e.2 with phys := t }) else e
    load := some { l with bound := l.bound.map fun e => if e.1 = vt then (vt, t) else e } }

theorem exec_tileRebind_of_free {s : State} {l : Load} {vt old t : Nat} (hl : s.load = some l)
    (hb : l.bound.find? (fun e => e.1 == vt) = some (vt, old)) (hp : pickTile s = some t)
    (hr : readBlock s l.image vt = (false, s)) :
    exec (.tileRebind vt) s = .next (rebound s l vt old t) := by
  obtain ⟨_, _, hsweep⟩ := endSweepOf_frame s t
  show execTileRebind vt s = _
  simp only [execTileRebind, hl, hb, hp, hr, rebound, hsweep, Bool.false_eq_true, if_false]
  rfl

theorem rebound_frame (s : State) (l : Load) (vt old t : Nat) : ∃ tiles tileMap spr,
    rebound s l vt old t = { s with
      tiles := tiles, tileMap := tileMap, spr := spr,
      load := some { l with bound := l.bound.map fun e => if e.1 = vt then (vt, t) else e } } := by
  obtain ⟨_, _, hsweep⟩ := endSweepOf_frame s t
  simp only [rebound, hsweep]
  exact ⟨_, _, _, rfl⟩

theorem tileOf_rebound_new (s : State) (l : Load) (vt old t : Nat) :
    tileOf (rebound s l vt old t) t =
      rebindTile l vt (tileOf (clearTile (endSweepOf s t) old) t) :=
  tileOf_modTile_same _ _ _

theorem tileOf_rebound_old {s : State} {l : Load} {vt old t : Nat} (hne : t ≠ old) :
    tileOf (rebound s l vt old t) old = bareTile (tileOf (endSweepOf s t) old) :=
  (tileOf_modTile_other _ _ _ _ hne.symm).trans (tileOf_modTile_same _ _ _)

/-- Whether the load has been applied or not, the new tile's planes are the image's. -/
theorem rebindTile_planes (l : Load) (vt : Nat) (x : Tile) :
    (rebindTile l vt x).planes = planesOf l.image vt := by
  simp only [rebindTile]
  split
  · rfl
  · rfl

/-- Settles O24, section by section. The Tile Map entry that a block takes is the model's choice
(`freeEntry`, log 12). -/
theorem sectionsAdvanceTheLoad : Obligations.SectionsAdvanceTheLoad := by
  unfold Obligations.SectionsAdvanceTheLoad
  refine ⟨?descriptor, ?block, ?slab, ?table, ?endRecord, ?rebind⟩
  case descriptor =>
    intro s l bs hl hs hc hlen hcov hd hn hh hst
    refine congrArg Host.Outcome.next ((hostSection_eq hl hs hc hlen hcov).trans ?_)
    exact takeDescriptor_of_ok hd hn hh hst
  case block =>
    intro s l bs t b hl hs hc hlen hcov hp hb done img l3
    have hexec : exec (.imageTileBlock bs) s = .next (takeBlock s l bs) :=
      congrArg Host.Outcome.next (hostSection_eq hl hs hc hlen hcov)
    refine ⟨fun hck hin => ?_, fun st hck => ?_, fun hck hlast hin => ?_⟩
    · obtain ⟨_, _, hframe⟩ := fillTile_frame s l t b
      obtain ⟨hplanes, hreserved, hholding⟩ := tileOf_fillTile s l t b
      rw [takeBlock_of_ok hp hb hck hin] at hexec
      refine ⟨_, hexec, rfl, hplanes, hreserved, hholding, ?_, ?_⟩
      · rw [hframe]
      · rw [hframe]
    · rw [takeBlock_of_refused hp hb hck] at hexec
      exact ⟨_, hexec, failLoad_empties
        (l := { l with bound := l.bound ++ [(l.nextVt, t)] }) rfl hc (by simp [hs])⟩
    · rw [takeBlock_of_unlinked hp hb hck hlast hin] at hexec
      exact ⟨_, hexec, failLoad_empties (l := blockLoad l bs t b) rfl hc (blockLoad_stage_ne_header l bs t b)⟩
  case slab =>
    intro s l bs hl hs hc hlen hcov hck w key last hlast hmore
    refine congrArg Host.Outcome.next ((hostSection_eq hl hs hc hlen hcov).trans ?_)
    exact takeSlab_of_ok hck hlast hmore
  case table =>
    intro s l bs hl hs hc hlen hcov ht
    have hexec : exec (.imageSignatureTable bs) s = .next (takeSignatures s l bs) :=
      congrArg Host.Outcome.next (hostSection_eq hl hs hc hlen hcov)
    constructor
    · intro hsigs
      rw [hexec, takeSignatures_of_ok ht hsigs]
      rfl
    · intro hsigs
      rw [hexec, takeSignatures_of_mismatch ht hsigs]
  case endRecord =>
    intro s l bs hl hs hc hlen hcov he img l2 v
    have hexec : exec (.imageEndRecord bs) s = .next (takeEnd s l bs) :=
      congrArg Host.Outcome.next (hostSection_eq hl hs hc hlen hcov)
    have hload : v.load = some l2 := settleFab_load _
    have hmap : v.tileMap = s.tileMap := settleFab_tileMap _
    refine ⟨fun hcrc hfast => ?_, fun hcrc hwithin hread => ?_, fun hcrc => ?_⟩
    · rw [hexec, takeEnd_of_ok he hcrc]
      exact congrArg Host.Outcome.next (applyWaiting_of_fast hload hfast)
    · have happly : takeEnd s l bs = applyImage v l2 :=
        (takeEnd_of_ok he hcrc).trans (applyWaiting_of_within hload rfl hwithin hread)
      rw [hexec, happly, ← hmap]
      exact ⟨_, rfl, applyImage_effect hc⟩
    · rw [hexec, takeEnd_of_badCrc he hcrc]
  case rebind =>
    intro s l vt old t hl hb hp hne hr
    refine ⟨_, exec_tileRebind_of_free hl hb hp hr, ?_⟩
    obtain ⟨_, _, _, hframe⟩ := rebound_frame s l vt old t
    rw [tileOf_rebound_new, tileOf_rebound_old hne]
    refine ⟨rebindTile_planes _ _ _, ?_, ?_, rfl, rfl, rfl, ?_⟩
    · intro hs
      simp only [rebindTile, if_neg hs, and_self]
    · intro hs
      exact ⟨_, if_pos hs⟩
    · rw [hframe]

end Sys2Proof.Machine
end

section
/-! PROOFS. Bulk reads: one that is ready is accepted with its records driven out (R455, R456), and the end of
its transfer completes it. Each row is `runCmd` with a body that ends in `accept` or `bulkOut`. -/

namespace Sys2Proof.Machine

theorem bulkReady_iff {s : State} {b : Bulk} :
    bulkReady s b = true ↔ badBulk b = none ∧ s.hif.accepted.length < 16 := by
  simp only [bulkReady, Bool.and_eq_true, Option.isNone_iff_eq_none, decide_eq_true_eq]

theorem bulkReady_congr {s t : State} {b : Bulk} (h : t.hif = s.hif) :
    bulkReady t b = bulkReady s b := by
  simp only [bulkReady, h]

/-! ## Fuse entries (R483; log 140) -/

/-- A fuse entry that failed its read-back uses up a free value; the state is otherwise only read. -/
theorem fuseEntry_frame (acc : List (List Byte) × State) (r : Repair) :
    ∃ ctr, (fuseEntry acc r).2 = { acc.2 with freeCtr := ctr } := by
  simp only [fuseEntry]
  split
  · exact ⟨_, rfl⟩
  · exact ⟨acc.2.freeCtr, rfl⟩

theorem foldl_fuseEntry_frame : ∀ (rs : List Repair) (acc : List (List Byte) × State),
    ∃ ctr, (rs.foldl fuseEntry acc).2 = { acc.2 with freeCtr := ctr }
  | [], acc => ⟨acc.2.freeCtr, rfl⟩
  | r :: rs, acc => by
    obtain ⟨_, hhead⟩ := fuseEntry_frame acc r
    obtain ⟨ctr, htail⟩ := foldl_fuseEntry_frame rs (fuseEntry acc r)
    exact ⟨ctr, by rw [List.foldl_cons, htail, hhead]⟩

/-- Entries that all passed their read-back are read as stored, under SEC-DED. -/
theorem foldl_fuseEntry_of_stored {s : State} : ∀ {rs : List Repair} (bs : List (List Byte)),
    (∀ r ∈ rs, r.kind ≠ 0) → rs.foldl fuseEntry (bs, s) =
      (bs ++ rs.map fun r => leBytes 6 (secEncode 7 41 (repairWord r % 2 ^ 41)), s)
  | [], bs, _ => by rw [List.foldl_nil, List.map_nil, List.append_nil]
  | r :: rs, bs, h => by
    have hread : fuseEntry (bs, s) r =
        (bs ++ [leBytes 6 (secEncode 7 41 (repairWord r % 2 ^ 41))], s) :=
      if_neg (h r List.mem_cons_self)
    rw [List.foldl_cons, hread,
      foldl_fuseEntry_of_stored _ fun q hq => h q (List.mem_cons_of_mem r hq), List.map_cons,
      List.append_assoc, List.singleton_append]

/-! ## Granted bulk reads -/

section
variable {s : State} {h : Hdr} {b : Bulk}

/-- CMD_EVENT_LOG keeps the count of lost records for its completion. -/
theorem exec_cmdEventLog_of_ready (hg : granted s h 0x0105 = true) (hr : bulkReady s b = true) :
    exec (.cmdEventLog h b) s = .next (respond
      (enlist (emitOut s (.records 0 (s.hif.log.map fun e => evRecord e.1 false e.2)))
        h 0x0105 [s.hif.logLost]) h 0x0105 .accepted []) := by
  obtain ⟨hlist, hroom⟩ := bulkReady_iff.1 hr
  rw [exec_of_granted rfl rfl hg]
  simp only [hlist]
  exact congrArg _ (accept_eq hroom)

theorem exec_cmdImageReadbackGolden_of_ready {img : Image} {vf vc cf cc : Nat}
    (hg : granted s h 0x0303 = true) (hr : bulkReady s b = true)
    (himg : (jobOf s (namedJob h)).image = some img)
    (hin : readbackOk (jobOf s (namedJob h)) vf vc cf cc = true) (hmem : lp5xBad s = false) :
    exec (.cmdImageReadbackGolden h vf vc cf cc b) s = .next (respond
      (enlist (emitOut s (.host h.fn img.bytes)) h 0x0303 [namedJob h]) h 0x0303 .accepted []) := by
  obtain ⟨hlist, hroom⟩ := bulkReady_iff.1 hr
  rw [exec_of_granted rfl rfl hg]
  simp only [hlist, himg, hin, hmem, Bool.not_true, Bool.false_eq_true, if_false]
  exact congrArg _ (accept_eq hroom)

/-- CMD_REPAIR_MAP drives the soft map, then the fuse entries. -/
theorem exec_cmdRepairMap_of_ready (hg : granted s h 0x0804 = true) (hr : bulkReady s b = true) :
    let r := s.spr.fuses.foldl fuseEntry ([], s)
    exec (.cmdRepairMap h b) s = .next (respond (enlist (emitOut r.2 (.records h.fn
      ((s.spr.map.map fun r => leBytes 16 (repairWord r)) ++ r.1))) h 0x0804 [])
      h 0x0804 .accepted []) := by
  intro r
  have hframe : ∃ ctr, r.2 = { s with freeCtr := ctr } := foldl_fuseEntry_frame s.spr.fuses ([], s)
  have hhif : r.2.hif = s.hif := by obtain ⟨_, h⟩ := hframe; rw [h]
  have hspr : r.2.spr = s.spr := by obtain ⟨_, h⟩ := hframe; rw [h]
  have hexec : exec (.cmdRepairMap h b) s = .next (bulkOut r.2 h 0x0804 b
      ((r.2.spr.map.map fun r => leBytes 16 (repairWord r)) ++ r.1)) := by
    rw [exec_of_granted rfl rfl hg]
  rw [hexec, hspr, bulkOut_eq ((bulkReady_congr hhif).trans hr)]

theorem exec_cmdCaptureRead_of_ready (hg : granted s h 0x0905 = true) (hr : bulkReady s b = true)
    (hoff : capOn (jobOf s (namedJob h)).capture = false) (hmem : lp5xBad s = false) :
    exec (.cmdCaptureRead h b) s = .next (respond (enlist (emitOut s (.records h.fn
      ((jobOf s (namedJob h)).capture.records.map (capRecOut (namedJob h))))) h 0x0905 [])
      h 0x0905 .accepted []) := by
  rw [exec_of_granted rfl rfl hg]
  simp only [hoff, hmem, Bool.false_eq_true, if_false, bulkOut_eq hr]

/-- The trace is copied out while it is off (R402). -/
theorem exec_cmdSpnTraceCopy_of_ready {first count : Nat} (hg : granted s h 0x0921 = true)
    (hr : bulkReady s b = true) (hoff : s.spn.trcEn = false)
    (hin : rangeOk first count traceSize traceSize = true) :
    exec (.cmdSpnTraceCopy h first count b) s = .next (respond (enlist (emitOut s (.records h.fn
      ((List.range count).map fun i => leBytes 32 (mapGet s.spn.trcBuf 0 (first + i)).toNat)))
      h 0x0921 []) h 0x0921 .accepted []) := by
  rw [exec_of_granted rfl rfl hg]
  simp only [hoff, hin, Bool.not_true, Bool.false_eq_true, if_false, bulkOut_eq hr]

/-- CMD_TEL_READ checks each root that it reads (R509); up to 28 records fit the answer (R514). -/
theorem exec_cmdTelRead_of_granted {first count : Nat} (hg : granted s h 0x0901 = true)
    (hin : rangeOk first count 8192 8192 = true) :
    let is := (List.range count).map (first + ·)
    let u := each is checkRoot s
    (h.fn = 0 ∨ is.all (vfRoot s (h.fn - 1)) = true) →
    exec (.cmdTelRead h first count b) s =
      .next (if count ≤ 28 then answer u h 0x0901 (telHead u ++ is.flatMap (rootRecord u))
        else bulkOut u h 0x0901 b (telHead u :: is.map (rootRecord u))) := by
  intro is u hown
  have hrights : ¬ (h.fn ≠ 0 ∧ (!is.all (vfRoot s (h.fn - 1))) = true) := by
    rintro ⟨hfn, hnot⟩
    rw [hown.resolve_left hfn] at hnot
    exact Bool.false_ne_true hnot
  rw [exec_of_granted rfl rfl hg]
  exact congrArg _ ((if_neg hrights).trans (ite_not_of_true hin))

end

/-- BULK_TRANSFER_DONE acts on the oldest accepted command of the opcode (log 33). -/
theorem exec_bulkTransferDone_of_found {s : State} {op : Nat} {a : Accepted}
    (hop : bulkOpcodes.contains op = true) (ha : findAcc s op = some a) :
    exec (.bulkTransferDone op none) s = .next (complete (dropAcc s op) a.hdr op 0x0E02 .ok
      (if op = 0x0105 then [(4, sat32 (listAt a.args 0 0))] else [])) := by
  have hdone : bulkDone s op none = complete (dropAcc s op) a.hdr op 0x0E02 .ok
      (if op = 0x0105 then [(4, sat32 (listAt a.args 0 0))] else []) := by
    simp only [bulkDone, ha]
  exact congrArg Host.Outcome.next ((if_pos hop).trans hdone)

/-- Settles O11. That a completion takes the oldest accepted command of its opcode (log 33), the head at the
start of a list of counter records (log 101) and the free value of a failed fuse entry (log 140) are the
model's choices. -/
theorem bulkReadsAreAccepted : Obligations.BulkReadsAreAccepted := by
  unfold Obligations.BulkReadsAreAccepted
  refine ⟨?eventLog, ?golden, ?repairMap, ?capture, ?trace, ?telRead, ?done⟩
  case eventLog => exact fun _ _ _ => exec_cmdEventLog_of_ready
  case golden => exact fun _ _ _ _ _ _ _ _ => exec_cmdImageReadbackGolden_of_ready
  case repairMap =>
    exact fun s h b hg hr => ⟨exec_cmdRepairMap_of_ready hg hr, foldl_fuseEntry_of_stored []⟩
  case capture => exact fun _ _ _ => exec_cmdCaptureRead_of_ready
  case trace => exact fun _ _ _ _ _ => exec_cmdSpnTraceCopy_of_ready
  case telRead =>
    intro s h b first count hg hin is u hown
    have hread := exec_cmdTelRead_of_granted (b := b) hg hin hown
    constructor
    · intro hfew
      rw [hread, if_pos hfew]
    · intro hmany hr
      rw [hread, if_neg (Nat.not_le.2 hmany), bulkOut_eq hr]
  case done => exact fun _ _ _ => exec_bulkTransferDone_of_found

end Sys2Proof.Machine
end

section
/-! PROOFS. The commands of a load and its first section (R104, R114, R118 to R121): how a load opens, what
its header leaves, how it ends, and the readback of planes. -/

namespace Sys2Proof.Machine

/-! ## The accepted commands

Events and responses leave the list of accepted commands (R455). -/

theorem foldl_accepted {α : Type} {f : State → α → State}
    (h : ∀ s a, (f s a).hif.accepted = s.hif.accepted) :
    ∀ (l : List α) (s : State), (l.foldl f s).hif.accepted = s.hif.accepted
  | [], _ => rfl
  | a :: l, s => (foldl_accepted h l (f s a)).trans (h s a)

theorem setRing_accepted (s : State) (fn : Nat) (r : Ring) :
    (setRing s fn r).hif.accepted = s.hif.accepted := rfl

theorem logPut_accepted (s : State) (e : Ev) : (logPut s e).hif.accepted = s.hif.accepted := by
  have hlog : ∃ log lost, logPut s e =
      { s with hif := { s.hif with log := log, logLost := lost } } := ⟨_, _, rfl⟩
  obtain ⟨_, _, h⟩ := hlog
  rw [h]

theorem ringSignal_accepted (s : State) (fn : Nat) :
    (ringSignal s fn).hif.accepted = s.hif.accepted := by
  simp only [ringSignal]
  split
  · rfl
  · split
    · rfl
    · rfl

theorem ringPut_accepted (s : State) (fn : Nat) (e : Ev) :
    (ringPut s fn e).hif.accepted = s.hif.accepted := by
  simp only [ringPut]
  split
  · rfl
  · split
    · rfl
    · exact (ringSignal_accepted _ fn).trans
        (foldl_accepted (f := fun s i => ringStep s fn e i) (fun _ _ => rfl) _ s)

theorem ringOverflow_accepted (s : State) (fn : Nat) :
    (ringOverflow s fn).hif.accepted = s.hif.accepted := by
  simp only [ringOverflow]
  split
  · rw [ringPut_accepted, setRing_accepted, logPut_accepted]
    rfl
  · rfl

theorem toRing_accepted (e : Ev) (s : State) (fn : Nat) :
    (toRing e s fn).hif.accepted = s.hif.accepted :=
  (ringPut_accepted _ fn e).trans (ringOverflow_accepted s fn)

theorem emitTo_accepted (s : State) (fns : List Nat) (code job : Nat) (fs : List (Nat × Nat)) :
    (emitTo s fns code job fs).hif.accepted = s.hif.accepted := by
  simp only [emitTo]
  rw [foldl_accepted (toRing_accepted _), logPut_accepted]
  rfl

theorem modMbx_accepted (s : State) (fn m : Nat) (f : Mbx → Mbx) :
    (modMbx s fn m f).hif.accepted = s.hif.accepted := rfl

theorem respond_accepted (s : State) (h : Hdr) (op : Nat) (st : St) (pl : List Byte) :
    (respond s h op st pl).hif.accepted = s.hif.accepted := by
  simp only [respond, respondJ]
  split
  · rw [emitTo_accepted, modMbx_accepted]
  · split
    · rw [emitTo_accepted, modMbx_accepted]
    · rw [emitOut_hif, modMbx_accepted]

/-- The command that was accepted last is on the list. -/
theorem findAcc_respond_enlist (s : State) (h : Hdr) (op : Nat) (args : List Nat) (st : St)
    (pl : List Byte) : findAcc (respond (enlist s h op args) h op st pl) op ≠ none := by
  rw [findAcc, respond_accepted]
  simp [enlist]

/-! ## The header (R119) -/

/-- The job of a load whose header has passed: LOADING, its outputs and writes held, its resets on. -/
def loadingJob (l : Load) (x : Job) : Job :=
  { x with state := .loading, noRelease := l.noRelease, loadDone := false, release := 0,
           outHold := true, weHold := true, resets := 0x7F }

def startLoading (s : State) (l : Load) (j : Nat) (bs : List Byte) : State :=
  modJob { s with load := some (headerLoad s l j bs) } j (loadingJob l)

theorem takeHeader_of_error {s : State} {l : Load} {bs : List Byte} {st : St}
    (hck : headerCheck s l bs = .error st) : takeHeader s l bs = failLoad s st := by
  simp only [takeHeader, hck]

theorem takeHeader_of_ok {s : State} {l : Load} {bs : List Byte} {j : Nat} {h : Hdr}
    (hck : headerCheck s l bs = .ok j) (hh : l.hdr = some h) (hroom : s.hif.accepted.length < 16) :
    takeHeader s l bs =
      respond (enlist (startLoading s l j bs) h 0x0301 [j]) h 0x0301 .accepted [] := by
  simp only [takeHeader, hck, hh]
  exact (if_neg (Nat.not_le.2 hroom)).trans (accept_eq hroom)

theorem jobOf_startLoading_same (s : State) (l : Load) (j : Nat) (bs : List Byte) :
    jobOf (startLoading s l j bs) j = loadingJob l (jobOf s j) := jobOf_modJob_same _ _ _

theorem jobOf_startLoading_other (s : State) (l : Load) {j k : Nat} (bs : List Byte) (hk : k ≠ j) :
    jobOf (startLoading s l j bs) k = jobOf s k := jobOf_modJob_other _ _ _ _ hk

/-- What a header that has passed leaves. -/
theorem acceptedHeader_effect (s : State) (l : Load) (j : Nat) (bs : List Byte) (h : Hdr) :
    let t := respond (enlist (startLoading s l j bs) h 0x0301 [j]) h 0x0301 .accepted []
    t.load = some (headerLoad s l j bs) ∧ (jobOf t j).state = .loading ∧
      (jobOf t j).outHold = true ∧ (jobOf t j).weHold = true ∧ (jobOf t j).resets = 0x7F ∧
      (∀ k, k ≠ j → jobOf t k = jobOf s k) ∧ findAcc t 0x0301 ≠ none ∧
      t = { s with load := t.load, jobs := t.jobs, hif := t.hif, out := t.out } := by
  intro t
  have hframe : HostFrame (enlist (startLoading s l j bs) h 0x0301 [j]) t := respond_frame _ _ _ _ _
  have hjobs : ∀ k, jobOf t k = jobOf (startLoading s l j bs) k := fun k => by
    simp only [jobOf, hframe.jobs, enlist]
  have hj : jobOf t j = loadingJob l (jobOf s j) := (hjobs j).trans (jobOf_startLoading_same s l j bs)
  rw [hj]
  refine ⟨hframe.load, rfl, rfl, rfl, rfl, fun k hk => ?_, findAcc_respond_enlist _ _ _ _ _ _, ?_⟩
  · exact (hjobs k).trans (jobOf_startLoading_other s l bs hk)
  · obtain ⟨_, _, ht⟩ := hframe
    rw [ht]
    rfl

/-! ## Granted commands of a load -/

section
variable {s : State} {h : Hdr}

theorem exec_cmdImageLoad_of_idle {nr : Bool} {b : Bulk} (hg : granted s h 0x0301 = true)
    (hb : badBulk b = none) (hl : s.load = none) (hmem : lp5xBad s = false)
    (ha : s.chain.armed = false) : exec (.cmdImageLoad h nr b) s = .next { s with
      load := some { job := namedJob h, hdr := some h, noRelease := nr, covered := bulkBytes b } } := by
  rw [exec_of_granted rfl rfl hg]
  simp only [hb, hl, hmem, ha, Option.isSome_none, Bool.false_eq_true, if_false]

theorem exec_cmdImageAbort_of_loading (hg : granted s h 0x0302 = true) (hl : s.load.isSome = true) :
    exec (.cmdImageAbort h) s = .next (failLoad (answer s h 0x0302 []) .imageTruncated) := by
  rw [exec_of_granted rfl rfl hg]
  exact congrArg _ (if_neg (by rw [Option.isNone_eq_false_iff.2 hl]; exact Bool.false_ne_true))

/-- A job whose image a readback lies in has one. -/
theorem image_isNone_of_readbackOk {x : Job} {vf vc cf cc : Nat}
    (hin : readbackOk x vf vc cf cc = true) : x.image.isNone = false := by
  cases himg : x.image with
  | none => simp [readbackOk, himg] at hin
  | some img => rfl

theorem exec_cmdImageReadbackPlanes_of_ready {vf vc cf cc : Nat} {b : Bulk}
    (hg : granted s h 0x0303 = true) (hr : bulkReady s b = true) (hpwr : s.pwr.state ≠ .deepHold)
    (hst : (jobOf s (namedJob h)).state ≠ .loading)
    (hin : readbackOk (jobOf s (namedJob h)) vf vc cf cc = true) :
    let r := ((List.range vc).map (· + vf)).foldl (planeRun (namedJob h) cf cc) ([], s)
    exec (.cmdImageReadbackPlanes h vf vc cf cc b) s = .next (respond
      (enlist (emitOut r.2 (.host h.fn r.1)) h 0x0303 [namedJob h]) h 0x0303 .accepted []) := by
  intro r
  obtain ⟨hlist, hroom⟩ := bulkReady_iff.1 hr
  have hstate : (s.pwr.state == .deepHold || (jobOf s (namedJob h)).state == .loading
      || (jobOf s (namedJob h)).image.isNone) = false := by
    rw [image_isNone_of_readbackOk hin, beq_false_of_ne hpwr, beq_false_of_ne hst]
    rfl
  rw [exec_of_granted rfl rfl hg]
  simp only [hlist, hstate, hin, Bool.not_true, Bool.false_eq_true, if_false]
  exact congrArg _ (accept_eq hroom)

end

/-! ## A load that ends -/

/-- 100 ms of silence before the end record (R121). -/
theorem exec_loadSilenceTimeout_of_loading {s : State} {l : Load} (hl : s.load = some l)
    (hc : l.chain = false) (hstart : l.stage ≠ .starting) (hramp : l.stage ≠ .ramping) :
    exec .loadSilenceTimeout s = .next (failLoad s .imageTruncated) := by
  have hbefore : ¬ (l.chain = true ∨ l.stage = .starting ∨ l.stage = .ramping) := by
    simp [hc, hstart, hramp]
  show execLoadSilenceTimeout s = _
  simp only [execLoadSilenceTimeout, hl, if_neg hbefore]

/-- A load that has bound no tile yet leaves every tile as it is. -/
theorem endLoad_of_unbound {s : State} {l : Load} (hb : l.bound = []) :
    (jobOf (endLoad s l) l.job).image = none ∧
    (endLoad s l).tileMap = s.tileMap.filter (fun e => e.2.job != l.job) ∧
    (endLoad s l).tiles = s.tiles := by
  have hjob : jobOf (endLoad s l) l.job = emptyJob _ := jobOf_modJob_same _ _ emptyJob
  rw [hjob, endLoad, hb]
  exact ⟨rfl, rfl, rfl⟩

theorem failLoad_of_unbound {s : State} {l : Load} {st : St} (hl : s.load = some l)
    (hc : l.chain = false) (hs : l.stage ≠ .header) (hb : l.bound = []) :
    (jobOf (failLoad s st) l.job).image = none ∧
    (failLoad s st).tileMap = s.tileMap.filter (fun e => e.2.job != l.job) ∧
    (failLoad s st).tiles = s.tiles := by
  have hframe := loadDone_frame (endLoad s l) l.job l.hdr st false 0
  rw [failLoad_eq hl hc hs, jobOf, hframe.jobs, hframe.tileMap, hframe.tiles]
  exact endLoad_of_unbound hb

/-- Settles O23: the load's commands, its header and its ends, each on the state where it acts. -/
theorem loadsOpenAndEnd : Obligations.LoadsOpenAndEnd := by
  unfold Obligations.LoadsOpenAndEnd
  refine ⟨?opens, ?header, ?badHeader, ?silence, ?abort, ?failed, ?planes⟩
  case opens => exact fun _ _ _ _ => exec_cmdImageLoad_of_idle
  case header =>
    intro s l h j bs hl hs hc hh hlen hcov hck hroom
    have htake : hostSection s .header 256 bs =
        respond (enlist (startLoading s l j bs) h 0x0301 [j]) h 0x0301 .accepted [] :=
      (hostSection_eq hl hs hc hlen.ge (by rwa [hlen])).trans (takeHeader_of_ok hck hh hroom)
    exact ⟨_, congrArg Host.Outcome.next htake, acceptedHeader_effect s l j bs h⟩
  case badHeader =>
    intro s l st bs hl hs hc hlen hcov hck
    refine congrArg Host.Outcome.next ((hostSection_eq hl hs hc hlen.ge (by rwa [hlen])).trans ?_)
    exact takeHeader_of_error hck
  case silence => exact fun _ _ => exec_loadSilenceTimeout_of_loading
  case abort => exact fun _ _ => exec_cmdImageAbort_of_loading
  case failed =>
    intro s l h hl hs hh hc hb
    have hstage : l.stage ≠ .header := by rw [hs]; decide
    obtain ⟨hload, hstate⟩ := failLoad_empties (st := .imageTruncated) hl hc hstage
    exact ⟨_, rfl, hload, hstate, failLoad_of_unbound hl hc hstage hb⟩
  case planes => exact fun _ _ _ _ _ _ _ => exec_cmdImageReadbackPlanes_of_ready

end Sys2Proof.Machine
end

section
/-! PROOFS. The rows of the chain (R122 to R126, R349, R351): what a port in chain mode and a message taken
leave of the device, then each row on the state where it acts. -/

namespace Sys2Proof.Machine

/-! ## Ports that enter and leave chain mode (R349, R351) -/

/-- A fold of changes of single lanes changes the lanes alone. -/
theorem each_modLane_frame (g : Nat → Nat) (f : Nat → Lane → Lane) : ∀ (is : List Nat) (s : State),
    ∃ lanes, each is (fun s i => modLane s (g i) (f i)) s =
      { s with lry := { s.lry with lanes := lanes } }
  | [], s => ⟨s.lry.lanes, rfl⟩
  | i :: is, s => each_modLane_frame g f is (modLane s (g i) (f i))

def chainModePort (q : Port) : Port :=
  { restartPort q with st := .chain, actWidth := 0, laneMask := 0 }

def retrainedPort (q : Port) : Port :=
  { restartPort q with
    st := if q.enable then .training else .disabled, actWidth := 0, laneMask := 0 }

/-- A port is changed, and with it lanes. -/
def PortChange (s : State) (p : Nat) (q : Port) (t : State) : Prop :=
  ∃ lanes, t = { s with lry := { s.lry with ports := mapPut s.lry.ports {} p q, lanes := lanes } }

theorem chainPort_change (s : State) (p : Nat) :
    PortChange s p (chainModePort (portOf s p)) (chainPort s p) :=
  each_modLane_frame _ _ _ (setPort s p (chainModePort (portOf s p)))

theorem restorePort_change {s : State} {p : Nat} (hp : (portOf s p).st = .chain) :
    PortChange s p (retrainedPort (portOf s p)) (restorePort s p) := by
  rw [restorePort, if_pos hp]
  exact each_modLane_frame _ _ _ (setPort s p (retrainedPort (portOf s p)))

section
variable {s t : State} {p : Nat} {q : Port} (h : PortChange s p q t)
include h

theorem PortChange.portOf_same : portOf t p = q := by
  obtain ⟨_, rfl⟩ := h
  exact portOf_setPort_same s p q

theorem PortChange.portOf_other {k : Nat} (hk : k ≠ p) : portOf t k = portOf s k := by
  obtain ⟨_, rfl⟩ := h
  exact mapGet_mapPut_other _ _ _ _ _ hk

theorem PortChange.frame : ∃ lry, t = { s with lry := lry } := by
  obtain ⟨_, rfl⟩ := h
  exact ⟨_, rfl⟩

end

theorem restorePort_frame (s : State) (p : Nat) : ∃ lry, restorePort s p = { s with lry := lry } := by
  by_cases hp : (portOf s p).st = .chain
  · exact (restorePort_change hp).frame
  · exact ⟨s.lry, if_neg hp⟩

theorem restorePort_other (s : State) {p k : Nat} (hk : k ≠ p) :
    portOf (restorePort s p) k = portOf s k := by
  by_cases hp : (portOf s p).st = .chain
  · exact (restorePort_change hp).portOf_other hk
  · rw [restorePort, if_neg hp]

/-- Ports 0 and 1 both enter chain mode, every other port stays. -/
theorem chainPorts_effect (s : State) : ∃ lry, chainPort (chainPort s 0) 1 = { s with lry := lry } ∧
    mapGet lry.ports {} 0 = chainModePort (portOf s 0) ∧
    mapGet lry.ports {} 1 = chainModePort (portOf s 1) ∧
    ∀ p, p ≠ 0 → p ≠ 1 → mapGet lry.ports {} p = portOf s p := by
  have hfirst := chainPort_change s 0
  have hsecond := chainPort_change (chainPort s 0) 1
  have h0 := (hsecond.portOf_other Nat.zero_ne_one).trans hfirst.portOf_same
  have h1 := hsecond.portOf_same
  have hothers : ∀ p, p ≠ 0 → p ≠ 1 → portOf (chainPort (chainPort s 0) 1) p = portOf s p :=
    fun p hp0 hp1 => (hsecond.portOf_other hp1).trans (hfirst.portOf_other hp0)
  rw [hfirst.portOf_other one_ne_zero] at h1
  obtain ⟨_, hf⟩ := hfirst.frame
  obtain ⟨lry, hs⟩ := hsecond.frame
  rw [hs] at h0 h1 hothers
  refine ⟨lry, ?_, h0, h1, hothers⟩
  rw [hs, hf]

/-- Port 0 trains again where it stood in chain mode and is enabled. -/
theorem restorePorts_effect {s : State} (hp : (portOf s 0).st = .chain) : ∃ lry,
    restorePort (restorePort s 0) 1 = { s with lry := lry } ∧
    mapGet lry.ports {} 0 = retrainedPort (portOf s 0) := by
  obtain ⟨_, hfirst⟩ := (restorePort_change hp).frame
  obtain ⟨lry, hsecond⟩ := restorePort_frame (restorePort s 0) 1
  have hport : portOf (restorePort (restorePort s 0) 1) 0 = retrainedPort (portOf s 0) :=
    (restorePort_other _ Nat.zero_ne_one).trans (restorePort_change hp).portOf_same
  rw [hsecond] at hport
  refine ⟨lry, ?_, hport⟩
  rw [hsecond, hfirst]

/-! ## A message taken from its port (R333, R336)

The ACK that returns its credits changes Larey alone, and no port's state. -/

theorem each_modLane_onlyLarey (g : Nat → Nat) (f : Nat → Lane → Lane) (is : List Nat) (s : State) :
    onlyLarey s (each is (fun s i => modLane s (g i) (f i)) s) := by
  obtain ⟨_, h⟩ := each_modLane_frame g f is s
  rw [h]
  rfl

theorem wakeTx_onlyLarey (s : State) (p : Nat) : onlyLarey s (wakeTx s p) := by
  simp only [wakeTx]
  split
  · exact ((emitOut_frame _ _).onlyLarey.trans (setPort_onlyLarey _ _ _)).trans
      (each_modLane_onlyLarey _ _ _ _)
  · exact onlyLarey.refl s

theorem sendCtl_onlyLarey (s : State) (p kind : Nat) (body : List Byte) :
    onlyLarey s (sendCtl s p kind body) :=
  ((wakeTx_onlyLarey s p).trans (setPort_onlyLarey _ _ _)).trans (putSlot_onlyLarey _ _ _)

theorem takeMsg_onlyLarey (s : State) (p : Nat) (m : RxMsg) : onlyLarey s (takeMsg s p m) := by
  simp only [takeMsg]
  split
  · exact ((setPort_onlyLarey _ _ _).trans (setPort_onlyLarey _ _ _)).trans (sendCtl_onlyLarey _ _ _ _)
  · exact setPort_onlyLarey _ _ _

theorem onlyLarey.chain {s t : State} (h : onlyLarey s t) : t.chain = s.chain := by
  obtain ⟨_, _, _, _, _, _, _, rfl⟩ := onlyLarey_iff.1 h
  rfl

/-- Every port is in the state (Table 10-3) it was in. -/
def KeepsPortStates (s t : State) : Prop := ∀ k, (portOf t k).st = (portOf s k).st

theorem KeepsPortStates.refl (s : State) : KeepsPortStates s s := fun _ => rfl

theorem KeepsPortStates.trans {s t u : State} (h : KeepsPortStates s t) (g : KeepsPortStates t u) :
    KeepsPortStates s u := fun k => (g k).trans (h k)

theorem KeepsPortStates.foldl {α : Type} {f : State → α → State}
    (h : ∀ s a, KeepsPortStates s (f s a)) :
    ∀ (l : List α) (s : State), KeepsPortStates s (l.foldl f s)
  | [], s => KeepsPortStates.refl s
  | a :: l, s => (h s a).trans (KeepsPortStates.foldl h l (f s a))

theorem keepsPortStates_of_ports {s t : State} (h : t.lry.ports = s.lry.ports) :
    KeepsPortStates s t := fun k => by simp only [portOf, h]

theorem keepsPortStates_setPort {s : State} {p : Nat} {q : Port} (hq : q.st = (portOf s p).st) :
    KeepsPortStates s (setPort s p q) := fun k => by
  by_cases hk : k = p
  · rw [hk, portOf_setPort_same, hq]
  · exact congrArg Port.st (portOf_modPort_other s p k (fun _ => q) hk)

theorem emitOut_keepsPortStates (s : State) (o : Out) : KeepsPortStates s (emitOut s o) :=
  fun _ => rfl

theorem each_modLane_keepsPortStates (g : Nat → Nat) (f : Nat → Lane → Lane) (is : List Nat)
    (s : State) : KeepsPortStates s (each is (fun s i => modLane s (g i) (f i)) s) := by
  obtain ⟨_, h⟩ := each_modLane_frame g f is s
  exact keepsPortStates_of_ports (congrArg (·.lry.ports) h)

theorem takeLevels_keepsPortStates (s : State) (l : Nat) (ls : List (BitVec 2)) :
    KeepsPortStates s (takeLevels s l ls).2 := by
  simp only [takeLevels]
  split
  · exact KeepsPortStates.refl s
  · exact keepsPortStates_of_ports rfl

theorem sendPairs_keepsPortStates (s : State) (l : Nat) (ps : List (BitVec 2)) :
    KeepsPortStates s (sendPairs s l ps) := by
  have hput : KeepsPortStates s (putLevels s l ps).2 := keepsPortStates_of_ports rfl
  simp only [sendPairs]
  split
  · exact hput.trans (takeLevels_keepsPortStates _ _ _)
  · exact hput

theorem fillSlotOf_keepsPortStates (s : State) (p slot : Nat) (flag : Bool) (bytes : List Byte) :
    KeepsPortStates s (fillSlotOf s p slot flag bytes) := by
  have hfill : ∀ f, KeepsPortStates s (setPort s p { portOf s p with fill := f }) := fun _ =>
    keepsPortStates_setPort rfl
  simp only [fillSlotOf]
  split
  · exact hfill _
  · exact (hfill _).trans (sendPairs_keepsPortStates _ _ _)

/-- A slot goes out on the port: its number moves on, and the slot joins its codeword. -/
theorem sentSlot_keepsPortStates (s : State) (p n slot : Nat) (o : Out) (flag : Bool)
    (bytes : List Byte) : KeepsPortStates s (fillSlotOf
      (emitOut (setPort s p { portOf s p with txSlot := n }) o) p slot flag bytes) := by
  have hnumber : KeepsPortStates s (setPort s p { portOf s p with txSlot := n }) :=
    keepsPortStates_setPort rfl
  exact (hnumber.trans (emitOut_keepsPortStates _ o)).trans (fillSlotOf_keepsPortStates _ _ _ _ _)

theorem putSlot_keepsPortStates (s : State) (p : Nat) (bytes : List Byte) :
    KeepsPortStates s (putSlot s p bytes) := by
  have hmarker : ∀ s, KeepsPortStates s (sendMarker s p) := fun s => by
    simp only [sendMarker]
    exact sentSlot_keepsPortStates _ _ _ _ _ _ _
  simp only [putSlot]
  exact (KeepsPortStates.foldl (fun s _ => hmarker s) _ s).trans (sentSlot_keepsPortStates _ _ _ _ _ _ _)

theorem wakeTx_keepsPortStates (s : State) (p : Nat) : KeepsPortStates s (wakeTx s p) := by
  simp only [wakeTx]
  split
  · have hwake : KeepsPortStates s
        (modPort (emitOut s (.wake p)) p fun q => { q with txAsleep := false }) :=
      (emitOut_keepsPortStates s _).trans (keepsPortStates_setPort rfl)
    exact hwake.trans (each_modLane_keepsPortStates _ _ _ _)
  · exact KeepsPortStates.refl s

theorem sendAck_keepsPortStates (s : State) (p : Nat) : KeepsPortStates s (sendAck s p) := by
  have hcount : KeepsPortStates s (setPort s p { portOf s p with sinceAck := 0 }) :=
    keepsPortStates_setPort rfl
  have hpass : ∀ s, KeepsPortStates s (modPort s p fun q => passOver q 3) := fun s =>
    keepsPortStates_setPort rfl
  simp only [sendAck, sendCtl]
  exact ((hcount.trans (wakeTx_keepsPortStates _ p)).trans (hpass _)).trans
    (putSlot_keepsPortStates _ _ _)

theorem freeFlits_st (q : Port) (c n : Nat) : (freeFlits q c n).st = q.st := by
  simp only [freeFlits]
  split
  · rfl
  · split
    · rfl
    · rfl

theorem takeMsg_keepsPortStates (s : State) (p : Nat) (m : RxMsg) :
    KeepsPortStates s (takeMsg s p m) := by
  have hfree : KeepsPortStates s
      (modPort s p fun q => freeFlits { q with inbox := q.inbox.erase m } m.cls m.flits) :=
    keepsPortStates_setPort (freeFlits_st _ _ _)
  simp only [takeMsg]
  split
  · exact hfree.trans (sendAck_keepsPortStates _ p)
  · exact hfree

/-! ## Arm and disarm (R122) -/

section
variable {s : State} {h : Hdr} (hg : granted s h 0x0304 = true)
include hg

theorem exec_cmdChainArm_of_unused (hp : chainPortsUsed s = false) (ha : s.chain.armed = false) :
    exec (.cmdChainArm h) s = .next { chainPort (chainPort (answer s h 0x0304 []) 0) 1 with
      chain := { armed := true } } := by
  rw [exec_of_granted rfl rfl hg]
  simp only [hp, ha, Bool.false_eq_true, if_false, each, List.foldl_cons, List.foldl_nil]

theorem exec_cmdChainDisarm_of_noOwnLoad (ha : s.chain.armed = true)
    (hl : ∀ l, s.load = some l → l.chain = false) :
    exec (.cmdChainDisarm h) s = .next (endSession (answer s h 0x0304 [])) := by
  rw [exec_of_granted rfl rfl hg]
  simp only [answer_chain, answer_load, ha, Bool.not_true, Bool.false_eq_true, if_false]
  cases hload : s.load with
  | none => rfl
  | some l => simp only [hl l hload, Bool.false_eq_true, if_false]

theorem exec_cmdChainDisarm_of_ownLoad {l : Load} (ha : s.chain.armed = true)
    (hl : s.load = some l) (hc : l.chain = true) :
    exec (.cmdChainDisarm h) s =
      .next (endSession (failLoad (answer s h 0x0304 []) .imageTruncated)) := by
  rw [exec_of_granted rfl rfl hg]
  simp only [answer_chain, answer_load, ha, hl, hc, Bool.not_true, Bool.false_eq_true, if_false,
    if_true]

end

/-! ## Chain messages and the end of a session (R123, R126) -/

section
variable {s : State} {m : RxMsg}

theorem exec_chainData_of_delivered (hm : nextMsg s 0 2 0 = some m)
    (hp : (portOf s 0).st = .chain) :
    exec .chainData s = .next (chainStream (takeMsg s 0 m) (m.body.drop 4)) := by
  have hchain : ((portOf (takeMsg s 0 m) 0).st == .chain) = true :=
    beq_iff_eq.2 ((takeMsg_keepsPortStates s 0 m 0).trans hp)
  show execChainData s = _
  simp only [execChainData, hm, hchain, if_true]

theorem exec_chainAbort_of_delivered (hm : nextMsg s 0 2 3 = some m) (ha : s.chain.armed = true) :
    exec .chainAbort s = .next (endSession (takeMsg s 0 m)) := by
  have harmed : (takeMsg s 0 m).chain.armed = true := by rw [(takeMsg_onlyLarey s 0 m).chain, ha]
  show execChainAbort s = _
  simp only [execChainAbort, hm, harmed, if_true]

theorem exec_chainSessionSilence_of_session (ha : s.chain.armed = true)
    (hs : s.chain.session = true) : exec .chainSessionSilence s = .next (endSession s) :=
  congrArg Host.Outcome.next (if_pos (by rw [ha, hs]; rfl))

end

theorem endSession_chain (s : State) : (endSession s).chain =
    { outLost := (endSession s).chain.outLost, discarded := (endSession s).chain.discarded } := rfl

/-- 100 ms after the array end record the ports return (R351). -/
theorem exec_chainPortsRestore_of_disarmed {s : State} (ha : s.chain.armed = false) :
    exec .chainPortsRestore s = .next (restorePort
      (restorePort { s with chain := { s.chain with endPassed := false } } 0) 1) :=
  congrArg Host.Outcome.next (if_neg (by rw [ha]; exact Bool.false_ne_true))

/-- Settles O25, row by row. -/
theorem chainRowsAct : Obligations.ChainRowsAct := by
  unfold Obligations.ChainRowsAct
  refine ⟨?arm, ?disarm, ?data, ?silence, ?abort, ?ended, ?restore⟩
  case arm =>
    intro s h hg hp ha
    obtain ⟨hif, out, hans⟩ := answer_frame s h 0x0304 []
    obtain ⟨lry, hports, h0, h1, hothers⟩ := chainPorts_effect (answer s h 0x0304 [])
    have hexec := exec_cmdChainArm_of_unused hg hp ha
    rw [hports] at hexec
    refine ⟨_, hexec, rfl, congrArg Port.st h0, congrArg Port.st h1, congrArg Port.laneMask h0,
      fun p hp0 hp1 => (hothers p hp0 hp1).trans ?_, ?_⟩
    · simp only [portOf, answer_lry]
    · simp only [hans]
  case disarm =>
    exact fun s h hg ha => ⟨exec_cmdChainDisarm_of_noOwnLoad hg ha,
      fun l hl hc => exec_cmdChainDisarm_of_ownLoad hg ha hl hc⟩
  case data => exact fun _ _ => exec_chainData_of_delivered
  case silence => exact fun _ => exec_chainSessionSilence_of_session
  case abort => exact fun _ _ => exec_chainAbort_of_delivered
  case ended => exact endSession_chain
  case restore =>
    intro s ha hp hen
    obtain ⟨lry, hports, h0⟩ :=
      restorePorts_effect (s := { s with chain := { s.chain with endPassed := false } }) hp
    have hexec := exec_chainPortsRestore_of_disarmed ha
    rw [hports] at hexec
    exact ⟨_, hexec, (congrArg Port.st h0).trans (if_pos hen), rfl, rfl⟩

end Sys2Proof.Machine
end

section
/-! PROOFS. Accesses to design memory (R172 to R206): what a span of bytes comes to in its lines, when a
host access is carried out and when it waits, and the way of one line by a master with and without its
right. -/

namespace Sys2Proof.Machine

/-! ## Spans inside one line -/

theorem spansOf_within {addr len : Nat} (hpos : 0 < len) (hin : addr % 128 + len ≤ 128) :
    spansOf addr len = [(addr / 128, addr % 128, len)] := by
  have hk : min len (128 - addr % 128) = len := by omega
  simp only [spansOf, lineSpans, hk, Nat.sub_self, if_pos]
  rw [if_neg (by omega)]

theorem masterRead_within {s t : State} {m addr len : Nat} {st : AccStatus} {d : Line} (hpos : 0 < len)
    (hin : addr % 128 + len ≤ 128)
    (hline : masterReadLine s m (addr / 128) (unitsOf (addr % 128) len) = (st, d, t)) :
    masterRead s m addr len = (st, if st = .ok then lineBytes d (addr % 128) len else [], t) := by
  rw [masterRead, spansOf_within hpos hin]
  simp only [List.foldl_cons, List.foldl_nil, List.nil_append, hline]

theorem masterWrite_within {s : State} {m addr : Nat} {host : Bool} {bs : List Byte}
    (hpos : 0 < bs.length) (hin : addr % 128 + bs.length ≤ 128) :
    masterWrite s m host addr bs = masterWriteLine s m host (addr / 128) (addr % 128) bs := by
  rw [masterWrite, spansOf_within hpos hin]
  simp only [List.foldl_cons, List.foldl_nil, List.drop_zero, List.take_length]

/-! ## One line by a master -/

theorem atUnit_of_true {b : Bool} {s : State} (h : b = true) : atUnit b s = .next s := if_pos h

/-- A denial is counted and reported (R203); it touches nothing that design memory or a job holds. -/
theorem denied_frame (s : State) (m : Nat) : ∃ ev tel hif out,
    denied s m = { s with mem := { s.mem with rightsEv := ev }, tel := tel, hif := hif, out := out } := by
  simp only [denied]
  split
  · obtain ⟨hif, out, hemit⟩ := emitDev_frame (modMemBlk (leafAdd s (leafMaster m) 1) fun x =>
      { x with rightsEv := mapPut x.rightsEv none m (some s.nowUs) }) 0x0602 []
    exact ⟨_, _, hif, out, hemit⟩
  · exact ⟨_, _, _, _, rfl⟩

section
variable {s : State} {m dl j : Nat} (hst : s.mem.stalled.contains (linePage dl) = false)
  (herr : mapGet s.mem.pptErr 0 (linePage dl) = 0) (hj : pageJob s (linePage dl) = some j)
include hst herr hj

/-- A master without any right on the page's job is turned away, at a fence on its way or by its rights
(R200, R398). -/
theorem masterReadLine_of_noRight {units : Nat} (hr : mayAccess s m j false = false) :
    masterReadLine s m dl units = (.fenced, 0, s) ∨
      masterReadLine s m dl units = (.noRights, 0, denied s m) := by
  simp only [masterReadLine, readEntry_of_clean hst herr, hj, hr]
  split
  · exact .inl rfl
  · exact .inr rfl

theorem masterWriteLine_of_noRight {host : Bool} {off : Nat} {bs : List Byte}
    (hr : mayAccess s m j true = false) :
    masterWriteLine s m host dl off bs = (.fenced, s) ∨
      masterWriteLine s m host dl off bs = (.noRights, denied s m) := by
  simp only [masterWriteLine, readEntry_of_clean hst herr, hj, hr]
  split
  · exact .inl rfl
  · exact .inr rfl

section
variable (hf : accessFenced s (masterRouter s m) (pptOf s (linePage dl)) dl = false)
include hf

theorem masterReadLine_of_right {units : Nat} (hr : mayAccess s m j false = true) :
    masterReadLine s m dl units = readLine (countAccess s (linePage dl) units) dl := by
  simp only [masterReadLine, readEntry_of_clean hst herr, hf, hj, hr, if_true, Bool.false_eq_true,
    if_false]

/-- A host write with its right to a job that replays nothing is a record of that job (R372). -/
theorem masterWriteLine_of_right {off : Nat} {bs : List Byte} (hr : mayAccess s m j true = true)
    (hrep : (jobOf s j).replay = none) {t : State}
    (hw : writeLine (countAccess s (linePage dl) (unitsOf off bs.length)) dl (placeBytes off bs).1
      (placeBytes off bs).2 = (.ok, t)) :
    masterWriteLine s m true dl off bs =
      (.ok, addRecord t j (jobOf t j).cycle (.hostWrite (dl * 128 + off) bs)) := by
  simp only [masterWriteLine, readEntry_of_clean hst herr, hf, hj, hr, hrep, hw]
  rfl

end
end

/-! ## Host accesses, carried out or waiting (R190, R191, R223) -/

theorem hostAccess_of_ready {s : State} {a : HostAcc} (hw : s.lp.waiting = [])
    (ha : accessWaits s a = false) : hostAccess s a = doAccess s a := by
  simp [hostAccess, hw, ha]

theorem hostAccess_of_waiting {s : State} {a : HostAcc} (hup : memUp s = true)
    (hw : s.lp.waiting ≠ [] ∨ accessWaits s a = true) : hostAccess s a = holdAccess s a := by
  refine if_pos ?_
  rcases hw with hw | ha
  · simp [hup, hw]
  · simp [hup, ha]

theorem doRead_of_up {s t : State} {fn addr len : Nat} {st : AccStatus} {bs : List Byte}
    (hup : memUp s = true) (hin : addr + len ≤ 2 ^ 37) (hm : masterRead s fn addr len = (st, bs, t)) :
    doRead s fn addr len = emitOut t (.cpl (cplStatus st) (if st = .ok then bs else [])) := by
  rw [doRead, if_neg (by rw [hup]; simp only [Bool.not_true, Bool.false_eq_true, false_or]; omega), hm]

theorem doWrite_of_up {s t : State} {fn addr : Nat} {data : List Byte} {st : AccStatus}
    (hup : memUp s = true) (hin : addr + data.length ≤ 2 ^ 37)
    (hm : masterWrite s fn true addr data = (st, t)) :
    doWrite s fn addr data = if st = .ok then t else emitOut t (.posted fn (cplStatus st)) := by
  rw [doWrite, if_neg (by rw [hup]; simp only [Bool.not_true, Bool.false_eq_true, false_or]; omega), hm]

section
variable {s : State} {fn addr : Nat} {ups : List Upset} (hfn : fn ≤ 8)
  (hlink : (upsets s ups).hif.linkUp = true)
include hfn hlink

theorem exec_bar4Read_of_linked {len : Nat} : exec (.bar4Read fn addr len ups) s =
    .next (hostAccess (upsets s ups) (.read fn addr len)) :=
  (atUnit_of_true (decide_eq_true hfn)).trans (congrArg Host.Outcome.next (if_pos hlink))

theorem exec_bar4Write_of_linked {data : List Byte} : exec (.bar4Write fn addr data ups) s =
    .next (hostAccess (upsets s ups) (.write fn addr data)) :=
  (atUnit_of_true (decide_eq_true hfn)).trans (congrArg Host.Outcome.next (if_pos hlink))

variable (hup : memUp (upsets s ups) = true) (hwait : (upsets s ups).lp.waiting = [])
include hup hwait

theorem exec_bar4Read_of_ready {t : State} {len : Nat} {st : AccStatus} {bs : List Byte}
    (hin : addr + len ≤ 2 ^ 37) (hr : rangeWaits (upsets s ups) addr len = false)
    (hm : masterRead (upsets s ups) fn addr len = (st, bs, t)) :
    exec (.bar4Read fn addr len ups) s =
      .next (emitOut t (.cpl (cplStatus st) (if st = .ok then bs else []))) :=
  (exec_bar4Read_of_linked hfn hlink).trans (congrArg _
    ((hostAccess_of_ready (a := .read fn addr len) hwait hr).trans (doRead_of_up hup hin hm)))

theorem exec_bar4Write_of_ready {t : State} {data : List Byte} {st : AccStatus}
    (hin : addr + data.length ≤ 2 ^ 37) (hr : rangeWaits (upsets s ups) addr data.length = false)
    (hm : masterWrite (upsets s ups) fn true addr data = (st, t)) :
    exec (.bar4Write fn addr data ups) s =
      .next (if st = .ok then t else emitOut t (.posted fn (cplStatus st))) :=
  (exec_bar4Write_of_linked hfn hlink).trans (congrArg _
    ((hostAccess_of_ready (a := .write fn addr data) hwait hr).trans (doWrite_of_up hup hin hm)))

end

/-! ## Far lines and batches, where the memory answers -/

theorem exec_farLineRead_of_served {s t : State} {dl m : Nat} {ups : List Upset} {st : AccStatus}
    {d : Line} (hm : m < 19) (hup : memUp (upsets s ups) = true)
    (hfar : servedFar (upsets s ups) dl = true) (hw : lineWaits (upsets s ups) dl = false)
    (hline : masterReadLine (upsets s ups) m dl 2 = (st, d, t)) :
    exec (.farLineRead m dl ups) s = .next (if m < 9 then
      emitOut t (.cpl (cplStatus st) (if st = .ok then leBytes 128 d.toNat else [])) else t) := by
  refine (atUnit_of_lt hm).trans (congrArg Host.Outcome.next ?_)
  simp only [farLineRead, hup, hfar, hw, hline, Bool.not_true, Bool.or_self, Bool.false_eq_true, if_false]

theorem exec_farLineWrite_of_served {s : State} {addr m : Nat} {data : List Byte} (hm : m < 19)
    (hup : memUp s = true) (hfar : servedFar s (addr / 128) = true)
    (hw : lineWaits s (addr / 128) = false) :
    exec (.farLineWrite m addr data) s =
      .next (masterWrite s m (decide (m < 9)) addr (data.take (128 - addr % 128))).2 :=
  (atUnit_of_lt hm).trans (congrArg Host.Outcome.next
    ((if_neg (by simp [hup, hfar])).trans (if_neg (by simp [hw]))))

/-- A batch whose pages can all be looked up and whose channels are trained: reads first, then the
writes, by line, but for those that meet a fence (R174, R206). -/
theorem memoryAccess_of_ready {s v : State} {j : Nat} {ups : List Upset}
    (hup : memUp (upsets s ups) = true)
    (hfetch : fetchAll (oldestBatch (jobOf (upsets s ups) j).memReqs) (upsets s ups) = (true, v))
    (hw : ∀ r ∈ oldestBatch (jobOf (upsets s ups) j).memReqs, lineWaits v (unitLine r.unit) = false) :
    memoryAccess s j ups =
      let reqs := oldestBatch (jobOf (upsets s ups) j).memReqs
      let a := each (reqs.filter (fun r => !r.write)) (readReq j) v
      let ws := reqs.filter (fun r => r.write)
      let b := each (ws.filter (reqFenced a j)) (fun s r => setResult s j r .fenced 0) a
      let ok := ws.filter (fun r => !reqFenced b j r)
      each ((ok.map (fun r => unitLine r.unit)).eraseDups)
        (fun s dl => writeReqs j s (ok.filter (fun r => unitLine r.unit == dl))) b := by
  have hany : (oldestBatch (jobOf (upsets s ups) j).memReqs).any
      (fun r => lineWaits v (unitLine r.unit)) = false := by simpa using hw
  simp only [memoryAccess, hup, hfetch, hany, Bool.not_true, Bool.or_false, Bool.false_eq_true, if_false]

/-- Settles O28, row by row: each access on the state where the memory answers it or has it wait. -/
theorem accessRowsAct : Obligations.AccessRowsAct := by
  unfold Obligations.AccessRowsAct
  refine ⟨?batch, ?reply, ?read, ?write, ?farRead, ?farWrite⟩
  case batch =>
    exact fun s j ups hup v hfetch hw => congrArg Host.Outcome.next (memoryAccess_of_ready hup hfetch hw)
  case reply =>
    exact fun s j vt port hj hvt hp =>
      ⟨_, atUnit_of_true (by simp [hj, hvt, hp]), jobOf_modJob_same _ _ _, rfl⟩
  case read =>
    exact fun s fn addr len ups hfn hlink hup hin =>
      ⟨fun hwait hr => exec_bar4Read_of_ready hfn hlink hup hwait hin hr rfl,
        fun hw => (exec_bar4Read_of_linked hfn hlink).trans (congrArg _ (hostAccess_of_waiting hup hw))⟩
  case write =>
    exact fun s fn addr data ups hfn hlink hup hin =>
      ⟨fun hwait hr => exec_bar4Write_of_ready hfn hlink hup hwait hin hr rfl,
        fun hw => (exec_bar4Write_of_linked hfn hlink).trans (congrArg _ (hostAccess_of_waiting hup hw))⟩
  case farRead => exact fun _ _ _ _ hm hup hfar hw => exec_farLineRead_of_served hm hup hfar hw rfl
  case farWrite => exact fun _ _ _ _ hm => exec_farLineWrite_of_served hm

/-! ## Without the right -/

section
variable {s : State} {fn addr j : Nat} (hst : s.mem.stalled.contains (linePage (addr / 128)) = false)
  (herr : mapGet s.mem.pptErr 0 (linePage (addr / 128)) = 0)
  (hj : pageJob s (linePage (addr / 128)) = some j)
include hst herr hj

/-- A read inside one line gives no data, and a status of PCIe's other than success. -/
theorem masterRead_of_noRight {len : Nat} (hpos : 0 < len) (hin : addr % 128 + len ≤ 128)
    (hr : rightsOf s fn j = 0) : ∃ st t, masterRead s fn addr len = (st, [], t) ∧ st ≠ .ok ∧
      cplStatus st = cplStatus .noRights ∧ (t = s ∨ t = denied s fn) := by
  have hmay : mayAccess s fn j false = false := by simp [mayAccess, hr]
  rcases masterReadLine_of_noRight (units := unitsOf (addr % 128) len) hst herr hj hmay with hline | hline
  · exact ⟨.fenced, s, masterRead_within hpos hin hline, by decide, rfl, .inl rfl⟩
  · exact ⟨.noRights, denied s fn, masterRead_within hpos hin hline, by decide, rfl, .inr rfl⟩

theorem masterWrite_of_noRight {host : Bool} {bs : List Byte} (hpos : 0 < bs.length)
    (hin : addr % 128 + bs.length ≤ 128) (hr : rightsOf s fn j ≠ 3) :
    ∃ st t, masterWrite s fn host addr bs = (st, t) ∧ st ≠ .ok ∧ (t = s ∨ t = denied s fn) := by
  have hmay : mayAccess s fn j true = false := by simp [mayAccess, hr]
  rw [masterWrite_within hpos hin]
  rcases masterWriteLine_of_noRight (host := host) (off := addr % 128) (bs := bs) hst herr hj hmay
    with hline | hline
  · exact ⟨.fenced, s, hline, by decide, .inl rfl⟩
  · exact ⟨.noRights, denied s fn, hline, by decide, .inr rfl⟩

end

/-- What a master turned away leaves of design memory and of the jobs: all of it. -/
theorem design_of_turnedAway {s t : State} {m : Nat} (h : t = s ∨ t = denied s m) :
    t.mem.far = s.mem.far ∧ t.mem.near = s.mem.near ∧ t.mem.ppt = s.mem.ppt ∧ t.jobs = s.jobs := by
  obtain ⟨ev, tel, hif, out, hden⟩ := denied_frame s m
  rcases h with rfl | rfl
  · exact ⟨rfl, rfl, rfl, rfl⟩
  · rw [hden]
    exact ⟨rfl, rfl, rfl, rfl⟩

/-- Settles O30: the access ends at a fence or at its rights, before it reaches the line. -/
theorem noRightNoAccess : Obligations.NoRightNoAccess := by
  unfold Obligations.NoRightNoAccess
  intro s fn addr j hfn hlink hup hwait hrange hst herr hin hend hj
  constructor
  · intro hr
    obtain ⟨st, t, hread, hst', hcpl, ht⟩ :=
      masterRead_of_noRight hst herr hj (len := 8) (by decide) hin hr
    obtain ⟨hfar, hnear, hppt, hjobs⟩ := design_of_turnedAway ht
    rw [exec_bar4Read_of_ready (ups := []) hfn hlink hup hwait hend hrange hread, if_neg hst', hcpl]
    exact ⟨_, rfl, hfar, hnear, hppt, hjobs, rfl, by decide⟩
  · intro data hlen hr
    rw [← hlen] at hrange hin hend
    obtain ⟨st, t, hwrite, hst', ht⟩ :=
      masterWrite_of_noRight (host := true) hst herr hj (by omega) hin hr
    obtain ⟨hfar, hnear, hppt, hjobs⟩ := design_of_turnedAway ht
    rw [exec_bar4Write_of_ready (ups := []) hfn hlink hup hwait hend hrange hwrite, if_neg hst']
    exact ⟨_, rfl, hfar, hnear, hppt, hjobs⟩

end Sys2Proof.Machine
end

section
/-! PROOFS. A far line that is written whole reads back (R195 to R197): the bytes of a line, then the write
and the read of a line on a page, a channel and a job that stand ready. -/

namespace Sys2Proof.Machine

/-! ## The bytes of a line -/

theorem lineByte_zero (k : Nat) : lineByte 0 k = 0#8 := by
  simp [lineByte]

theorem lineByte_or (a b : Line) (k : Nat) : lineByte (a ||| b) k = lineByte a k ||| lineByte b k := by
  simp [lineByte, BitVec.ushiftRight_or_distrib, BitVec.setWidth_or]

theorem lineByte_byteAt_same {b : Byte} {k : Nat} (hk : k < 128) : lineByte (byteAt b k) k = b := by
  ext i hi
  simp [lineByte, byteAt, show 8 * k + i < 1024 by omega, show i < 1024 by omega, BitVec.getLsbD_eq_getElem hi]

theorem lineByte_byteAt_other {b : Byte} {i k : Nat} (h : k ≠ i) : lineByte (byteAt b i) k = 0#8 := by
  ext n hn
  simpa [lineByte, byteAt] using fun _ _ _ => BitVec.getLsbD_of_ge _ _ (by omega)

/-- A number's bytes, each by its position. -/
theorem leBytes_eq_map : ∀ n v : Nat,
    leBytes n v = (List.range n).map fun i => BitVec.ofNat 8 (v / 256 ^ i)
  | 0, _ => rfl
  | n + 1, v => by
    rw [leBytes, leBytes_eq_map n, List.range_succ_eq_map]
    simp [Nat.div_div_eq_div_mul, Nat.pow_succ, Nat.mul_comm]

theorem leBytes_line (d : Line) (n : Nat) : leBytes n d.toNat = (List.range n).map (lineByte d) := by
  rw [leBytes_eq_map]
  refine List.map_congr_left fun i _ => BitVec.eq_of_toNat_eq ?_
  simp [lineByte, Nat.shiftRight_eq_div_pow, Nat.pow_mul]

/-- One byte placed at the running position, with its enable. -/
def placeStep (acc : Line × BitVec 128 × Nat) (b : Byte) : Line × BitVec 128 × Nat :=
  (acc.1 ||| byteAt b acc.2.2, acc.2.1 ||| (1#128 <<< acc.2.2), acc.2.2 + 1)

theorem placeBytes_eq (off : Nat) (bs : List Byte) : placeBytes off bs =
    ((bs.foldl placeStep (0, 0, off)).1, (bs.foldl placeStep (0, 0, off)).2.1) := rfl

theorem foldl_placeStep_cons (b : Byte) (bs : List Byte) (d : Line) (be : BitVec 128) (off : Nat) :
    (b :: bs).foldl placeStep (d, be, off) =
      bs.foldl placeStep (d ||| byteAt b off, be ||| (1#128 <<< off), off + 1) := rfl

theorem lineByte_foldl_placeStep (k : Nat) : ∀ (bs : List Byte) (d : Line) (be : BitVec 128) (off : Nat),
    off + bs.length ≤ 128 → lineByte (bs.foldl placeStep (d, be, off)).1 k =
      lineByte d k ||| (if off ≤ k then bs.getD (k - off) 0#8 else 0#8)
  | [], d, be, off, _ => by simp
  | b :: bs, d, be, off, h => by
    have hoff : off + (bs.length + 1) ≤ 128 := h
    rw [foldl_placeStep_cons, lineByte_foldl_placeStep k bs _ _ _ (by omega), lineByte_or]
    rcases Nat.lt_trichotomy k off with hk | rfl | hk
    · rw [lineByte_byteAt_other (by omega), if_neg (by omega), if_neg (by omega), BitVec.or_zero]
    · rw [lineByte_byteAt_same (by omega), if_neg (by omega), if_pos (Nat.le_refl k), BitVec.or_zero,
        Nat.sub_self]
      rfl
    · obtain ⟨n, rfl⟩ := Nat.exists_eq_add_of_lt hk
      rw [lineByte_byteAt_other (by omega), if_pos (by omega), if_pos (by omega), BitVec.or_zero,
        show off + n + 1 - (off + 1) = n by omega, show off + n + 1 - off = n + 1 by omega]
      rfl

theorem getLsbD_foldl_placeStep (k : Nat) (hk : k < 128) :
    ∀ (bs : List Byte) (d : Line) (be : BitVec 128) (off : Nat),
      (bs.foldl placeStep (d, be, off)).2.1.getLsbD k =
        (be.getLsbD k || (decide (off ≤ k) && decide (k < off + bs.length)))
  | [], d, be, off => by simp
  | b :: bs, d, be, off => by
    rw [foldl_placeStep_cons, getLsbD_foldl_placeStep k hk bs]
    simp only [BitVec.getLsbD_or, BitVec.getLsbD_shiftLeft, BitVec.getLsbD_one, List.length_cons]
    rcases Nat.lt_trichotomy k off with h | rfl | h
    · simp [h, show ¬ off ≤ k by omega, show ¬ off + 1 ≤ k by omega]
    · simp [hk]
    · simp [show ¬ k < off by omega, show off ≤ k by omega, show off + 1 ≤ k by omega,
        show ¬ k - off = 0 by omega, Nat.add_right_comm off 1, Nat.add_assoc]

/-- 128 bytes are a whole line, with every enable set. -/
theorem placeBytes_whole {bs : List Byte} (h : bs.length = 128) :
    placeBytes 0 bs = ((placeBytes 0 bs).1, BitVec.allOnes 128) := by
  refine Prod.ext rfl (BitVec.eq_of_getLsbD_eq fun k hk => ?_)
  rw [placeBytes_eq, getLsbD_foldl_placeStep k hk, BitVec.getLsbD_allOnes]
  simp [h]

/-- The bytes of a whole line are those it was made of. -/
theorem leBytes_placeBytes_whole {bs : List Byte} (h : bs.length = 128) :
    leBytes 128 (placeBytes 0 bs).1.toNat = bs := by
  rw [leBytes_line]
  refine List.ext_getElem (by simp [h]) fun k h1 h2 => ?_
  rw [List.getElem_map, List.getElem_range, placeBytes_eq,
    lineByte_foldl_placeStep k bs _ _ _ (by omega), lineByte_zero]
  simp [h2]

/-! ## A far line written whole -/

/-- A job without a journal epoch records nothing (R366). -/
theorem addRecord_of_noJournal {s : State} {j : Nat} {c : Word} {r : JRec}
    (h : (jobOf s j).journaling = false) : addRecord s j c r = s := if_pos (by rw [h]; rfl)

/-- A line of a far page of job `j` that holds key `k`, under no replay, journal or quarantine, whose
channel is ready. -/
structure FarLineReady (s : State) (dl j k : Nat) : Prop where
  state : (pptOf s (linePage dl)).state = .far
  job : (pptOf s (linePage dl)).job = j
  live : s.mem.stalled.contains (linePage dl) = false
  clean : mapGet s.mem.pptErr 0 (linePage dl) = 0
  key : (jobOf s j).key = some k
  noReplay : (jobOf s j).replay = none
  noJournal : (jobOf s j).journaling = false
  unlisted : isListed s dl = false
  chan : (chanOf s (lineChannel (farIndex (pptOf s (linePage dl)).farFrame dl))).st = 2

theorem farAt_setFar_same (s : State) (l : Nat) (f : FarLine) :
    mapGet (setFar s l f).mem.far none l = some f :=
  mapGet_mapPut_same s.mem.far none l (some f)

theorem farAt_setFar_other (s : State) {l q : Nat} (f : FarLine) (h : q ≠ l) :
    mapGet (setFar s l f).mem.far none q = mapGet s.mem.far none q :=
  mapGet_mapPut_other s.mem.far none l q (some f) h

/-- The place of a line in its far frame. -/
def farPlace (s : State) (dl : Nat) : Nat := farIndex (pptOf s (linePage dl)).farFrame dl

section
variable {s : State} {dl j k : Nat} (h : FarLineReady s dl j k)
include h

theorem FarLineReady.pageJob : pageJob s (linePage dl) = some j := by
  rw [Machine.pageJob, h.state, h.job]
  rfl

theorem FarLineReady.servedNear : servedNear (pptOf s (linePage dl)) = false := by
  rw [Machine.servedNear, h.state]
  rfl

theorem FarLineReady.pageFail : pageFail (pptOf s (linePage dl)) = none := by
  rw [Machine.pageFail, h.state]

theorem FarLineReady.servedFar : servedFar s dl = true := by
  simp only [Machine.servedFar, h.pageFail, h.servedNear]
  rfl

theorem FarLineReady.lineWaits : lineWaits s dl = false := by
  simp only [Machine.lineWaits, h.chan]
  exact Bool.and_false _

theorem FarLineReady.chanLost : chanLost s (pptOf s (linePage dl)) dl = false := by
  simp only [Machine.chanLost, h.chan]
  exact Bool.and_false _

/-- Counting the access and writing another text into the line leave it so. -/
theorem FarLineReady.counted (units : Nat) :
    FarLineReady (countAccess s (linePage dl) units) dl j k :=
  ⟨h.state, h.job, h.live, h.clean, h.key, h.noReplay, h.noJournal, h.unlisted, h.chan⟩

theorem FarLineReady.written (l : Nat) (f : FarLine) : FarLineReady (setFar s l f) dl j k :=
  ⟨h.state, h.job, h.live, h.clean, h.key, h.noReplay, h.noJournal, h.unlisted, h.chan⟩

theorem undoTouch_of_ready : undoTouch s j dl = s := by
  simp only [undoTouch, h.noJournal]
  rfl

theorem storePlaced_of_ready (d : Line) :
    storePlaced s (linePage dl) (pptOf s (linePage dl)) dl d =
      setFar s (farPlace s dl) { plain := d, key := k, errs := [] } := by
  have hpass : linePassed s (pptOf s (linePage dl)) dl = false := by
    rw [linePassed, h.state]
    rfl
  have hkey : jobKey s (pptOf s (linePage dl)).job = some k := by rw [jobKey, h.job, h.key]
  simp only [storePlaced, hpass, storeServed, h.servedNear, writeFar, Bool.false_eq_true,
    if_false, hkey]
  rfl

theorem landWrite_of_ready (d : Line) : landWrite s (pptOf s (linePage dl)) dl d =
    (.ok, setFar s (farPlace s dl) { plain := d, key := k, errs := [] }) := by
  have hquar : (pptOf s (linePage dl)).state ≠ .quarantined := by rw [h.state]; decide
  have hunlist : unlist s dl = s := if_neg (by rw [h.unlisted]; exact Bool.false_ne_true)
  simp only [landWrite, h.job, undoTouch_of_ready h, hquar, hunlist, storePlaced_of_ready h]
  rfl

/-- A whole write is encrypted under the job's key, with no stored error (R195, R196). -/
theorem writeLine_of_ready (d : Line) : writeLine s dl d (BitVec.allOnes 128) =
    (.ok, setFar s (farPlace s dl) { plain := d, key := k, errs := [] }) := by
  simp only [writeLine, readEntry_of_clean h.live h.clean, h.pageFail, h.unlisted, h.chanLost,
    landWrite_of_ready h]
  rfl

/-- A line stored under the job's key with no error is read as its text (R197). -/
theorem readLine_of_ready {d : Line}
    (hl : mapGet s.mem.far none (farPlace s dl) = some { plain := d, key := k, errs := [] }) :
    readLine s dl = (.ok, d, s) := by
  have hcheck : checkFar s (farPlace s dl) (some k) =
      (some { plain := d, key := k, errs := [] }, s) := by
    have hchan : (chanOf s (lineChannel (farPlace s dl))).st = 2 := h.chan
    simp only [checkFar, hchan, farLineOf, hl]
    rfl
  have hplaced : readPlaced s (pptOf s (linePage dl)) dl = (.ok, d, s) := by
    have hfar : readFar s (farPlace s dl) (some k) = (.good d, s) := by
      simp only [readFar, hcheck, openLine]
      rfl
    rw [farPlace] at hfar
    simp only [readPlaced, h.servedNear, jobKey, h.job, h.key, hfar]
    rfl
  simp only [readLine, readEntry_of_clean h.live h.clean, h.pageFail, h.unlisted, hplaced]
  rfl

section
variable (hf : accessFenced s 9 (pptOf s (linePage dl)) dl = false) (hr : rightsOf s 0 j = 3)
include hf hr

theorem masterWrite_of_ready {data : List Byte} (hlen : data.length = 128) :
    masterWrite s 0 true (128 * dl) data = (.ok, setFar (countAccess s (linePage dl) 2) (farPlace s dl)
      { plain := (placeBytes 0 data).1, key := k, errs := [] }) := by
  have hdiv : 128 * dl / 128 = dl := Nat.mul_div_cancel_left dl (by decide)
  have hmod : 128 * dl % 128 = 0 := Nat.mul_mod_right 128 dl
  have hunits : unitsOf 0 data.length = 2 := by rw [hlen]; rfl
  have hall : (placeBytes 0 data).2 = BitVec.allOnes 128 := congrArg Prod.snd (placeBytes_whole hlen)
  have hw := writeLine_of_ready (h.counted 2) (placeBytes 0 data).1
  rw [← hall, ← hunits] at hw
  have hline := masterWriteLine_of_right (m := 0) h.live h.clean h.pageJob hf (by simp [mayAccess, hr])
    h.noReplay hw
  rw [addRecord_of_noJournal ((h.counted _).written _ _).noJournal, hunits] at hline
  rw [masterWrite_within (by omega) (by omega), hdiv, hmod, hline]
  rfl

theorem masterReadLine_of_ready {d : Line} {units : Nat}
    (hl : mapGet s.mem.far none (farPlace s dl) = some { plain := d, key := k, errs := [] }) :
    masterReadLine s 0 dl units = (.ok, d, countAccess s (linePage dl) units) := by
  rw [masterReadLine_of_right (m := 0) h.live h.clean h.pageJob hf (by simp [mayAccess, hr])]
  exact readLine_of_ready (h.counted units) hl

variable (hup : memUp s = true)
include hup

theorem exec_farLineWrite_of_ready {data : List Byte} (hlen : data.length = 128) :
    exec (.farLineWrite 0 (128 * dl) data) s =
      .next (setFar (countAccess s (linePage dl) 2) (farPlace s dl)
        { plain := (placeBytes 0 data).1, key := k, errs := [] }) := by
  have hdiv : 128 * dl / 128 = dl := Nat.mul_div_cancel_left dl (by decide)
  have hdata : data.take (128 - 128 * dl % 128) = data := by
    rw [Nat.mul_mod_right, Nat.sub_zero, ← hlen, List.take_length]
  have hexec := exec_farLineWrite_of_served (m := 0) (addr := 128 * dl) (data := data) (by decide) hup
    (by rw [hdiv, h.servedFar]) (by rw [hdiv, h.lineWaits])
  rw [hdata, decide_eq_true (by decide : 0 < 9), masterWrite_of_ready h hf hr hlen] at hexec
  exact hexec

theorem exec_farLineRead_of_ready {d : Line}
    (hl : mapGet s.mem.far none (farPlace s dl) = some { plain := d, key := k, errs := [] }) :
    exec (.farLineRead 0 dl []) s =
      .next (emitOut (countAccess s (linePage dl) 2) (.cpl 0 (leBytes 128 d.toNat))) := by
  have hline : masterReadLine (upsets s []) 0 dl 2 = (.ok, d, countAccess s (linePage dl) 2) :=
    masterReadLine_of_ready h hf hr hl
  exact exec_farLineRead_of_served (ups := []) (by decide) hup h.servedFar h.lineWaits hline

end
end

/-- Settles O29: the write stores the line's text under the job's key, and the read opens it again. -/
theorem farLineReadsBackWhatWasWritten : Obligations.FarLineReadsBackWhatWasWritten := by
  unfold Obligations.FarLineReadsBackWhatWasWritten
  intro s dl j k data hup _ hlen _ hf hstate hjob hr hst herr hkey hrep hjour hlist hchan
  have hready : FarLineReady s dl j k := ⟨hstate, hjob, hst, herr, hkey, hrep, hjour, hlist, hchan⟩
  have hwritten := (hready.counted 2).written (farPlace s dl)
    { plain := (placeBytes 0 data).1, key := k, errs := [] }
  refine ⟨_, _, exec_farLineWrite_of_ready hready hf hr hup hlen,
    exec_farLineRead_of_ready hwritten hf hr hup (farAt_setFar_same _ _ _), ?_, rfl, rfl,
    fun l hl => farAt_setFar_other _ _ hl⟩
  rw [leBytes_placeBytes_whole hlen]
  rfl

end Sys2Proof.Machine
end

section
/-! PROOFS. Placement (R165 to R187): mapping, pins and page resets by their commands; what the copies of a
migration and an epoch's choice leave of the moves and the knobs; the entry after a migration. -/

namespace Sys2Proof.Machine

/-! ## A part of the memory's record that operations keep -/

/-- A part of the memory's record is as it was. -/
def KeepsMem {α : Type} (f : Mem → α) (s t : State) : Prop := f t.mem = f s.mem

/-- The migrations chosen, and the knobs in use and waiting. -/
def movePlan (m : Mem) : List (Nat × Bool) × Knobs × Option Knobs := (m.moves, m.knobs, m.knobsNext)

/-- The knobs in use and waiting. -/
def knobPlan (m : Mem) : Knobs × Option Knobs := (m.knobs, m.knobsNext)

section
variable {α β : Type} {f : Mem → α} {s t u : State}

theorem KeepsMem.refl (f : Mem → α) (s : State) : KeepsMem f s s := rfl

theorem KeepsMem.trans (h : KeepsMem f s t) (g : KeepsMem f t u) : KeepsMem f s u := Eq.trans g h

theorem keepsMem_of_mem (h : t.mem = s.mem) : KeepsMem f s t := congrArg f h

theorem KeepsMem.emitDev {code : Nat} {fs : List (Nat × Nat)} (h : KeepsMem f s t) :
    KeepsMem f s (emitDev t code fs) := h.trans (keepsMem_of_mem (emitDev_mem t code fs))

theorem KeepsMem.emitJob {code j : Nat} {fs : List (Nat × Nat)} (h : KeepsMem f s t) :
    KeepsMem f s (emitJob t code j fs) := h.trans (keepsMem_of_mem (emitJob_mem t code j fs))

theorem KeepsMem.ite {c : Prop} [Decidable c] (h : KeepsMem f s t) (g : KeepsMem f s u) :
    KeepsMem f s (if c then t else u) := by
  split
  · exact h
  · exact g

/-- A fold of state and result keeps what each of its steps keeps. -/
theorem KeepsMem.foldl_snd {γ : Type} {g : γ × State → β → γ × State}
    (h : ∀ acc b, KeepsMem f acc.2 (g acc b).2) :
    ∀ (l : List β) (acc : γ × State), KeepsMem f acc.2 (l.foldl g acc).2
  | [], acc => KeepsMem.refl f acc.2
  | b :: l, acc => (h acc b).trans (KeepsMem.foldl_snd h l (g acc b))

theorem KeepsMem.each {g : State → β → State} (h : ∀ s b, KeepsMem f s (g s b)) :
    ∀ (l : List β) (s : State), KeepsMem f s (each l g s)
  | [], s => KeepsMem.refl f s
  | b :: l, s => (h s b).trans (KeepsMem.each h l (g s b))

end

theorem KeepsMem.knobs {s t : State} (h : KeepsMem movePlan s t) : KeepsMem knobPlan s t :=
  congrArg Prod.snd h

theorem KeepsMem.moves {s t : State} (h : KeepsMem movePlan s t) : t.mem.moves = s.mem.moves :=
  congrArg Prod.fst h

/-! ## Entries, lines and copies keep the moves -/

theorem modPpt_keeps (s : State) (p : Nat) (g : Ppt → Ppt) : KeepsMem movePlan s (modPpt s p g) := rfl

theorem fetchEntry_of_clean {s : State} {p : Nat} (hst : s.mem.stalled.contains p = false)
    (herr : mapGet s.mem.pptErr 0 p = 0) : fetchEntry s p = (true, s) := by
  rw [fetchEntry, if_neg (by rw [hst]; exact Bool.false_ne_true)]
  exact if_pos herr

/-- A read of an entry corrects it or stalls its page. -/
theorem fetchEntry_keeps (s : State) (p : Nat) : KeepsMem movePlan s (fetchEntry s p).2 := by
  rw [fetchEntry]
  split
  · exact KeepsMem.refl _ s
  · extract_lets m
    split
    · exact KeepsMem.refl _ s
    · split
      · exact rfl
      · exact KeepsMem.emitDev rfl

theorem quarantine_keeps (s : State) (dl job : Nat) (r : QReason) :
    KeepsMem movePlan s (quarantine s dl job r) := by
  simp only [quarantine]
  split
  · exact KeepsMem.refl _ s
  · split
    · exact rfl
    · exact KeepsMem.emitDev rfl

theorem lineFailed_keeps (s : State) (dl job : Nat) (r : QReason) :
    KeepsMem movePlan s (lineFailed s dl job r) := by
  refine KeepsMem.trans ?_ (quarantine_keeps _ dl job r)
  cases r <;> exact KeepsMem.emitJob rfl

theorem readFar_keeps (s : State) (l : Nat) (key : Option Nat) :
    KeepsMem movePlan s (readFar s l key).2 := by
  have hcheck : KeepsMem movePlan s (checkFar s l key).2 := by
    simp only [checkFar]
    split
    · rfl
    · split
      · rfl
      · split <;> rfl
  simp only [readFar]
  split
  next h => rw [h] at hcheck; exact hcheck
  next h => rw [h] at hcheck; exact hcheck

theorem putNear_keeps (s : State) (k : Nat) (v : BitVec 72) : KeepsMem movePlan s (putNear s k v) := rfl

theorem readNear_keeps (s : State) (frame dl : Nat) : KeepsMem movePlan s (readNear s frame dl).2 := by
  refine KeepsMem.foldl_snd (fun acc w => ?_) _ (some 0, s)
  dsimp only
  split
  · exact KeepsMem.refl _ _
  · exact KeepsMem.ite (putNear_keeps _ _ _) (KeepsMem.refl _ _)

theorem writeNear_keeps (s : State) (frame dl : Nat) (d : Line) :
    KeepsMem movePlan s (writeNear s frame dl d) :=
  KeepsMem.each (fun t w => putNear_keeps t (nearIndex frame dl w) _) _ s

theorem writeFar_keeps (s : State) (l : Nat) (key : Option Nat) (d : Line) :
    KeepsMem movePlan s (writeFar s l key d) := rfl

theorem settleFar_keeps (s : State) (p : Nat) : KeepsMem movePlan s (settleFar s p) := by
  simp only [settleFar, freeNearOf]
  split <;> rfl

theorem copyUp_keeps (s : State) (p : Nat) (e : Ppt) (lo hi : Nat) :
    KeepsMem movePlan s (copyUp s p e lo hi).2 := by
  refine KeepsMem.foldl_snd (fun acc ln => ?_) _ (true, s)
  have hread := readFar_keeps acc.2 (farIndex e.farFrame (p * 8192 + ln)) (jobKey acc.2 e.job)
  dsimp only
  split
  · split
    next d t h =>
      rw [h] at hread
      exact hread.trans (writeNear_keeps t e.nearFrame (p * 8192 + ln) d)
    next t h =>
      rw [h] at hread
      exact hread.trans (lineFailed_keeps t (p * 8192 + ln) e.job .farUncorrectable)
    next t h =>
      rw [h] at hread
      exact hread.trans (lineFailed_keeps t (p * 8192 + ln) e.job .tag)
  · exact KeepsMem.refl _ _

theorem copyDownLine_keeps (p : Nat) (e : Ppt) (s : State) (ln : Nat) :
    KeepsMem movePlan s (copyDownLine p e s ln) := by
  have hread := readNear_keeps s e.nearFrame (p * 8192 + ln)
  simp only [copyDownLine]
  split
  · exact writeFar_keeps _ _ _ _
  · split
    next h => rw [h] at hread; exact hread.trans (writeFar_keeps _ _ _ _)
    next h =>
      rw [h] at hread
      exact (hread.trans (lineFailed_keeps _ _ _ _)).trans (writeFar_keeps _ _ _ _)

theorem copyOn_keeps (s : State) (p hi : Nat) : KeepsMem movePlan s (copyOn s p hi) := by
  have hup := copyUp_keeps s p (pptOf s p) s.mem.copyPos hi
  simp only [copyOn]
  split
  · exact KeepsMem.each (copyDownLine_keeps p (pptOf s p)) _ s
  · split
    · exact hup
    · exact hup.trans (settleFar_keeps _ _)

/-! ## The end of a migration -/

theorem settleFar_state (s : State) (p : Nat) : (pptOf (settleFar s p) p).state ≠ .migrating := by
  rw [settleFar, pptOf_modPpt_same]
  dsimp only
  split <;> decide

theorem pptOf_setReverse (s : State) (n p : Nat) (q : Option Nat) :
    pptOf (setReverse s n q) p = pptOf s p := rfl

/-- Once a copy is whole its page is in one tier (R183, R210). -/
theorem switchEntry_state (s : State) (p : Nat) : (pptOf (switchEntry s p) p).state ≠ .migrating := by
  simp only [switchEntry]
  split
  · assumption
  · split
    · split
      · exact settleFar_state s p
      · rw [pptOf_modPpt_same]; exact PageState.noConfusion
    · split
      · rw [pptOf_setReverse, pptOf_modPpt_same]; exact PageState.noConfusion
      · exact settleFar_state s p

theorem switchEntry_keeps (s : State) (p : Nat) : KeepsMem movePlan s (switchEntry s p) := by
  simp only [switchEntry]
  refine KeepsMem.ite (KeepsMem.refl _ s) (KeepsMem.ite ?_ (KeepsMem.ite rfl (settleFar_keeps s p)))
  exact KeepsMem.ite (settleFar_keeps s p) rfl

theorem nextMove_of_none {s : State} (h : s.mem.moves = []) : nextMove s = s := by
  rw [nextMove, h]

/-- The last migration chosen ends with its page in one tier, and no other starts. -/
theorem finishMove_of_last {s : State} {p : Nat} {d : Bool} (hm : s.mem.moves = [(p, d)])
    (hstate : (pptOf s p).state = .migrating) (hst : s.mem.stalled.contains p = false)
    (herr : mapGet s.mem.pptErr 0 p = 0) :
    (pptOf (finishMove s p) p).state ≠ .migrating ∧ (finishMove s p).mem.moves = [] := by
  have hnone : (switchEntry (copyOn (modMemBlk s fun m => { m with moves := [] }) p 8192) p).mem.moves
      = [] := ((copyOn_keeps _ _ _).trans (switchEntry_keeps _ _)).moves
  have hfinish : finishMove s p =
      switchEntry (copyOn (modMemBlk s fun m => { m with moves := [] }) p 8192) p := by
    simp only [finishMove, hm, fetchEntry_of_clean hst herr, hstate]
    exact (if_neg (by simp)).trans (nextMove_of_none hnone)
  rw [hfinish]
  exact ⟨switchEntry_state _ _, hnone⟩

/-! ## The end of an epoch keeps all but the knobs that it takes -/

theorem nodeMark_keeps (s : State) (p : Nat) : KeepsMem movePlan s (nodeMark s p) := by
  refine KeepsMem.trans ?_ (modPpt_keeps _ p _)
  exact KeepsMem.emitDev rfl

theorem checkNode_keeps (s : State) (p : Nat) : KeepsMem movePlan s (checkNode s p) := by
  rw [checkNode]
  split
  · exact KeepsMem.refl _ s
  · split
    · exact rfl
    · exact nodeMark_keeps s p

theorem rootInvalid_keeps (s : State) (i : Nat) : KeepsMem movePlan s (rootInvalid s i) := by
  have hemit : KeepsMem movePlan s (emitDev (setRoot s i
      { value := 0, sat := false, valid := false, incomplete := true, err := 0 }) 0x0D02
      [(1, 0), (4, i)]) := KeepsMem.emitDev rfl
  exact KeepsMem.ite (hemit.trans (KeepsMem.each (fun _ _ => modPpt_keeps _ _ _) _ _)) hemit

theorem checkRoot_keeps (s : State) (i : Nat) : KeepsMem movePlan s (checkRoot s i) := by
  rw [checkRoot]
  split
  · exact KeepsMem.refl _ s
  · split
    · exact rfl
    · exact rootInvalid_keeps s i

theorem rollInto_keeps (s : State) (i n : Nat) : KeepsMem movePlan s (rollInto s i n) := by
  rw [rollInto]
  refine (checkRoot_keeps s i).trans (KeepsMem.ite (KeepsMem.refl _ _) (KeepsMem.ite rfl ?_))
  exact KeepsMem.emitDev rfl

/-- However many chosen migrations are passed over (R180, R210). The recursion is opened by `delta`: the
equations of `startMove` cannot be derived without running the decoder on the open entry word. -/
theorem startMove_keeps (n : Nat) : ∀ s : State, KeepsMem knobPlan s (startMove n s) := by
  induction n with
  | zero => exact fun s => KeepsMem.refl knobPlan s
  | succ n ih =>
    intro s
    generalize hnext : startMove n = next at ih
    delta startMove at hnext ⊢
    dsimp only [Nat.brecOn.go, startMove._f] at hnext ⊢
    eta_reduce at hnext
    rw [hnext]
    split
    · exact KeepsMem.refl _ s
    next p demote rest _ =>
      have hfetch := (fetchEntry_keeps s p).knobs
      have hskip : ∀ t : State, KeepsMem knobPlan s t →
          KeepsMem knobPlan s (modMemBlk t fun m => { m with moves := rest }) := fun _ ht => ht
      refine KeepsMem.ite ((hskip _ hfetch).trans (ih _)) (KeepsMem.ite (KeepsMem.ite
        ((hskip _ hfetch).trans (ih _)) (KeepsMem.ite hfetch
          ((hskip _ (hfetch.trans (settleFar_keeps _ p).knobs)).trans (ih _)))) ?_)
      split
      · exact hfetch
      · exact (hskip _ hfetch).trans (ih _)

theorem nextMove_keeps (s : State) : KeepsMem knobPlan s (nextMove s) := by
  simp only [nextMove]
  split
  · exact KeepsMem.refl _ s
  · exact KeepsMem.ite (KeepsMem.refl _ s) (startMove_keeps _ s)

theorem addMove_keeps (s : State) (p : Nat) (demote : Bool) : KeepsMem knobPlan s (addMove s p demote) :=
  rfl

theorem considerPage_keeps (k : Knobs) (acc : Nat × State) (c : Nat × Ppt) :
    KeepsMem knobPlan acc.2 (considerPage k acc c).2 := by
  simp only [considerPage]
  split
  · exact KeepsMem.refl _ _
  · split
    · exact addMove_keeps _ _ _
    · split
      · split
        · split
          · exact (addMove_keeps _ _ _).trans (addMove_keeps _ _ _)
          · exact KeepsMem.refl _ _
        · exact KeepsMem.refl _ _
      · exact KeepsMem.refl _ _

theorem demoteExcluded_keeps (k : Knobs) (s : State) : KeepsMem knobPlan s (demoteExcluded k s).2 := by
  refine KeepsMem.foldl_snd (fun acc x => ?_) _ (0, s)
  split
  · exact addMove_keeps _ _ _
  · exact KeepsMem.refl _ _

/-- The knobs in use once those that wait have been taken (R181). -/
def takeKnobs (s : State) : State :=
  modMemBlk s fun m => { m with knobs := s.mem.knobsNext.getD s.mem.knobs, knobsNext := none }

theorem epochMoves_keeps (s : State) : KeepsMem knobPlan (takeKnobs s) (epochMoves s) := by
  have hheat : KeepsMem movePlan (takeKnobs s)
      (updateHeat (s.mem.knobsNext.getD s.mem.knobs) (readEntries (takeKnobs s))) :=
    (KeepsMem.each (fun s p => fetchEntry_keeps s p) _ _).trans
      (KeepsMem.each (fun _ _ => modPpt_keeps _ _ _) _ _)
  exact ((hheat.knobs.trans (demoteExcluded_keeps _ _)).trans
    (KeepsMem.foldl_snd (considerPage_keeps _) _ _)).trans (nextMove_keeps _)

theorem unfreeze_keeps (s : State) : KeepsMem movePlan s (unfreeze s) :=
  KeepsMem.each (fun t (e : Nat × Ppt) => modPpt_keeps t e.1 _) _ s

theorem epochEnd_knobs (s : State) : (epochEnd s).mem.knobs = s.mem.knobsNext.getD s.mem.knobs ∧
    (epochEnd s).mem.knobsNext = none := by
  have hrolled : KeepsMem knobPlan s (branchRolls (each (s.tel.pages.map (·.1)) checkNode s)) :=
    ((KeepsMem.each checkNode_keeps _ s).trans
      (KeepsMem.each (fun s b => rollInto_keeps s _ _) _ _)).knobs
  have hend : KeepsMem knobPlan
      (takeKnobs (branchRolls (each (s.tel.pages.map (·.1)) checkNode s))) (epochEnd s) :=
    (epochMoves_keeps _).trans (unfreeze_keeps _).knobs
  refine ⟨(congrArg Prod.fst hend).trans ?_, congrArg Prod.snd hend⟩
  show Option.getD (knobPlan _).2 (knobPlan _).1 = _
  rw [hrolled]
  rfl

/-! ## Mapping -/

section
variable {s : State} {h : Hdr} {first count : Nat}

theorem exec_cmdMemMap_of_free (hg : granted s h 0x0501 = true)
    (hr : rangeOk first count 131072 131072 = true)
    (hu : ∀ p ∈ pagesFrom first count, isMapped s p = false) (hlp : lp5xBad s = false)
    (hn : count ≤ (freeFar s count).length) (ha : s.hif.accepted.length < 16) :
    exec (.cmdMemMap h first count) s = .next (respond (enlist
      (updatePasr (each ((pagesFrom first count).zip (freeFar s count)) (takeFrame (namedJob h)) s))
      h 0x0501 [namedJob h, first, count]) h 0x0501 .accepted []) := by
  have hany : (pagesFrom first count).any (isMapped s) = false := by simpa using hu
  rw [exec_of_granted rfl rfl hg]
  exact congrArg _ ((if_neg (by simp [hr, hany])).trans ((if_neg (by simp [hlp])).trans
    ((if_neg (Nat.not_lt.2 hn)).trans (accept_eq ha))))

theorem exec_cmdMemUnmap_of_quiet (hg : granted s h 0x0502 = true)
    (hq : jobQuiet s (namedJob h) = true) (hr : rangeOk first count 131072 131072 = true)
    (hm : ∀ p ∈ pagesFrom first count, mappedTo s (namedJob h) p = true) (hlp : lp5xBad s = false) :
    exec (.cmdMemUnmap h first count) s =
      .next (answer (updatePasr (each (pagesFrom first count) unmapPage s)) h 0x0502 []) := by
  have hall : (pagesFrom first count).all (mappedTo s (namedJob h)) = true := List.all_eq_true.2 hm
  rw [exec_of_granted rfl rfl hg]
  exact congrArg _ ((ite_not_of_true hq).trans ((if_neg (by simp [hr, hall])).trans
    (if_neg (by simp [hlp]))))

theorem exec_cmdMemPinPin_of_room (hg : granted s h 0x0503 = true) (hc : pinCheck s h first count = none)
    (hx : ∀ p ∈ pagesFrom first count, isExcluded s p = false)
    (hp : pinsWith s (pagesFrom first count) ≤ s.mem.knobs.pinLimit) :
    exec (.cmdMemPinPin h first count false) s =
      .next (answer (each (pagesFrom first count) (setPins true false) s) h 0x0503 []) := by
  have hany : (pagesFrom first count).any (isExcluded s) = false := by simpa using hx
  rw [exec_of_granted rfl rfl hg]
  simp only [hc, hany, Bool.or_self, Bool.false_eq_true, if_false, if_neg (Nat.not_lt.2 hp)]

theorem exec_cmdMemPinExclude_of_unpinned (hg : granted s h 0x0503 = true)
    (hc : pinCheck s h first count = none) (hp : ∀ p ∈ pagesFrom first count, isPinned s p = false) :
    exec (.cmdMemPinExclude h first count) s =
      .next (answer (each (pagesFrom first count) (setPins false true) s) h 0x0503 []) := by
  have hany : (pagesFrom first count).any (isPinned s) = false := by simpa using hp
  rw [exec_of_granted rfl rfl hg]
  simp only [hc, hany, Bool.false_eq_true, if_false]

theorem exec_cmdMemPinClear_of_granted (hg : granted s h 0x0503 = true)
    (hc : pinCheck s h first count = none) : exec (.cmdMemPinClear h first count) s =
      .next (answer (each (pagesFrom first count) (setPins false false) s) h 0x0503 []) := by
  rw [exec_of_granted rfl rfl hg]
  simp only [hc]

theorem exec_cmdMemPageReset_of_quiet {p : Nat} (hg : granted s h 0x050A = true)
    (hm : mappedTo s (namedJob h) p = true) (hq : jobQuiet s (namedJob h) = true)
    (hlp : lp5xBad s = false) (ha : s.hif.accepted.length < 16) :
    exec (.cmdMemPageReset h p) s =
      .next (respond (enlist s h 0x050A [namedJob h, p]) h 0x050A .accepted []) := by
  rw [exec_of_granted rfl rfl hg]
  exact congrArg _ ((if_neg (by simp [hm])).trans ((ite_not_of_true hm).trans
    ((ite_not_of_true hq).trans ((if_neg (by simp [hlp])).trans (accept_eq ha)))))

end

/-- The zeroing ends for the pages that are still the job's (log 33). -/
theorem exec_memMapDone_of_found {s : State} {a : Accepted} {j first count : Nat}
    (hf : findAcc s 0x0501 = some a) (ha : a.args = [j, first, count])
    (hj : (jobOf s j).created = true) : exec .memMapDone s = .next (complete (dropAcc
      (each ((pagesFrom first count).filter (mappedTo s j)) finishMap s) 0x0501)
      a.hdr 0x0501 0x0507 .ok []) := by
  show Host.Outcome.next (memMapDone s) = _
  simp only [memMapDone, hf, ha, listAt, List.getD_cons_zero, List.getD_cons_succ, hj, if_true]

theorem exec_pageResetDone_of_found {s : State} {a : Accepted} {j p : Nat}
    (hf : findAcc s 0x050A = some a) (ha : a.args = [j, p]) (hm : mappedTo s j p = true) :
    exec .pageResetDone s =
      .next (complete (dropAcc (resetPage s p) 0x050A) a.hdr 0x050A 0x0E02 .ok []) := by
  show Host.Outcome.next (pageResetDone s) = _
  simp only [pageResetDone, hf, ha, listAt, List.getD_cons_zero, List.getD_cons_succ, hm, if_true]

theorem pptOf_modMemBlk (s : State) (f : Mem → Mem) (p : Nat) (h : ∀ m, (f m).ppt = m.ppt) :
    pptOf (modMemBlk s f) p = pptOf s p := by
  simp only [pptOf, modMemBlk_mem, h]

theorem pptOf_setPpt (s : State) (p q : Nat) (e : Ppt) :
    pptOf (setPpt s p e) q = if q = p then e else pptOf s q := mapGet_mapPut s.mem.ppt {} p q e

/-- The entry of a page whose frame is zeroed (R169); no other entry changes. -/
theorem pptOf_finishMap {s : State} {p : Nat} {m : Mirror}
    (hm : mapGet s.mem.mirror none p = some m) (q : Nat) : pptOf (finishMap s p) q =
      if q = p then { state := .far, job := m.job, pin := m.pin, exclude := m.exclude,
                      farFrame := m.farFrame, frozen := nodeInvalid s p }
      else pptOf s q := by
  simp only [finishMap, hm]
  rw [pptOf_modMemBlk _ _ _ ?_, pptOf_setPpt]
  · rfl
  · exact fun _ => rfl

theorem pptOf_unmapPage (s : State) (p : Nat) : (pptOf (unmapPage s p) p).state = .unbacked := by
  simp only [unmapPage]
  rw [pptOf_modMemBlk _ _ _ ?_, pptOf_setPpt_same]
  exact fun _ => rfl

theorem mirror_unmapPage (s : State) (p : Nat) : mapGet (unmapPage s p).mem.mirror none p = none := by
  simp only [unmapPage, modMemBlk_mem]
  exact mapGet_mapPut_same _ none p none

/-! ## Rows of the engine -/

theorem exec_placementEpochEnd_of_up {s : State} (hup : memUp s = true) :
    exec .placementEpochEnd s = .next (epochEnd s) := congrArg Host.Outcome.next (if_pos hup)

theorem exec_pageMigrationDone_of_trained {s : State} {p : Nat} {ups : List Upset}
    (hup : memUp (upsets s ups) = true) (hc : ∀ c ∈ (upsets s ups).lp.chans, c.2.st ≠ 1) :
    exec (.pageMigrationDone p ups) s = .next (finishMove (upsets s ups) p) :=
  congrArg Host.Outcome.next (if_pos (by simpa [hup] using fun a b hab => hc (a, b) hab))

theorem exec_plcEntryRebuild_of_stalled {s : State} {p : Nat}
    (hst : s.mem.stalled.contains p = true) :
    exec (.plcEntryRebuild p) s = .next (rebuildEntry s p) := congrArg Host.Outcome.next (if_pos hst)

theorem stalled_rebuildEntry (s : State) (p : Nat) :
    (rebuildEntry s p).mem.stalled.contains p = false := by
  show (s.mem.stalled.filter (· != p)).contains p = false
  simp

theorem pptErr_rebuildEntry (s : State) (p : Nat) : mapGet (rebuildEntry s p).mem.pptErr 0 p = 0 :=
  mapGet_mapPut_same s.mem.pptErr 0 p 0

/-- Settles O26, row by row. -/
theorem placementRowsAct : Obligations.PlacementRowsAct := by
  unfold Obligations.PlacementRowsAct
  refine ⟨?map, ?mapDone, ?mapped, ?unmap, ?unmapped, ?policy, ?pin, ?exclude, ?clear, ?reset,
    ?resetDone, ?epoch, ?migration, ?rebuild⟩
  case map => exact fun _ _ _ _ => exec_cmdMemMap_of_free
  case mapDone => exact fun _ _ _ _ _ => exec_memMapDone_of_found
  case mapped =>
    intro s p m hm
    rw [pptOf_finishMap hm, if_pos rfl]
    exact ⟨rfl, rfl, rfl, fun q hq => (pptOf_finishMap hm q).trans (if_neg hq)⟩
  case unmap => exact fun _ _ _ _ => exec_cmdMemUnmap_of_quiet
  case unmapped => exact fun s p => ⟨pptOf_unmapPage s p, mirror_unmapPage s p⟩
  case policy =>
    intro s h k hg hk
    rw [exec_of_granted rfl rfl hg]
    exact congrArg _ (ite_not_of_true hk)
  case pin => exact fun _ _ _ _ => exec_cmdMemPinPin_of_room
  case exclude => exact fun _ _ _ _ => exec_cmdMemPinExclude_of_unpinned
  case clear => exact fun _ _ _ _ => exec_cmdMemPinClear_of_granted
  case reset => exact fun _ _ _ => exec_cmdMemPageReset_of_quiet
  case resetDone => exact fun _ _ _ _ => exec_pageResetDone_of_found
  case epoch => exact fun s hup => ⟨_, exec_placementEpochEnd_of_up hup, rfl, epochEnd_knobs s⟩
  case migration =>
    exact fun s p ups hup hc => ⟨_, exec_pageMigrationDone_of_trained hup hc, rfl,
      fun d hm hstate hst herr => finishMove_of_last hm hstate hst herr⟩
  case rebuild =>
    exact fun s p hst => ⟨_, exec_plcEntryRebuild_of_stalled hst, rfl, stalled_rebuildEntry s p,
      pptErr_rebuildEntry s p⟩

end Sys2Proof.Machine
end

section
/-! PROOFS. Regions, rights, quarantine and the DMA channels (R189 to R193, R202, R210, R468). An answer to a
mailbox reaches its mailbox, the event rings and the log; no DMA channel is among what it changes. -/

namespace Sys2Proof.Machine

/-! ## Events and answers leave the DMA channels -/

/-- Only mailboxes, rings, the log and event numbers, and what is driven outward, differ. -/
def ReportFrame (s t : State) : Prop := ∃ mbx rings log lost seq out,
  t = { s with hif := { s.hif with mbx := mbx, rings := rings, log := log, logLost := lost, seq := seq },
               out := out }

theorem ReportFrame.refl (s : State) : ReportFrame s s := ⟨_, _, _, _, _, _, rfl⟩

theorem ReportFrame.trans {s t u : State} (h : ReportFrame s t) (g : ReportFrame t u) :
    ReportFrame s u := by
  obtain ⟨_, _, _, _, _, _, rfl⟩ := h
  obtain ⟨_, _, _, _, _, _, rfl⟩ := g
  exact ⟨_, _, _, _, _, _, rfl⟩

theorem ReportFrame.ite {s t u : State} {c : Prop} [Decidable c] (h : ReportFrame s t)
    (g : ReportFrame s u) : ReportFrame s (if c then t else u) := by
  split
  · exact h
  · exact g

theorem ReportFrame.foldl {α : Type} {f : State → α → State} (h : ∀ s a, ReportFrame s (f s a)) :
    ∀ (l : List α) (s : State), ReportFrame s (l.foldl f s)
  | [], s => ReportFrame.refl s
  | a :: l, s => (h s a).trans (ReportFrame.foldl h l (f s a))

theorem ReportFrame.dmaOf {s t : State} (h : ReportFrame s t) (c : Nat) : dmaOf t c = dmaOf s c := by
  obtain ⟨_, _, _, _, _, _, rfl⟩ := h
  rfl

theorem emitOut_report (s : State) (o : Out) : ReportFrame s (emitOut s o) := ⟨_, _, _, _, _, _, rfl⟩

theorem setRing_report (s : State) (fn : Nat) (r : Ring) : ReportFrame s (setRing s fn r) :=
  ⟨_, _, _, _, _, _, rfl⟩

theorem modMbx_report (s : State) (fn m : Nat) (f : Mbx → Mbx) : ReportFrame s (modMbx s fn m f) :=
  ⟨_, _, _, _, _, _, rfl⟩

theorem logPut_report (s : State) (e : Ev) : ReportFrame s (logPut s e) := ⟨_, _, _, _, _, _, rfl⟩

theorem nextSeq_report (s : State) :
    ReportFrame s { s with hif := { s.hif with seq := s.hif.seq + 1 } } := ⟨_, _, _, _, _, _, rfl⟩

theorem ringSignal_report (s : State) (fn : Nat) : ReportFrame s (ringSignal s fn) :=
  (emitOut_report s _).ite ((setRing_report s fn _).ite
    ((emitOut_report s _).trans (setRing_report _ fn _)))

theorem ringPut_report (s : State) (fn : Nat) (e : Ev) : ReportFrame s (ringPut s fn e) :=
  (ReportFrame.refl s).ite ((setRing_report s fn _).ite ((ReportFrame.foldl (fun s _ =>
    (emitOut_report s _).trans (setRing_report _ fn _)) _ s).trans (ringSignal_report _ fn)))

theorem ringOverflow_report (s : State) (fn : Nat) : ReportFrame s (ringOverflow s fn) :=
  ((((nextSeq_report s).trans (logPut_report _ _)).trans (setRing_report _ fn _)).trans
    (ringPut_report _ fn _)).ite (ReportFrame.refl s)

theorem emitTo_report (s : State) (fns : List Nat) (code job : Nat) (fs : List (Nat × Nat)) :
    ReportFrame s (emitTo s fns code job fs) :=
  ((nextSeq_report s).trans (logPut_report _ _)).trans (ReportFrame.foldl (fun s fn =>
    (ringOverflow_report s fn).trans (ringPut_report _ fn _)) fns _)

theorem respond_report (s : State) (h : Hdr) (op : Nat) (st : St) (pl : List Byte) :
    ReportFrame s (respond s h op st pl) :=
  ((modMbx_report s _ _ _).trans (emitTo_report _ _ _ _ _)).ite
    (((modMbx_report s _ _ _).trans (emitTo_report _ _ _ _ _)).ite
      ((modMbx_report s _ _ _).trans (emitOut_report _ _)))

/-! ## Regions, rights and quarantine -/

section
variable {s : State} {h : Hdr}

/-- With no image held the frames are packed below the new bound (log 37). -/
theorem exec_cmdMemRegions_of_empty {r : Regions} (hg : granted s h 0x0506 = true)
    (himg : ∀ j, j < 8 → (jobOf s j).image = none) (hr : regionsOk r = true) (hlp : lp5xBad s = false)
    (hsum : regionsSum r + (usedFrames s).length ≤ 122880) :
    exec (.cmdMemRegions h r) s =
      .next (answer (updatePasr (packFrames { s with mem := { s.mem with regions := r } })) h 0x0506
        (leBytes 4 (backingFrames
          (updatePasr (packFrames { s with mem := { s.mem with regions := r } }))))) := by
  have hany : (List.range 8).any (fun j => (jobOf s j).image.isSome) = false := by
    simpa using fun j hj => himg j hj
  rw [exec_of_granted rfl rfl hg]
  exact congrArg _ ((if_neg (by simp [hany])).trans ((ite_not_of_true hr).trans
    ((if_neg (by simp [hlp])).trans (if_neg (Nat.not_lt.2 hsum)))))

/-- The operand of CMD_MEM_RIGHTS is the master's whole row (log 46). -/
theorem exec_cmdMemRights_of_ok {m : Nat} {w : BitVec 16} (hg : granted s h 0x0507 = true)
    (hm : m < 19) (hok : rightsOk s m w = true) : ∃ hif out, exec (.cmdMemRights h m w) s =
      .next { s with mem := { s.mem with rights := listMod s.mem.rights m (fun _ => w) },
                     hif := hif, out := out } := by
  obtain ⟨hif, out, hreport⟩ := (emitDev_frame
    (modMemBlk s fun x => { x with rights := listMod x.rights m (fun _ => w) }) 0x0603 []).trans
    (answer_frame _ h 0x0507 [])
  refine ⟨hif, out, ?_⟩
  rw [exec_of_granted rfl rfl hg]
  exact congrArg _ ((if_neg (by simp [hok, hm])).trans hreport)

theorem exec_cmdMemQuarantineRemove_of_page {p : Nat} (hg : granted s h 0x0509 = true)
    (hp : p < 131072) : exec (.cmdMemQuarantineRemove h p) s = .next (answer (removeQuar s p) h 0x0509
      (((s.mem.quar.filter (fun q => linePage q.line == p)).take 10).flatMap quarBytes)) := by
  rw [exec_of_granted rfl rfl hg]
  exact congrArg _ (if_neg (Nat.not_le.2 hp))

/-- An idle channel keeps its registers and takes a function (log 38). -/
theorem exec_cmdMemDmaAssign_of_idle {c fn : Nat} (hg : granted s h 0x0508 = true) (hc : c < 8)
    (hfn : fn < 9) (hidle : dmaActive (dmaOf s c) = false) : exec (.cmdMemDmaAssign h c fn) s =
      .next (answer (modDma s c fun d => { d with fn := some fn }) h 0x0508 []) := by
  rw [exec_of_granted rfl rfl hg]
  exact congrArg _ ((if_neg (by omega)).trans (if_neg (by simp [hidle])))

end

theorem listAt_listMod {α : Type} (l : List α) (d v : α) (m k : Nat) (hm : m < l.length) :
    listAt (listMod l m fun _ => v) d k = if k = m then v else listAt l d k := by
  simp only [listAt, listMod, List.getD_eq_getElem?_getD, List.getElem?_modify]
  split
  next h => simp [← h, hm]
  next h => simp [Ne.symm h]

/-- What is left of the list once a page's lines have gone (R210). -/
theorem mem_quar_removeQuar {s : State} {p : Nat} {q : QEntry} :
    q ∈ (removeQuar s p).mem.quar ↔ q ∈ s.mem.quar ∧ linePage q.line ≠ p := by
  show q ∈ s.mem.quar.filter (fun q => linePage q.line != p) ↔ _
  simp

/-! ## DMA channels -/

/-- A descriptor that an active channel takes is carried out (R193). -/
theorem exec_dmaDescriptor_of_active {s : State} {fn c : Nat} {desc data : List Byte}
    {ups : List Upset} (hc : c < 8) (hfn : (dmaOf (upsets s ups) c).fn = some fn)
    (hact : dmaActive (dmaOf (upsets s ups) c) = true)
    (hstop : (dmaOf (upsets s ups) c).stopped = false) (hcur : (dmaOf (upsets s ups) c).cur = none)
    (hup : memUp (upsets s ups) = true) (hw : dmaWaits (upsets s ups) (descOf desc data) = false) :
    exec (.dmaDescriptor c desc data ups) s =
      .next (modDma (dmaMove (upsets s ups) fn (descOf desc data)).2 c fun x =>
        { x with cur := some ((dmaMove (upsets s ups) fn (descOf desc data)).1,
                              (descOf desc data).irq) }) := by
  refine (atUnit_of_lt hc).trans (congrArg Host.Outcome.next ?_)
  simp only [dmaDescriptor, hfn, hact, hstop, hcur, hup, hw]
  rfl

/-- A descriptor whose length Table 6-7 allows moves its bytes by the accesses of its function. -/
theorem dmaMove_of_length {s : State} {fn : Nat} {d : DmaDesc} (hpos : 1 ≤ d.len)
    (hlen : d.len ≤ 16777216) : dmaMove s fn d = if d.toHost
      then (dmaStatus (masterRead s fn d.addr d.len).1, emitOut (masterRead s fn d.addr d.len).2.2
        (.dma fn d.host.toNat (masterRead s fn d.addr d.len).2.1))
      else (dmaStatus (masterWrite s fn true d.addr (d.data.take d.len)).1,
        (masterWrite s fn true d.addr (d.data.take d.len)).2) :=
  if_neg (by omega)

/-- The channel once the descriptor that it worked on has ended with a status. -/
def descDone (st : Nat) (d : DmaChan) : DmaChan :=
  if st = 0 then { d with cur := none, next := (d.next + 1) % 2 ^ d.log2 }
  else { d with cur := none, stopped := true }

/-- The status goes to the descriptor, then the message that it asked for (R193, R468). -/
theorem exec_dmaDescriptorComplete_of_taken {s : State} {fn c st : Nat} {irq : Bool} (hc : c < 8)
    (hfn : (dmaOf s c).fn = some fn) (hcur : (dmaOf s c).cur = some (st, irq)) :
    exec (.dmaDescriptorComplete c) s = .next (modDma { s with
      out := (if irq then [.msix fn (2 + c)] else []) ++
        .dma fn (descAddr (dmaOf s c) + 0x18) (leBytes 8 (st + 2 ^ 16)) :: s.out } c
      (descDone st)) := by
  refine (atUnit_of_lt hc).trans (congrArg Host.Outcome.next ?_)
  simp only [dmaComplete, hfn, hcur]
  cases irq <;> rfl

/-- Settles O27, row by row. That CMD_MEM_REGIONS packs the frames (log 37), that an assignment keeps the
channel's registers (log 38) and that CMD_MEM_RIGHTS gives a whole row (log 46) are the model's choice. -/
theorem memoryControlRowsAct : Obligations.MemoryControlRowsAct := by
  unfold Obligations.MemoryControlRowsAct
  refine ⟨?regions, ?rights, ?remove, ?removed, ?assign, ?doorbell, ?descriptor, ?complete, ?restart⟩
  case regions => exact fun _ _ _ => exec_cmdMemRegions_of_empty
  case rights =>
    intro s h m w hg hm hok hlen
    obtain ⟨hif, out, hexec⟩ := exec_cmdMemRights_of_ok hg hm hok
    have hrow := listAt_listMod s.mem.rights 0 w m
    refine ⟨_, hexec, ?_, fun k hk => ?_, rfl, rfl⟩
    · rw [hrow m (by omega), if_pos rfl]
    · rw [hrow k (by omega), if_neg hk]
  case remove => exact fun _ _ _ => exec_cmdMemQuarantineRemove_of_page
  case removed => exact fun _ _ _ => mem_quar_removeQuar.1
  case assign =>
    intro s h c fn hg hc hfn hidle
    have hreport := respond_report (modDma s c fun d => { d with fn := some fn }) h 0x0508 .ok []
    obtain ⟨hif, out, hans⟩ := answer_frame (modDma s c fun d => { d with fn := some fn }) h 0x0508 []
    refine ⟨_, exec_cmdMemDmaAssign_of_idle hg hc hfn hidle,
      (hreport.dmaOf c).trans (dmaOf_modDma_same _ _ _),
      fun k hk => (hreport.dmaOf k).trans (dmaOf_modDma_other _ _ _ _ hk), ?_⟩
    rw [hans]
    rfl
  case doorbell =>
    exact fun s fn c v hfn hc hlink hown => ⟨_, atUnit_of_true (by simp [hfn, hc]),
      (dmaOf_modDma_same _ _ _).trans (if_pos ⟨hlink, hown⟩), rfl⟩
  case descriptor =>
    exact fun s fn c desc data ups hc hfn hact hstop hcur hup hw =>
      ⟨exec_dmaDescriptor_of_active hc hfn hact hstop hcur hup hw, dmaMove_of_length⟩
  case complete =>
    exact fun s fn c st irq hc hfn hcur =>
      ⟨_, exec_dmaDescriptorComplete_of_taken hc hfn hcur, dmaOf_modDma_same _ _ _, rfl, rfl⟩
  case restart =>
    exact fun s fn c hfn hc hlink hown hstop => ⟨_, atUnit_of_true (by simp [hfn, hc]),
      (dmaOf_modDma_same _ _ _).trans (if_pos ⟨hlink, hown, hstop⟩), rfl⟩

end Sys2Proof.Machine
end

section
/-! PROOFS. Diagnosis of a far line (R212, R240, R241): what a diagnostic write gives is kept as differences
from the line's encoding, and a diagnostic read finds it again in the line's slot of its row. -/

namespace Sys2Proof.Machine

/-! ## The 136 stored bytes of a far line (R196, R240) -/

theorem length_leBytes (n v : Nat) : (leBytes n v).length = n := by
  simp [leBytes_eq_map]

/-- 128 bytes of ciphertext, 4 of tag, 4 check symbols. -/
theorem length_encodedBytes (l : Nat) (f : FarLine) : (encodedBytes l f).length = 136 := by
  simp only [encodedBytes, List.length_append, length_leBytes, rsCheck, List.length_cons, List.length_nil]

theorem length_xorErrs : ∀ (errs : List (Nat × Byte)) (bs : List Byte),
    (xorErrs bs errs).length = bs.length
  | [], _ => rfl
  | _ :: errs, _ => (length_xorErrs errs _).trans (List.length_modify _ _ _)

theorem length_storedBytes (s : State) (l : Nat) (key : Option Nat) :
    (storedBytes s l key).length = 136 :=
  (length_xorErrs _ _).trans (length_encodedBytes _ _)

theorem listMod_append_cons {α : Type} (f : α → α) (b : α) (bs : List α) :
    ∀ p : List α, listMod (p ++ b :: bs) p.length f = p ++ f b :: bs
  | [] => rfl
  | a :: p => congrArg (a :: ·) (listMod_append_cons f b bs p)

theorem xorErrs_append_diffErrs : ∀ (p as bs : List Byte), as.length = bs.length →
    xorErrs (p ++ bs) (diffErrs p.length as bs) = p ++ as
  | _, [], [], _ => rfl
  | p, a :: as, b :: bs, hlen => by
    have hrest : xorErrs (p ++ a :: bs) (diffErrs (p.length + 1) as bs) = p ++ a :: as := by
      simpa using xorErrs_append_diffErrs (p ++ [a]) as bs (Nat.succ.inj hlen)
    rw [diffErrs]
    split
    next hab => rw [← hab, hrest]
    next =>
      have hxor : b ^^^ (a ^^^ b) = a := by
        rw [BitVec.xor_comm, BitVec.xor_assoc, BitVec.xor_self, BitVec.xor_zero]
      rw [xorErrs, List.foldl_cons, listMod_append_cons, hxor]
      exact hrest

/-- The differences that a diagnostic write keeps turn the encoding into the bytes written. -/
theorem xorErrs_diffErrs {as bs : List Byte} (hlen : as.length = bs.length) :
    xorErrs bs (diffErrs 0 as bs) = as := xorErrs_append_diffErrs [] as bs hlen

/-! ## A line in the image of its row (R212) -/

/-- The k-th of chunks of equal size that stand one after another. -/
theorem take_drop_flatMap {α β : Type} {f : α → List β} {n : Nat} (hf : ∀ a, (f a).length = n)
    (rest : List β) : ∀ (as : List α) (k : Nat) (hk : k < as.length),
      ((as.flatMap f ++ rest).drop (n * k)).take n = f as[k]
  | a :: as, 0, _ => by simp [← hf a]
  | a :: as, k + 1, hk => by
    have hskip : n * (k + 1) = (f a).length + n * k := by rw [hf, Nat.mul_succ, Nat.add_comm]
    rw [List.flatMap_cons, List.append_assoc, hskip, ← List.drop_drop, List.drop_left]
    exact take_drop_flatMap hf rest as k (Nat.lt_of_succ_lt_succ hk)

theorem length_rowData (s : State) (l : Nat) (key : Nat → Option Nat) :
    ((linesOfRow l).flatMap fun m => (storedBytes s m (key m)).take 128).length = 1920 := by
  simp [linesOfRow, length_storedBytes, Function.comp_def]

/-- Slot k of a row holds the bytes of its k-th line: data in place, metadata behind the row's data. -/
theorem slotBytes_rowImage (s : State) (l k : Nat) (key : Nat → Option Nat)
    (hk : k < (linesOfRow l).length) :
    slotBytes (rowImage s l key) k = storedBytes s (linesOfRow l)[k] (key (linesOfRow l)[k]) := by
  have hdata := take_drop_flatMap (n := 128) (f := fun m => (storedBytes s m (key m)).take 128)
    (by simp [length_storedBytes])
    (((linesOfRow l).flatMap fun m => (storedBytes s m (key m)).drop 128) ++ List.replicate 8 0) _ k hk
  have hmeta := take_drop_flatMap (n := 8) (f := fun m => (storedBytes s m (key m)).drop 128)
    (by simp [length_storedBytes]) (List.replicate 8 0) _ k hk
  have hskip : 1920 + 8 * k =
      ((linesOfRow l).flatMap fun m => (storedBytes s m (key m)).take 128).length + 8 * k := by
    rw [length_rowData]
  simp only [slotBytes, rowImage, List.flatMap_map, List.append_assoc]
  rw [hdata, hskip, ← List.drop_drop, List.drop_left, hmeta, List.take_append_drop]

theorem lineSlot_lt (l : Nat) : lineSlot l < (linesOfRow l).length := by
  simp only [linesOfRow, List.length_map, List.length_range]
  exact Nat.mod_lt _ (by decide)

theorem linesOfRow_lineSlot (l : Nat) : (linesOfRow l)[lineSlot l]'(lineSlot_lt l) = l := by
  simp only [linesOfRow, List.getElem_map, List.getElem_range, lineRow, lineBank, lineSlot, lineChannel]
  omega

/-- The read of a line's slot gives the line's bytes as they are stored (R240). -/
theorem slotBytes_of_line (s : State) (l : Nat) (key : Nat → Option Nat) :
    slotBytes (rowImage s l key) (lineSlot l) = storedBytes s l (key l) := by
  rw [slotBytes_rowImage s l _ key (lineSlot_lt l), linesOfRow_lineSlot]

/-! ## Diagnosis of a far line (R240, R241) -/

/-- The bytes that a diagnostic write gives: ciphertext, tag, check symbols. -/
def givenBytes (cipher : Line) (tag check : BitVec 32) : List Byte :=
  leBytes 128 cipher.toNat ++ leBytes 4 tag.toNat ++ leBytes 4 check.toNat

theorem length_givenBytes (cipher : Line) (tag check : BitVec 32) :
    (givenBytes cipher tag check).length = 136 := by
  simp only [givenBytes, List.length_append, length_leBytes]

/-- The line as a diagnostic write leaves it: the text it was encoded from, and the bytes in which what is
given differs from that encoding. -/
def diagLine (s : State) (l : Nat) (given : List Byte) : FarLine :=
  { farLineOf s l (diagKey s l) with
    errs := diffErrs 0 given (encodedBytes l (farLineOf s l (diagKey s l))) }

theorem encodedBytes_diagLine (s : State) (l : Nat) (given : List Byte) :
    encodedBytes l (diagLine s l given) = encodedBytes l (farLineOf s l (diagKey s l)) := by
  simp only [encodedBytes, diagLine]

/-- Whatever the line held, it then stores the bytes given. -/
theorem storedBytes_diagLine (s : State) (l : Nat) {given : List Byte} (key : Option Nat)
    (hlen : given.length = 136) : storedBytes (setFar s l (diagLine s l given)) l key = given := by
  have hline : farLineOf (setFar s l (diagLine s l given)) l key = diagLine s l given := by
    rw [farLineOf, farAt_setFar_same]
    rfl
  rw [storedBytes, hline, encodedBytes_diagLine]
  exact xorErrs_diffErrs (hlen.trans (length_encodedBytes _ _).symm)

section
variable {s : State} {h : Hdr} {addr : Nat} (hg : granted s h 0x050D = true)
include hg

theorem exec_cmdMemEccDiagWriteFar_of_ok (hd : diagFarCheck s addr = none) (hlp : lp5xBad s = false)
    (cipher : Line) (tag check : BitVec 32) : exec (.cmdMemEccDiagWriteFar h addr cipher tag check) s =
      .next (answer (setFar s (addr / 128) (diagLine s (addr / 128) (givenBytes cipher tag check)))
        h 0x050D []) := by
  rw [exec_of_granted rfl rfl hg]
  simp only [hd, hlp]
  rfl

theorem exec_cmdMemEccDiagReadFar_of_written (hd : diagFarCheck s addr = none)
    (hlp : lp5xBad s = false) (hw : (mapGet s.mem.far none (addr / 128)).isSome = true) :
    exec (.cmdMemEccDiagReadFar h addr) s =
      .next (answer s h 0x050D (storedBytes s (addr / 128) (diagKey s (addr / 128)))) := by
  have hheld : ¬ ((mapGet s.mem.far none (addr / 128)).isNone &&
      (pageOfFrame s (addr / 128 / 8192)).isNone) = true := by simp [Option.isNone_eq_false_iff.2 hw]
  rw [exec_of_granted rfl rfl hg, hd]
  simp only [hlp, Bool.false_eq_true, if_false]
  rw [if_neg hheld, slotBytes_of_line]

end

/-- Settles O33: the read finds the bytes that the stored differences make of the line's encoding. -/
theorem diagnosticWriteReadsBack : Obligations.DiagnosticWriteReadsBack := by
  unfold Obligations.DiagnosticWriteReadsBack
  intro s t h h' addr cipher tag check hg hd hlp hwrite hg'
  have hexec := exec_cmdMemEccDiagWriteFar_of_ok hg hd hlp cipher tag check
  obtain ⟨hif, out, hans⟩ := answer_frame
    (setFar s (addr / 128) (diagLine s (addr / 128) (givenBytes cipher tag check))) h 0x050D []
  have ht := Host.Outcome.next.inj (hwrite.symm.trans (hexec.trans (congrArg _ hans)))
  have hw : (mapGet t.mem.far none (addr / 128)).isSome = true := by
    rw [ht]
    exact congrArg Option.isSome (farAt_setFar_same _ _ _)
  have hdt : diagFarCheck t addr = none := by rw [ht]; exact hd
  have hlpt : lp5xBad t = false := by rw [ht]; exact hlp
  have hbytes : storedBytes t (addr / 128) (diagKey t (addr / 128)) = givenBytes cipher tag check := by
    rw [ht]
    exact storedBytes_diagLine s (addr / 128) _ (length_givenBytes _ _ _)
  rw [exec_cmdMemEccDiagReadFar_of_written hg' hdt hlpt hw, hbytes]
  rfl

end Sys2Proof.Machine
end

section
/-! PROOFS. Scrub, diagnosis of on-chip words, repair requests and retention (R226 to R242): each row on the
states where its checks pass. -/

namespace Sys2Proof.Machine

/-! ## Scrub (R236 to R239) -/

/-- A scrub as its command starts it; share 0 asks for 5 % (log 144). -/
def newScrub (s : State) (h : Hdr) (first bytes share : Nat) : Scrub :=
  { hdr := h, share := if share = 0 then 5 else share, next := first / 128,
    stop := (first + bytes) / 128, started := s.nowUs }

section
variable {s : State} {h : Hdr} (hg : granted s h 0x050B = true)
include hg

theorem exec_cmdMemScrub_of_idle {first bytes share : Nat} {b : Bulk} (hfirst : first % 128 = 0)
    (hwhole : bytes % 128 = 0) (hpos : bytes ≠ 0) (hend : (first + bytes) / 128 ≤ farLines)
    (hshare : share ≤ 50) (hb : bulkReady s b = true) (hidle : s.lp.scrub = none)
    (hlp : lp5xBad s = false) : exec (.cmdMemScrub h first bytes share b) s = .next (respond (enlist
      { s with lp := { s.lp with scrub := some (newScrub s h first bytes share) } } h 0x050B [])
      h 0x050B .accepted []) := by
  obtain ⟨hbulk, hroom⟩ := bulkReady_iff.1 hb
  have hrange : ¬ (first % 128 ≠ 0 ∨ bytes % 128 ≠ 0 ∨ bytes = 0 ∨
      farLines < (first + bytes) / 128 ∨ 50 < share) := by omega
  rw [exec_of_granted rfl rfl hg, if_neg hrange, hbulk]
  exact congrArg _ ((if_neg (by simp [hidle])).trans ((if_neg (by simp [hlp])).trans
    (accept_eq hroom)))

theorem exec_cmdMemScrubAbort_of_running {c : Scrub} (hc : s.lp.scrub = some c) :
    exec (.cmdMemScrubAbort h) s = .next (endScrub (answer s h 0x050B []) 0x0002) := by
  rw [exec_of_granted rfl rfl hg]
  exact congrArg _ (if_neg (by simp [hc]))

end

/-- The line next in turn, checked where a page or firmware uses its frame and skipped elsewhere. -/
def scrubNext (s : State) (c : Scrub) : Scrub × State :=
  if (pageOfFrame s (c.next / 8192)).isSome || decide (backingFrames s ≤ c.next / 8192)
    then scrubOne s c c.next else ({ c with skipped := c.skipped + 1 }, s)

/-- The scrub moves on from its line, and ends after its last. -/
def scrubPast (next stop : Nat) (r : Scrub × State) : State :=
  let v := { r.2 with lp := { r.2.lp with scrub := some { r.1 with next := next + 1 } } }
  if stop ≤ next + 1 then endScrub v 0 else v

/-- A line, checked or not, leaves the end of its scrub where it was. -/
theorem scrubNext_stop (s : State) (c : Scrub) : (scrubNext s c).1.stop = c.stop := by
  have hone : (scrubOne s c c.next).1.stop = c.stop := by
    simp only [scrubOne]
    split
    · split <;> rfl
    · rw [apply_ite Prod.fst, apply_ite Scrub.stop]
      exact ite_self _
  rw [scrubNext]
  split
  · exact hone
  · rfl

theorem scrubLine_of_running {s : State} {ups : List Upset} {c : Scrub}
    (hc : (upsets s ups).lp.scrub = some c) :
    scrubLine s ups = scrubPast c.next c.stop (scrubNext (upsets s ups) c) := by
  have hstep : scrubLine s ups =
      scrubPast c.next (scrubNext (upsets s ups) c).1.stop (scrubNext (upsets s ups) c) := by
    simp only [scrubLine, hc]
    rfl
  rw [hstep, scrubNext_stop]

theorem endScrub_lp {s : State} {c : Scrub} {st : Nat} (hc : s.lp.scrub = some c) :
    (endScrub s st).lp = { s.lp with scrub := none } := by
  simp only [endScrub, hc]
  exact ((dropAccOf_frame _ _ _).trans (complete_frame _ _ _ _ _ _)).lp

/-! ## On-chip words (Table 7-8) -/

theorem diagChipOk_of_word {s : State} {k addr : Nat} (hk : k = 2 ∨ k = 4) (ha : addr < 16) :
    diagChipOk s k addr = true := by
  rcases hk with rfl | rfl <;> exact decide_eq_true ha

/-- A word of target 4 has 48 data bits under 7 check bits, one of target 2 has 64 under 8. -/
def diagWord (k : Nat) (d : BitVec 64) (c : BitVec 8) : BitVec 72 :=
  if k = 4 then BitVec.setWidth 72 (c.setWidth 7 ++ d.setWidth 48) else c ++ d

section
variable {s : State} {h : Hdr} (hg : granted s h 0x050D = true) {addr : Nat} (d : BitVec 64)
  (c : BitVec 8)
include hg

theorem exec_cmdMemEccDiagWriteChip_near (hok : diagChipOk s 1 addr = true) :
    exec (.cmdMemEccDiagWriteChip h 1 addr d c) s =
      .next (answer (putNear s addr (c ++ d)) h 0x050D []) := by
  rw [exec_of_granted rfl rfl hg]
  exact congrArg _ (ite_not_of_true hok)

theorem exec_cmdMemEccDiagWriteChip_tile (hok : diagChipOk s 3 addr = true) :
    exec (.cmdMemEccDiagWriteChip h 3 addr d c) s = .next (answer (modTile s (addr / 163840) fun t =>
      { t with store := mapPut t.store 0 (addr % 163840) (c.setWidth 7 ++ d.setWidth 32) })
      h 0x050D []) := by
  rw [exec_of_granted rfl rfl hg]
  exact congrArg _ (ite_not_of_true hok)

theorem exec_cmdMemEccDiagWriteChip_word {k : Nat} (hk : k = 2 ∨ k = 4) (ha : addr < 16) :
    exec (.cmdMemEccDiagWriteChip h k addr d c) s = .next (answer
      { s with lp := { s.lp with diag := mapPut s.lp.diag 0 (k * 16 + addr) (diagWord k d c) } }
      h 0x050D []) := by
  rw [exec_of_granted rfl rfl hg]
  refine congrArg _ ((ite_not_of_true (diagChipOk_of_word hk ha)).trans ?_)
  rcases hk with rfl | rfl <;> rfl

end

/-! ## Repair requests and retention (R226, R231, R232) -/

theorem exec_cmdMemRepairRequest_of_room {s : State} {h : Hdr} {addr : Nat}
    (hg : granted s h 0x050C = true) (ha : addr / 128 < farLines) (hlp : lp5xBad s = false)
    (hroom : s.hif.accepted.length < 16) : exec (.cmdMemRepairRequest h addr) s =
      .next (respond (enlist (noteUncorrectable s (addr / 128)) h 0x050C [addr / 128])
        h 0x050C .accepted []) := by
  rw [exec_of_granted rfl rfl hg]
  exact congrArg _ ((if_neg (Nat.not_le.2 ha)).trans ((if_neg (by simp [hlp])).trans
    (accept_eq hroom)))

theorem rowOfLine_mem_noteUncorrectable (s : State) (l : Nat) :
    rowOfLine l ∈ (noteUncorrectable s l).lp.candidates := by
  show rowOfLine l ∈ if s.lp.candidates.contains (rowOfLine l) then s.lp.candidates
    else s.lp.candidates ++ [rowOfLine l]
  split
  next hin => simpa using hin
  next => simp

/-- The jobs whose pages are retained, with one of them set or cleared. -/
def retainWith (r : Bool) (j : Nat) (x : BitVec 8) : BitVec 8 :=
  if r then x ||| BitVec.ofNat 8 (2 ^ j) else x &&& ~~~BitVec.ofNat 8 (2 ^ j)

theorem getLsbD_retainWith {j : Nat} (hj : j < 8) (r : Bool) (x : BitVec 8) (k : Nat) :
    (retainWith r j x).getLsbD k = if k = j then r else x.getLsbD k := by
  have hbit : (BitVec.ofNat 8 (2 ^ j)).getLsbD k = decide (k = j) := by
    rw [BitVec.getLsbD_ofNat, Nat.testBit_two_pow]
    by_cases hk : k = j
    · simp [hk, hj]
    · simp [hk, Ne.symm hk]
  cases r with
  | true =>
    rw [retainWith, if_pos rfl, BitVec.getLsbD_or, hbit]
    by_cases hk : k = j <;> simp [hk]
  | false =>
    rw [retainWith, if_neg Bool.false_ne_true, BitVec.getLsbD_and, BitVec.getLsbD_not, hbit]
    by_cases hk : k = j
    · simp [hk]
    · by_cases h8 : k < 8
      · simp [hk, h8]
      · simp [hk, h8, BitVec.getLsbD_of_ge x k (Nat.not_lt.1 h8)]

theorem exec_cmdMemRetain_of_granted {s : State} {h : Hdr} {r : Bool}
    (hg : granted s h 0x050E = true) : exec (.cmdMemRetain h r) s = .next (answer (updatePasr
      { s with lp := { s.lp with retainJobs := retainWith r (namedJob h) s.lp.retainJobs } })
      h 0x050E []) := by
  rw [exec_of_granted rfl rfl hg]
  rfl

/-- Settles O32, row by row. That a scrub of share 0 runs at 5 % is the model's choice (log 144). -/
theorem memoryServiceRowsAct : Obligations.MemoryServiceRowsAct := by
  unfold Obligations.MemoryServiceRowsAct
  refine ⟨?scrub, ?abort, ?line, ?ended, ?writeFar, ?readFar, ?near, ?tile, ?word, ?repair, ?candidate,
    ?retain⟩
  case scrub => exact fun _ _ _ _ _ _ hg => exec_cmdMemScrub_of_idle hg
  case abort => exact fun _ _ _ hg => exec_cmdMemScrubAbort_of_running hg
  case line => exact fun _ _ _ hc => congrArg _ (scrubLine_of_running hc)
  case ended => exact fun _ _ _ => endScrub_lp
  case writeFar =>
    intro s h addr cipher tag check hg hd hlp
    obtain ⟨hif, out, hans⟩ := answer_frame
      (setFar s (addr / 128) (diagLine s (addr / 128) (givenBytes cipher tag check))) h 0x050D []
    refine ⟨_, exec_cmdMemEccDiagWriteFar_of_ok hg hd hlp cipher tag check, fun l hl => ?_, ?_⟩
    · rw [hans]
      exact farAt_setFar_other _ _ hl
    · rw [hans]
      exact ⟨rfl, rfl⟩
  case readFar => exact fun _ _ _ hg => exec_cmdMemEccDiagReadFar_of_written hg
  case near =>
    intro s h addr d c hg hok
    obtain ⟨hif, out, hans⟩ := answer_frame (putNear s addr (c ++ d)) h 0x050D []
    refine ⟨_, exec_cmdMemEccDiagWriteChip_near hg d c hok, ?_⟩
    rw [hans]
    exact ⟨mapGet_mapPut_same _ _ _ _, fun k hk => mapGet_mapPut_other _ _ _ _ _ hk, rfl, rfl⟩
  case tile => exact fun _ _ _ d c hg => exec_cmdMemEccDiagWriteChip_tile hg d c
  case word => exact fun _ _ _ _ d c hg => exec_cmdMemEccDiagWriteChip_word hg d c
  case repair => exact fun _ _ _ => exec_cmdMemRepairRequest_of_room
  case candidate => exact rowOfLine_mem_noteUncorrectable
  case retain =>
    intro s h r hg hj
    obtain ⟨hif, out, hans⟩ := answer_frame (updatePasr
      { s with lp := { s.lp with retainJobs := retainWith r (namedJob h) s.lp.retainJobs } })
      h 0x050E []
    refine ⟨_, exec_cmdMemRetain_of_granted hg, ?_⟩
    rw [hans]
    exact ⟨getLsbD_retainWith hj r _, rfl, rfl⟩

end Sys2Proof.Machine
end

section
/-! PROOFS. Hods (R243 to R264, R279, R371): what each operation on a hod leaves in it, and the way of one
word through a hod between two host functions. -/

namespace Sys2Proof.Machine

/-! ## Watermarks and credits leave every hod as it is -/

theorem hodOf_congr {s t : State} (h : t.pal.hods = s.pal.hods) (k : Nat) : hodOf t k = hodOf s k := by
  simp only [hodOf, h]

theorem hodOf_setHod_other (s : State) (v : Hod) {j k : Nat} (h : k ≠ j) :
    hodOf (setHod s j v) k = hodOf s k := mapGet_mapPut_other _ _ _ _ _ h

theorem hodOf_emitOut (s : State) (o : Out) (k : Nat) : hodOf (emitOut s o) k = hodOf s k := rfl

theorem onlyLarey.pal {s t : State} (h : onlyLarey s t) : t.pal = s.pal := by
  obtain ⟨_, _, _, _, _, _, _, rfl⟩ := onlyLarey_iff.1 h
  rfl

theorem grantCredits_of_local {s : State} {h : Nat} (hk : (hodOf s h).p.prodKind ≠ 4) :
    grantCredits s h = s := if_pos (by simp [hk])

theorem grantCredits_hods (s : State) (h : Nat) : (grantCredits s h).pal.hods = s.pal.hods := by
  simp only [grantCredits]
  split
  · rfl
  · split
    · rfl
    · rw [(routeSend_onlyLarey _ _ _ _ _).pal]
      rfl

/-- Only masons and what is driven outward differ. -/
def SignalFrame (s t : State) : Prop := ∃ msn out, t = { s with msn := msn, out := out }

theorem SignalFrame.refl (s : State) : SignalFrame s s := ⟨_, _, rfl⟩

theorem SignalFrame.trans {s t u : State} (h : SignalFrame s t) (g : SignalFrame t u) :
    SignalFrame s u := by
  obtain ⟨_, _, rfl⟩ := h
  obtain ⟨_, _, rfl⟩ := g
  exact ⟨_, _, rfl⟩

theorem SignalFrame.foldl {α : Type} {f : State → α → State} (h : ∀ s a, SignalFrame s (f s a)) :
    ∀ (l : List α) (s : State), SignalFrame s (l.foldl f s)
  | [], s => SignalFrame.refl s
  | a :: l, s => (h s a).trans (SignalFrame.foldl h l (f s a))

theorem SignalFrame.ite {s t : State} {c : Prop} [Decidable c] (h : SignalFrame s t) :
    SignalFrame s (if c then t else s) := by
  split
  · exact h
  · exact SignalFrame.refl s

theorem wmSend_frame (s : State) (h kind ep job msix : Nat) :
    SignalFrame s (wmSend s h kind ep job msix) := by
  simp only [wmSend]
  split
  · exact ⟨_, _, rfl⟩
  · exact (SignalFrame.foldl (fun _ _ => ⟨_, _, rfl⟩) _ s).ite

theorem wmCheck_frame (s : State) (h before : Nat) :
    SignalFrame (grantCredits s h) (wmCheck s h before) :=
  ((wmSend_frame _ _ _ _ _ _).ite).trans (wmSend_frame _ _ _ _ _ _).ite

@[simp] theorem hodOf_wmCheck (s : State) (h before k : Nat) :
    hodOf (wmCheck s h before) k = hodOf s k := by
  obtain ⟨msn, out, hwm⟩ := wmCheck_frame s h before
  rw [hwm]
  exact hodOf_congr (grantCredits_hods s h) k

/-- Only a hod with a remote producer grants credits (R348). -/
theorem wmCheck_hif_of_local {s : State} {h : Nat} (before : Nat)
    (hk : (hodOf s h).p.prodKind ≠ 4) : (wmCheck s h before).hif = s.hif := by
  obtain ⟨msn, out, hwm⟩ := wmCheck_frame s h before
  rw [hwm, grantCredits_of_local hk]

/-! ## Items enter a hod -/

/-- A flush leaves the descriptor, the flags and the statistics (R252). -/
theorem hodOf_hodFlush_same (s : State) (h : Nat) : hodOf (hodFlush s h) h =
    { hodOf s h with items := [], part := [], openIt := [], ignoring := [], aside := none } :=
  (hodOf_wmCheck _ _ _ _).trans (hodOf_modHod_same _ _ _)

/-- The record of an item that has become complete (R267, R279). -/
def newItem (s : State) (a : Agent) (prio : Nat) (ws : List (BitVec 71)) : Item :=
  { prio := prio, words := ws, by_ := a, doneAt := s.sched, total := ws.length, order := s.pal.stored }

/-- A hod with one more item, its last. -/
def withItem (x : Hod) (it : Item) : Hod :=
  { x with items := x.items ++ [it],
           maxDepth := max x.maxDepth (hodDepth { x with items := x.items ++ [it] }) }

theorem withItem_items (x : Hod) (it : Item) : (withItem x it).items = x.items ++ [it] := rfl

theorem storeItem_eq (s : State) (h : Nat) (a : Agent) (prio : Nat) (ws : List (BitVec 71)) :
    storeItem s h a prio ws = wmCheck
      (modPalBlk (modHod s h fun x => withItem x (newItem s a prio ws)) fun p =>
        { p with stored := p.stored + 1 }) h (hodDepth (hodOf s h)) := rfl

theorem hodOf_storeItem_same (s : State) (h : Nat) (a : Agent) (prio : Nat) (ws : List (BitVec 71)) :
    hodOf (storeItem s h a prio ws) h = withItem (hodOf s h) (newItem s a prio ws) := by
  rw [storeItem_eq, hodOf_wmCheck]
  exact hodOf_modHod_same s h fun x => withItem x (newItem s a prio ws)

theorem storeItem_hif_of_local {s : State} {h : Nat} (a : Agent) (prio : Nat)
    (ws : List (BitVec 71)) (hk : (hodOf s h).p.prodKind ≠ 4) :
    (storeItem s h a prio ws).hif = s.hif := by
  rw [storeItem_eq, wmCheck_hif_of_local]
  · rfl
  · show (hodOf (modHod s h fun x => withItem x (newItem s a prio ws)) h).p.prodKind ≠ 4
    rw [hodOf_modHod_same]
    exact hk

/-- An item from outside a job that neither replays nor journals, nor stands at a cut, is stored at once
(R366, R371). -/
theorem outsideItem_of_live {s : State} {h : Nat} (a : Agent) (prio : Nat) (ws : List (BitVec 71))
    (hrep : (jobOf s (hodOf s h).job).replay = none)
    (hjour : (jobOf s (hodOf s h).job).journaling = false)
    (hcut : (jobOf s (hodOf s h).job).capturing ≠ some .cut) :
    outsideItem s h a prio ws =
      storeItem (modHod s h fun x => { x with arrivals := x.arrivals + 1 }) h a prio ws := by
  simp only [outsideItem, hrep, Option.isSome_none, Bool.false_eq_true, if_false,
    addRecord_of_noJournal hjour, if_neg hcut]

/-- The state in which the last word of a producer's item is about to be stored: the word counted, the
open item gone. -/
def wordTaken (s : State) (hod : Nat) (a : Agent) : State :=
  modHod (leafAdd s (leafJob (hodOf s hod).job 11) 1) hod fun x => dropOpen x a

theorem hodOf_wordTaken (s : State) (hod : Nat) (a : Agent) :
    hodOf (wordTaken s hod a) hod = dropOpen (hodOf s hod) a := hodOf_modHod_same _ _ _

theorem jobOf_wordTaken (s : State) (hod : Nat) (a : Agent) :
    jobOf (wordTaken s hod a) (hodOf (wordTaken s hod a) hod).job = jobOf s (hodOf s hod).job := by
  rw [hodOf_wordTaken]
  rfl

/-- A word pushed alone, where its producer has no open item and there is room for one, is an item of one
word (R248, R249). -/
theorem hodPushWord_only {s : State} {h : Nat} {a : Agent} (prio : Nat) (v : Word) (poison : Bool)
    (hig : (hodOf s h).ignoring = []) (hopen : (hodOf s h).openIt = [])
    (hroom : hodFull (hodOf s h) = false) :
    hodPushWord s h a true true prio v poison = (0, completeItem (wordTaken s h a) h a (prio % 8)
      [hodWordOf v (prio % 8) true true poison]) := by
  simp only [wordTaken, hodPushWord, hig, openOf, hopen, hroom, appendWord, List.contains_nil,
    List.find?_nil, Option.isSome_none, Bool.false_eq_true, if_false, if_true, List.nil_append]

/-! ## Words leave a hod -/

/-- The store keeps the 64 data bits of a word (Table 8-1). -/
theorem wordData_hodWordOf (d : Word) (prio : Nat) (start last poison : Bool) :
    wordData (hodWordOf d prio start last poison) = d := by
  apply BitVec.eq_of_toNat_eq
  have hd := d.isLt
  simp only [wordData, hodWordOf, BitVec.toNat_setWidth, BitVec.toNat_ofNat]
  omega

theorem contents_setPoison (s : State) (h : Nat) :
    (hodOf (setPoison s h) h).items = (hodOf s h).items ∧
      (hodOf (setPoison s h) h).part = (hodOf s h).part := by
  simp only [setPoison]
  split
  · exact ⟨rfl, rfl⟩
  · rw [hodOf_congr (congrArg Pal.hods (emitJob_pal _ _ _ _)), hodOf_setHod_same]
    exact ⟨rfl, rfl⟩

/-- A parity failure changes flags and counts (R256). -/
theorem contents_parityNote (s : State) (h : Nat) (w : BitVec 71) :
    (hodOf (parityNote s h w) h).items = (hodOf s h).items ∧
      (hodOf (parityNote s h w) h).part = (hodOf s h).part := by
  rw [parityNote]
  split
  · exact ⟨rfl, rfl⟩
  · have hset := contents_setPoison (modHod s h fun x => { x with poisons := x.poisons + 1 }) h
    rwa [hodOf_modHod_same] at hset

/-- The last word of a partly read item, where no other item is partly read. -/
theorem takePart_last {s : State} {h : Nat} {a : Agent} {it : Item} {w : BitVec 71}
    (hpart : (hodOf s h).part = [(a, it)]) (hw : it.words = [w]) :
    (takePart true s h a).1 = some (deliver it w) ∧
      (hodOf (takePart true s h a).2 h).items = (hodOf s h).items ∧
      (hodOf (takePart true s h a).2 h).part = [] := by
  have htake : takePart true s h a = (some (deliver it w), parityNote
      (setHod (leafAdd s (leafJob (hodOf s h).job 12) 1) h { hodOf s h with part := [] }) h w) := by
    simp [takePart, hpart, hw]
  obtain ⟨hitems, hpart'⟩ := contents_parityNote
    (setHod (leafAdd s (leafJob (hodOf s h).job 12) 1) h { hodOf s h with part := [] }) h w
  rw [hodOf_setHod_same] at hitems hpart'
  rw [htake]
  exact ⟨rfl, hitems, hpart'⟩

/-- A pop takes the only item of a hod, when that item is one word. -/
theorem hodPopWord_only {s : State} {h : Nat} {a : Agent} {it : Item} {w : BitVec 71}
    (hitems : (hodOf s h).items = [it]) (hpart : (hodOf s h).part = []) (hw : it.words = [w]) :
    (hodPopWord s h a).1 = some (deliver it w) ∧ (hodOf (hodPopWord s h a).2 h).items = [] ∧
      (hodOf (hodPopWord s h a).2 h).part = [] := by
  have hclaim : (hodOf (claimItem s h 0 a) h).items = [] ∧
      (hodOf (claimItem s h 0 a) h).part = [(a, it)] := by
    rw [claimItem, hodOf_modHod_same]
    simp [hitems, hpart]
  have hpop : hodPopWord s h a = ((takePart true (claimItem s h 0 a) h a).1,
      wmCheck (takePart true (claimItem s h 0 a) h a).2 h (hodDepth (hodOf s h))) := by
    simp [hodPopWord, hpart, hitems, bestItem]
  obtain ⟨hword, hleft, hparts⟩ := takePart_last hclaim.2 hw
  rw [hpop, hodOf_wmCheck]
  exact ⟨hword, hleft.trans hclaim.1, hparts⟩

/-! ## Host windows (R263, R264) -/

theorem atUnit_of_window {fn hod : Nat} {s : State} (hfn : fn ≤ 8) (hhod : hod < 32768) :
    atUnit (decide (fn ≤ 8) && decide (hod < 32768)) s = .next s :=
  atUnit_of_true (by simp [hfn, hhod])

theorem hostPush_of_producer {s : State} {fn hod : Nat} (start last : Bool) (v : Word)
    (hlink : s.hif.linkUp = true) (hp : isProducer s (hodOf s hod) (.host fn) = true) :
    hostPush s fn hod 8 start last v =
      modHod (hodPushWord s hod (.host fn) start last (hodOf s hod).pushPrio v false).2 hod fun x =>
        { x with lastResult :=
            (hodPushWord s hod (.host fn) start last (hodOf s hod).pushPrio v false).1 } :=
  if_neg (by simp [hlink, hp])

theorem exec_hodPop_of_consumer {s : State} {fn hod : Nat} {ups : List Upset} (hfn : fn ≤ 8)
    (hhod : hod < 32768) (hlink : (upsets s ups).hif.linkUp = true)
    (hc : isConsumer (upsets s ups) (hodOf (upsets s ups) hod) (.host fn) = true) :
    exec (.hodPop fn hod ups) s = .next (emitOut
      (modHod (hodPopWord (upsets s ups) hod (.host fn)).2 hod fun x =>
        { x with popTag := wordTag (hodPopWord (upsets s ups) hod (.host fn)).1 })
      (.cpl 0 (leBytes 8 (match (hodPopWord (upsets s ups) hod (.host fn)).1 with
        | some w => w.data.toNat
        | none => 0)))) := by
  have hpop : hostPop s fn hod ups = _ := (if_neg (by simp [hlink])).trans (if_neg (by simp [hc]))
  exact (atUnit_of_window hfn hhod).trans (congrArg _ hpop)

theorem exec_hodPop_of_word {s : State} {fn hod : Nat} {ups : List Upset} {w : PortWord}
    (hfn : fn ≤ 8) (hhod : hod < 32768) (hlink : (upsets s ups).hif.linkUp = true)
    (hc : isConsumer (upsets s ups) (hodOf (upsets s ups) hod) (.host fn) = true)
    (hw : (hodPopWord (upsets s ups) hod (.host fn)).1 = some w) :
    exec (.hodPop fn hod ups) s = .next (emitOut
      (modHod (hodPopWord (upsets s ups) hod (.host fn)).2 hod fun x =>
        { x with popTag := wordTag (some w) }) (.cpl 0 (leBytes 8 w.data.toNat))) := by
  rw [exec_hodPop_of_consumer hfn hhod hlink hc, hw]

/-! ## One word through a hod between two host functions -/

theorem prodKind_of_host {s : State} {x : Hod} {fn : Nat}
    (hp : isProducer s x (.host fn) = true) : x.p.prodKind = 3 := by
  simp only [isProducer, endpointIs, Bool.and_eq_true, beq_iff_eq] at hp
  exact hp.2.1

/-- Whether a host function consumes a hod is a matter of the hod's descriptor. -/
theorem isConsumer_host_congr {s t : State} {x y : Hod} {fn : Nat} (hv : y.valid = x.valid)
    (hp : y.p = x.p) : isConsumer t y (.host fn) = isConsumer s x (.host fn) := by
  simp only [isConsumer, endpointIs, hv, hp]

/-- A hod that holds no word and no open item, of a job that takes items at once. -/
structure EmptyHod (s : State) (hod : Nat) : Prop where
  items : (hodOf s hod).items = []
  part : (hodOf s hod).part = []
  openIt : (hodOf s hod).openIt = []
  ignoring : (hodOf s hod).ignoring = []
  room : hodFull (hodOf s hod) = false
  replay : (jobOf s (hodOf s hod).job).replay = none
  journaling : (jobOf s (hodOf s hod).job).journaling = false
  capturing : (jobOf s (hodOf s hod).job).capturing = none

/-- The state in which the item itself counts among those that arrived (R371). -/
def itemArrived (s : State) (hod : Nat) (a : Agent) : State :=
  modHod (wordTaken s hod a) hod fun x => { x with arrivals := x.arrivals + 1 }

theorem hodOf_itemArrived (s : State) (hod : Nat) (a : Agent) : hodOf (itemArrived s hod a) hod =
    { dropOpen (hodOf s hod) a with arrivals := (hodOf s hod).arrivals + 1 } := by
  rw [itemArrived, hodOf_modHod_same, hodOf_wordTaken]
  rfl

theorem hodPushWord_of_empty {s : State} {hod fn : Nat} (he : EmptyHod s hod) (prio : Nat) (v : Word) :
    hodPushWord s hod (.host fn) true true prio v false =
      (0, storeItem (itemArrived s hod (.host fn)) hod (.host fn) (prio % 8)
        [hodWordOf v (prio % 8) true true false]) := by
  rw [hodPushWord_only prio v false he.ignoring he.openIt he.room]
  refine congrArg _ ((if_pos rfl).trans
    (outsideItem_of_live (s := wordTaken s hod (.host fn)) _ _ _ ?_ ?_ ?_))
  · rw [jobOf_wordTaken, he.replay]
  · rw [jobOf_wordTaken, he.journaling]
  · rw [jobOf_wordTaken, he.capturing]
    exact nofun

/-- A word that a host function pushes alone is then the hod's only item. -/
theorem exec_hodPushOnly_of_empty {s : State} {fn hod : Nat} (he : EmptyHod s hod) (v : Word)
    (hfn : fn ≤ 8) (hhod : hod < 32768) (hlink : s.hif.linkUp = true)
    (hp : isProducer s (hodOf s hod) (.host fn) = true) : ∃ t it,
      exec (.hodPushOnly fn hod 8 v) s = .next t ∧ t.hif = s.hif ∧
      it.words = [hodWordOf v ((hodOf s hod).pushPrio % 8) true true false] ∧
      (hodOf t hod).items = [it] ∧ (hodOf t hod).part = [] ∧
      ∀ c, isConsumer t (hodOf t hod) (.host c) = isConsumer s (hodOf s hod) (.host c) := by
  have hexec : exec (.hodPushOnly fn hod 8 v) s = _ := atUnit_of_window hfn hhod
  rw [hostPush_of_producer true true v hlink hp, hodPushWord_of_empty he] at hexec
  have hk : (hodOf (itemArrived s hod (.host fn)) hod).p.prodKind ≠ 4 := by
    rw [hodOf_itemArrived]
    simp [dropOpen, prodKind_of_host hp]
  refine ⟨_, newItem (itemArrived s hod (.host fn)) (.host fn) ((hodOf s hod).pushPrio % 8)
    [hodWordOf v ((hodOf s hod).pushPrio % 8) true true false], hexec, ?_, rfl, ?_⟩
  · rw [modHod_hif, storeItem_hif_of_local _ _ _ hk]
    rfl
  · rw [hodOf_modHod_same, hodOf_storeItem_same, hodOf_itemArrived]
    refine ⟨?_, he.part, fun _ => isConsumer_host_congr rfl rfl⟩
    rw [withItem_items]
    exact congrArg (· ++ _) he.items

/-- Settles O35: the pushed word is the hod's only item, and the pop takes it. -/
theorem pushedWordIsPopped : Obligations.PushedWordIsPopped := by
  unfold Obligations.PushedWordIsPopped
  intro s p c hod v hp hc hhod hlink hprod hcons hitems hpart hopen hig hroom hrep hjour hcap
  obtain ⟨t, it, hpush, hhif, hwords, hone, hnone, hends⟩ := exec_hodPushOnly_of_empty
    ⟨hitems, hpart, hopen, hig, hroom, hrep, hjour, hcap⟩ v hp hhod hlink hprod
  obtain ⟨hword, hleft, hparts⟩ := hodPopWord_only (a := .host c) hone hnone hwords
  have hpop := exec_hodPop_of_word (ups := []) hc hhod ((congrArg HostIf.linkUp hhif).trans hlink)
    ((hends c).trans hcons) hword
  refine ⟨t, _, hpush, hpop, congrArg List.length hone, ?_, ?_, ?_⟩
  · show some (Out.cpl 0 (leBytes 8 (wordData _).toNat)) = _
    rw [wordData_hodWordOf]
  · rw [hodOf_emitOut, hodOf_modHod_same]
    exact hleft
  · rw [hodOf_emitOut, hodOf_modHod_same]
    exact hparts

end Sys2Proof.Machine
end

section
/-! PROOFS. The hod commands and the words of every producer (R245 to R252, R263, R264, R279), row by
row. -/

namespace Sys2Proof.Machine

theorem exec_cmdHodCreate_of_free {s : State} {h : Hdr} {p : HodParams} {id base : Nat}
    (hg : granted s h 0x0601 = true) (hp : hodParamsOk s (namedJob h) p = true)
    (hid : freeHodId s = some id) (hbase : freeBlock s (2 ^ p.sizeLog2) = some base) :
    exec (.cmdHodCreate h p) s = .next (answer (grantCredits
      (setHod s id { valid := true, job := namedJob h, p := p, base := base }) id)
      h 0x0601 (leBytes 2 id)) := by
  rw [exec_of_granted rfl rfl hg, hid, hbase]
  exact congrArg _ (ite_not_of_true hp)

/-- The statistics start again at the depth of now (R279). -/
def clearedStats (x : Hod) : Hod :=
  { x with maxDepth := hodDepth x, itemCount := 0, sumWait := 0, maxWait := 0 }

section
variable {s : State} {h : Hdr} {hod : Nat} (hh : hodCheck s h hod = none)
include hh

theorem exec_cmdHodDestroy_of_free (hg : granted s h 0x0602 = true)
    (hb : hodPortBusy s (hodOf s hod) = false) :
    exec (.cmdHodDestroy h hod) s = .next (answer (hodDestroy s hod) h 0x0602 []) := by
  rw [exec_of_granted rfl rfl hg, hh]
  exact congrArg _ (if_neg (by simp [hb]))

theorem exec_cmdHodFlush_of_granted (hg : granted s h 0x0603 = true) :
    exec (.cmdHodFlush h hod) s = .next (answer (hodFlush s hod) h 0x0603 []) := by
  rw [exec_of_granted rfl rfl hg, hh]

theorem exec_cmdHodQueryClear_of_granted (hg : granted s h 0x0606 = true) :
    exec (.cmdHodQueryClear h hod) s = .next (answer (setHod s hod (clearedStats (hodOf s hod)))
      h 0x0606 (hodReport (hodOf s hod))) := by
  rw [exec_of_granted rfl rfl hg, hh]
  rfl

end

theorem hodOf_answer (s : State) (h : Hdr) (op : Nat) (pl : List Byte) (k : Nat) :
    hodOf (answer s h op pl) k = hodOf s k := hodOf_congr (congrArg Pal.hods (answer_pal _ _ _ _)) k

theorem hodOf_hodDestroy_same (s : State) (hod : Nat) : hodOf (hodDestroy s hod) hod = {} :=
  hodOf_setHod_same s hod {}

theorem hodOf_hodDestroy_other (s : State) {hod k : Nat} (hk : k ≠ hod) :
    hodOf (hodDestroy s hod) k = hodOf s k := hodOf_setHod_other s {} hk

theorem exec_hodPushWord_of_producer {s : State} {src : Agent} {hod prio : Nat} {start last : Bool}
    {data : Word} {poison : Bool} (hhod : hod < 32768) (hp : isProducer s (hodOf s hod) src = true) :
    exec (.hodPushWord src hod start last prio data poison) s =
      .next (hodPushWord s hod src start last prio data poison).2 :=
  (atUnit_of_lt hhod).trans (congrArg _ (if_pos hp))

theorem exec_hodCtlFlush_of_control {s : State} {fn hod : Nat} (hfn : fn ≤ 8) (hhod : hod < 32768)
    (hc : hodControls s fn hod = true) : exec (.hodCtlFlush fn hod) s = .next (hodFlush s hod) :=
  (atUnit_of_window hfn hhod).trans (congrArg _ (if_pos hc))

/-- Settles O34, row by row. -/
theorem hodRowsAct : Obligations.HodRowsAct := by
  unfold Obligations.HodRowsAct
  refine ⟨?create, ?destroy, ?flush, ?clear, ?word, ?window, ?pop, ?control, ?emptied⟩
  case create =>
    intro s h p id base hg hp hid hbase
    refine ⟨_, exec_cmdHodCreate_of_free hg hp hid hbase, rfl, ?_, fun k hk => ?_, fun hk => ?_⟩
    · rw [hodOf_answer, hodOf_congr (grantCredits_hods _ _), hodOf_setHod_same]
    · rw [hodOf_answer, hodOf_congr (grantCredits_hods _ _), hodOf_setHod_other _ _ hk]
    · rw [grantCredits_of_local (by rw [hodOf_setHod_same]; exact hk)]
      obtain ⟨hif, out, hans⟩ := answer_frame
        (setHod s id { valid := true, job := namedJob h, p := p, base := base }) h 0x0601 (leBytes 2 id)
      rw [hans]
      rfl
  case destroy =>
    intro s h hod hg hh hb
    obtain ⟨hif, out, hans⟩ := answer_frame (hodDestroy s hod) h 0x0602 []
    refine ⟨_, exec_cmdHodDestroy_of_free hh hg hb, ?_, fun k hk => ?_, ?_⟩
    · rw [hodOf_answer, hodOf_hodDestroy_same]
    · rw [hodOf_answer, hodOf_hodDestroy_other _ hk]
    · rw [hans]
      rfl
  case flush => exact fun _ _ _ hg hh => exec_cmdHodFlush_of_granted hh hg
  case clear =>
    intro s h hod hg hh
    obtain ⟨hif, out, hans⟩ := answer_frame (setHod s hod (clearedStats (hodOf s hod)))
      h 0x0606 (hodReport (hodOf s hod))
    refine ⟨_, exec_cmdHodQueryClear_of_granted hh hg, ?_, fun k hk => ?_, ?_⟩
    · rw [hodOf_answer, hodOf_setHod_same]
      rfl
    · rw [hodOf_answer, hodOf_setHod_other _ _ hk]
    · rw [hans]
      rfl
  case word => exact fun _ _ _ _ _ _ _ _ => exec_hodPushWord_of_producer
  case window =>
    intro s fn hod v hfn hhod hlink hp
    have hpush (start last : Bool) := (atUnit_of_window hfn hhod).trans
      (congrArg _ (hostPush_of_producer start last v hlink hp))
    simp only [List.forall_mem_cons]
    exact ⟨hpush false false, hpush true false, hpush false true, hpush true true,
      List.forall_mem_nil _⟩
  case pop => exact fun _ _ _ _ => exec_hodPop_of_consumer
  case control => exact fun _ _ _ => exec_hodCtlFlush_of_control
  case emptied =>
    intro s hod _
    rw [hodOf_hodFlush_same]
    exact ⟨rfl, rfl⟩

end Sys2Proof.Machine
end

section
/-! PROOFS. Handlers, flows, affinity, dispatch and the release buffer (R266 to R278). An answer
reads nothing of the scheduler, so a row that answers with what stood before its own change answers as if it
had changed nothing. -/

namespace Sys2Proof.Machine

/-! ## An answer does not see the scheduler -/

def withPal (s : State) (p : Pal) : State := { s with pal := p }

section
variable (s : State) (p : Pal)

theorem ringOf_withPal (fn : Nat) : ringOf (withPal s p) fn = ringOf s fn := rfl

theorem mbxOf_withPal (fn m : Nat) : mbxOf (withPal s p) fn m = mbxOf s fn m := rfl

theorem ringSignal_withPal (fn : Nat) : ringSignal (withPal s p) fn = withPal (ringSignal s fn) p := by
  simp only [ringSignal, ringOf_withPal, apply_ite (withPal · p)]
  rfl

theorem ringPut_withPal (fn : Nat) (e : Ev) :
    ringPut (withPal s p) fn e = withPal (ringPut s fn e) p := by
  have hsteps := List.foldl_hom (withPal · p) (g₁ := fun s i => ringStep s fn e i)
    (g₂ := fun s i => ringStep s fn e i) (l := List.range (evRecords e)) (init := s) fun _ _ => rfl
  simp only [ringPut, ringOf_withPal, hsteps, ringSignal_withPal, apply_ite (withPal · p)]
  rfl

theorem ringOverflow_withPal (fn : Nat) :
    ringOverflow (withPal s p) fn = withPal (ringOverflow s fn) p := by
  simp only [ringOverflow, ringOf_withPal, apply_ite (withPal · p), ← ringPut_withPal]
  rfl

theorem toRing_withPal (e : Ev) (fn : Nat) : toRing e (withPal s p) fn = withPal (toRing e s fn) p := by
  rw [toRing, ringOverflow_withPal, ringPut_withPal, toRing]

theorem emitTo_withPal (fns : List Nat) (code job : Nat) (fs : List (Nat × Nat)) :
    emitTo (withPal s p) fns code job fs = withPal (emitTo s fns code job fs) p := by
  have hlog : emitTo (withPal s p) fns code job fs =
      fns.foldl (toRing (newEv s code job (packFields fs)).1) (withPal
        (logPut (newEv s code job (packFields fs)).2 (newEv s code job (packFields fs)).1) p) := rfl
  rw [hlog]
  exact List.foldl_hom (withPal · p) fun t fn => toRing_withPal t p _ fn

theorem answer_withPal (h : Hdr) (op : Nat) (pl : List Byte) :
    answer (withPal s p) h op pl = withPal (answer s h op pl) p := by
  simp only [answer, respond, respondJ, mbxOf_withPal, apply_ite (withPal · p), ← emitTo_withPal]
  rfl

end

/-! ## Commands -/

theorem exec_cmdPalHandlers_of_range {s : State} {h : Hdr} {first : Nat} {es : List (Bool × BitVec 16)}
    (hg : granted s h 0x0604 = true) (hr : rangeOk first es.length 256 256 = true) :
    exec (.cmdPalHandlers h first es) s =
      .next (answer (putHandlers s (namedJob h) first es) h 0x0604 []) := by
  rw [exec_of_granted rfl rfl hg]
  exact congrArg _ (ite_not_of_true hr)

theorem putHandlers_one (s : State) (j first : Nat) (e : Bool × BitVec 16) :
    putHandlers s j first [e] = modPalBlk s fun p =>
      { p with handlers := mapPut p.handlers none (handlerKey j first)
                             (if e.1 then some e.2 else none) } := rfl

theorem exec_cmdPalFlowReset_of_ordered {s : State} {h : Hdr} {f : Nat}
    (hg : granted s h 0x0605 = true) (hf : flowOk f = true) : exec (.cmdPalFlowReset h f) s =
      .next (answer (resetFlow s (namedJob h) f) h 0x0605 (flowBytes (flowOf s (namedJob h) f))) := by
  rw [exec_of_granted rfl rfl hg]
  exact congrArg _ (ite_not_of_true hf)

theorem flowOf_resetFlow_same (s : State) (j f : Nat) : flowOf (resetFlow s j f) j f = {} :=
  mapGet_mapPut_same s.pal.flows {} (flowKey j f) {}

/-- What the buffer takes in waited for its room before (R276). -/
theorem mem_rb_rbFill {p : Pal} {e : RbEntry} (he : e ∈ (rbFill p).rb) : e ∈ p.rb ∨ e ∈ p.rbWait :=
  (List.mem_append.1 he).imp_right List.mem_of_mem_take

/-- No entry of a flow outlives its reset (R272). -/
theorem mem_rb_resetFlow {s : State} {j f : Nat} {e : RbEntry} (he : e ∈ (resetFlow s j f).pal.rb) :
    e ∈ s.pal.rb ++ s.pal.rbWait ∧ ¬ (e.job = j ∧ e.flow = f) := by
  have hkept := mem_rb_rbFill he
  simpa [List.mem_filter, ← or_and_right, ← not_and_or] using hkept

theorem exec_cmdPalPolicy_of_band {s : State} {h : Hdr} {band : Nat} (hg : granted s h 0x0607 = true)
    (hb : band ≤ 18) : exec (.cmdPalPolicy h band) s =
      .next (answer { s with pal := { s.pal with affinity := band } } h 0x0607 []) := by
  rw [exec_of_granted rfl rfl hg]
  exact congrArg _ (if_neg (Nat.not_lt.2 hb))

/-! ## Dispatch and release -/

theorem exec_palletDispatch_of_live {s : State} {j : Nat} (hj : j < 8)
    (hc : (jobOf s j).capturing = none) :
    exec (.palletDispatch j) s = .next (dispatchFrom s j (readyList s j)) :=
  (atUnit_of_lt hj).trans (congrArg _ (if_neg (by simp [hc])))

/-- A job dispatches nothing while its checkpoint is captured (R366). -/
theorem exec_palletDispatch_of_capturing {s : State} {j : Nat} (hj : j < 8)
    (hc : (jobOf s j).capturing ≠ none) : exec (.palletDispatch j) s = .next s :=
  (atUnit_of_lt hj).trans (congrArg _ (if_pos (Option.isSome_iff_ne_none.2 hc)))

/-- An entry leaves the buffer, and one that waited takes its place (R276). -/
def withoutEntry (s : State) (i : Nat) : State :=
  { s with pal := rbFill { s.pal with rb := s.pal.rb.eraseIdx i } }

section
variable {s : State} {i : Nat} {e : RbEntry} (hd : drainable s = some i) (he : s.pal.rb[i]? = some e)
include hd he

theorem drainOne_of_done (hk : e.kind = .done) :
    drainOne s = releaseSeq (withoutEntry s i) e.job e.flow := by
  simp only [drainOne, hd, he, hk]
  rfl

theorem drainOne_of_item {hod prio m : Nat} {ws : List Word} {done : Bool}
    (hk : e.kind = .item hod prio m ws done) : drainOne s = releaseItem (withoutEntry s i) e := by
  simp only [drainOne, hd, he, hk]
  rfl

end

/-- Settles O36, row by row. -/
theorem palletRowsAct : Obligations.PalletRowsAct := by
  unfold Obligations.PalletRowsAct
  refine ⟨?handler, ?handlers, ?reset, ?policy, ?dispatch, ?captured, ?completion, ?item⟩
  case handler =>
    intro s h e hg first hfirst
    have hr : rangeOk first [e].length 256 256 = true := by
      simp only [rangeOk, List.length_singleton, Bool.and_eq_true, decide_eq_true_eq]
      omega
    obtain ⟨hif, out, hans⟩ := answer_frame (putHandlers s (namedJob h) first [e]) h 0x0604 []
    refine ⟨_, exec_cmdPalHandlers_of_range hg hr, ?_⟩
    rw [hans, putHandlers_one]
    exact ⟨mapGet_mapPut_same _ _ _ _, fun k hk => mapGet_mapPut_other _ _ _ _ _ hk, rfl⟩
  case handlers => exact fun _ _ _ _ => exec_cmdPalHandlers_of_range
  case reset =>
    intro s h f hg hf
    have hans := answer_withPal s (resetFlow s (namedJob h) f).pal h 0x0605
      (flowBytes (flowOf s (namedJob h) f))
    obtain ⟨hif, out, hold⟩ := answer_frame s h 0x0605 (flowBytes (flowOf s (namedJob h) f))
    refine ⟨_, (exec_cmdPalFlowReset_of_ordered hg hf).trans (congrArg _ hans),
      flowOf_resetFlow_same s _ f, fun e => mem_rb_resetFlow, rfl, ?_⟩
    rw [hold]
    rfl
  case policy => exact fun _ _ _ => exec_cmdPalPolicy_of_band
  case dispatch => exact fun _ _ => exec_palletDispatch_of_live
  case captured => exact fun _ _ => exec_palletDispatch_of_capturing
  case completion => exact fun _ _ _ hd he hk => congrArg _ (drainOne_of_done hd he hk)
  case item => exact fun _ _ _ _ _ _ _ _ hd he hk => congrArg _ (drainOne_of_item hd he hk)

end Sys2Proof.Machine
end

section
/-! PROOFS. The state of a mason (R286, R302, R307): what is read of it after each update, what retiring an
instruction and an exception leave in it. -/

namespace Sys2Proof.Machine

/-! ## A mason after an update -/

theorem masonOf_congr {s t : State} (h : t.msn.masons = s.msn.masons) (n : Nat) :
    masonOf t n = masonOf s n := by
  simp only [masonOf, h]

theorem groupOf_congr {s t : State} (h : t.msn.groups = s.msn.groups) (g : Nat) :
    groupOf t g = groupOf s g := by
  simp only [groupOf, h]

theorem masonOf_modMason_other (s : State) {m n : Nat} (f : Mason → Mason) (h : n ≠ m) :
    masonOf (modMason s m f) n = masonOf s n := masonOf_setMason_other _ _ _ _ h

theorem regOf_setReg_other (x : Mason) {r rd : Nat} (v : Word) (h : r ≠ rd) :
    regOf (setReg x rd v) r = regOf x r := by
  by_cases hrd : rd = 0
  · rw [setReg, if_pos hrd]
  · rw [setReg, if_neg hrd, regOf, mapGet_mapPut_other _ _ _ _ _ h, regOf]

theorem runs_iff {x : Mason} : runs x = true ↔ x.st = .running ∧ x.pusho = none := by
  simp only [runs, Bool.and_eq_true, beq_iff_eq, Option.isNone_iff_eq_none]

/-! ## Exceptions (R302) -/

/-- A mason that takes an exception while TRAPPED. -/
def haltedMason (x : Mason) (cause : Nat) (tval : Word) (reason : Option Nat) : Mason :=
  { x with reason := reason.getD x.reason, resv := none, mepc := x.pc, mcause := BitVec.ofNat 64 cause,
           mtval := tval, st := .halted }

/-- A mason that enters its trap vector. -/
def trappedMason (x : Mason) (cause : Nat) (tval : Word) (reason : Option Nat) : Mason :=
  { x with reason := reason.getD x.reason, resv := none, trapped := true, mepc := x.pc,
           mcause := BitVec.ofNat 64 cause, mtval := tval, pc := x.mtvec &&& ~~~3, mpie := x.mie,
           mie := false }

def faultMason (x : Mason) (cause : Nat) (tval : Word) (reason : Option Nat) : Mason :=
  if x.trapped then haltedMason x cause tval reason else trappedMason x cause tval reason

/-- EV_MSN_FAULT, to the mason's job or to PF0. -/
def reportFault (s : State) (m : Nat) (x : Mason) : State :=
  match x.job with
  | some j => emitJob s 0x0801 j (faultFields m x x.reason)
  | none => emitDev s 0x0801 (faultFields m x x.reason)

theorem reportFault_msn (s : State) (m : Nat) (x : Mason) : (reportFault s m x).msn = s.msn := by
  rw [reportFault]
  cases x.job with
  | some j => exact emitJob_msn _ _ _ _
  | none => exact emitDev_msn _ _ _

section
variable (s : State) (m cause : Nat) (tval : Word) (reason : Option Nat)

/-- An exception counts and writes its mason; halting it reports as well. -/
theorem trap_eq : trap s m cause tval reason =
    if (masonOf s m).trapped then
      reportFault (setMason (leafAdd s (leafGroup (m / 16) 2) 1) m
        (haltedMason (masonOf s m) cause tval reason)) m (haltedMason (masonOf s m) cause tval reason)
    else setMason (leafAdd s (leafGroup (m / 16) 2) 1) m
      (trappedMason (masonOf s m) cause tval reason) := rfl

theorem trap_msn : (trap s m cause tval reason).msn =
    (setMason s m (faultMason (masonOf s m) cause tval reason)).msn := by
  rw [trap_eq, faultMason]
  split
  · exact reportFault_msn _ _ _
  · rfl

theorem masonOf_trap_same : masonOf (trap s m cause tval reason) m =
    faultMason (masonOf s m) cause tval reason :=
  (masonOf_congr (congrArg Msn.masons (trap_msn s m cause tval reason)) m).trans
    (masonOf_setMason_same _ _ _)

theorem masonOf_trap_other {n : Nat} (h : n ≠ m) :
    masonOf (trap s m cause tval reason) n = masonOf s n :=
  (masonOf_congr (congrArg Msn.masons (trap_msn s m cause tval reason)) n).trans
    (masonOf_setMason_other _ _ _ _ h)

/-- The report of a halt tells of the mason as the exception leaves it. -/
theorem trap_of_trapped {j : Nat} (ht : (masonOf s m).trapped = true)
    (hj : (masonOf s m).job = some j) : ∃ u, trap s m cause tval reason =
      emitJob u 0x0801 j (faultFields m (masonOf u m) (masonOf u m).reason) := by
  have hjob : (haltedMason (masonOf s m) cause tval reason).job = some j := hj
  refine ⟨setMason (leafAdd s (leafGroup (m / 16) 2) 1) m
    (haltedMason (masonOf s m) cause tval reason), ?_⟩
  rw [trap_eq, if_pos ht, reportFault, hjob, masonOf_setMason_same]

end

/-! ## Counters and mret (R302, R307) -/

theorem exec_counterCsrRead_of_runs {s : State} {m csr : Nat} (rd : Nat) (hm : m < 192)
    (hr : runs (masonOf s m) = true) (hc : csr = 0xC00 ∨ csr = 0xC01 ∨ csr = 0xC02) :
    exec (.counterCsrRead m csr rd) s = .next
      (if (masonOf s m).safe then illegal s m else retire (takeFree s 64).2 m rd (takeFree s 64).1 4) := by
  have hcsr : isCounterCsr csr = true := by rcases hc with rfl | rfl | rfl <;> rfl
  have hgo : ¬ (!runs (masonOf s m) || !isCounterCsr csr) = true := by simp [hr, hcsr]
  exact (atUnit_of_lt hm).trans (congrArg _ (if_neg hgo))

/-- A mason as mret leaves it. -/
def returnedMason (x : Mason) : Mason :=
  { x with trapped := false, pc := x.mepc, mie := x.mpie, mpie := true }

theorem exec_mret_of_runs {s : State} {m : Nat} (hm : m < 192) (hr : runs (masonOf s m) = true) :
    exec (.mret m) s = .next (modMason s m returnedMason) :=
  (atUnit_of_lt hm).trans (congrArg _ (if_pos hr))

/-- Settles O40: the counter read of a replay-safe program is the illegal-instruction exception. -/
theorem exceptionsTrapThenHalt : Obligations.ExceptionsTrapThenHalt := by
  unfold Obligations.ExceptionsTrapThenHalt
  refine ⟨?counter, ?fault⟩
  case counter =>
    intro s m csr rd hm hr hc hsafe
    obtain ⟨hst, hpusho⟩ := runs_iff.1 hr
    have hexec := exec_counterCsrRead_of_runs rd hm hr hc
    rw [if_pos hsafe] at hexec
    have hsame : masonOf (illegal s m) m = faultMason (masonOf s m) 2 (takeFree s 64).1 none :=
      masonOf_trap_same (takeFree s 64).2 m 2 (takeFree s 64).1 none
    have hother : ∀ n, n ≠ m → masonOf (illegal s m) n = masonOf s n := fun n =>
      masonOf_trap_other (takeFree s 64).2 m 2 (takeFree s 64).1 none
    refine ⟨_, hexec, ?_⟩
    cases htrap : (masonOf s m).trapped with
    | true =>
      rw [faultMason, htrap, if_pos rfl] at hsame
      rw [hsame]
      exact ⟨rfl, rfl, htrap, rfl, rfl, hother, nofun, fun _ => rfl⟩
    | false =>
      rw [faultMason, htrap, if_neg Bool.false_ne_true] at hsame
      have hruns : runs (masonOf (illegal s m) m) = true := by rw [hsame]; exact hr
      have hback : masonOf (modMason (illegal s m) m returnedMason) m =
          returnedMason (trappedMason (masonOf s m) 2 (takeFree s 64).1 none) := by
        rw [masonOf_modMason_same, hsame]
      rw [hsame]
      refine ⟨rfl, rfl, rfl, rfl, rfl, hother, fun _ => ⟨rfl, hst, _, exec_mret_of_runs hm hruns, ?_⟩,
        nofun⟩
      rw [hback]
      exact ⟨rfl, rfl⟩
  case fault => exact fun s m _ cause tval reason => trap_of_trapped s m cause tval reason

end Sys2Proof.Machine
end

section
/-! PROOFS. The words that a mason pushes reach the masons as watermark signals only (R257, R295): that
frame of the hod and release-buffer operations, and with it the frame of the instructions that name one
register. -/

namespace Sys2Proof.Machine

/-! ## Watermark signals -/

/-- No group changes, and no mason but for its watermark signal. -/
def OnlySignals (s t : State) : Prop :=
  t.msn.groups = s.msn.groups ∧ ∀ n, ∃ b, masonOf t n = { masonOf s n with wmSignal := b }

theorem onlySignals_of_msn {s t : State} (h : t.msn = s.msn) : OnlySignals s t :=
  ⟨congrArg Msn.groups h, fun n => ⟨_, masonOf_congr (congrArg Msn.masons h) n⟩⟩

theorem OnlySignals.refl (s : State) : OnlySignals s s := onlySignals_of_msn rfl

theorem OnlySignals.trans {s t u : State} (h : OnlySignals s t) (g : OnlySignals t u) :
    OnlySignals s u := by
  refine ⟨g.1.trans h.1, fun n => ?_⟩
  obtain ⟨b, ht⟩ := h.2 n
  obtain ⟨c, hu⟩ := g.2 n
  exact ⟨c, by rw [hu, ht]⟩

theorem OnlySignals.each {α : Type} {f : State → α → State} (h : ∀ s a, OnlySignals s (f s a)) :
    ∀ (l : List α) (s : State), OnlySignals s (each l f s)
  | [], s => OnlySignals.refl s
  | a :: l, s => (h s a).trans (OnlySignals.each h l (f s a))

theorem OnlySignals.ite {s t u : State} {c : Prop} [Decidable c] (h : OnlySignals s t)
    (g : OnlySignals s u) : OnlySignals s (if c then t else u) := by
  split
  · exact h
  · exact g

theorem modMason_signal (s : State) (m : Nat) (b : Bool) :
    OnlySignals s (modMason s m fun x => { x with wmSignal := b }) := by
  refine ⟨rfl, fun n => ?_⟩
  by_cases h : n = m
  · rw [h]
    exact ⟨b, masonOf_modMason_same _ _ _⟩
  · exact ⟨_, masonOf_modMason_other _ _ h⟩

theorem onlyLarey.msn {s t : State} (h : onlyLarey s t) : t.msn = s.msn := by
  obtain ⟨_, _, _, _, _, _, _, rfl⟩ := onlyLarey_iff.1 h
  rfl

/-! ## Hods -/

theorem grantCredits_msn (s : State) (h : Nat) : (grantCredits s h).msn = s.msn := by
  simp only [grantCredits]
  split
  · rfl
  · split
    · rfl
    · exact (routeSend_onlyLarey _ _ _ _ _).msn

theorem wmSend_onlySignals (s : State) (h kind ep job msix : Nat) :
    OnlySignals s (wmSend s h kind ep job msix) := by
  rw [wmSend]
  split
  · exact onlySignals_of_msn rfl
  · refine OnlySignals.ite ?_ (OnlySignals.refl s)
    refine OnlySignals.each (fun s e => ?_) _ s
    exact modMason_signal s e.1 true

theorem wmCheck_onlySignals (s : State) (h before : Nat) : OnlySignals s (wmCheck s h before) := by
  rw [wmCheck]
  refine (onlySignals_of_msn (grantCredits_msn s h)).trans ?_
  generalize grantCredits s h = t
  refine OnlySignals.trans ?_ ((wmSend_onlySignals _ _ _ _ _ _).ite (OnlySignals.refl _))
  exact (wmSend_onlySignals _ _ _ _ _ _).ite (OnlySignals.refl _)

theorem storeItem_onlySignals (s : State) (h : Nat) (a : Agent) (prio : Nat) (ws : List (BitVec 71)) :
    OnlySignals s (storeItem s h a prio ws) :=
  (onlySignals_of_msn rfl).trans (wmCheck_onlySignals _ h _)

theorem setOverrun_onlySignals (s : State) (h : Nat) : OnlySignals s (setOverrun s h) :=
  (OnlySignals.refl s).ite (onlySignals_of_msn (emitJob_msn _ _ _ _))

theorem setFlushed_onlySignals (s : State) (h : Nat) : OnlySignals s (setFlushed s h) :=
  (OnlySignals.refl s).ite (onlySignals_of_msn (emitJob_msn _ _ _ _))

theorem discardWord_onlySignals (s : State) (h : Nat) (a : Agent) :
    OnlySignals s (discardWord s h a).2 :=
  (onlySignals_of_msn rfl).trans (setFlushed_onlySignals _ h)

/-- A start discards what its producer had left open (R250). -/
def withoutOpen (s : State) (h : Nat) (a : Agent) : State :=
  if (openOf (hodOf s h) a).isSome then setFlushed (modHod s h fun x => dropOpen x a) h else s

theorem withoutOpen_onlySignals (s : State) (h : Nat) (a : Agent) : OnlySignals s (withoutOpen s h a) := by
  refine OnlySignals.ite ?_ (OnlySignals.refl s)
  exact OnlySignals.trans (onlySignals_of_msn rfl) (setFlushed_onlySignals _ h)

theorem hodPushWord_eq (s : State) (h : Nat) (a : Agent) (start last : Bool) (prio : Nat) (data : Word)
    (poison : Bool) : hodPushWord s h a start last prio data poison =
      if (hodOf s h).ignoring.contains a then
        (1, setOverrun (if last then setHod s h { hodOf s h with
          ignoring := (hodOf s h).ignoring.filter (· != a) } else s) h)
      else if start then
        if hodFull (hodOf (withoutOpen s h a) h) then
          (1, setOverrun (if last then withoutOpen s h a else modHod (withoutOpen s h a) h fun x =>
            { x with ignoring := x.ignoring ++ [a] }) h)
        else (0, appendWord (withoutOpen s h a) h a { by_ := a, prio := prio % 8, words := [] }
          true last data poison)
      else match openOf (hodOf s h) a with
        | none => discardWord s h a
        | some o => if 16 ≤ o.words.length then discardWord s h a
          else (0, appendWord s h a o false last data poison) := rfl

section
variable {a : Agent} (ha : outside a = false)
include ha

/-- An item from inside its job goes into its hod, or is suppressed (R377). -/
theorem completeItem_onlySignals (s : State) (h prio : Nat) (ws : List (BitVec 71)) :
    OnlySignals s (completeItem s h a prio ws) := by
  simp only [completeItem, ha, Bool.false_eq_true, if_false]
  exact (onlySignals_of_msn rfl).ite
    ((onlySignals_of_msn rfl).trans (storeItem_onlySignals _ h a prio ws))

theorem appendWord_onlySignals (s : State) (h : Nat) (o : OpenItem) (start last : Bool) (data : Word)
    (poison : Bool) : OnlySignals s (appendWord s h a o start last data poison) :=
  ((onlySignals_of_msn rfl).trans (completeItem_onlySignals ha _ h _ _)).ite (onlySignals_of_msn rfl)

theorem hodPushWord_onlySignals (s : State) (h : Nat) (start last : Bool) (prio : Nat) (data : Word)
    (poison : Bool) : OnlySignals s (hodPushWord s h a start last prio data poison).2 := by
  rw [hodPushWord_eq]
  split
  · refine OnlySignals.trans ?_ (setOverrun_onlySignals _ h)
    exact (onlySignals_of_msn rfl).ite (OnlySignals.refl s)
  · split
    · refine (withoutOpen_onlySignals s h a).trans ?_
      split
      · refine OnlySignals.trans ?_ (setOverrun_onlySignals _ h)
        exact (OnlySignals.refl _).ite (onlySignals_of_msn rfl)
      · exact appendWord_onlySignals ha _ h _ _ _ _ _
    · split
      · exact discardWord_onlySignals s h a
      · split
        · exact discardWord_onlySignals s h a
        · exact appendWord_onlySignals ha _ h _ _ _ _ _

theorem hodPushItem_onlySignals (s : State) (h prio : Nat) (ws : List Word) (poison : BitVec 16) :
    OnlySignals s (hodPushItem s h a prio ws poison) := by
  refine OnlySignals.each (fun s w => ?_) _ s
  exact hodPushWord_onlySignals ha s h _ _ prio w.1 _

end

/-! ## The release buffer (R276 to R278) -/

theorem releaseItem_onlySignals (s : State) (e : RbEntry) : OnlySignals s (releaseItem s e) := by
  rw [releaseItem]
  split
  · exact OnlySignals.refl s
  · exact (hodPushItem_onlySignals rfl s _ _ _ _).ite (OnlySignals.refl s)

theorem releaseSeq_onlySignals {s t : State} (h : OnlySignals s t) (j f : Nat) :
    OnlySignals s (releaseSeq t j f) := by
  refine h.trans (onlySignals_of_msn ?_)
  rfl

theorem completeSlot_onlySignals (s : State) (j : Nat) (p : Slot) :
    OnlySignals s (completeSlot s j p) := by
  rw [completeSlot, completeSeq]
  refine (OnlySignals.refl s).ite (OnlySignals.ite ?_ (onlySignals_of_msn rfl))
  exact releaseSeq_onlySignals ((onlySignals_of_msn (modPalBlk_msn s _)).trans
    (OnlySignals.each releaseItem_onlySignals _ _)) j _

/-! ## The frame of an instruction that names one register -/

/-- A mason that differs in register rd at most, of all that a program sees of its registers, scratch, trap
vector and program. -/
def KeepsBut (rd : Nat) (x y : Mason) : Prop :=
  (∀ r, r ≠ rd → regOf y r = regOf x r) ∧ y.scratch = x.scratch ∧ y.mtvec = x.mtvec ∧
    y.entry = x.entry ∧ y.safe = x.safe

/-- Mason m keeps all but register rd, the others all but a watermark signal. -/
def RegFrame (m rd : Nat) (s t : State) : Prop :=
  KeepsBut rd (masonOf s m) (masonOf t m) ∧
    ∀ n, n ≠ m → ∃ b, masonOf t n = { masonOf s n with wmSignal := b }

theorem KeepsBut.trans {rd : Nat} {x y z : Mason} (h : KeepsBut rd x y) (g : KeepsBut rd y z) :
    KeepsBut rd x z := by
  obtain ⟨hregs, hscr, hvec, hentry, hsafe⟩ := h
  obtain ⟨gregs, gscr, gvec, gentry, gsafe⟩ := g
  exact ⟨fun r hr => (gregs r hr).trans (hregs r hr), gscr.trans hscr, gvec.trans hvec,
    gentry.trans hentry, gsafe.trans hsafe⟩

section
variable {m rd : Nat} {s t u : State}

theorem RegFrame.trans (h : RegFrame m rd s t) (g : RegFrame m rd t u) : RegFrame m rd s u := by
  refine ⟨h.1.trans g.1, fun n hn => ?_⟩
  obtain ⟨b, ht⟩ := h.2 n hn
  obtain ⟨c, hu⟩ := g.2 n hn
  exact ⟨c, by rw [hu, ht]⟩

theorem OnlySignals.regFrame (h : OnlySignals s t) : RegFrame m rd s t := by
  obtain ⟨b, hm⟩ := h.2 m
  refine ⟨?_, fun n _ => h.2 n⟩
  rw [hm]
  exact ⟨fun _ _ => rfl, rfl, rfl, rfl, rfl⟩

theorem RegFrame.refl (m rd : Nat) (s : State) : RegFrame m rd s s := (OnlySignals.refl s).regFrame

theorem RegFrame.ite {c : Prop} [Decidable c] (h : RegFrame m rd s t) (g : RegFrame m rd s u) :
    RegFrame m rd s (if c then t else u) := by
  split
  · exact h
  · exact g

theorem modMason_regFrame {f : Mason → Mason} (h : KeepsBut rd (masonOf s m) (f (masonOf s m))) :
    RegFrame m rd s (modMason s m f) :=
  ⟨by rw [masonOf_modMason_same]; exact h, fun _ hn => ⟨_, masonOf_modMason_other s f hn⟩⟩

end

theorem keepsBut_setReg (rd : Nat) (x : Mason) (v pc : Word) :
    KeepsBut rd x { setReg x rd v with pc := pc } := by
  refine ⟨fun r hr => regOf_setReg_other x v hr, ?_⟩
  rw [setReg]
  split <;> exact ⟨rfl, rfl, rfl, rfl⟩

theorem keepsBut_faultMason (rd : Nat) (x : Mason) (cause : Nat) (tval : Word) (reason : Option Nat) :
    KeepsBut rd x (faultMason x cause tval reason) := by
  rw [faultMason]
  split <;> exact ⟨fun _ _ => rfl, rfl, rfl, rfl, rfl⟩

section
variable (s : State) (m rd : Nat)

theorem retire_regFrame (v : Word) (len : Nat) : RegFrame m rd s (retire s m rd v len) :=
  modMason_regFrame (keepsBut_setReg rd _ v _)

theorem trap_regFrame (cause : Nat) (tval : Word) (reason : Option Nat) :
    RegFrame m rd s (trap s m cause tval reason) :=
  ⟨by rw [masonOf_trap_same]; exact keepsBut_faultMason _ _ _ _ _,
    fun _ hn => ⟨_, masonOf_trap_other s m cause tval reason hn⟩⟩

theorem illegal_regFrame : RegFrame m rd s (illegal s m) := trap_regFrame (takeFree s 64).2 m rd 2 _ _

theorem hodTrap_regFrame (hod reason : Nat) : RegFrame m rd s (hodTrap s m hod reason) :=
  trap_regFrame _ _ _ _ _ _

theorem pushInstr_regFrame (f7 : BitVec 7) (last : Bool) (rs2 rs1 : Nat) :
    RegFrame m rd s (pushInstr s m f7 last rs2 rs1 rd) := by
  simp only [pushInstr]
  refine (RegFrame.refl m rd s).ite ((illegal_regFrame s m rd).ite ?_)
  split
  · exact hodTrap_regFrame s m rd _ _
  · exact (hodPushWord_onlySignals rfl s _ _ _ _ _ _).regFrame.trans (retire_regFrame _ m rd _ 4)

theorem statInstr_regFrame (f7 : BitVec 7) (rs1 : Nat) : RegFrame m rd s (statInstr s m f7 rs1 rd) := by
  simp only [statInstr]
  refine (RegFrame.refl m rd s).ite ((illegal_regFrame s m rd).ite ?_)
  split
  · exact hodTrap_regFrame s m rd _ _
  · exact retire_regFrame s m rd _ 4

theorem waitOn_regFrame (w : Word) : RegFrame m rd s (waitOn s m rd w) :=
  (modMason_regFrame ⟨fun _ _ => rfl, rfl, rfl, rfl, rfl⟩).ite
    ((retire_regFrame s m rd _ 4).ite (modMason_regFrame ⟨fun _ _ => rfl, rfl, rfl, rfl, rfl⟩))

theorem waitInstr_regFrame (f7 : BitVec 7) (rs1 : Nat) : RegFrame m rd s (waitInstr s m f7 rs1 rd) := by
  simp only [waitInstr]
  refine (RegFrame.refl m rd s).ite ((illegal_regFrame s m rd).ite ?_)
  split
  · exact hodTrap_regFrame s m rd _ _
  · exact waitOn_regFrame s m rd _

/-- WFI writes x0, which keeps every register. -/
theorem KeepsBut.of_zero {x y : Mason} (h : KeepsBut 0 x y) : KeepsBut rd x y := by
  obtain ⟨hregs, hrest⟩ := h
  refine ⟨fun r _ => ?_, hrest⟩
  by_cases hr : r = 0
  · rw [hr, regOf, regOf, if_pos rfl, if_pos rfl]
  · exact hregs r hr

theorem wfi_regFrame : RegFrame m rd s (if runs (masonOf s m) then waitOn s m 0 0 else s) := by
  obtain ⟨hown, hothers⟩ := waitOn_regFrame s m 0 0
  exact RegFrame.ite ⟨hown.of_zero rd, hothers⟩ (RegFrame.refl m rd s)

theorem doneInstr_regFrame (f7 : BitVec 7) : RegFrame m rd s (doneInstr s m f7 rd) := by
  simp only [doneInstr]
  refine (RegFrame.refl m rd s).ite ((illegal_regFrame s m rd).ite ?_)
  split
  · refine (onlySignals_of_msn rfl).regFrame.ite ?_
    refine RegFrame.trans ?_ (retire_regFrame _ m rd 0 4)
    refine RegFrame.trans ?_ (modMason_regFrame ⟨fun _ _ => rfl, rfl, rfl, rfl, rfl⟩)
    exact ((onlySignals_of_msn rfl).trans (completeSlot_onlySignals _ _ _)).regFrame
  · exact illegal_regFrame s m rd

theorem counterRead_regFrame (csr : Nat) : RegFrame m rd s (counterRead s m csr rd) :=
  (RegFrame.refl m rd s).ite ((illegal_regFrame s m rd).ite
    ((onlySignals_of_msn rfl).regFrame.trans (retire_regFrame (takeFree s 64).2 m rd _ 4)))

theorem mret_regFrame : RegFrame m rd s (if runs (masonOf s m) then modMason s m returnedMason else s) :=
  (modMason_regFrame ⟨fun _ _ => rfl, rfl, rfl, rfl, rfl⟩).ite (RegFrame.refl m rd s)

end

/-- A command on a unit the device has ends in the state given for it. -/
theorem eq_of_atUnit {b : Bool} {s t : State} (h : atUnit b s = .next t) : s = t := by
  rw [atUnit] at h
  split at h
  · exact Host.Outcome.next.inj h
  · cases h

theorem RegFrame.of_exec {i : Instr} {b : Bool} {m rd : Nat} {s t u : State} (hf : RegFrame m rd s u)
    (hi : exec i s = atUnit b u) (h : exec i s = .next t) : RegFrame m rd s t :=
  eq_of_atUnit (hi.symm.trans h) ▸ hf

/-- Settles O41, instruction by instruction. -/
theorem registerInstructionFrame : Obligations.RegisterInstructionFrame := by
  unfold Obligations.RegisterInstructionFrame
  intro s t m rd f7 rs2 rs1 csr i hi hexec
  have hframe : RegFrame m rd s t := by
    simp only [List.mem_cons, List.not_mem_nil, or_false] at hi
    rcases hi with rfl | rfl | rfl | rfl | rfl | rfl | rfl | rfl
    · exact (pushInstr_regFrame s m rd f7 _ rs2 rs1).of_exec rfl hexec
    · exact (pushInstr_regFrame s m rd f7 true rs2 rs1).of_exec rfl hexec
    · exact (statInstr_regFrame s m rd f7 rs1).of_exec rfl hexec
    · exact (waitInstr_regFrame s m rd f7 rs1).of_exec rfl hexec
    · exact (wfi_regFrame s m rd).of_exec rfl hexec
    · exact (doneInstr_regFrame s m rd f7).of_exec rfl hexec
    · exact (counterRead_regFrame s m rd csr).of_exec rfl hexec
    · exact (mret_regFrame s m rd).of_exec rfl hexec
  obtain ⟨⟨hregs, hkept⟩, hothers⟩ := hframe
  refine ⟨hregs, fun n => ?_, fun n hn => ?_⟩
  · by_cases hn : n = m
    · rw [hn]
      exact hkept
    · obtain ⟨b, hb⟩ := hothers n hn
      rw [hb]
      exact ⟨rfl, rfl, rfl, rfl⟩
  · obtain ⟨b, hb⟩ := hothers n hn
    rw [hb]
    exact ⟨rfl, rfl, rfl, rfl, rfl⟩

end Sys2Proof.Machine
end

section
/-! PROOFS. The hod and pallet instructions where they retire (R292 to R299), each as one equation of its
operation; the row then only says that the mason exists. -/

namespace Sys2Proof.Machine

theorem exec_of_unit {i : Instr} {m n : Nat} {s t u : State}
    (hi : exec i s = atUnit (decide (m < n)) u) (hm : m < n) (h : u = t) : exec i s = .next t :=
  (hi.trans (atUnit_of_lt hm)).trans (congrArg _ h)

/-! ## Words -/

section
variable {s : State} {m : Nat} (hr : runs (masonOf s m) = true)
include hr

theorem pushInstr_of_clear {f7 : BitVec 7} (last : Bool) (rs2 : Nat) {rs1 : Nat} (rd : Nat)
    (hf : f7.toNat < 32)
    (hh : hodFault s m (hodIdOf (masonOf s m) rs1) (fun y => y.p.prodKind == 2) = none) :
    let r := hodPushWord s (hodIdOf (masonOf s m) rs1) (.mason m) (f7.getLsbD 3) last (f7.toNat % 8)
      (regOf (masonOf s m) rs2) false
    pushInstr s m f7 last rs2 rs1 rd = retire r.2 m rd (BitVec.ofNat 64 r.1) 4 := by
  simp only [pushInstr, hr, Nat.not_le.2 hf, hh, Bool.not_true, Bool.false_eq_true, if_false]

theorem statInstr_of_clear {rs1 : Nat} (rd : Nat)
    (hh : hodFault s m (hodIdOf (masonOf s m) rs1) (fun _ => true) = none) :
    statInstr s m 0 rs1 rd = retire s m rd (BitVec.ofNat 64
      (hodStatWord (hodOf s (hodIdOf (masonOf s m) rs1))
        (emptyFor (hodOf s (hodIdOf (masonOf s m) rs1)) m) (masonOf s m).popTag)) 4 := by
  simp only [statInstr, hr, hh, Bool.not_true, Bool.false_eq_true, ne_eq, not_true, if_false]

theorem waitInstr_of_clear {rs1 : Nat} (rd : Nat)
    (hw : watchFault s m (regOf (masonOf s m) rs1) = none) :
    waitInstr s m 0 rs1 rd = waitOn s m rd (regOf (masonOf s m) rs1) := by
  simp only [waitInstr, hr, hw, Bool.not_true, Bool.false_eq_true, ne_eq, not_true, if_false]

end

/-- The word that a pop writes: 0 of an empty hod (R294). -/
def poppedWord (w : Option PortWord) : Word :=
  match w with
  | some w => w.data
  | none => 0

/-- The pop reads the state in which the upsets found stand. -/
theorem popInstr_of_clear {s : State} {m rs1 : Nat} (rd : Nat) {ups : List Upset}
    (hr : runs (masonOf (upsets s ups) m) = true)
    (hh : hodFault (upsets s ups) m (hodIdOf (masonOf (upsets s ups) m) rs1)
      (fun y => y.p.consKind == 2) = none) :
    let r := hodPopWord (upsets s ups) (hodIdOf (masonOf (upsets s ups) m) rs1) (.mason m)
    popInstr s m 0 rs1 rd ups =
      retire (modMason r.2 m fun y => { y with popTag := wordTag r.1 }) m rd (poppedWord r.1) 4 := by
  simp only [popInstr, hr, hh, Bool.not_true, Bool.false_eq_true, ne_eq, not_true, if_false]
  rfl

/-! ## Waiting (R295) -/

/-- A mason that halts until a condition of its watch word holds. -/
def waitingMason (rd : Nat) (w : Word) (x : Mason) : Mason :=
  { x with st := .waiting, wait := some (rd, w), wmSignal := false }

theorem waitOn_of_noPause {s : State} {m : Nat} (rd : Nat) (w : Word)
    (hp : (masonOf s m).pausePending = false) : waitOn s m rd w =
      if wakeBits s m w = 0 then modMason s m (waitingMason rd w)
      else retire s m rd (BitVec.ofNat 64 (wakeBits s m w)) 4 := by
  simp only [waitOn, hp, Bool.false_and, Bool.false_eq_true, if_false, ite_not]
  rfl

theorem wakeMason_of_reason {s : State} {m rd : Nat} {w : Word} (hst : (masonOf s m).st = .waiting)
    (hw : (masonOf s m).wait = some (rd, w)) (hp : (masonOf s m).pausePending = false)
    (hn : wakeBits s m w ≠ 0) : wakeMason s m =
      retire (modMason s m fun y => { y with st := .running, wait := none, wmSignal := false })
        m rd (BitVec.ofNat 64 (wakeBits s m w)) 4 := by
  simp only [wakeMason, hw]
  exact if_neg (by simp [hst, hp, hn])

/-! ## Pallets -/

section
variable {s : State} {m : Nat} {p : Slot}

theorem getInstr_of_slot {rs1 : Nat} (rd : Nat) {rest : List Slot} (hr : runs (masonOf s m) = true)
    (hc : (masonOf s m).cur = none) (hp : (masonOf s m).pausePending = false)
    (hs : (masonOf s m).slots = p :: rest) (ha : (regOf (masonOf s m) rs1).toNat % 32 = 0)
    (hroom : palletRoom (regOf (masonOf s m) rs1).toNat = true) :
    getInstr s m 0 rs1 rd = takePallet s m rd (regOf (masonOf s m) rs1).toNat p rest := by
  simp only [getInstr, hr, hc, hp, hs, ha, hroom, Bool.not_true, Bool.false_eq_true, ne_eq, not_true,
    Option.isSome_none, or_self, if_false]

variable {j : Nat} (hc : (masonOf s m).cur = some p) (hj : (masonOf s m).job = some j)
include hc hj

theorem doneInstr_of_room (rd : Nat) (hr : runs (masonOf s m) = true)
    (hw : doneWaits (rbDrop s (isOpenOf m)) j p = false) : doneInstr s m 0 rd =
      retire (modMason (completeSlot (rbDrop s (isOpenOf m)) j p) m fun y => { y with cur := none })
        m rd 0 4 := by
  simp only [doneInstr, hr, hc, hj, hw, Bool.not_true, Bool.false_eq_true, ne_eq, not_true, if_false]

theorem pushoInstr_of_clear {f7 : BitVec 7} (rs2 : Nat) {rs1 : Nat} (rd : Nat)
    (hr : runs (masonOf s m) = true) (hf : f7.toNat < 32)
    (hh : hodFault s m (hodIdOf (masonOf s m) rs1) (fun y => y.p.prodKind == 2) = none) :
    pushoInstr s m f7 rs2 rs1 rd = pushOrdered s m (hodIdOf (masonOf s m) rs1) j p (f7.getLsbD 3)
      (f7.getLsbD 4) (f7.toNat % 8) (regOf (masonOf s m) rs2) rd := by
  simp only [pushoInstr, hr, hc, hj, hh, Nat.not_le.2 hf, Bool.not_true, Bool.false_eq_true, if_false]

/-- A pal.pusho that waited goes on with the word that starts its item. -/
theorem pushoRetry_of_free {h prio rd : Nat} {data : Word} {last : Bool}
    (hp : (masonOf s m).pusho = some (h, prio, data, last, rd))
    (hfree : rbFull s = false ∨ (flowOf s j (slotFlow p)).next = slotSeq p) :
    pushoRetry s m = pushOrdered (modMason s m fun y => { y with pusho := none })
      m h j p true last prio data rd := by
  simp only [pushoRetry, hp, hc, hj]
  refine if_neg ?_
  rcases hfree with hfull | hnext
  · simp [hfull]
  · simp [hnext]

end

/-- A pallet without a flow pushes at once (R298). -/
theorem pushOrdered_of_noFlow {s : State} {p : Slot} (m h j : Nat) (start last : Bool) (prio : Nat)
    (data : Word) (rd : Nat) (hf : slotFlow p = 0) :
    let r := hodPushWord s h (.mason m) start last prio data false
    pushOrdered s m h j p start last prio data rd = retire r.2 m rd (BitVec.ofNat 64 r.1) 4 := by
  simp only [pushOrdered, hf, beq_self_eq_true, Bool.true_or, if_true]

/-- Settles O38, instruction by instruction. -/
theorem masonInstructionsRetire : Obligations.MasonInstructionsRetire := by
  unfold Obligations.MasonInstructionsRetire
  refine ⟨?push, ?pop, ?stat, ?wait, ?wfi, ?wake, ?get, ?done, ?pusho, ?retry, ?counter, ?mret⟩
  case push =>
    intro s m f7 rs2 rs1 rd hm hr hf hh
    simp only [List.forall_mem_cons]
    exact ⟨exec_of_unit rfl hm (pushInstr_of_clear hr _ rs2 rd hf hh),
      exec_of_unit rfl hm (pushInstr_of_clear hr true rs2 rd hf hh), List.forall_mem_nil _⟩
  case pop => exact fun s m rs1 rd ups hm hr hh => exec_of_unit rfl hm (popInstr_of_clear rd hr hh)
  case stat => exact fun s m rs1 rd hm hr hh => exec_of_unit rfl hm (statInstr_of_clear hr rd hh)
  case wait =>
    intro s m rs1 rd hm hr hw hp
    exact exec_of_unit rfl hm ((waitInstr_of_clear hr rd hw).trans (waitOn_of_noPause rd _ hp))
  case wfi =>
    intro s m hm hr hp
    exact exec_of_unit rfl hm ((if_pos hr).trans (waitOn_of_noPause 0 0 hp))
  case wake =>
    exact fun s m rd w hm hst hw hp hn => exec_of_unit rfl hm (wakeMason_of_reason hst hw hp hn)
  case get =>
    exact fun s m rs1 rd p rest hm hr hc hp hs ha hroom =>
      exec_of_unit rfl hm (getInstr_of_slot rd hr hc hp hs ha hroom)
  case done =>
    exact fun s m rd p j hm hr hc hj hw =>
      exec_of_unit rfl hm (doneInstr_of_room hc hj rd hr hw)
  case pusho =>
    intro s m f7 rs2 rs1 rd p j hm hr hf hc hj hh
    have hpush := pushoInstr_of_clear hc hj rs2 rd hr hf hh
    exact ⟨exec_of_unit rfl hm hpush, fun hflow =>
      exec_of_unit rfl hm (hpush.trans (pushOrdered_of_noFlow _ _ _ _ _ _ _ _ hflow))⟩
  case retry =>
    exact fun s m h prio data last rd p j hm hp hc hj hfree =>
      exec_of_unit rfl hm (pushoRetry_of_free hc hj hp hfree)
  case counter =>
    intro s m csr rd hm hr hc hsafe
    rw [exec_counterCsrRead_of_runs rd hm hr hc, if_neg (by rw [hsafe]; exact Bool.false_ne_true)]
  case mret => exact fun s m hm hr => exec_mret_of_runs hm hr

end Sys2Proof.Machine
end

section
/-! PROOFS. The commands and events that control masons (R283, R284, R304 to R312, R398). A head check that
passes with the table's column passes with the narrower one of a command's variant. -/

namespace Sys2Proof.Machine

/-! ## Head checks of the variants of one opcode -/

section
variable {s : State} {h : Hdr} {op : Nat} {who : From}

theorem headCheck_created (hc : headCheck s h op who false = none)
    (hj : (jobOf s (namedJob h)).created = true) : headCheck s h op who true = none := by
  simp only [headCheck, hj, not_true, and_false, Bool.false_eq_true, if_false] at hc ⊢
  exact hc

theorem headCheck_pf0 {need : Bool} (hc : headCheck s h op .both need = none) (hfn : h.fn = 0) :
    headCheck s h op .pf0 need = none := by
  simp only [headCheck, hfn, ne_eq, not_true, and_false, false_and, if_false] at hc ⊢
  exact hc

theorem exec_of_headCheck {c : Instr} {need : Bool} {body : Nat → State} {t : State}
    (hx : exec c s = .next (runCmd s h op who need body)) (hc : headCheck s h op who need = none)
    (ht : body (namedJob h) = t) : exec c s = .next t := by
  rw [hx, runCmd, hc, ← ht]

theorem headCheck_msnAssign (hg : granted s h 0x0609 = true) : headCheck s h 0x0609 .pf0 false = none :=
  headCheck_of_granted rfl hg

theorem headCheck_msnControl (hg : granted s h 0x060B = true) :
    headCheck s h 0x060B .both false = none := headCheck_of_granted rfl hg

end

/-! ## Lists of masons -/

theorem any_eq_false_of_forall {α : Type} {l : List α} {p : α → Bool} (h : ∀ a ∈ l, p a = false) :
    l.any p = false := List.any_eq_false.2 fun a ha => by rw [h a ha]; exact Bool.false_ne_true

/-- The checks that name masons pass for masons of the job. -/
theorem namedCheck_of_owned {s : State} {h : Hdr} {j : Nat} {ms : List Nat} (hm : masonsOk ms = true)
    (ho : ∀ m ∈ ms, (masonOf s m).job = some j) : namedCheck s h j ms = none := by
  have hany : ms.any (fun m => (masonOf s m).job != some j) = false :=
    any_eq_false_of_forall fun m hmem => by simp [ho m hmem]
  simp only [namedCheck, hm, hany, Bool.false_eq_true, and_false, Bool.not_true, Bool.or_self, if_false]

/-! ## Pallets of a mason that leaves (R304) -/

/-- The completions that a mason's pallets bring. -/
def endPallets (s : State) (m : Nat) : State :=
  match (masonOf s m).job with
  | some j => each ((masonOf s m).cur.toList ++ (masonOf s m).slots) (fun s p => completeSlot s j p)
      (rbDrop s (isOpenOf m))
  | none => rbDrop s (isOpenOf m)

theorem endPallets_onlySignals (s : State) (m : Nat) : OnlySignals s (endPallets s m) := by
  have hdrop : OnlySignals s (rbDrop s (isOpenOf m)) := onlySignals_of_msn rfl
  rw [endPallets]
  split
  · refine hdrop.trans (OnlySignals.each (fun s p => ?_) _ _)
    exact completeSlot_onlySignals s _ p
  · exact hdrop

/-- A mason without pallets. -/
def emptyHanded (x : Mason) : Mason := { x with cur := none, slots := [], pusho := none }

theorem completePallets_eq (s : State) (m : Nat) :
    completePallets s m = modMason (endPallets s m) m emptyHanded := rfl

theorem masonOf_completePallets (s : State) (m : Nat) :
    ∃ b, masonOf (completePallets s m) m = emptyHanded { masonOf s m with wmSignal := b } := by
  obtain ⟨b, hb⟩ := (endPallets_onlySignals s m).2 m
  exact ⟨b, by rw [completePallets_eq, masonOf_modMason_same, hb]⟩

theorem completePallets_groups (s : State) (m : Nat) :
    (completePallets s m).msn.groups = s.msn.groups := (endPallets_onlySignals s m).1

theorem unassignMason_groups (s : State) (m : Nat) : (unassignMason s m).msn.groups = s.msn.groups :=
  completePallets_groups s m

theorem masonOf_unassignMason (s : State) (m : Nat) : (masonOf (unassignMason s m) m).job = none := by
  rw [unassignMason, masonOf_modMason_same]

theorem masonOf_moveMason (j : Nat) (s : State) (m : Nat) :
    (masonOf (moveMason j s m) m).job = some j := by
  rw [moveMason]
  split
  · assumption
  · rw [masonOf_modMason_same]

theorem moveMason_groups (j : Nat) (s : State) (m : Nat) :
    (moveMason j s m).msn.groups = s.msn.groups := by
  rw [moveMason]
  split
  · rfl
  · exact unassignMason_groups s m

theorem each_groups {α : Type} {f : State → α → State}
    (h : ∀ s a, (f s a).msn.groups = s.msn.groups) :
    ∀ (l : List α) (s : State), (each l f s).msn.groups = s.msn.groups
  | [], _ => rfl
  | a :: l, s => (each_groups h l (f s a)).trans (h s a)

/-! ## Assignment (R283, R284) -/

/-- An assignment whose groups have all come up, and none is on its way down. -/
def assignReady (s : State) (e : Hdr × Nat × List Nat) : Bool :=
  (groupsOf e.2.2).all fun g => (groupOf s g).on && !((s.spn.down.map (·.group)) == some g)

def makeAssignment (s : State) (e : Hdr × Nat × List Nat) : State :=
  answer (each e.2.2 (moveMason e.2.1) s) e.1 0x0609 []

theorem finishAssign_eq (s : State) : finishAssign s =
    each (s.msn.assigning.filter (assignReady s)) makeAssignment (modMsnBlk s fun x =>
      { x with assigning := x.assigning.filter fun e => !assignReady s e }) := rfl

theorem finishAssign_groups (s : State) : (finishAssign s).msn.groups = s.msn.groups := by
  have hmake (s : State) (e : Hdr × Nat × List Nat) :
      (makeAssignment s e).msn.groups = s.msn.groups :=
    (congrArg Msn.groups (answer_msn _ _ _ _)).trans (each_groups (moveMason_groups e.2.1) _ s)
  rw [finishAssign_eq]
  exact each_groups hmake _ _

/-- The assignment that a command makes wait. -/
def withAssignment (s : State) (e : Hdr × Nat × List Nat) : State :=
  modMsnBlk s fun x => { x with assigning := x.assigning ++ [e] }

/-- A group that is off begins to clear its scratches. -/
def powerGroup (s : State) (g : Nat) : State :=
  if (groupOf s g).on then s else modGroup s g fun x => { x with clearing := true }

theorem assignMasons_eq (s : State) (h : Hdr) (j : Nat) (ms : List Nat) :
    assignMasons s h j ms =
      finishAssign (each (groupsOf ms) powerGroup (withAssignment s (h, j, ms))) := rfl

theorem groupOf_modMason (s : State) (m : Nat) (f : Mason → Mason) (g : Nat) :
    groupOf (modMason s m f) g = groupOf s g := rfl

theorem groupOf_modGroup (s : State) (k g : Nat) (f : MGroup → MGroup) :
    groupOf (modGroup s k f) g = if g = k then f (groupOf s k) else groupOf s g := by
  split
  · rename_i h
    rw [h, groupOf_modGroup_same]
  · exact mapGet_mapMod_other _ _ _ _ _ ‹_›

/-- What a group is after another, or itself, was told to come up. -/
theorem groupOf_powerGroup (s : State) (k g : Nat) : groupOf (powerGroup s k) g =
    { groupOf s g with
      clearing := (groupOf s g).clearing || (decide (g = k) && !(groupOf s g).on) } := by
  rw [powerGroup]
  split
  · rename_i hon
    have hsame : ((groupOf s g).clearing || (decide (g = k) && !(groupOf s g).on)) =
        (groupOf s g).clearing := by
      by_cases h : g = k <;> simp [h, hon]
    rw [hsame]
  · rename_i hoff
    rw [groupOf_modGroup]
    by_cases h : g = k
    · simp [h, hoff]
    · simp [h]

theorem powerGroup_assigning (s : State) (g : Nat) :
    (powerGroup s g).msn.assigning = s.msn.assigning := by
  rw [powerGroup]
  split <;> rfl

theorem powerGroups_effect (g : Nat) : ∀ (gs : List Nat) (s : State),
    (each gs powerGroup s).msn.assigning = s.msn.assigning ∧
    groupOf (each gs powerGroup s) g = { groupOf s g with
      clearing := (groupOf s g).clearing || (gs.contains g && !(groupOf s g).on) }
  | [], s => by simp [each]
  | k :: gs, s => by
    obtain ⟨hwait, hgroup⟩ := powerGroups_effect g gs (powerGroup s k)
    refine ⟨hwait.trans (powerGroup_assigning s k), hgroup.trans ?_⟩
    rw [groupOf_powerGroup]
    by_cases h : g = k
    · cases (groupOf s g).on <;> simp [h]
    · simp [h]

section
variable {s : State} {e : Hdr × Nat × List Nat} (hwait : s.msn.assigning = [])
include hwait

theorem withAssignment_assigning : (withAssignment s e).msn.assigning = [e] := by
  show s.msn.assigning ++ [e] = [e]
  rw [hwait, List.nil_append]

theorem finishAssign_of_ready (hr : assignReady s e = true) :
    finishAssign (withAssignment s e) = makeAssignment s e := by
  have hready : assignReady (withAssignment s e) e = true := hr
  have hkept : (modMsnBlk (withAssignment s e) fun x => { x with assigning := [] }) = s := by
    show { s with msn := { s.msn with assigning := [] } } = s
    rw [← hwait]
  have hdrop : (modMsnBlk (withAssignment s e) fun x =>
      { x with assigning := x.assigning.filter fun d => !assignReady (withAssignment s e) d }) =
      modMsnBlk (withAssignment s e) fun x => { x with assigning := [] } := by
    simp only [modMsnBlk, withAssignment_assigning hwait, List.filter_cons, hready, Bool.not_true,
      Bool.false_eq_true, if_false, List.filter_nil]
  rw [finishAssign_eq, hdrop, hkept, withAssignment_assigning hwait, List.filter_cons, if_pos hready]
  rfl

end

theorem finishAssign_of_waiting {s : State} {e : Hdr × Nat × List Nat} (hwait : s.msn.assigning = [e])
    (hr : assignReady s e = false) : finishAssign s = s := by
  have hkept : (modMsnBlk s fun x =>
      { x with assigning := x.assigning.filter fun d => !assignReady s d }) = s := by
    have hall : s.msn.assigning.filter (fun d => !assignReady s d) = s.msn.assigning := by
      rw [hwait, List.filter_cons, if_pos (by rw [hr]; rfl), List.filter_nil]
    show { s with msn := { s.msn with
      assigning := s.msn.assigning.filter fun d => !assignReady s d } } = s
    rw [hall]
  rw [finishAssign_eq, hkept, hwait, List.filter_cons, if_neg (by rw [hr]; exact Bool.false_ne_true)]
  rfl

section
variable {s : State} {h : Hdr} {ms : List Nat}

theorem exec_cmdMsnAssign_of_movable (hg : granted s h 0x0609 = true)
    (hj : (jobOf s (namedJob h)).created = true) (hm : masonsOk ms = true)
    (ho : ∀ m ∈ ms, (masonOf s m).job = some (namedJob h) ∨ movable (masonOf s m) = true) :
    exec (.cmdMsnAssign h ms) s = .next (assignMasons s h (namedJob h) ms) := by
  have hany : ms.any (fun m => (masonOf s m).job != some (namedJob h) && !movable (masonOf s m)) = false :=
    any_eq_false_of_forall fun m hmem => by
      rcases ho m hmem with hjob | hmove
      · simp [hjob]
      · simp [hmove]
  exact exec_of_headCheck rfl (headCheck_created (headCheck_msnAssign hg) hj)
    ((ite_not_of_true hm).trans (if_neg (by rw [hany]; exact Bool.false_ne_true)))

/-- With every group up the assignment is made at once. -/
theorem assignMasons_of_on {j : Nat} (hwait : s.msn.assigning = [])
    (hon : ∀ g ∈ groupsOf ms, (groupOf s g).on = true ∧ s.spn.down.map (·.group) ≠ some g) :
    assignMasons s h j ms = answer (each ms (moveMason j) s) h 0x0609 [] := by
  have hpower : each (groupsOf ms) powerGroup (withAssignment s (h, j, ms)) = withAssignment s (h, j, ms) :=
    each_eq_self fun g hmem => if_pos (hon g hmem).1
  have hready : assignReady s (h, j, ms) = true :=
    List.all_eq_true.2 fun g hmem => by
      obtain ⟨hup, hstay⟩ := hon g hmem
      simp [hup, hstay]
  rw [assignMasons_eq, hpower, finishAssign_of_ready hwait hready]
  rfl

/-- A group that is off makes the assignment wait while it clears. -/
theorem assignMasons_of_off {j g : Nat} (hwait : s.msn.assigning = []) (hmem : g ∈ groupsOf ms)
    (hoff : (groupOf s g).on = false) : (assignMasons s h j ms).msn.assigning = [(h, j, ms)] ∧
      (groupOf (assignMasons s h j ms) g).clearing = true := by
  obtain ⟨hlist, hgroup⟩ := powerGroups_effect g (groupsOf ms) (withAssignment s (h, j, ms))
  have hone := hlist.trans (withAssignment_assigning hwait)
  have hsame : groupOf (withAssignment s (h, j, ms)) g = groupOf s g := rfl
  rw [hsame] at hgroup
  have hnot : assignReady (each (groupsOf ms) powerGroup (withAssignment s (h, j, ms))) (h, j, ms) = false :=
    List.all_eq_false.2 ⟨g, hmem, by rw [hgroup]; simp [hoff]⟩
  rw [assignMasons_eq, finishAssign_of_waiting hone hnot, hgroup]
  exact ⟨hone, by simp [hoff, hmem]⟩

/-- A group that the last of its masons has left powers down before the answer (R284). -/
def answerUnassign (s : State) (h : Hdr) (ms : List Nat) : State :=
  match emptied s ms with
  | some g => startPowerDown s g (some h)
  | none => answer s h 0x0609 []

theorem exec_cmdMsnUnassign_of_movable (hg : granted s h 0x0609 = true) (hm : masonsOk ms = true)
    (ho : ∀ m ∈ ms, (masonOf s m).job = none ∨ movable (masonOf s m) = true) :
    exec (.cmdMsnUnassign h ms) s = .next (answerUnassign (each ms unassignMason s) h ms) := by
  have hany : ms.any (fun m => (masonOf s m).job.isSome && !movable (masonOf s m)) = false :=
    any_eq_false_of_forall fun m hmem => by
      rcases ho m hmem with hjob | hmove
      · simp [hjob]
      · simp [hmove]
  exact exec_of_headCheck rfl (headCheck_msnAssign hg)
    ((ite_not_of_true hm).trans (if_neg (by rw [hany]; exact Bool.false_ne_true)))

/-! ## CMD_MSN_CONTROL (R285, R304, R310) -/

theorem exec_cmdMsnControlStart_of_reset (hg : granted s h 0x060B = true)
    (hj : (jobOf s (namedJob h)).created = true) (hm : masonsOk ms = true)
    (ho : ∀ m ∈ ms, (masonOf s m).job = some (namedJob h)) (hst : ∀ m ∈ ms, (masonOf s m).st = .reset) :
    exec (.cmdMsnControlStart h ms) s = .next (answer (each ms startMason s) h 0x060B []) := by
  have hany : ms.any (fun m => (masonOf s m).st != .reset) = false :=
    any_eq_false_of_forall fun m hmem => by simp [hst m hmem]
  refine exec_of_headCheck rfl (headCheck_created (headCheck_msnControl hg) hj) ?_
  simp only [namedCheck_of_owned hm ho, hany, Bool.false_eq_true, if_false]

theorem any_resetBarred {ms : List Nat} (hoff : ∀ m ∈ ms, (masonOf s m).st ≠ .off)
    (hfail : ∀ m ∈ ms, (masonOf s m).st ≠ .failed) :
    ms.any (fun m => (masonOf s m).st == .off || (masonOf s m).st == .failed) = false :=
  any_eq_false_of_forall fun m hmem => by simp [hoff m hmem, hfail m hmem]

theorem exec_cmdMsnControlReset_of_named (hg : granted s h 0x060B = true)
    (hj : (jobOf s (namedJob h)).created = true) (hm : masonsOk ms = true)
    (ho : ∀ m ∈ ms, (masonOf s m).job = some (namedJob h))
    (hst : ∀ m ∈ ms, (masonOf s m).st ≠ .off ∧ (masonOf s m).st ≠ .failed) :
    exec (.cmdMsnControlReset h none ms) s = .next (answer (each ms resetMason s) h 0x060B []) := by
  refine exec_of_headCheck rfl (headCheck_created (headCheck_msnControl hg) hj) ?_
  simp only [resetCheck, namedCheck_of_owned hm ho, resetTargets,
    any_resetBarred (fun m hmem => (hst m hmem).1) (fun m hmem => (hst m hmem).2),
    Bool.false_eq_true, if_false]

theorem exec_cmdMsnControlReset_of_group {g : Nat} (hg : granted s h 0x060B = true) (hfn : h.fn = 0)
    (hlt : g < 12) (hst : ∀ m ∈ resetTargets s (some g) ms, (masonOf s m).st ≠ .off) :
    exec (.cmdMsnControlReset h (some g) ms) s =
      .next (answer (each (resetTargets s (some g) ms) resetMason s) h 0x060B []) := by
  have hcheck : resetCheck s h (namedJob h) (some g) ms = none := by
    simp only [resetCheck, Nat.not_le.2 hlt, hfn, ne_eq, not_true, false_and, if_false]
  have hfail : ∀ m ∈ resetTargets s (some g) ms, (masonOf s m).st ≠ .failed := fun m hmem => by
    simpa using List.of_mem_filter hmem
  refine exec_of_headCheck rfl (headCheck_msnControl hg) ?_
  simp only [hcheck, any_resetBarred hst hfail, Bool.false_eq_true, if_false]

theorem clockDiv_of_ramp {d : Nat} (hd : d ≤ 2) : clockDiv (2000 / 2 ^ d) = some d := by
  have hcases : d = 0 ∨ d = 1 ∨ d = 2 := by omega
  rcases hcases with rfl | rfl | rfl <;> rfl

theorem exec_cmdMsnControlClock_of_ramp {g d : Nat} (hg : granted s h 0x060B = true) (hfn : h.fn = 0)
    (hlt : g < 12) (hd : d ≤ 2) : exec (.cmdMsnControlClock h g (2000 / 2 ^ d)) s =
      .next (answer (modGroup s g fun x => { x with target := d }) h 0x060B []) := by
  refine exec_of_headCheck rfl (headCheck_pf0 (headCheck_msnControl hg) hfn) ?_
  simp only [clockDiv_of_ramp hd, if_neg (Nat.not_le.2 hlt)]

theorem exec_cmdMsnControlPauseTimeout_of_range {us : Nat} (hg : granted s h 0x060B = true)
    (hfn : h.fn = 0) (hlo : 10 ≤ us) (hhi : us ≤ 10000) : exec (.cmdMsnControlPauseTimeout h us) s =
      .next (answer { s with msn := { s.msn with pauseUs := us } } h 0x060B []) :=
  exec_of_headCheck rfl (headCheck_pf0 (headCheck_msnControl hg) hfn) (if_neg (by omega))

end

/-- A started mason. -/
theorem masonOf_startMason (s : State) (m : Nat) : masonOf (startMason s m) m = { masonOf s m with
    st := .running, regs := [], mtvec := 0, pc := BitVec.ofNat 64 (0x10000 + (masonOf s m).entry),
    trapped := false, wait := none, resv := none } := masonOf_modMason_same _ _ _

theorem regOf_of_noRegs {x : Mason} (h : x.regs = []) (i : Nat) : regOf x i = 0 := by
  rw [regOf, h]
  split <;> rfl

/-- A reset mason holds nothing, but keeps its scratch (R304). -/
theorem masonOf_resetMason (s : State) (m : Nat) : masonOf (resetMason s m) m =
    { emptyHanded (masonOf s m) with
      st := .reset, trapped := false, wait := none, wmSignal := false, pausePending := false,
      resv := none, reason := 0 } := by
  obtain ⟨b, hb⟩ := masonOf_completePallets s m
  rw [resetMason, masonOf_modMason_same, hb]
  rfl

/-! ## Programs (R305) -/

theorem exec_cmdMsnLoad_of_ready {s : State} {h : Hdr} {ms : List Nat} {b : Bulk}
    (hg : granted s h 0x060A = true) (hm : masonsOk ms = true)
    (ho : ∀ m ∈ ms, (masonOf s m).job = some (namedJob h) ∧ loadable (masonOf s m) = true)
    (hb : bulkReady s b = true) (hok : progOk b.data = true) (hcrc : progCrcOk b.data = true) :
    exec (.cmdMsnLoad h ms b) s = .next (respond (enlist
      { s with msn := { s.msn with loads := s.msn.loads ++ [(h, ms, b.data)] } } h 0x060A [])
      h 0x060A .accepted []) := by
  obtain ⟨hlist, hroom⟩ := bulkReady_iff.1 hb
  have hall : ms.all (fun m => loadable (masonOf s m)) = true :=
    List.all_eq_true.2 fun m hmem => (ho m hmem).2
  rw [exec_of_granted rfl rfl hg]
  simp only [namedCheck_of_owned hm fun m hmem => (ho m hmem).1, hall, hlist, hok, hcrc, Bool.not_true,
    Bool.false_eq_true, if_false]
  exact congrArg _ (accept_eq hroom)

theorem exec_msnLoadDone_of_loadable {s : State} {h : Hdr} {ms : List Nat} {img : List Byte}
    {rest : List (Hdr × List Nat × List Byte)} (hl : s.msn.loads = (h, ms, img) :: rest)
    (ho : ∀ m ∈ ms, loadable (masonOf s m) = true) : exec .msnLoadDone s =
      .next (complete (each ms (writeProgram img)
        (dropAccOf { s with msn := { s.msn with loads := rest } } 0x060A h)) h 0x060A 0x0805 .ok []) := by
  have hall : ms.all (fun m => loadable (masonOf
      (dropAccOf (modMsnBlk s fun x => { x with loads := rest }) 0x060A h) m)) = true :=
    List.all_eq_true.2 fun m hmem =>
      (congrArg loadable (masonOf_congr (congrArg Msn.masons (dropAccOf_msn _ _ _)) m)).trans (ho m hmem)
  have hdone : msnLoadDone s = complete (each ms (writeProgram img)
      (dropAccOf (modMsnBlk s fun x => { x with loads := rest }) 0x060A h)) h 0x060A 0x0805 .ok [] := by
    simp only [msnLoadDone, hl, hall, if_true]
  exact congrArg Host.Outcome.next hdone

theorem masonOf_writeProgram (s : State) (m : Nat) (img : List Byte) :
    masonOf (writeProgram img s m) m = { masonOf (resetMason s m) m with
      scratch := progScratch img, entry := leAt img 8 4, safe := bitOf (leAt img 5 1) 0,
      loaded := true } := masonOf_modMason_same _ _ _

/-! ## Domains (R284, R398) -/

theorem unfenceGroup_msn (s : State) (g : Nat) : (unfenceGroup s g).msn = s.msn := by
  rw [unfenceGroup]
  split
  · rw [runUnfence]
    split <;> rfl
  · rfl

theorem groupOf_groupCleared {s : State} {g : Nat} (hc : (groupOf s g).clearing = true) :
    (groupOf (groupCleared s g) g).on = true ∧ (groupOf (groupCleared s g) g).clearing = false := by
  rw [groupCleared, if_neg (by rw [hc]; exact Bool.false_ne_true),
    groupOf_congr ((finishAssign_groups _).trans (congrArg Msn.groups (unfenceGroup_msn _ _))),
    groupOf_modGroup_same]
  exact ⟨rfl, rfl⟩

/-! ## Pauses (R309, R310) -/

theorem exec_masonPaused_of_pending {s : State} {m : Nat} (hm : m < 192)
    (hp : (masonOf s m).pausePending = true) (hc : (masonOf s m).cur = none)
    (hpush : (masonOf s m).pusho = none)
    (hst : (masonOf s m).st = .running ∨ (masonOf s m).st = .waiting) :
    exec (.masonPaused m) s = .next (pauseMason s m) :=
  exec_of_unit rfl hm (if_pos (by rcases hst with h | h <;> simp [hp, hc, hpush, h]))

theorem skipGroupTest_of_idle {s : State} (j : Nat) (hsweep : s.spr.sweeping = none)
    (hbist : s.spr.bist = none) : skipGroupTest s j = s := by
  simp only [skipGroupTest, hsweep, hbist]

/-- A mason that has not stopped in time lets the capture fail with reason 1 (log 136). -/
theorem pauseTimeout_of_late {s : State} {j : Nat} (hcap : (jobOf s j).capturing = some .pausing)
    (hlate : (masonsOfJob s j).any (fun m => !pausedNow (masonOf s m)) = true) :
    pauseTimeout s j = failCapture (emitJob s 0x0804 j []) j 1 := if_pos ⟨hcap, hlate⟩

/-! ## Substitution (R311, R312) -/

/-- The position bound to the spare core, the core no longer spare. -/
def boundSpare (s : State) (m core : Nat) : State :=
  modMason (modGroup (addRepair s 9 (masonOf s m).phys 0) (m / 16) fun x => { x with spare := none }) m
    fun x => { x with phys := 17 * (m / 16) + core }

theorem sparedMason_cases (s : State) (m core : Nat) :
    sparedMason s m core = emitDev (boundSpare s m core) 0x0802 [(1, m)] ∨
      sparedMason s m core = emitDev (resumeMason (boundSpare s m core) m) 0x0802 [(1, m)] := by
  have hdef : sparedMason s m core = emitDev (match (masonOf (boundSpare s m core) m).job with
      | some j => if (jobOf (boundSpare s m core) j).capturing.isSome then boundSpare s m core
          else resumeMason (boundSpare s m core) m
      | none => resumeMason (boundSpare s m core) m) 0x0802 [(1, m)] := rfl
  rw [hdef]
  split
  · split
    · exact .inl rfl
    · exact .inr rfl
  · exact .inr rfl

theorem sparedMason_effect (s : State) (m core : Nat) :
    (masonOf (sparedMason s m core) m).phys = 17 * (m / 16) + core ∧
      (groupOf (sparedMason s m core) (m / 16)).spare = none := by
  have hphys : (masonOf (boundSpare s m core) m).phys = 17 * (m / 16) + core := by
    rw [boundSpare, masonOf_modMason_same]
  have hspare : (groupOf (boundSpare s m core) (m / 16)).spare = none := by
    rw [boundSpare, groupOf_modMason, groupOf_modGroup_same]
  have hmsn (t : State) : (emitDev t 0x0802 [(1, m)]).msn = t.msn := emitDev_msn _ _ _
  rcases sparedMason_cases s m core with h | h
  · rw [h, masonOf_congr (congrArg Msn.masons (hmsn _)), groupOf_congr (congrArg Msn.groups (hmsn _))]
    exact ⟨hphys, hspare⟩
  · rw [h, masonOf_congr (congrArg Msn.masons (hmsn _)), groupOf_congr (congrArg Msn.groups (hmsn _)),
      resumeMason, masonOf_modMason_same, groupOf_modMason]
    exact ⟨hphys, hspare⟩

theorem failMason_effect (s : State) (m : Nat) :
    (masonOf (failMason s m) m).st = .failed ∧ (masonOf (failMason s m) m).job = none := by
  rw [failMason, masonOf_congr (congrArg Msn.masons (emitDev_msn _ _ _)), masonOf_modMason_same]
  exact ⟨rfl, masonOf_unassignMason s m⟩

section
variable {s : State} {m : Nat} (hf : s.msn.failedPhys.contains (masonOf s m).phys = true)
  (hst : (masonOf s m).st = .reset)
include hf hst

theorem substitution_due :
    (!s.msn.failedPhys.contains (masonOf s m).phys || (masonOf s m).st == .failed) = false := by
  rw [hf, hst]
  decide

/-- A mason in STATE 1 counts as paused, so its position moves at once (R309, R311). -/
theorem substitute_of_spare {core : Nat} (hc : (groupOf s (m / 16)).spare = some core) :
    substitute s m = sparedMason s m core := by
  have hpaused : (pausedNow (masonOf s m) || (masonOf s m).st == .off) = true := by
    rw [pausedNow, hst]
    decide
  simp only [substitute, substitution_due hf hst, hc, hpaused, Bool.false_eq_true, if_false, if_true]

theorem substitute_of_noSpare (hc : (groupOf s (m / 16)).spare = none) :
    substitute s m = failMason s m := by
  simp only [substitute, substitution_due hf hst, hc, Bool.false_eq_true, if_false]

end

/-- Settles O37, row by row. The reason number of a capture that masons let fail is the model's choice (log
136). -/
theorem masonControlRowsAct : Obligations.MasonControlRowsAct := by
  unfold Obligations.MasonControlRowsAct
  refine ⟨?assign, fun s j m => masonOf_moveMason j s m, ?unassign, masonOf_unassignMason, ?named, ?group,
    ?started, ?wasReset, ?clock, ?timeout, ?load, ?loaded, ?written, ?cleared, ?paused, ?late, ?skipped, ?substituted⟩
  case assign =>
    intro s h ms hg hj hm ho hwait
    have hexec := exec_cmdMsnAssign_of_movable hg hj hm ho
    exact ⟨fun hon => hexec.trans (congrArg _ (assignMasons_of_on hwait hon)),
      fun g hmem hoff => ⟨_, hexec, assignMasons_of_off hwait hmem hoff⟩⟩
  case unassign => exact fun s h ms => exec_cmdMsnUnassign_of_movable
  case named =>
    exact fun s h ms hg hj hm ho => ⟨exec_cmdMsnControlStart_of_reset hg hj hm ho,
      exec_cmdMsnControlReset_of_named hg hj hm ho⟩
  case group => exact fun s h g ms => exec_cmdMsnControlReset_of_group
  case started =>
    intro s m
    rw [masonOf_startMason]
    exact ⟨rfl, regOf_of_noRegs rfl, rfl, rfl, rfl⟩
  case wasReset =>
    intro s m
    rw [masonOf_resetMason]
    exact ⟨rfl, rfl, rfl, rfl⟩
  case clock => exact fun s h g d => exec_cmdMsnControlClock_of_ramp
  case timeout => exact fun s h us => exec_cmdMsnControlPauseTimeout_of_range
  case load => exact fun s h ms b => exec_cmdMsnLoad_of_ready
  case loaded => exact fun s h ms img rest => exec_msnLoadDone_of_loadable
  case written =>
    intro s m img
    rw [masonOf_writeProgram, masonOf_resetMason]
    exact ⟨rfl, rfl, rfl, rfl⟩
  case cleared => exact fun s g hg hc => ⟨_, exec_of_unit rfl hg rfl, groupOf_groupCleared hc⟩
  case paused => exact fun s m => exec_masonPaused_of_pending
  case late =>
    intro s j hj hsweep hbist hcap hlate
    refine exec_of_unit rfl hj ?_
    rw [skipGroupTest_of_idle j hsweep hbist, pauseTimeout_of_late hcap hlate]
  case skipped => exact fun s j hj => exec_of_unit rfl hj rfl
  case substituted =>
    intro s m hm hf hst
    refine ⟨_, exec_of_unit rfl hm rfl, fun core hc => ?_, fun hc => ?_⟩
    · rw [substitute_of_spare hf hst hc]
      exact sparedMason_effect s m core
    · rw [substitute_of_noSpare hf hst hc]
      exact failMason_effect s m

end Sys2Proof.Machine
end

section
/-! PROOFS. Loads, stores, atomics and fetches of a mason (R286, R287, R289 to R291, R300, R301). An access to
its own memories and registers lies below the peer windows, and they below the design window. -/

namespace Sys2Proof.Machine

/-! ## The design window (R300) -/

section
variable {s : State} {m j f3 rs1 : Nat} {imm : BitVec 12} {ups : List Upset}
  (hr : runs (masonOf (upsets s ups) m) = true) (hup : memUp (upsets s ups) = true)
  (hj : (masonOf (upsets s ups) m).job = some j)
  (hin : inDesign (effAddr (masonOf (upsets s ups) m) rs1 imm) (opSize f3) = true)
  (hw : rangeWaits (upsets s ups) (effAddr (masonOf (upsets s ups) m) rs1 imm - designBase)
    (opSize f3) = false)
include hr hup hj hin hw

theorem designLoad_of_up (rd : Nat) (c : Bool) (hf : f3 < 7) :
    let u := upsets s ups
    let r := masterRead u (9 + j) (effAddr (masonOf u m) rs1 imm - designBase) (opSize f3)
    designLoad s m (.load f3 rd rs1 imm c) ups =
      if r.1 = .ok then retire r.2.2 m rd (extend f3 (leNat r.2.1)) (opLen c)
      else accessFault r.2.2 m (.load f3 rd rs1 imm c) (accReason r.1) := by
  have hok : loadOk f3 = true := decide_eq_true hf
  simp only [designLoad, hj, hr, hup, hin, hw, hok, Bool.not_true, Bool.or_self, Bool.false_eq_true,
    if_false]

theorem designStore_of_up (rs2 : Nat) (c : Bool) (hf : f3 < 4) :
    let u := upsets s ups
    let r := masterWrite u (9 + j) false (effAddr (masonOf u m) rs1 imm - designBase)
      (leBytes (opSize f3) (regOf (masonOf u m) rs2).toNat)
    designStore s m (.store f3 rs2 rs1 imm c) ups =
      if r.1 = .ok then retire r.2 m 0 0 (opLen c)
      else accessFault r.2 m (.store f3 rs2 rs1 imm c) (accReason r.1) := by
  have hok : storeOk f3 = true := decide_eq_true hf
  simp only [designStore, hj, hr, hup, hin, hw, hok, Bool.not_true, Bool.or_self, Bool.false_eq_true,
    if_false]

end

/-! ## Peer windows (R291) -/

section
variable {s t : State} {m f3 rs1 : Nat} {imm : BitVec 12} (hr : runs (masonOf s m) = true)
  (hin : inPeer (effAddr (masonOf s m) rs1 imm) (opSize f3) = true)
  (hown : (peerParts (effAddr (masonOf s m) rs1 imm) (opSize f3)).all
    (fun w => peerAllowed s m w.1) = true)
include hr hin hown

theorem peerAccess_of_read {v : Nat} (rd : Nat) (c : Bool) (hf : f3 < 7)
    (hread : peerRead s (peerParts (effAddr (masonOf s m) rs1 imm) (opSize f3)) = (some v, t)) :
    peerAccess s m (.load f3 rd rs1 imm c) = retire t m rd (extend f3 v) (opLen c) := by
  have hok : loadOk f3 = true := decide_eq_true hf
  simp only [peerAccess, hr, hin, hok, hown, hread, Bool.not_true, Bool.false_eq_true, if_false]

theorem peerAccess_of_written {rs2 : Nat} (c : Bool) (hf : f3 < 4)
    (hwrite : peerWrite s (peerParts (effAddr (masonOf s m) rs1 imm) (opSize f3))
      ((regOf (masonOf s m) rs2).toNat % 2 ^ (8 * opSize f3)) = (true, t)) :
    peerAccess s m (.store f3 rs2 rs1 imm c) = retire t m 0 0 (opLen c) := by
  have hok : storeOk f3 = true := decide_eq_true hf
  simp only [peerAccess, hr, hin, hok, hown, hwrite, Bool.not_true, Bool.false_eq_true, if_false]

end

/-! ## The mason's own map (Table 9-3) -/

/-- Nothing below the peer windows is in a window. -/
theorem notInWindows {a : Nat} (n : Nat) (h : a < peerBase) : (inDesign a n || inPeer a n) = false := by
  have hpeer : ¬ peerBase ≤ a := Nat.not_le.2 h
  have hdesign : ¬ designBase ≤ a := fun hd => hpeer (Nat.le_trans (by decide) hd)
  rw [inDesign, inPeer, decide_eq_false hdesign, decide_eq_false hpeer]
  rfl

theorem lt_peerBase_of_inData {a n : Nat} (h : inData a n = true) : a < peerBase := by
  simp only [inData, Bool.and_eq_true, decide_eq_true_eq] at h
  simp only [peerBase]
  omega

/-- Access of a running mason to its own memories, by the operation. -/
def ownAccess (s : State) (m : Nat) : MemOp → State
  | .fetch => fetchAccess s m
  | .load f3 rd rs1 imm c => loadAccess s m (.load f3 rd rs1 imm c) f3 rd (effAddr (masonOf s m) rs1 imm) c
  | .store f3 rs2 rs1 imm c =>
    storeAccess s m (.store f3 rs2 rs1 imm c) f3 rs2 (effAddr (masonOf s m) rs1 imm) c
  | op => atomicAccess s m op

theorem exec_scratchAccess_of_runs {s t : State} {m : Nat} {op : MemOp} {ups : List Upset} (hm : m < 192)
    (hr : runs (masonOf (upsets s ups) m) = true) (h : ownAccess (upsets s ups) m op = t) :
    exec (.scratchAccess m op ups) s = .next t := by
  refine exec_of_unit rfl hm (Eq.trans ?_ h)
  cases op <;> exact (ite_not_of_true hr).trans rfl

section
variable {s : State} {m : Nat} {op : MemOp} {f3 a : Nat} (rd : Nat) (c : Bool) (hf : f3 < 7)
include hf

theorem loadAccess_of_read {t : State} {v : Nat} (hin : inData a (opSize f3) = true)
    (hread : scratchRead s m a (opSize f3) = (some v, t)) :
    loadAccess s m op f3 rd a c = retire t m rd (extend f3 v) (opLen c) := by
  have hok : loadOk f3 = true := decide_eq_true hf
  simp only [loadAccess, notInWindows _ (lt_peerBase_of_inData hin), hok, hin, hread, Bool.or_true,
    Bool.not_true, Bool.false_eq_true, if_false, if_true]

theorem loadAccess_of_local (hin : inLocal a (opSize f3) = true) :
    loadAccess s m op f3 rd a c =
      retire s m rd (extend f3 (localRead m (masonOf s m) a (opSize f3))) (opLen c) := by
  have hok : loadOk f3 = true := decide_eq_true hf
  have hbounds : 0x100000 ≤ a ∧ a + opSize f3 ≤ 0x101000 := by
    simpa [inLocal] using hin
  have hwin := notInWindows (a := a) (opSize f3) (by simp only [peerBase]; omega)
  have hscr : (inInst a (opSize f3) || inData a (opSize f3)) = false := by
    simp only [inInst, inData, Bool.or_eq_false_iff, Bool.and_eq_false_iff, decide_eq_false_iff_not]
    omega
  simp only [loadAccess, hwin, hok, hscr, hin, Bool.not_true, Bool.false_eq_true, if_false, if_true]

end

/-- Below the instruction scratch there is nothing (R286). -/
theorem loadAccess_of_low {s : State} {m a : Nat} {op : MemOp} (rd : Nat) (c : Bool)
    (ha : a + 8 ≤ 0x10000) :
    loadAccess s m op 3 rd a c = accessFault s m op 6 := by
  have hwin := notInWindows (a := a) (opSize 3) (by simp only [peerBase]; omega)
  have hmap : (inInst a (opSize 3) || inData a (opSize 3)) = false ∧ inLocal a (opSize 3) = false := by
    simp only [inInst, inData, inLocal, Bool.or_eq_false_iff, Bool.and_eq_false_iff,
      decide_eq_false_iff_not]
    omega
  obtain ⟨hscr, hloc⟩ := hmap
  have hok : loadOk 3 = true := rfl
  simp only [loadAccess, hwin, hok, hscr, hloc, Bool.not_true, Bool.false_eq_true, if_false]

/-- A whole word is written without being read (R287). -/
theorem scratchWrite_word (s : State) (m v : Nat) {a : Nat} (ha : a % 8 = 0) :
    scratchWrite s m a 8 v = (true, putScratch s m (a / 8) v) := if_pos ⟨ha, rfl⟩

theorem storeAccess_of_word {s : State} {m a rs2 : Nat} {op : MemOp} (c : Bool) (hin : inData a 8 = true)
    (ha : a % 8 = 0) : storeAccess s m op 3 rs2 a c =
      retire (putScratch s m (a / 8) (regOf (masonOf s m) rs2).toNat) m 0 0 (opLen c) := by
  have hsize : opSize 3 = 8 := rfl
  have hok : storeOk 3 = true := rfl
  simp only [storeAccess, hsize, notInWindows _ (lt_peerBase_of_inData hin), hok, hin,
    scratchWrite_word s m _ ha, Bool.not_true, Bool.false_eq_true, if_false, if_true]

/-! ## Fetches (R286; log 131) -/

theorem fetchAccess_of_word {s t t' : State} {m v w : Nat}
    (hin : inInst (masonOf s m).pc.toNat 4 = true) (hv : v % 4 = 3)
    (hhalf : scratchRead s m (masonOf s m).pc.toNat 2 = (some v, t))
    (hword : scratchRead t m (masonOf s m).pc.toNat 4 = (some w, t')) :
    fetchAccess s m = baseInstr t' m w 4 := by
  have hin2 : inInst (masonOf s m).pc.toNat 2 = true := by
    simp only [inInst, Bool.and_eq_true, decide_eq_true_eq] at hin ⊢
    omega
  simp only [fetchAccess, hin2, hhalf, hv, hin, hword, ne_eq, not_true, Bool.not_true,
    Bool.false_eq_true, if_false]

/-- The fields of an I-type word are those it was built of. -/
theorem fields_encI {op rd f3 rs1 imm : Nat} (hop : op < 128) (hrd : rd < 32) (hf3 : f3 < 8)
    (hrs1 : rs1 < 32) (himm : imm < 4096) :
    opc (encI op rd f3 rs1 imm) = op ∧ rdOf (encI op rd f3 rs1 imm) = rd ∧
      f3Of (encI op rd f3 rs1 imm) = f3 ∧ rs1Of (encI op rd f3 rs1 imm) = rs1 ∧
      immI (encI op rd f3 rs1 imm) = BitVec.ofNat 12 imm := by
  have hfield : field (encI op rd f3 rs1 imm) 31 20 = imm := by
    simp only [field, encI]
    omega
  simp only [opc, rdOf, f3Of, rs1Of, immI, hfield, and_true]
  simp only [field, encI]
  omega

theorem baseInstr_addi (s : State) (m : Nat) {rd rs1 imm : Nat} (hrd : rd < 32) (hrs1 : rs1 < 32)
    (himm : imm < 4096) : baseInstr s m (encI 0x13 rd 0 rs1 imm) 4 =
      retire s m rd (regOf (masonOf s m) rs1 + (BitVec.ofNat 12 imm).signExtend 64) 4 := by
  obtain ⟨hopc, hrdOf, hf3, hrs1Of, himmI⟩ :=
    fields_encI (op := 0x13) (f3 := 0) (by decide) hrd (by decide) hrs1 himm
  have hbase : baseInstr s m (encI 0x13 rd 0 rs1 imm) 4 = opImmInstr s m (encI 0x13 rd 0 rs1 imm) 4 := by
    simp only [baseInstr, hopc]
  rw [hbase]
  simp [opImmInstr, hf3, hrdOf, hrs1Of, himmI, aluOp]

/-! ## Atomics (R286) -/

theorem atomicAccess_lr_of_read {s t : State} {m rs1 v : Nat} {dbl : Bool} (rd : Nat)
    (ha : (regOf (masonOf s m) rs1).toNat % amoSize dbl = 0)
    (hin : inData (regOf (masonOf s m) rs1).toNat (amoSize dbl) = true)
    (hread : scratchRead s m (regOf (masonOf s m) rs1).toNat (amoSize dbl) = (some v, t)) :
    atomicAccess s m (.lr dbl rd rs1) =
      retire (modMason t m fun y => { y with resv := some (regOf (masonOf s m) rs1).toNat })
        m rd (amoVal dbl v) 4 := by
  simp only [atomicAccess, notInWindows _ (lt_peerBase_of_inData hin), ha, hin, hread, ne_eq, not_true,
    Bool.not_true, Bool.false_eq_true, if_false]

section
variable {s : State} {m rs1 : Nat} (rd rs2 : Nat)
  (ha : (regOf (masonOf s m) rs1).toNat % 8 = 0)
  (hin : inData (regOf (masonOf s m) rs1).toNat 8 = true)
include ha hin

theorem atomicAccess_sc_of_word : atomicAccess s m (.sc true rd rs1 rs2) =
    if (masonOf s m).resv = some (regOf (masonOf s m) rs1).toNat then
      retire (modMason (putScratch s m ((regOf (masonOf s m) rs1).toNat / 8)
        (regOf (masonOf s m) rs2).toNat) m fun y => { y with resv := none }) m rd 0 4
    else retire (modMason s m fun y => { y with resv := none }) m rd 1 4 := by
  have hsize : amoSize true = 8 := rfl
  simp only [atomicAccess, hsize, notInWindows _ (lt_peerBase_of_inData hin), ha, hin,
    scratchWrite_word s m _ ha, ne_eq, not_true, Bool.not_true, Bool.false_eq_true, if_false, ite_not]

theorem atomicAccess_amo_of_word {f5 old new : Nat} {t : State}
    (hdef : ∃ z, amoOp f5 64 0 0 = some z)
    (hread : scratchRead s m (regOf (masonOf s m) rs1).toNat 8 = (some old, t))
    (hnew : amoOp f5 64 old (regOf (masonOf s m) rs2).toNat = some new) :
    atomicAccess s m (.amo true f5 rd rs1 rs2) =
      retire (putScratch t m ((regOf (masonOf s m) rs1).toNat / 8) new) m rd (BitVec.ofNat 64 old) 4 := by
  obtain ⟨z, hz⟩ := hdef
  have hsize : amoSize true = 8 := rfl
  have hbits : 8 * 8 = 64 := rfl
  have hwhole : (regOf (masonOf s m) rs2).toNat % 2 ^ 64 = (regOf (masonOf s m) rs2).toNat :=
    Nat.mod_eq_of_lt (regOf (masonOf s m) rs2).isLt
  simp only [atomicAccess, hsize, hbits, notInWindows _ (lt_peerBase_of_inData hin), hz, ha, hin, hread,
    hwhole, hnew, scratchWrite_word t m _ ha, amoVal, Option.isNone_some, ne_eq, not_true, Bool.not_true,
    Bool.false_eq_true, if_false, if_true]

end

/-- Settles O39, row by row. That a fetch carries out the word it finds as the base instruction set gives it
is the model's presumption (log 131). -/
theorem masonMemoryRowsAct : Obligations.MasonMemoryRowsAct := by
  unfold Obligations.MasonMemoryRowsAct
  refine ⟨?load, ?store, ?peerLoad, ?peerStore, ?ownLoad, ?ownStore, ?registers, ?low, ?fetch, ?addi, ?lr, ?sc,
    ?amo⟩
  case load =>
    exact fun s m j f3 rd rs1 imm c ups hm hr hup hj hf hin hw =>
      exec_of_unit rfl hm (designLoad_of_up hr hup hj hin hw rd c hf)
  case store =>
    exact fun s m j f3 rs2 rs1 imm c ups hm hr hup hj hf hin hw =>
      exec_of_unit rfl hm (designStore_of_up hr hup hj hin hw rs2 c hf)
  case peerLoad =>
    exact fun s m f3 rd rs1 imm c v t hm hr hf hin hown hread =>
      exec_of_unit rfl hm (peerAccess_of_read hr hin hown rd c hf hread)
  case peerStore =>
    exact fun s m f3 rs2 rs1 imm c t hm hr hf hin hown hwrite =>
      exec_of_unit rfl hm (peerAccess_of_written hr hin hown c hf hwrite)
  case ownLoad =>
    exact fun s m rd rs1 imm c v t ups hm hr f3 hf hin hread =>
      exec_scratchAccess_of_runs hm hr (loadAccess_of_read rd c hf hin hread)
  case ownStore =>
    exact fun s m rs2 rs1 imm c ups hm hr hin ha =>
      exec_scratchAccess_of_runs hm hr (storeAccess_of_word c hin ha)
  case registers =>
    exact fun s m rd rs1 imm c f3 ups hm hf hr hin =>
      exec_scratchAccess_of_runs hm hr (loadAccess_of_local rd c hf hin)
  case low =>
    exact fun s m rd rs1 imm c ups hm hr ha =>
      exec_scratchAccess_of_runs hm hr (loadAccess_of_low rd c ha)
  case fetch =>
    exact fun s m v w t t' ups hm hr hin hv hhalf hword =>
      exec_scratchAccess_of_runs hm hr (fetchAccess_of_word hin hv hhalf hword)
  case addi => exact fun s m rd rs1 imm => baseInstr_addi s m
  case lr =>
    exact fun s m dbl rd rs1 v t ups hm hr ha hin hread =>
      exec_scratchAccess_of_runs hm hr (atomicAccess_lr_of_read rd ha hin hread)
  case sc =>
    exact fun s m rd rs1 rs2 ups hm hr ha hin =>
      exec_scratchAccess_of_runs hm hr (atomicAccess_sc_of_word rd rs2 ha hin)
  case amo =>
    exact fun s m f5 rd rs1 rs2 old new t ups hm hr ha hin hdef hread hnew =>
      exec_scratchAccess_of_runs hm hr (atomicAccess_amo_of_word rd rs2 ha hin hdef hread hnew)

end Sys2Proof.Machine
end

section
/-! PROOFS. What sending leaves of ports and lanes (R315 to R317, R321 to R325, R333 to R339): a slot that goes
out, a control flit, a flit of a message, a message taken. Each change is read as "every port and lane is the
same but for the fields that this traffic moves", and those fields are blanked. -/

namespace Sys2Proof.Machine

/-! ## Ports and lanes but for what traffic moves -/

/-- The route table is kept, and so is what `f` reads of every port and `g` of every lane. -/
structure LinkFrame {α β : Type} (f : Port → α) (g : Lane → β) (s t : State) : Prop where
  route : t.lry.route = s.lry.route
  ports : ∀ k, f (portOf t k) = f (portOf s k)
  lanes : ∀ l, g (laneOf t l) = g (laneOf s l)

/-- A port without the place of its next slot and the codewords being filled. -/
def withoutSlots (q : Port) : Port := { q with txSlot := 0, fill := [] }

/-- A port without what a control flit moves as well: the turns passed over (R334), the sleep of its transmit
direction (R323). -/
def withoutControl (q : Port) : Port :=
  { q with txSlot := 0, fill := [], passed1 := 0, passed2 := 0, txAsleep := false }

/-- A port without what messages move as well: queue, replay buffer, credits, counts, receive buffers. -/
def withoutTraffic (q : Port) : Port :=
  { q with
    txSlot := 0, fill := [], passed1 := 0, passed2 := 0, txAsleep := false, txSeq := 0, replay := [],
    queue := [], credit0 := 0, credit1 := 0, credit2 := 0, freed0 := 0, freed1 := 0, freed2 := 0,
    sinceAck := 0, inbox := [] }

/-- A lane without what symbols move: line memories, receive word, pattern generator, checker, injection. -/
def withoutLine (x : Lane) : Lane :=
  { x with
    txLast := 0, rxLast := 0, rxword := 0, rxAcc := [], genBits := 0, genPos := 0, chkBits := 0, chkPos := 0,
    chkRun := 0, locked := false, injLeft := 0, injGap := 0 }

/-- A lane without its power as well. -/
def withoutPower (x : Lane) : Lane := { withoutLine x with txPower := .active, rxPower := .active }

section
variable {α β γ δ : Type} {f : Port → α} {g : Lane → β} {s t u : State}

theorem LinkFrame.refl (f : Port → α) (g : Lane → β) (s : State) : LinkFrame f g s s :=
  ⟨rfl, fun _ => rfl, fun _ => rfl⟩

theorem LinkFrame.trans (h : LinkFrame f g s t) (h' : LinkFrame f g t u) : LinkFrame f g s u :=
  ⟨h'.route.trans h.route, fun k => (h'.ports k).trans (h.ports k),
    fun l => (h'.lanes l).trans (h.lanes l)⟩

/-- What is kept up to some fields is kept up to more. -/
theorem LinkFrame.map (h : LinkFrame f g s t) (a : α → γ) (b : β → δ) :
    LinkFrame (fun q => a (f q)) (fun x => b (g x)) s t :=
  ⟨h.route, fun k => congrArg a (h.ports k), fun l => congrArg b (h.lanes l)⟩

/-- What a function reads of a port in spite of the fields that traffic moves is as before. -/
theorem LinkFrame.read {b : Port → Port} (h : LinkFrame b g s t) (f : Port → α) (hf : ∀ q, f (b q) = f q)
    (k : Nat) : f (portOf t k) = f (portOf s k) := by
  rw [← hf (portOf t k), h.ports k, hf]

theorem LinkFrame.readLane {b : Lane → Lane} (h : LinkFrame f b s t) (g : Lane → β)
    (hg : ∀ x, g (b x) = g x) (l : Nat) : g (laneOf t l) = g (laneOf s l) := by
  rw [← hg (laneOf t l), h.lanes l, hg]

theorem LinkFrame.foldl {ι : Type} {step : State → ι → State} (h : ∀ s i, LinkFrame f g s (step s i)) :
    ∀ (l : List ι) (s : State), LinkFrame f g s (l.foldl step s)
  | [], s => LinkFrame.refl f g s
  | i :: l, s => (h s i).trans (LinkFrame.foldl h l (step s i))

theorem linkFrame_of_lry (h : t.lry = s.lry) : LinkFrame f g s t :=
  ⟨by rw [h], fun k => by simp only [portOf, h], fun l => by simp only [laneOf, h]⟩

theorem linkFrame_setPort {p : Nat} {q : Port} (hq : f q = f (portOf s p)) :
    LinkFrame f g s (setPort s p q) where
  route := rfl
  ports k := by
    by_cases hk : k = p
    · rw [hk, portOf_setPort_same, hq]
    · exact congrArg f (portOf_modPort_other s p k (fun _ => q) hk)
  lanes _ := rfl

theorem linkFrame_modPort {p : Nat} {v : Port → Port} (hv : f (v (portOf s p)) = f (portOf s p)) :
    LinkFrame f g s (modPort s p v) := linkFrame_setPort hv

theorem linkFrame_modLane {l : Nat} {v : Lane → Lane} (hv : g (v (laneOf s l)) = g (laneOf s l)) :
    LinkFrame f g s (modLane s l v) where
  route := rfl
  ports _ := rfl
  lanes k := by
    by_cases hk : k = l
    · rw [hk, laneOf_modLane_same, hv]
    · exact congrArg g (laneOf_modLane_other s l k v hk)

theorem emitOut_link (o : Out) : LinkFrame f g s (emitOut s o) := ⟨rfl, fun _ => rfl, fun _ => rfl⟩

theorem leafAdd_link (r n : Nat) : LinkFrame f g s (leafAdd s r n) := ⟨rfl, fun _ => rfl, fun _ => rfl⟩

theorem HostFrame.link (h : HostFrame s t) : LinkFrame f g s t := linkFrame_of_lry h.lry

theorem LinkFrame.ite {c : Prop} [Decidable c] (h : LinkFrame f g s t) (h' : LinkFrame f g s u) :
    LinkFrame f g s (if c then t else u) := by
  split
  · exact h
  · exact h'

end

/-! ## Symbols on a lane -/

theorem withoutLine_injectPair (x : Lane) (p : BitVec 2) :
    withoutLine (injectPair x p).2 = withoutLine x := by
  simp only [injectPair]
  generalize (if x.injOn then x.injGap + 1 else 0) = gap
  split
  · rfl
  · split
    · rfl
    · rfl

theorem withoutLine_injectPairs : ∀ (ps : List (BitVec 2)) (x : Lane),
    withoutLine (injectPairs x ps).2 = withoutLine x
  | [], _ => rfl
  | p :: ps, x => (withoutLine_injectPairs ps _).trans (withoutLine_injectPair x p)

theorem withoutLine_generate : ∀ (n : Nat) (x : Lane), withoutLine (generate n x).2 = withoutLine x
  | 0, _ => rfl
  | n + 1, _ => withoutLine_generate n _

theorem withoutLine_checkPair (x : Lane) (p : BitVec 2) :
    withoutLine (checkPair x p).1 = withoutLine x := by
  simp only [checkPair]
  split
  · rfl
  · rfl

theorem withoutLine_receivePair (chk : Bool) (acc : Lane × Nat × Nat) (p : BitVec 2) :
    withoutLine (receivePair chk acc p).1 = withoutLine acc.1 := by
  have hchecked : withoutLine (if chk then checkPair acc.1 p else (acc.1, 0, 0)).1 = withoutLine acc.1 := by
    split
    · exact withoutLine_checkPair acc.1 p
    · rfl
  rw [← hchecked, receivePair]
  generalize (if chk then checkPair acc.1 p else (acc.1, 0, 0)) = r
  dsimp only
  split
  · rfl
  · rfl

theorem withoutLine_received (chk : Bool) : ∀ (ps : List (BitVec 2)) (acc : Lane × Nat × Nat),
    withoutLine (ps.foldl (receivePair chk) acc).1 = withoutLine acc.1
  | [], _ => rfl
  | p :: ps, acc => (withoutLine_received chk ps _).trans (withoutLine_receivePair chk acc p)

section
variable {α : Type} (f : Port → α) (s : State) (l : Nat)

theorem takeLevels_link (ls : List (BitVec 2)) : LinkFrame f withoutLine s (takeLevels s l ls).2 := by
  simp only [takeLevels]
  split
  · exact LinkFrame.refl f _ s
  · refine ((linkFrame_modLane ?_).trans (leafAdd_link _ _)).trans (leafAdd_link _ _)
    exact withoutLine_received _ _ _

theorem putLevels_link (ps : List (BitVec 2)) : LinkFrame f withoutLine s (putLevels s l ps).2 := by
  refine (linkFrame_modLane ?_).trans (emitOut_link _)
  exact withoutLine_injectPairs ps (laneOf s l)

theorem sendPairs_link (ps : List (BitVec 2)) : LinkFrame f withoutLine s (sendPairs s l ps) := by
  simp only [sendPairs]
  exact ((putLevels_link f s l ps).trans (takeLevels_link f _ l _)).ite (putLevels_link f s l ps)

theorem receiveLine_link (ls : List (BitVec 2)) : LinkFrame f withoutLine s (receiveLine s l ls) := by
  simp only [receiveLine]
  refine (LinkFrame.refl f _ s).ite (LinkFrame.ite ?_ (takeLevels_link f s l ls))
  exact (takeLevels_link f s l ls).trans (putLevels_link f _ l _)

end

/-! ## Slots and control flits -/

section
variable (s : State) (p : Nat)

theorem fillSlotOf_link (slot : Nat) (flag : Bool) (bytes : List Byte) :
    LinkFrame withoutSlots withoutLine s (fillSlotOf s p slot flag bytes) := by
  have hfill : ∀ m, LinkFrame withoutSlots withoutLine s (setPort s p { portOf s p with fill := m }) :=
    fun _ => linkFrame_setPort rfl
  simp only [fillSlotOf]
  exact (hfill _).ite ((hfill _).trans (sendPairs_link _ _ _ _))

/-- A slot goes out on the port: its number moves on, and the slot joins its codeword. -/
theorem sentSlot_link (n slot : Nat) (o : Out) (flag : Bool) (bytes : List Byte) :
    LinkFrame withoutSlots withoutLine s (fillSlotOf
      (emitOut (setPort s p { portOf s p with txSlot := n }) o) p slot flag bytes) := by
  have hnumber : LinkFrame withoutSlots withoutLine s (setPort s p { portOf s p with txSlot := n }) :=
    linkFrame_setPort rfl
  exact (hnumber.trans (emitOut_link o)).trans (fillSlotOf_link _ p _ _ _)

theorem putSlot_link (bytes : List Byte) : LinkFrame withoutSlots withoutLine s (putSlot s p bytes) := by
  have hmarker : ∀ s, LinkFrame withoutSlots withoutLine s (sendMarker s p) := fun s =>
    sentSlot_link s p _ _ _ _ _
  simp only [putSlot]
  exact (LinkFrame.foldl (fun s _ => hmarker s) _ s).trans (sentSlot_link _ p _ _ _ _ _)

theorem wakeTx_of_awake {s : State} {p : Nat} (h : (portOf s p).txAsleep = false) : wakeTx s p = s :=
  if_neg (by rw [h]; exact Bool.false_ne_true)

theorem portPower_link {α : Type} (f : Port → α) (tx : Bool) (a b : LPower) :
    LinkFrame f withoutPower s (portPower s p tx a b) := by
  refine LinkFrame.foldl (fun s j => linkFrame_modLane ?_) _ s
  split
  · rfl
  · rfl

theorem wakeTx_link : LinkFrame withoutControl withoutPower s (wakeTx s p) := by
  have hwake : LinkFrame withoutControl withoutPower s
      (modPort (emitOut s (.wake p)) p fun q => { q with txAsleep := false }) :=
    (emitOut_link _).trans (linkFrame_modPort rfl)
  exact (hwake.trans (portPower_link _ p withoutControl _ _ _)).ite (LinkFrame.refl _ _ s)

theorem passedOver_link (c : Nat) :
    LinkFrame withoutControl withoutLine s (modPort s p fun q => passOver q c) := linkFrame_modPort rfl

/-- A flit that takes a slot ahead of the queue: a control flit, or one of a replay (R334). -/
theorem putAhead_link (bytes : List Byte) : LinkFrame withoutControl withoutLine s
    (putSlot (modPort s p fun q => passOver q 3) p bytes) :=
  (passedOver_link s p 3).trans ((putSlot_link _ p bytes).map withoutControl id)

theorem sendCtl_link (kind : Nat) (body : List Byte) :
    LinkFrame withoutControl withoutPower s (sendCtl s p kind body) :=
  (wakeTx_link s p).trans ((putAhead_link _ p (ctlFlit kind body)).map id withoutPower)

/-- An awake port sends a control flit without a change of power. -/
theorem sendCtl_link_of_awake {s : State} {p : Nat} (h : (portOf s p).txAsleep = false) (kind : Nat)
    (body : List Byte) : LinkFrame withoutControl withoutLine s (sendCtl s p kind body) := by
  rw [sendCtl, wakeTx_of_awake h]
  exact putAhead_link s p _

theorem sendAck_link : LinkFrame withoutControl withoutPower
    (setPort s p { portOf s p with sinceAck := 0 }) (sendAck s p) := by
  rw [sendAck]
  exact sendCtl_link _ p 1 _

theorem sendNak_link : LinkFrame withoutControl withoutPower
    (setPort s p { portOf s p with nakAt := some s.nowUs }) (sendNak s p) := by
  rw [sendNak]
  exact (sendCtl_link _ p 2 _).trans (leafAdd_link _ _)

end

/-! ## Messages -/

section
variable (s : State) (p : Nat)

theorem withoutTraffic_spendCredit (q : Port) (c : Nat) :
    withoutTraffic (spendCredit q c) = withoutTraffic q := by
  simp only [spendCredit]
  split
  · rfl
  · split
    · rfl
    · rfl

theorem withoutTraffic_freeFlits (q : Port) (c n : Nat) :
    withoutTraffic (freeFlits q c n) = withoutTraffic q := by
  simp only [freeFlits]
  split
  · rfl
  · split
    · rfl
    · rfl

/-- A flit of the queue takes a slot: it spends a credit and is kept for a replay. -/
theorem sentFlit_link (c n : Nat) (bytes : List Byte) (rest : List (Nat × List Byte)) (rs : List Flit) :
    LinkFrame withoutTraffic withoutPower s
      (leafAdd (putSlot (setPort s p { spendCredit (passOver (portOf s p) c) c with
        queue := rest, txSeq := n, replay := rs }) p bytes) (leafPort p 0) 1) := by
  have hspent : LinkFrame withoutTraffic withoutPower s (setPort s p
      { spendCredit (passOver (portOf s p) c) c with queue := rest, txSeq := n, replay := rs }) :=
    linkFrame_setPort (withoutTraffic_spendCredit (passOver (portOf s p) c) c)
  exact (hspent.trans ((putSlot_link _ p bytes).map withoutTraffic withoutPower)).trans (leafAdd_link _ _)

theorem sendSlot_link {s t : State} {p : Nat} (h : sendSlot s p = some t) :
    LinkFrame withoutTraffic withoutPower s t := by
  simp only [sendSlot] at h
  split at h
  · cases h
  · split at h
    · cases h
    · split at h
      · cases h
      · rw [← Option.some.inj h]
        exact sentFlit_link s p _ _ _ _ _

theorem pumpN_link : ∀ (n : Nat) (s : State) (p : Nat),
    LinkFrame withoutTraffic withoutPower s (pumpN n s p)
  | 0, s, _ => LinkFrame.refl _ _ s
  | n + 1, s, p => by
    simp only [pumpN]
    split
    next h => exact (sendSlot_link h).trans (pumpN_link n _ p)
    next => exact LinkFrame.refl _ _ s

theorem pump_link : LinkFrame withoutTraffic withoutPower s (pump s p) := pumpN_link _ s p

theorem sendMsg_link (cls kind : Nat) (body : List Byte) :
    LinkFrame withoutTraffic withoutPower s (sendMsg s p cls kind body) := by
  have hqueued : LinkFrame withoutTraffic withoutPower s
      (modPort s p fun q => { q with queue := q.queue ++ messageFlits cls kind body }) :=
    linkFrame_modPort rfl
  exact hqueued.trans (pump_link _ p)

theorem routeSend_link (cls kind dst : Nat) (body : List Byte) :
    LinkFrame withoutTraffic withoutPower s (routeSend s cls kind dst body) := by
  simp only [routeSend]
  refine (sendMsg_link s _ _ _ _).ite (LinkFrame.ite (linkFrame_modPort rfl) ?_)
  exact (leafAdd_link _ _).trans (emitDev_frame _ _ _).link

theorem takeMsg_link (m : RxMsg) : LinkFrame withoutTraffic withoutPower s (takeMsg s p m) := by
  have hfreed : LinkFrame withoutTraffic withoutPower s
      (modPort s p fun q => freeFlits { q with inbox := q.inbox.erase m } m.cls m.flits) :=
    linkFrame_modPort (withoutTraffic_freeFlits _ _ _)
  have hcounted : ∀ s, LinkFrame withoutTraffic withoutPower s
      (setPort s p { portOf s p with sinceAck := 0 }) := fun _ => linkFrame_setPort rfl
  simp only [takeMsg]
  refine LinkFrame.ite (hfreed.trans ((hcounted _).trans ?_)) hfreed
  exact (sendAck_link _ p).map withoutTraffic id

end

end Sys2Proof.Machine
end

section
/-! PROOFS. A flit sent under the number that the receiver expects (R327, R329, R330, R333, R335, R336): what its
64 bytes say to the receiver, and what the receiver's port is after an accepted and after a bad flit. -/

namespace Sys2Proof.Machine

/-! ## The bytes of a flit (Table 10-7) -/

theorem leNat_leBytes : ∀ n v : Nat, leNat (leBytes n v) = v % 256 ^ n
  | 0, v => by rw [Nat.pow_zero, Nat.mod_one]; rfl
  | n + 1, v => by
    rw [leBytes, leNat, leNat_leBytes n, BitVec.toNat_ofNat, pow_succ' 256 n]
    exact (Nat.mod_mul (a := 256)).symm

theorem leAt_left {a : List Byte} (b : List Byte) {o n : Nat} (h : o + n ≤ a.length) :
    leAt (a ++ b) o n = leAt a o n := by
  rw [leAt, leAt, List.drop_append_of_le_length (by omega),
    List.take_append_of_le_length (by rw [List.length_drop]; omega)]

theorem b2n_le (b : Bool) : b2n b ≤ 1 := by cases b <;> decide

section
variable (cls kind : Nat) (first last : Bool) (len : Nat)

/-- Bits 15:14 of the header are not used. -/
theorem flitHeader_lt : flitHeader cls kind first last len < 16384 := by
  have hfirst := b2n_le first
  have hlast := b2n_le last
  rw [flitHeader]
  omega

theorem flitHeader_class : field (flitHeader cls kind first last len) 1 0 = cls % 4 := by
  simp only [flitHeader, field]
  omega

theorem flitHeader_kind : field (flitHeader cls kind first last len) 5 2 = kind % 16 := by
  simp only [flitHeader, field]
  omega

theorem flitHeader_len : field (flitHeader cls kind first last len) 13 8 = len % 64 := by
  have hfirst := b2n_le first
  have hlast := b2n_le last
  simp only [flitHeader, field]
  omega

end

/-- Reserved pairs aside, classes are 0 to 2 and kinds 0 to 3 (Table 10-8). -/
theorem lt_of_kindFlits {cls kind : Nat} (h : (kindFlits cls kind).isSome = true) : cls < 3 ∧ kind < 4 := by
  simp only [kindFlits] at h
  split at h <;> simp_all

section
variable (n cls kind : Nat) (first last : Bool) {body : List Byte} (hlen : body.length ≤ 58)
include hlen

theorem length_flitBody : (flitBody cls kind first last body).length = 60 := by
  simp only [flitBody, List.length_append, length_leBytes, List.length_replicate]
  omega

/-- The 64 bytes: header and body, then the crc under the number. -/
theorem flitWire_flitBody : flitWire n (flitBody cls kind first last body) =
    flitBody cls kind first last body ++ leBytes 4 (flitCrc n (flitBody cls kind first last body)).toNat := by
  rw [flitWire, List.take_of_length_le (length_flitBody cls kind first last hlen).le]

theorem length_flitWire : (flitWire n (flitBody cls kind first last body)).length = 64 := by
  rw [flitWire_flitBody n cls kind first last hlen, List.length_append,
    length_flitBody cls kind first last hlen, length_leBytes]

theorem flitWire_header : leAt (flitWire n (flitBody cls kind first last body)) 0 2 =
    flitHeader cls kind first last body.length := by
  have hhead := flitHeader_lt cls kind first last body.length
  have hbody : leAt (flitBody cls kind first last body) 0 2 =
      leNat (leBytes 2 (flitHeader cls kind first last body.length)) := by
    rw [flitBody, List.append_assoc, leAt_left _ (by rw [length_leBytes])]
    exact congrArg leNat (List.take_of_length_le (length_leBytes 2 _).le)
  rw [flitWire_flitBody n cls kind first last hlen,
    leAt_left _ (by rw [length_flitBody cls kind first last hlen]; omega), hbody, leNat_leBytes]
  omega

/-- The crc that the flit carries is the one the receiver computes from its bytes (R330). -/
theorem flitWire_crc : leAt (flitWire n (flitBody cls kind first last body)) 60 4 =
    (flitCrc n (flitWire n (flitBody cls kind first last body))).toNat := by
  have h60 := length_flitBody cls kind first last hlen
  have hcrc : flitCrc n (flitWire n (flitBody cls kind first last body)) =
      flitCrc n (flitBody cls kind first last body) := by
    rw [flitCrc, flitCrc, flitWire_flitBody n cls kind first last hlen,
      List.take_append_of_le_length h60.ge]
  rw [hcrc, flitWire_flitBody n cls kind first last hlen, leAt, List.drop_append_of_le_length h60.ge,
    List.drop_of_length_le h60.le, List.nil_append, List.take_of_length_le (length_leBytes 4 _).le,
    leNat_leBytes]
  exact Nat.mod_eq_of_lt (flitCrc n (flitBody cls kind first last body)).isLt

end

/-! ## Accepted (R333, R336) -/

/-- What a port knows of the numbers it receives: the one it expects, its NAK, and the flits accepted since it
acknowledged. -/
def receiving (q : Port) : Nat × Option Nat × Nat := (q.rxNext, q.nakAt, q.sinceAck)

theorem receiving_freeFlits (q : Port) (c n : Nat) : receiving (freeFlits q c n) = receiving q := by
  simp only [freeFlits]
  split
  · rfl
  · split
    · rfl
    · rfl

theorem receiving_setAsm (q : Port) (c : Nat) (b : List Byte) : receiving (setAsm q c b) = receiving q := by
  simp only [setAsm]
  split
  · rfl
  · split
    · rfl
    · rfl

/-- A forwarding entry that is read may be rewritten, and reported (R344, R538). The definition is opened as a
function, before it meets its arguments: the kernel would otherwise run the decoder on the open word. -/
theorem fwdRead_frame (s : State) (stream : Nat) : ∃ e fwd err hif out, fwdRead s stream =
    (e, { s with lry := { s.lry with fwd := fwd, fwdErr := err }, hif := hif, out := out }) := by
  generalize hF : fwdRead = F
  delta fwdRead at hF
  subst hF
  beta_reduce
  cases hdec : secDecode 7 32 (secEncode 7 32 (fwdWord (mapGet s.lry.fwd {} stream)) ^^^
    (mapGet s.lry.fwdErr 0 stream).toNat) with
  | none =>
    obtain ⟨hif, out, hev⟩ := emitDev_frame
      (modLryBlk s fun l => { l with fwdErr := mapPut l.fwdErr 0 stream 0 }) 0x0908 []
    simp only [hdec]
    exact ⟨_, _, _, hif, out, congrArg (Prod.mk _) hev⟩
  | some r =>
    obtain ⟨w, fixed⟩ := r
    simp only [hdec]
    cases fixed with
    | false => exact ⟨_, _, _, _, _, rfl⟩
    | true => exact ⟨_, _, _, _, _, rfl⟩

theorem portOf_fwdRead (s : State) (stream k : Nat) : portOf (fwdRead s stream).2 k = portOf s k := by
  obtain ⟨_, _, _, _, _, h⟩ := fwdRead_frame s stream
  rw [h]
  rfl

/-- The forwarding entry that an accepted flit carries on with: a first flit of class 0 reads its stream's (R345). -/
def latchEntry (s : State) (p : Nat) (bytes : List Byte) : Fwd × State :=
  if bitOf (leAt bytes 0 2) 6 && field (leAt bytes 0 2) 1 0 == 0 then
    fwdRead s (leAt ((bytes.drop 2).take (field (leAt bytes 0 2) 13 8)) 0 4 % 4096)
  else ((portOf s p).asmFwd, s)

/-- A port that counts an accepted flit, before the flit joins its message. -/
def countFlit (q : Port) (e : Fwd) : Port :=
  { q with rxNext := (q.rxNext + 1) % 65536, nakAt := none, sinceAck := q.sinceAck + 1, asmFwd := e }

/-- A port once an accepted flit has joined its message (R332). -/
def joinFlit (e : Fwd) (bytes : List Byte) (q : Port) : Port :=
  let hd := leAt bytes 0 2
  let c := field hd 1 0
  let first := bitOf hd 6
  let q := if first then freeFlits { q with asmFlits := q.asmFlits.set c 0 } c (listAt q.asmFlits 0 c) else q
  let part := (if first then [] else asmOf q c) ++ (bytes.drop 2).take (field hd 13 8)
  let n := listAt q.asmFlits 0 c + 1
  let q := countFlit q e
  if bitOf hd 7 then
    { setAsm q c [] with
      asmFlits := q.asmFlits.set c 0
      inbox := q.inbox ++ [{ cls := c, kind := field hd 5 2, body := part, flits := n,
                             fwd := if c = 0 then e else {} }] }
  else { setAsm q c part with asmFlits := q.asmFlits.set c n }

theorem acceptFlit_eq (s : State) (p : Nat) (bytes : List Byte) : acceptFlit s p bytes =
    let r := latchEntry s p bytes
    let q := joinFlit r.1 bytes (portOf r.2 p)
    let t := leafAdd (setPort r.2 p q) (leafPort p 1) 1
    if 32 ≤ q.sinceAck then sendAck t p else t := rfl

theorem portOf_latchEntry (s : State) (p : Nat) (bytes : List Byte) (k : Nat) :
    portOf (latchEntry s p bytes).2 k = portOf s k := by
  rw [latchEntry]
  split
  · exact portOf_fwdRead s _ k
  · rfl

theorem receiving_countFlit (q : Port) (e : Fwd) : receiving (countFlit q e) =
    (((receiving q).1 + 1) % 65536, none, (receiving q).2.2 + 1) := rfl

theorem receiving_joinFlit (e : Fwd) (bytes : List Byte) (q : Port) :
    receiving (joinFlit e bytes q) = ((q.rxNext + 1) % 65536, none, q.sinceAck + 1) := by
  have hfreed : ∀ (b : Bool) (m : List Nat) (c n : Nat), receiving
      (if b then freeFlits { q with asmFlits := m } c n else q) = receiving q := by
    intro b m c n
    split
    · exact receiving_freeFlits _ _ _
    · rfl
  have hcounted : ∀ (q' : Port), receiving q' = receiving q → ∀ c b,
      receiving (setAsm (countFlit q' e) c b) = ((q.rxNext + 1) % 65536, none, q.sinceAck + 1) := by
    intro q' hq c b
    rw [receiving_setAsm, receiving_countFlit, hq]
    rfl
  simp only [joinFlit]
  split
  · exact hcounted _ (hfreed _ _ _ _) _ _
  · exact hcounted _ (hfreed _ _ _ _) _ _

/-- An ACK leaves nothing to acknowledge, and the number expected. -/
theorem receiving_sendAck (s : State) (p : Nat) : receiving (portOf (sendAck s p) p) =
    ((portOf s p).rxNext, (portOf s p).nakAt, 0) := by
  rw [(sendAck_link s p).read receiving (fun _ => rfl) p, portOf_setPort_same]
  rfl

theorem receiving_sendNak (s : State) (p : Nat) : receiving (portOf (sendNak s p) p) =
    ((portOf s p).rxNext, some s.nowUs, (portOf s p).sinceAck) := by
  rw [(sendNak_link s p).read receiving (fun _ => rfl) p, portOf_setPort_same]
  rfl

/-- An accepted flit moves the number expected on and ends a NAK; the 32nd since the last ACK sends one (R336). -/
theorem receiving_acceptFlit (s : State) (p : Nat) (bytes : List Byte) :
    receiving (portOf (acceptFlit s p bytes) p) = (((portOf s p).rxNext + 1) % 65536, none,
      if (portOf s p).sinceAck + 1 < 32 then (portOf s p).sinceAck + 1 else 0) := by
  rw [acceptFlit_eq]
  dsimp only
  have hjoin := receiving_joinFlit (latchEntry s p bytes).1 bytes (portOf (latchEntry s p bytes).2 p)
  rw [portOf_latchEntry] at hjoin ⊢
  generalize joinFlit (latchEntry s p bytes).1 bytes (portOf s p) = q at hjoin ⊢
  have hport : ∀ t, portOf (leafAdd (setPort t p q) (leafPort p 1) 1) p = q := fun t =>
    portOf_setPort_same t p q
  simp only [receiving, Prod.mk.injEq] at hjoin
  obtain ⟨hnext, hnak, hsince⟩ := hjoin
  by_cases hdue : 32 ≤ q.sinceAck
  · rw [if_pos hdue, receiving_sendAck, hport, hnext, hnak, if_neg (by omega)]
  · rw [if_neg hdue, hport, receiving, hnext, hnak, hsince, if_pos (by omega)]

/-! ## Refused (R329, R337) -/

/-- A bad flit leaves the number expected, with a NAK outstanding. -/
theorem receiving_badFlit (s : State) (p : Nat) : (portOf (badFlit s p) p).rxNext = (portOf s p).rxNext ∧
    (portOf (badFlit s p) p).nakAt ≠ none := by
  have hport : ∀ k, portOf (leafAdd s (leafPort p 4) 1) k = portOf s k := fun _ => rfl
  have hnak := receiving_sendNak (leafAdd s (leafPort p 4) 1) p
  simp only [receiving, Prod.mk.injEq, hport] at hnak
  obtain ⟨hnext, hat, -⟩ := hnak
  have hsent : (portOf (sendNak (leafAdd s (leafPort p 4) 1) p) p).nakAt ≠ none := by
    rw [hat]
    exact Option.some_ne_none _
  rw [badFlit, hport]
  split
  next => exact ⟨hnext, hsent⟩
  next t ht =>
    split
    · exact ⟨hnext, hsent⟩
    · exact ⟨congrArg Port.rxNext (hport p), by rw [hport, ht]; exact Option.some_ne_none _⟩

/-! ## A flit and its codeword (R327, R329, R330) -/

section
variable {s : State} {p n cls kind : Nat} {body : List Byte} (hup : portUp (portOf s p) = true)
  (hkind : (kindFlits cls kind).isSome = true) (hpos : 1 ≤ body.length) (hlen : body.length ≤ 58)
  (hroom : heldFlits (portOf s p) cls < bufferSize cls)
include hup hkind hpos hlen hroom

/-- A flit that the transmitter made under the number expected passes every check of the receiver. -/
theorem takeFlit_of_sent (first last : Bool) :
    let wire := flitWire (portOf s p).rxNext (flitBody cls kind first last body)
    takeFlit s p wire = acceptFlit s p wire := by
  obtain ⟨hcls, hk⟩ := lt_of_kindFlits hkind
  have hc : field (flitHeader cls kind first last body.length) 1 0 = cls := by
    rw [flitHeader_class, Nat.mod_eq_of_lt (by omega)]
  have hkd : field (flitHeader cls kind first last body.length) 5 2 = kind := by
    rw [flitHeader_kind, Nat.mod_eq_of_lt (by omega)]
  have hl : field (flitHeader cls kind first last body.length) 13 8 = body.length := by
    rw [flitHeader_len, Nat.mod_eq_of_lt (by omega)]
  have hne : ¬ cls = 3 := by omega
  simp only [takeFlit, flitWire_header _ cls kind first last hlen, flitWire_crc _ cls kind first last hlen,
    length_flitWire _ cls kind first last hlen, hc, hkd, hl, if_neg hne, hup, hkind, hpos, hlen, hroom,
    decide_true, beq_self_eq_true, Bool.and_self, Bool.not_true, Bool.false_eq_true, if_false, if_true]

end

/-- A port that notes the codeword a lane received. -/
def withCode (i : Nat) (r : RxCode) (q : Port) : Port := { q with rxCode := mapPut q.rxCode none i (some r) }

def noteCode (s : State) (p i : Nat) (r : RxCode) : State := modPort s p (withCode i r)

theorem portOf_noteCode (s : State) (p i : Nat) (r : RxCode) :
    portOf (noteCode s p i r) p = withCode i r (portOf s p) := portOf_modPort_same s p _

section
variable {s : State} {p slot : Nat}
  (hcode : mapGet (portOf s p).rxCode none (slot % laneCount (portOf s p)) = none)
include hcode

theorem receiveCode_clean : receiveCode s p slot [] = (some [], noteCode s p
    (slot % laneCount (portOf s p)) { num := slot / laneCount (portOf s p) / 10, left := some [] }) := by
  have hdec : rs10Decode [] = some ([], 0) := rfl
  simp only [receiveCode, hcode, hdec, Option.filter_none, if_true]
  rfl

theorem receiveCode_uncorrectable {errs : SymErrs} (herrs : rs10Decode errs = none) :
    receiveCode s p slot errs = (none, noteCode
      (leafAdd s (leafLane (9 * p + mapLane (portOf s p) (slot % laneCount (portOf s p))) 5) 1) p
      (slot % laneCount (portOf s p)) { num := slot / laneCount (portOf s p) / 10, left := none }) := by
  simp only [receiveCode, hcode, herrs, Option.filter_none]
  rfl

variable (hmark : markerSlot (laneCount (portOf s p)) slot = false)
include hmark

/-- A flit of a codeword that came without errors is taken as it was sent. -/
theorem sequencedFlit_of_clean (bytes : List Byte) : ∃ r, sequencedFlit s p slot bytes [] =
    takeFlit (noteCode s p (slot % laneCount (portOf s p)) r) p bytes := by
  refine ⟨{ num := slot / laneCount (portOf s p) / 10, left := some [] }, ?_⟩
  simp only [sequencedFlit, receiveCode_clean hcode, hmark, List.isEmpty_nil, Bool.false_eq_true, if_false,
    if_true]

/-- A flit of a codeword that cannot be corrected is bad (R329). -/
theorem sequencedFlit_of_uncorrectable (bytes : List Byte) {errs : SymErrs}
    (hup : portUp (portOf s p) = true) (herrs : rs10Decode errs = none) :
    ∃ l r, sequencedFlit s p slot bytes errs =
      badFlit (noteCode (leafAdd s (leafLane l 5) 1) p (slot % laneCount (portOf s p)) r) p := by
  refine ⟨9 * p + mapLane (portOf s p) (slot % laneCount (portOf s p)),
    { num := slot / laneCount (portOf s p) / 10, left := none }, ?_⟩
  have hup' : ∀ l r, portUp (portOf
      (noteCode (leafAdd s (leafLane l 5) 1) p (slot % laneCount (portOf s p)) r) p) = true := by
    intro l r
    rw [portOf_noteCode]
    exact hup
  simp only [sequencedFlit, receiveCode_uncorrectable hcode herrs, hmark, hup', Bool.not_false,
    Bool.and_self, if_true]

end

/-- Settles O44: every check of the receiver passes on the 64 bytes that the transmitter made, unless the codeword
they came in is lost. -/
theorem sentFlitIsAccepted : Obligations.SentFlitIsAccepted := by
  unfold Obligations.SentFlitIsAccepted
  intro s p slot cls kind first last body errs hp hup hkind hpos hlen hnext hroom hmark hcode
  refine ⟨?accepted, ?refused⟩
  case accepted =>
    obtain ⟨r, hseq⟩ := sequencedFlit_of_clean hcode hmark
      (flitWire (portOf s p).rxNext (flitBody cls kind first last body))
    have hport := portOf_noteCode s p (slot % laneCount (portOf s p)) r
    generalize noteCode s p (slot % laneCount (portOf s p)) r = u at hseq hport
    have htake := takeFlit_of_sent (s := u) (p := p) (by rw [hport]; exact hup) hkind hpos hlen
      (by rw [hport]; exact hroom) first last
    have hrec := receiving_acceptFlit u p (flitWire (portOf s p).rxNext (flitBody cls kind first last body))
    simp only [hport, withCode] at htake hrec
    simp only [receiving, Prod.mk.injEq] at hrec
    rw [← htake, ← hseq] at hrec
    exact ⟨_, exec_of_unit rfl hp rfl, hrec⟩
  case refused =>
    intro herrs
    obtain ⟨l, r, hseq⟩ := sequencedFlit_of_uncorrectable hcode hmark
      (flitWire (portOf s p).rxNext (flitBody cls kind first last body)) hup herrs
    have hbad := receiving_badFlit
      (noteCode (leafAdd s (leafLane l 5) 1) p (slot % laneCount (portOf s p)) r) p
    rw [← hseq, portOf_noteCode] at hbad
    exact ⟨_, exec_of_unit rfl hp rfl, hbad⟩

end Sys2Proof.Machine
end

section
/-! PROOFS. Lane and link events and the Larey commands change the Larey ports, the repair map, the host interface,
counters, draws, free values and what is driven outward, nothing else (R323, R330, R336, R339 to R341). -/

namespace Sys2Proof.Machine

/-! ## What is allowed to change -/

section
variable {s t u : State}

theorem onlyLarey.ite {c : Prop} [Decidable c] (h : onlyLarey s t) (g : onlyLarey s u) :
    onlyLarey s (if c then t else u) := by
  split
  · exact h
  · exact g

theorem onlyLarey.emitDev (h : onlyLarey s t) (code : Nat) (fs : List (Nat × Nat)) :
    onlyLarey s (emitDev t code fs) := h.trans (emitDev_frame t code fs).onlyLarey

theorem onlyLarey.answer (h : onlyLarey s t) (hd : Hdr) (op : Nat) (pl : List Byte) :
    onlyLarey s (answer t hd op pl) := h.trans (answer_frame t hd op pl).onlyLarey

theorem onlyLarey.leafAdd (h : onlyLarey s t) (r n : Nat) : onlyLarey s (leafAdd t r n) :=
  h.trans (leafAdd_onlyLarey t r n)

theorem onlyLarey.modPort (h : onlyLarey s t) (p : Nat) (f : Port → Port) : onlyLarey s (modPort t p f) :=
  h.trans (setPort_onlyLarey t p _)

end

theorem modLane_onlyLarey (s : State) (l : Nat) (f : Lane → Lane) : onlyLarey s (modLane s l f) := rfl

theorem modPort_onlyLarey (s : State) (p : Nat) (f : Port → Port) : onlyLarey s (modPort s p f) := rfl

theorem modLryBlk_onlyLarey (s : State) (f : Larey → Larey) : onlyLarey s (modLryBlk s f) := rfl

theorem portPower_onlyLarey (s : State) (p : Nat) (tx : Bool) (a b : LPower) :
    onlyLarey s (portPower s p tx a b) := each_modLane_onlyLarey _ _ _ _

/-! ## Link control and resending -/

section
variable (s : State) (p : Nat)

theorem pump_onlyLarey : onlyLarey s (pump s p) := pumpN_onlyLarey _ s p

theorem sendAck_onlyLarey : onlyLarey s (sendAck s p) := by
  rw [sendAck]
  exact (setPort_onlyLarey _ _ _).trans (sendCtl_onlyLarey _ p 1 _)

theorem sendNak_onlyLarey : onlyLarey s (sendNak s p) := by
  rw [sendNak]
  exact ((setPort_onlyLarey _ _ _).trans (sendCtl_onlyLarey _ p 2 _)).leafAdd _ _

theorem sendInit_onlyLarey : onlyLarey s (sendInit s p) := sendCtl_onlyLarey s p 3 _

theorem retrain_onlyLarey : onlyLarey s (retrain s p) := by
  rw [retrain]
  exact ((sendCtl_onlyLarey s p 5 [0]).trans (modPort_onlyLarey _ _ _)).ite (onlyLarey.refl s)

theorem resendOne_onlyLarey (f : Flit) : onlyLarey s (resendOne p s f) :=
  (modPort_onlyLarey s p _).trans (putSlot_onlyLarey _ p _)

theorem resendAll_onlyLarey : onlyLarey s (resendAll s p) := by
  simp only [resendAll]
  refine (onlyLarey.refl s).ite ((retrain_onlyLarey s p).ite (onlyLarey.leafAdd ?_ _ _))
  exact ((wakeTx_onlyLarey s p).trans (onlyLarey.foldl (fun s f => resendOne_onlyLarey s p f) _ _)).trans
    (modPort_onlyLarey _ _ _)

theorem ackFlit_onlyLarey (n a b c : Nat) : onlyLarey s (ackFlit s p n a b c) := by
  simp only [ackFlit]
  exact (onlyLarey.refl s).ite ((setPort_onlyLarey _ _ _).trans (pump_onlyLarey _ p))

theorem nakFlit_onlyLarey (n a b c : Nat) : onlyLarey s (nakFlit s p n a b c) := by
  simp only [nakFlit]
  exact (onlyLarey.refl s).ite
    (((setPort_onlyLarey _ _ _).trans (resendAll_onlyLarey _ p)).trans (pump_onlyLarey _ p))

theorem quietEnter_onlyLarey : onlyLarey s (quietEnter s p) := by
  rw [quietEnter]
  exact ((modPort_onlyLarey s p _).trans (portPower_onlyLarey _ p _ _ _)).ite (onlyLarey.refl s)

/-! ## Tap requests (R318, R319) -/

end

/-- A lane without its taps. -/
def withoutTaps (x : Lane) : Lane := { x with taps := 0 }

/-- Only taps, free values and what is driven outward differ. -/
def TapFrame (s t : State) : Prop := ∃ lanes ctr out,
  t = { s with lry := { s.lry with lanes := lanes }, freeCtr := ctr, out := out } ∧
    ∀ l, withoutTaps (laneOf t l) = withoutTaps (laneOf s l)

theorem TapFrame.refl (s : State) : TapFrame s s := ⟨_, _, _, rfl, fun _ => rfl⟩

theorem TapFrame.trans {s t u : State} (h : TapFrame s t) (g : TapFrame t u) : TapFrame s u := by
  obtain ⟨_, _, _, rfl, hl⟩ := h
  obtain ⟨_, _, _, rfl, gl⟩ := g
  exact ⟨_, _, _, rfl, fun l => (gl l).trans (hl l)⟩

theorem TapFrame.foldl {α : Type} {f : State → α → State} (h : ∀ s a, TapFrame s (f s a)) :
    ∀ (l : List α) (s : State), TapFrame s (l.foldl f s)
  | [], s => TapFrame.refl s
  | a :: l, s => (h s a).trans (TapFrame.foldl h l (f s a))

theorem TapFrame.ite {s t u : State} {c : Prop} [Decidable c] (h : TapFrame s t) (g : TapFrame s u) :
    TapFrame s (if c then t else u) := by
  split
  · exact h
  · exact g

theorem TapFrame.onlyLarey {s t : State} (h : TapFrame s t) : onlyLarey s t := by
  obtain ⟨_, _, _, rfl, -⟩ := h
  rfl

theorem TapFrame.portOf {s t : State} (h : TapFrame s t) (k : Nat) : portOf t k = portOf s k := by
  obtain ⟨_, _, _, rfl, -⟩ := h
  rfl

theorem emitOut_taps (s : State) (o : Out) : TapFrame s (emitOut s o) := ⟨_, _, _, rfl, fun _ => rfl⟩

theorem setTaps_taps (s : State) (l : Nat) (w : BitVec 32) :
    TapFrame s (modLane s l fun x => { x with taps := w }) :=
  ⟨_, _, _, rfl, (linkFrame_modLane (f := id) (g := withoutTaps) rfl).lanes⟩

/-- The answer to a request for taps, when it asks for `want`. -/
def answerTap (l t : Nat) (want : Option (BitVec 32)) (s : State) : State :=
  match want with
  | some w =>
    if tapsOk w then emitOut (modLane s l fun x => { x with taps := w }) (.tapStatus l t false)
    else emitOut s (.tapStatus l t true)
  | none => emitOut s (.tapStatus l t true)

theorem answerTap_taps (l t : Nat) (want : Option (BitVec 32)) (s : State) :
    TapFrame s (answerTap l t want s) := by
  cases want with
  | none => exact emitOut_taps s _
  | some w => exact ((setTaps_taps s l w).trans (emitOut_taps _ _)).ite (emitOut_taps s _)

theorem tapRequest_taps (p : Nat) (s : State) (r : Nat × Nat × TapReq) :
    TapFrame s (tapRequest p s r) := by
  have hfree : TapFrame s (takeFree s 21).2 := ⟨_, _, _, rfl, fun _ => rfl⟩
  have hanswer : TapFrame s (match r.2.2 with
      | .preset => answerTap (9 * p + r.1) r.2.1 (some ((takeFree s 21).1.setWidth 32)) (takeFree s 21).2
      | .increment => answerTap (9 * p + r.1) r.2.1 (tapStep (laneOf s (9 * p + r.1)).taps r.2.1 true) s
      | .decrement => answerTap (9 * p + r.1) r.2.1 (tapStep (laneOf s (9 * p + r.1)).taps r.2.1 false) s
      | .hold => answerTap (9 * p + r.1) r.2.1 (some (laneOf s (9 * p + r.1)).taps) s) := by
    split
    · exact hfree.trans (answerTap_taps _ _ _ _)
    · exact answerTap_taps _ _ _ _
    · exact answerTap_taps _ _ _ _
    · exact answerTap_taps _ _ _ _
  refine (TapFrame.refl s).ite ((emitOut_taps s _).ite ?_)
  obtain ⟨lane, tap, ask⟩ := r
  cases ask with
  | preset => exact hanswer
  | increment => exact hanswer
  | decrement => exact hanswer
  | hold => exact hanswer

theorem askTap_taps (p : Nat) (s : State) (r : Nat × Nat × TapReq) : TapFrame s (askTap p s r) :=
  (TapFrame.refl s).ite (emitOut_taps s _)

/-! ## Training (R314, R315, R328) -/

section
variable (s : State) (p : Nat)

/-- A port that starts to train. -/
def trainingPort (q : Port) : Port :=
  { q with st := if q.st = .chain ∨ q.st = .retrain ∨ q.st = .down then q.st else .training }

/-- Lane j of a port once its signal and polarity have been looked for. -/
def signalledLane (signal inverted : BitVec 9) (j : Nat) (x : Lane) : Lane :=
  { x with signal := signal.getLsbD j && x.txPower != .off && x.rxPower != .off,
           inverted := inverted.getLsbD j, ready := false }

def signalledLanes (signal inverted : BitVec 9) : State :=
  each (List.range 9) (fun s j => modLane s (9 * p + j) (signalledLane signal inverted j)) s

/-- A port that may train looks for the signals of its lanes; the requests that follow move taps alone. -/
theorem laneTraining_of_may {signal inverted : BitVec 9} {reqs asks : List (Nat × Nat × TapReq)}
    (hm : mayTrain s (portOf s p) = true) :
    TapFrame (signalledLanes (setPort s p (trainingPort (portOf s p))) p signal inverted)
      (laneTraining s p signal inverted reqs asks) := by
  simp only [laneTraining, hm, Bool.not_true, Bool.false_eq_true, if_false]
  exact (TapFrame.foldl (tapRequest_taps p) reqs _).trans (TapFrame.foldl (askTap_taps p) asks _)

theorem laneTraining_of_not {signal inverted : BitVec 9} {reqs asks : List (Nat × Nat × TapReq)}
    (hm : mayTrain s (portOf s p) = false) : laneTraining s p signal inverted reqs asks = s := by
  simp only [laneTraining, hm, Bool.not_false, if_true]

theorem signalledLanes_onlyLarey (signal inverted : BitVec 9) :
    onlyLarey s (signalledLanes s p signal inverted) := each_modLane_onlyLarey _ _ _ _

theorem laneTraining_onlyLarey (signal inverted : BitVec 9) (reqs asks : List (Nat × Nat × TapReq)) :
    onlyLarey s (laneTraining s p signal inverted reqs asks) := by
  cases hm : mayTrain s (portOf s p) with
  | false => rw [laneTraining_of_not s p hm]; exact onlyLarey.refl s
  | true =>
    exact ((setPort_onlyLarey s p _).trans (signalledLanes_onlyLarey _ p signal inverted)).trans
      (laneTraining_of_may s p hm).onlyLarey

/-- The lanes of a port marked usable. -/
def readyLanes (usable : BitVec 9) : State :=
  each (List.range 9) (fun s j => modLane s (9 * p + j) fun x => { x with ready := usable.getLsbD j }) s

theorem readyLanes_onlyLarey (usable : BitVec 9) : onlyLarey s (readyLanes s p usable) :=
  each_modLane_onlyLarey _ _ _ _

/-- The width that a port reaches with its usable lanes (R315). -/
def trainedWidth (q : Port) (usable : BitVec 9) : Nat :=
  portWidth (if q.st = .chain then 4 else q.width) (weight 9 usable.toNat)

def leastWidth (q : Port) : Nat := if q.st = .chain then 4 else q.minWidth

/-- A port with its lane map. -/
def mappedPort (q : Port) (w : Nat) (map : BitVec 9) (locked : Bool) : Port :=
  let q := { q with txSlot := w, fill := [], rxCode := [] }
  if q.st = .chain then { q with laneMask := map }
  else { q with actWidth := w, laneMask := map, st := if locked then .init else .locking }

/-- A port with too few usable lanes only marks them. -/
theorem trainingDone_of_narrow {ready : BitVec 9} {marks : List LaneMark}
    (hm : mayTrain s (portOf s p) = true)
    (hw : trainedWidth (portOf s p) (usableLanes s p ready) < leastWidth (portOf s p) ∨
      trainedWidth (portOf s p) (usableLanes s p ready) = 0) :
    trainingDone s p ready marks = readyLanes s p (usableLanes s p ready) := by
  rw [trainingDone]
  dsimp only
  rw [if_neg (by rw [hm]; exact Bool.false_ne_true)]
  exact if_pos hw

/-- EV_LRY events on a map that takes the spare lane in, and on a width below the one configured. -/
def reportMap (q : Port) (w : Nat) (map : BitVec 9) (s : State) : State :=
  let s := if map.getLsbD 8 && !q.laneMask.getLsbD 8 then emitDev s 0x0903 [] else s
  if decide (w < q.width) && q.st != .chain && (q.actWidth != w || q.laneMask != map)
    then emitDev s 0x0904 [] else s

theorem reportMap_frame (q : Port) (w : Nat) (map : BitVec 9) : HostFrame s (reportMap q w map s) := by
  have hreport : ∀ (b : Bool) (t : State) (code : Nat), HostFrame t (if b then emitDev t code [] else t) := by
    intro b t code
    split
    · exact emitDev_frame t code []
    · exact HostFrame.rfl' t
  exact (hreport _ _ 0x0903).trans (hreport _ _ 0x0904)

/-- A port that has taken its lane map, and what it reported. -/
def mapTaken (ready : BitVec 9) (marks : List LaneMark) : State :=
  let usable := usableLanes s p ready
  let w := trainedWidth (portOf s p) usable
  let map := lowLanes (List.range 9) w usable
  reportMap (portOf s p) w map
    (setPort (readyLanes s p usable) p (mappedPort (portOf s p) w map (deskewed map marks)))

/-- A port with enough usable lanes takes its lane map, and sends INIT once every lane of the map has locked. -/
theorem trainingDone_of_wide {ready : BitVec 9} {marks : List LaneMark}
    (hm : mayTrain s (portOf s p) = true)
    (hw : ¬ (trainedWidth (portOf s p) (usableLanes s p ready) < leastWidth (portOf s p) ∨
      trainedWidth (portOf s p) (usableLanes s p ready) = 0)) :
    trainingDone s p ready marks =
      if deskewed (lowLanes (List.range 9) (trainedWidth (portOf s p) (usableLanes s p ready))
        (usableLanes s p ready)) marks
      then sendInit (mapTaken s p ready marks) p else mapTaken s p ready marks := by
  rw [trainingDone]
  dsimp only
  rw [if_neg (by rw [hm]; exact Bool.false_ne_true)]
  exact if_neg hw

theorem mapTaken_onlyLarey (ready : BitVec 9) (marks : List LaneMark) :
    onlyLarey s (mapTaken s p ready marks) := by
  have hset := (readyLanes_onlyLarey s p (usableLanes s p ready)).trans (setPort_onlyLarey _ p
    (mappedPort (portOf s p) (trainedWidth (portOf s p) (usableLanes s p ready))
      (lowLanes (List.range 9) (trainedWidth (portOf s p) (usableLanes s p ready)) (usableLanes s p ready))
      (deskewed (lowLanes (List.range 9) (trainedWidth (portOf s p) (usableLanes s p ready))
        (usableLanes s p ready)) marks)))
  exact hset.trans (reportMap_frame _ _ _ _).onlyLarey

theorem trainingDone_onlyLarey (ready : BitVec 9) (marks : List LaneMark) :
    onlyLarey s (trainingDone s p ready marks) := by
  cases hm : mayTrain s (portOf s p) with
  | false =>
    simp only [trainingDone, hm, Bool.not_false, if_true]
    exact onlyLarey.refl s
  | true =>
    by_cases hw : trainedWidth (portOf s p) (usableLanes s p ready) < leastWidth (portOf s p) ∨
        trainedWidth (portOf s p) (usableLanes s p ready) = 0
    · rw [trainingDone_of_narrow s p hm hw]
      exact readyLanes_onlyLarey s p _
    · rw [trainingDone_of_wide s p hm hw]
      have htaken := mapTaken_onlyLarey s p ready marks
      exact (htaken.trans (sendInit_onlyLarey _ p)).ite htaken

theorem bringupTimeout_onlyLarey : onlyLarey s (bringupTimeout s p) := by
  simp only [bringupTimeout]
  exact ((setPort_onlyLarey s p _).trans (each_modLane_onlyLarey _ _ _ _)).ite (onlyLarey.refl s)

end

/-! ## INIT (R316, R341) -/

section
variable (s : State) (p : Nat)

/-- A port that an INIT of its own settings brings UP. -/
def upPort (q : Port) (b : InitBody) : Port :=
  let q1 := if samePeer q b then freeBefore q b.nextExp else restartPort q
  { q1 with
    st := if q.st = .chain then .chain else .up, actWidth := if q.st = .chain then 4 else q.actWidth,
    peerOrd := b.ordinal, peerOrdV := b.ordValid, peerPort := b.port, peerGen := b.gen, peerHeld := true,
    fresh := false, leftUp := false, replay := q1.replay.map fun f => { f with resends := 0 } }

/-- The port UP, what it dropped counted. -/
def upState (b : InitBody) : State :=
  setPort (leafAdd s (leafPort p 4)
    (if samePeer (portOf s p) b then 0 else (portOf s p).replay.length + (portOf s p).queue.length)) p
    (upPort (portOf s p) b)

/-- The events of a port that comes UP. -/
def reportUp (b : InitBody) (t : State) : State :=
  emitDev (if samePeer (portOf s p) b ∨ (portOf s p).fresh then t else emitDev t 0x0905 []) 0x0901 []

/-- What is resent once the port is UP: to the same peer the replay buffer, to another the requests of R383. -/
def resentAfterInit (b : InitBody) (t : State) : State :=
  let t := if samePeer (portOf s p) b then resendAll t p else t
  if samePeer (portOf s p) b ∨ (portOf s p).fresh then t else askResend t

theorem initUp_eq (b : InitBody) : initUp s p b = pump (resentAfterInit s p b (reportUp s p b (upState s p b))) p := rfl

theorem reportUp_frame (b : InitBody) (t : State) : HostFrame t (reportUp s p b t) := by
  rw [reportUp]
  split
  · exact emitDev_frame t _ _
  · exact (emitDev_frame t _ _).trans (emitDev_frame _ _ _)

theorem upState_onlyLarey (b : InitBody) : onlyLarey s (upState s p b) :=
  (leafAdd_onlyLarey s _ _).trans (setPort_onlyLarey _ p _)

theorem askResend_onlyLarey : onlyLarey s (askResend s) :=
  onlyLarey.foldl (fun s _ => (onlyLarey.refl s).ite (routeSend_onlyLarey s _ _ _ _)) _ s

theorem resentAfterInit_onlyLarey (b : InitBody) (t : State) : onlyLarey t (resentAfterInit s p b t) := by
  have hresent : onlyLarey t (if samePeer (portOf s p) b then resendAll t p else t) :=
    (resendAll_onlyLarey t p).ite (onlyLarey.refl t)
  exact hresent.ite (hresent.trans (askResend_onlyLarey _))

theorem initUp_onlyLarey (b : InitBody) : onlyLarey s (initUp s p b) := by
  rw [initUp_eq]
  exact (((upState_onlyLarey s p b).trans (reportUp_frame s p b _).onlyLarey).trans
    (resentAfterInit_onlyLarey s p b _)).trans (pump_onlyLarey _ p)

theorem initMessage_onlyLarey (b : InitBody) : onlyLarey s (initMessage s p b) := by
  simp only [initMessage]
  exact (onlyLarey.refl s).ite (((onlyLarey.refl s).emitDev _ _).ite (initUp_onlyLarey s p b))

end

/-! ## Flits as they arrive -/

section
variable (s : State) (p : Nat)

theorem badFlit_onlyLarey : onlyLarey s (badFlit s p) := by
  have hcount := leafAdd_onlyLarey s (leafPort p 4) 1
  have hnak := hcount.trans (sendNak_onlyLarey _ p)
  simp only [badFlit]
  split
  · exact hnak
  · exact hnak.ite hcount

theorem fwdRead_onlyLarey (stream : Nat) : onlyLarey s (fwdRead s stream).2 := by
  obtain ⟨_, _, _, _, _, h⟩ := fwdRead_frame s stream
  rw [h]
  rfl

theorem latchEntry_onlyLarey (bytes : List Byte) : onlyLarey s (latchEntry s p bytes).2 := by
  rw [latchEntry]
  split
  · exact fwdRead_onlyLarey s _
  · exact onlyLarey.refl s

theorem acceptFlit_onlyLarey (bytes : List Byte) : onlyLarey s (acceptFlit s p bytes) := by
  rw [acceptFlit_eq]
  have hjoined := ((latchEntry_onlyLarey s p bytes).trans (setPort_onlyLarey _ p
    (joinFlit (latchEntry s p bytes).1 bytes (portOf (latchEntry s p bytes).2 p)))).leafAdd (leafPort p 1) 1
  exact (hjoined.trans (sendAck_onlyLarey _ p)).ite hjoined

theorem controlFlit_onlyLarey (kind : Nat) (body : List Byte) :
    onlyLarey s (controlFlit s p kind body) := by
  simp only [controlFlit]
  split
  · exact ackFlit_onlyLarey s p _ _ _ _
  · exact nakFlit_onlyLarey s p _ _ _ _
  · exact initMessage_onlyLarey s p _
  · exact quietEnter_onlyLarey s p
  · exact retrain_onlyLarey s p
  · exact onlyLarey.refl s

theorem takeFlit_onlyLarey (bytes : List Byte) : onlyLarey s (takeFlit s p bytes) := by
  have hbad := badFlit_onlyLarey s p
  have hkept := onlyLarey.refl s
  simp only [takeFlit]
  exact ((controlFlit_onlyLarey s p _ _).ite (hbad.ite hkept)).ite
    (hkept.ite ((acceptFlit_onlyLarey s p bytes).ite hbad))

theorem receiveCode_onlyLarey (slot : Nat) (errs : SymErrs) :
    onlyLarey s (receiveCode s p slot errs).2 := by
  simp only [receiveCode]
  split
  · exact onlyLarey.refl s
  · split
    · dsimp only
      refine onlyLarey.modPort ((onlyLarey.refl s).ite ?_) p _
      exact ((onlyLarey.refl s).leafAdd _ _).leafAdd _ _
    · dsimp only
      exact (leafAdd_onlyLarey s _ _).modPort p _

theorem sequencedFlit_onlyLarey (slot : Nat) (bytes : List Byte) (errs : SymErrs) :
    onlyLarey s (sequencedFlit s p slot bytes errs) := by
  have hcode := receiveCode_onlyLarey s p slot errs
  have hbad := fun t => badFlit_onlyLarey t p
  simp only [sequencedFlit]
  split
  next t ht =>
    rw [ht] at hcode
    exact hcode.trans ((hbad t).ite (onlyLarey.refl t))
  next left t ht =>
    rw [ht] at hcode
    refine hcode.trans ((onlyLarey.refl t).ite (onlyLarey.ite (takeFlit_onlyLarey t p _) ?_))
    exact (hbad t).ite (onlyLarey.refl t)

/-! ## Retraining and loss -/

theorem addRepair_frame (kind loc spare : Nat) : ∃ spr, addRepair s kind loc spare = { s with spr := spr } := by
  simp only [addRepair]
  split
  · exact ⟨_, rfl⟩
  · split
    · exact ⟨_, rfl⟩
    · exact ⟨_, rfl⟩

/-- The port of a lane that is marked failed. -/
def markedPort (l : Nat) (q : Port) : Port := { q with failed := q.failed ||| BitVec.ofNat 9 (2 ^ (l % 9)) }

theorem markLane_frame (l : Nat) : ∃ spr, markLane s l = { modPort s (l / 9) (markedPort l) with spr := spr } := by
  rw [markLane]
  dsimp only
  split
  · exact ⟨_, rfl⟩
  · exact addRepair_frame _ _ _ _

theorem markLane_onlyLarey (l : Nat) : onlyLarey s (markLane s l) := by
  obtain ⟨_, h⟩ := markLane_frame s l
  rw [h]
  rfl

theorem laneTrigger_onlyLarey (l : Nat) : onlyLarey s (laneTrigger s l) := by
  have hnoted := modLane_onlyLarey s l fun x => { x with trig := (s.nowUs :: x.trig).take 2 }
  simp only [laneTrigger]
  refine (onlyLarey.refl s).ite (onlyLarey.trans (onlyLarey.ite ?_ hnoted) (retrain_onlyLarey _ _))
  exact hnoted.trans (markLane_onlyLarey _ l)

/-- A port that has been out of UP for LINK_TIMEOUT (R342). -/
def downPort (q : Port) : Port := { q with st := .down, actWidth := 0, leftUp := false }

theorem linkTimeout_onlyLarey : onlyLarey s (linkTimeout s p) := by
  have hdown := (setPort_onlyLarey s p (downPort (portOf s p))).emitDev 0x0902 []
  simp only [linkTimeout]
  exact (hdown.trans (onlyLarey.foldl (fun s j => (emitJob_frame s _ j _).onlyLarey) _ _)).ite
    (onlyLarey.refl s)

/-! ## Lane tests -/

theorem receiveLine_onlyLarey (l : Nat) (ls : List (BitVec 2)) : onlyLarey s (receiveLine s l ls) := by
  have htaken := takeLevels_onlyLarey s l ls
  simp only [receiveLine]
  exact (onlyLarey.refl s).ite ((htaken.trans (putLevels_onlyLarey _ l _)).ite htaken)

theorem injectGo_onlyLarey (l n : Nat) : onlyLarey s (injectGo s l n) := by
  simp only [injectGo]
  refine (onlyLarey.refl s).ite ((modLane_onlyLarey s l _).trans (onlyLarey.ite ?_ (onlyLarey.refl _)))
  exact (modLane_onlyLarey _ l _).trans (sendPairs_onlyLarey _ l _)

theorem slipLane_onlyLarey (l : Nat) (ls : List (BitVec 2)) : onlyLarey s (slipLane s l ls) := by
  simp only [slipLane]
  exact (((modLane_onlyLarey s l _).trans (receiveLine_onlyLarey _ l _)).trans (modLane_onlyLarey _ l _)).trans
    (receiveLine_onlyLarey _ l _)

theorem checkLane_onlyLarey (l : Nat) (ls : List (BitVec 2)) (lost : Bool) :
    onlyLarey s (checkLane s l ls lost) := by
  have hline := receiveLine_onlyLarey s l ls
  simp only [checkLane]
  exact ((hline.trans (modLane_onlyLarey _ l _)).leafAdd _ _).ite hline

end

/-! ## Commands -/

theorem runCmd_onlyLarey {s : State} {h : Hdr} {op : Nat} {who : From} {need : Bool} {body : Nat → State}
    (hb : ∀ j, onlyLarey s (body j)) : onlyLarey s (runCmd s h op who need body) := by
  rw [runCmd]
  split
  · exact (respond_frame s _ _ _ _).onlyLarey
  · exact hb _

section
variable (s : State) (h : Hdr)

theorem fail_onlyLarey (op : Nat) (st : St) : onlyLarey s (fail s h op st) := (fail_frame s h op st).onlyLarey

theorem answer_onlyLarey (op : Nat) (pl : List Byte) : onlyLarey s (answer s h op pl) :=
  (answer_frame s h op pl).onlyLarey

/-- A row of a link, a lane or a Larey command keeps within Larey. -/
def LareyRow (i : Instr) : Prop := ∀ t, exec i s = .next t → onlyLarey s t

variable {s} {i : Instr} {u : State}

theorem lareyRow_of_unit {b : Bool} (hi : exec i s = atUnit b u) (hu : onlyLarey s u) : LareyRow s i :=
  fun _ hexec => eq_of_atUnit (hi.symm.trans hexec) ▸ hu

theorem lareyRow_of_cmd {op : Nat} {who : From} {need : Bool} {body : Nat → State} {h : Hdr}
    (hi : exec i s = .next (runCmd s h op who need body)) (hb : ∀ j, onlyLarey s (body j)) : LareyRow s i :=
  fun _ hexec => Host.Outcome.next.inj (hi.symm.trans hexec) ▸ runCmd_onlyLarey hb

variable (s)

theorem cmdLryPortCfg_larey (p : Nat) (cfg : BitVec 32) (lt ack : Option Nat) :
    LareyRow s (.cmdLryPortCfg h p cfg lt ack) :=
  lareyRow_of_cmd rfl fun _ => (fail_onlyLarey s h _ _).ite
    (((modPort_onlyLarey s p _).trans (modLryBlk_onlyLarey _ _)).answer h _ _)

theorem cmdLryPortStatus_larey (first width : Nat) : LareyRow s (.cmdLryPortStatus h first width) :=
  lareyRow_of_cmd rfl fun _ => (fail_onlyLarey s h _ _).ite (answer_onlyLarey s h _ _)

theorem cmdLryLaneTaps_larey (l : Nat) (w : Option (BitVec 32)) : LareyRow s (.cmdLryLaneTaps h l w) := by
  refine lareyRow_of_cmd rfl fun _ => (fail_onlyLarey s h _ _).ite ?_
  cases w with
  | none => exact answer_onlyLarey s h _ _
  | some w => exact (fail_onlyLarey s h _ _).ite ((modLane_onlyLarey s l _).answer h _ _)

theorem cmdLryLanePower_larey (l : Nat) (tx : Bool) (pw : LPower) : LareyRow s (.cmdLryLanePower h l tx pw) :=
  lareyRow_of_cmd rfl fun _ => (fail_onlyLarey s h _ _).ite
    ((fail_onlyLarey s h _ _).ite ((modLane_onlyLarey s l _).answer h _ _))

theorem cmdLryLaneTest_larey (l : Nat) (w : BitVec 32) : LareyRow s (.cmdLryLaneTest h l w) :=
  lareyRow_of_cmd rfl fun _ => (fail_onlyLarey s h _ _).ite
    ((fail_onlyLarey s h _ _).ite ((modLane_onlyLarey s l _).answer h _ _))

/-- The words of a lane as they are answered: the receive word of a lane in use is a free value (log 1). -/
def readWords (s : State) (l : Nat) : BitVec 128 × State :=
  if laneInUse s l then takeFree s 128 else ((laneOf s l).rxword, s)

theorem readWords_onlyLarey (l : Nat) : onlyLarey s (readWords s l).2 := by
  rw [readWords]
  split
  · rfl
  · rfl

theorem cmdLryLaneWords_larey (l : Nat) (w : Option (BitVec 128)) : LareyRow s (.cmdLryLaneWords h l w) := by
  refine lareyRow_of_cmd rfl fun _ => (fail_onlyLarey s h _ _).ite ?_
  cases w with
  | none => exact (readWords_onlyLarey s l).answer h _ _
  | some w => exact ((modLane_onlyLarey s l _).trans (readWords_onlyLarey _ l)).answer h _ _

theorem cmdLryFwdWrite_larey (es : List (Nat × Fwd)) : LareyRow s (.cmdLryFwdWrite h es) :=
  lareyRow_of_cmd rfl fun _ => (fail_onlyLarey s h _ _).ite
    ((onlyLarey.foldl (fun s _ => modLryBlk_onlyLarey s _) es s).answer h _ _)

theorem readFwds_onlyLarey : ∀ (is : List Nat) (acc : List Byte × State),
    onlyLarey acc.2 (is.foldl readFwd acc).2
  | [], acc => onlyLarey.refl acc.2
  | i :: is, acc => by
    have hread : onlyLarey acc.2 (readFwd acc i).2 := by
      obtain ⟨_, _, _, _, _, hentry⟩ := fwdRead_frame acc.2 i
      simp only [readFwd, hentry]
      rfl
    rw [List.foldl_cons]
    exact hread.trans (readFwds_onlyLarey is (readFwd acc i))

theorem cmdLryFwdRead_larey (streams : List Nat) : LareyRow s (.cmdLryFwdRead h streams) :=
  lareyRow_of_cmd rfl fun _ => (fail_onlyLarey s h _ _).ite
    ((readFwds_onlyLarey streams ([], s)).answer h _ _)

theorem cmdLryRouteWrite_larey (es : List (Nat × Nat)) : LareyRow s (.cmdLryRouteWrite h es) :=
  lareyRow_of_cmd rfl fun _ => (fail_onlyLarey s h _ _).ite
    ((onlyLarey.foldl (fun s _ => modLryBlk_onlyLarey s _) es s).answer h _ _)

theorem cmdLryPortResetRetrain_larey (p : Nat) : LareyRow s (.cmdLryPortResetRetrain h p) :=
  lareyRow_of_cmd rfl fun _ => (fail_onlyLarey s h _ _).ite ((retrain_onlyLarey s p).answer h _ _)

theorem freshPort_onlyLarey (p : Nat) : onlyLarey s (freshPort s p) := rfl

theorem cmdLryPortResetReset_larey (p : Nat) : LareyRow s (.cmdLryPortResetReset h p) :=
  lareyRow_of_cmd rfl fun _ => (fail_onlyLarey s h _ _).ite
    (((freshPort_onlyLarey s p).trans (modPort_onlyLarey _ p _)).answer h _ _)

theorem cmdLryPortResetClearMarks_larey (p : Nat) : LareyRow s (.cmdLryPortResetClearMarks h p) := by
  refine lareyRow_of_cmd rfl fun _ => (fail_onlyLarey s h _ _).ite (onlyLarey.answer ?_ h _ _)
  rfl

end

/-- Settles O45, row by row. -/
theorem lareyStaysInside : Obligations.LareyStaysInside := by
  unfold Obligations.LareyStaysInside
  intro s t p l n a b c first width h sig inv ready reqs asks marks lost tx ib bytes errs levels cfg w lt ack tw pw
    ws fs rs streams i hi
  revert i
  simp only [List.forall_mem_cons]
  exact ⟨lareyRow_of_unit rfl (laneTraining_onlyLarey s p sig inv reqs asks) t,
    lareyRow_of_unit rfl (trainingDone_onlyLarey s p ready marks) t,
    lareyRow_of_unit rfl (bringupTimeout_onlyLarey s p) t,
    lareyRow_of_unit rfl (initMessage_onlyLarey s p ib) t,
    lareyRow_of_unit rfl (sequencedFlit_onlyLarey s p n bytes errs) t,
    lareyRow_of_unit rfl (ackFlit_onlyLarey s p n a b c) t,
    lareyRow_of_unit rfl (nakFlit_onlyLarey s p n a b c) t,
    lareyRow_of_unit rfl ((sendAck_onlyLarey s p).ite (onlyLarey.refl s)) t,
    lareyRow_of_unit rfl ((resendAll_onlyLarey s p).trans (pump_onlyLarey _ p)) t,
    lareyRow_of_unit rfl (quietEnter_onlyLarey s p) t,
    lareyRow_of_unit rfl ((((sendCtl_onlyLarey s p 4 [0]).modPort p _).trans
      (portPower_onlyLarey _ p _ _ _)).ite (onlyLarey.refl s)) t,
    lareyRow_of_unit rfl (((wakeTx_onlyLarey s p).trans (pump_onlyLarey _ p)).ite (onlyLarey.refl s)) t,
    lareyRow_of_unit rfl ((modPort_onlyLarey s p _).trans (portPower_onlyLarey _ p _ _ _)) t,
    lareyRow_of_unit rfl (retrain_onlyLarey s p) t,
    lareyRow_of_unit rfl (laneTrigger_onlyLarey s l) t,
    lareyRow_of_unit rfl (laneTrigger_onlyLarey s l) t,
    lareyRow_of_unit rfl (((markLane_onlyLarey s l).trans (retrain_onlyLarey _ _)).ite (onlyLarey.refl s)) t,
    lareyRow_of_unit rfl (linkTimeout_onlyLarey s p) t,
    lareyRow_of_unit rfl (injectGo_onlyLarey s l n) t,
    lareyRow_of_unit rfl ((slipLane_onlyLarey s l levels).ite (onlyLarey.refl s)) t,
    lareyRow_of_unit rfl ((checkLane_onlyLarey s l levels lost).ite (onlyLarey.refl s)) t,
    cmdLryPortCfg_larey s h p cfg lt ack t, cmdLryPortStatus_larey s h first width t,
    cmdLryLaneTaps_larey s h l tw t, cmdLryLanePower_larey s h l tx pw t, cmdLryLaneTest_larey s h l w t,
    cmdLryLaneWords_larey s h l ws t, cmdLryFwdWrite_larey s h fs t, cmdLryFwdRead_larey s h streams t,
    cmdLryRouteWrite_larey s h rs t, cmdLryPortResetRetrain_larey s h p t, cmdLryPortResetReset_larey s h p t,
    cmdLryPortResetClearMarks_larey s h p t, fun _ hnone => absurd hnone List.not_mem_nil⟩

end Sys2Proof.Machine
end

section
/-! PROOFS. A warm reset (R421, R422, Table 13-7): the stack is a fresh one but for what the clearing carries over,
and then each port draws its generation. -/

namespace Sys2Proof.Machine

/-- A port that starts anew, with the n-th draw as its generation (R341). -/
def anewPort (n : Nat) (q : Port) : Port :=
  { restartPort q with
    st := .disabled, actWidth := 0, laneMask := 0, peerOrd := 0, peerOrdV := false, peerPort := 0, peerGen := 0,
    peerHeld := false, fresh := true, txAsleep := false, rxAsleep := false, leftUp := false, inbox := [],
    gen := (Config.trng n).setWidth 16 }

theorem freshPort_eq (s : State) (p : Nat) :
    freshPort s p = modPort { s with draws := s.draws + 1 } p (anewPort s.draws) := rfl

/-- Only draws and the ports differ, and every port keeps its failed lanes (R340). -/
def DrawFrame (s t : State) : Prop := ∃ ports draws,
  t = { s with lry := { s.lry with ports := ports }, draws := draws } ∧
    ∀ k, (portOf t k).failed = (portOf s k).failed

theorem DrawFrame.refl (s : State) : DrawFrame s s := ⟨_, _, rfl, fun _ => rfl⟩

theorem DrawFrame.trans {s t u : State} (h : DrawFrame s t) (g : DrawFrame t u) : DrawFrame s u := by
  obtain ⟨_, _, rfl, hf⟩ := h
  obtain ⟨_, _, rfl, gf⟩ := g
  exact ⟨_, _, rfl, fun k => (gf k).trans (hf k)⟩

theorem freshPort_draw (s : State) (p : Nat) : DrawFrame s (freshPort s p) :=
  ⟨_, _, rfl, (linkFrame_modPort (f := Port.failed) (g := id) (s := { s with draws := s.draws + 1 }) rfl).ports⟩

theorem drawGenerations_draw (s : State) : DrawFrame s (drawGenerations s) := by
  have hfold : ∀ (l : List Nat) (s : State), DrawFrame s (l.foldl freshPort s) := fun l => by
    induction l with
    | nil => exact DrawFrame.refl
    | cons p l ih => exact fun s => (freshPort_draw s p).trans (ih (freshPort s p))
  exact hfold _ s

theorem freshPort_st (s : State) (p k : Nat) :
    (portOf (freshPort s p) k).st = if k = p then .disabled else (portOf s k).st := by
  rw [freshPort_eq]
  split
  next h => rw [h, portOf_modPort_same]; rfl
  next h => exact congrArg Port.st (portOf_modPort_other _ p k _ h)

/-- Every port that has drawn its generation is in STATE 0. -/
theorem drawn_st {k : Nat} : ∀ (l : List Nat) (s : State), k ∈ l ∨ (portOf s k).st = .disabled →
    (portOf (l.foldl freshPort s) k).st = .disabled
  | [], _, h => h.resolve_left List.not_mem_nil
  | p :: l, s, h => by
    refine drawn_st l (freshPort s p) ?_
    rw [freshPort_st]
    by_cases hk : k = p
    · exact Or.inr (if_pos hk)
    · rw [if_neg hk]
      exact h.imp_left fun hmem => (List.mem_cons.1 hmem).resolve_left hk

/-- A table that is written at each key of a list. -/
theorem mapGet_foldl_mapPut {α : Type} [DecidableEq α] (d : α) (v : Nat → α) {k : Nat} :
    ∀ (l : List Nat) (m : SMap α), k ∈ l ∨ mapGet m d k = v k →
      mapGet (l.foldl (fun m p => mapPut m d p (v p)) m) d k = v k
  | [], _, h => h.resolve_left List.not_mem_nil
  | p :: l, m, h => by
    refine mapGet_foldl_mapPut d v l (mapPut m d p (v p)) ?_
    rw [mapGet_mapPut]
    by_cases hk : k = p
    · exact Or.inr (by rw [if_pos hk, hk])
    · rw [if_neg hk]
      exact h.imp_left fun hmem => (List.mem_cons.1 hmem).resolve_left hk

/-- A port as after power-up, but for its lanes marked failed. -/
def markedOnly (q : Port) : Port := { failed := q.failed }

theorem portOf_clearStack (s : State) (cause : Nat) {p : Nat} (hp : p < 12) :
    portOf (clearStack s cause) p = markedOnly (portOf s p) :=
  mapGet_foldl_mapPut ({} : Port) (fun p => markedOnly (portOf s p)) (List.range 12) []
    (Or.inl (List.mem_range.2 hp))

/-- The stack that a warm reset leaves: cleared, its ports in STATE 0 with their lanes marked as before. -/
theorem drawnStack_ports (s : State) (cause : Nat) {p : Nat} (hp : p < 12) :
    (portOf (drawGenerations (clearStack s cause)) p).failed = (portOf s p).failed ∧
      (portOf (drawGenerations (clearStack s cause)) p).st = .disabled := by
  obtain ⟨_, _, -, hfailed⟩ := drawGenerations_draw (clearStack s cause)
  refine ⟨(hfailed p).trans ?_,
    drawn_st _ _ (Or.inl (List.mem_range.2 hp))⟩
  rw [portOf_clearStack s cause hp]
  rfl

/-- RESET_N low for its time, on a device whose warm reset is timed and that runs no scrub. -/
theorem exec_resetNLow_of_timed {s : State} {n : Nat} (ht : timesReset s = true) (hn : 380 ≤ n)
    (hscrub : s.lp.scrub = none) : exec (.resetNLow n) s = .next (modRstBlk
      (modPwrBlk (drawGenerations (clearStack (modPwrBlk s fun p => { p with resetN := false }) 2)) fun p =>
        { p with tripping := s.pwr.tripping, thermtripN := !s.pwr.tripping })
      fun r => { r with held := true }) := by
  have htimed : (timesReset (modPwrBlk s fun p => { p with resetN := false }) && decide (380 ≤ n)) = true := by
    rw [decide_eq_true hn, Bool.and_true]
    exact ht
  have hidle : resetScrub (modPwrBlk s fun p => { p with resetN := false }) =
      modPwrBlk s fun p => { p with resetN := false } := by
    simp only [resetScrub, modPwrBlk_lp, hscrub]
  show execResetNLow n s = _
  simp only [execResetNLow, htimed, if_true, warmReset, hidle, modPwrBlk_pwr]

/-- Settles O54. That retired frames and failed lanes are kept is the model's deduction (log 79). -/
theorem warmResetClearsAndKeeps : Obligations.WarmResetClearsAndKeeps := by
  unfold Obligations.WarmResetClearsAndKeeps
  intro s n ht hn hscrub
  refine ⟨_, exec_resetNLow_of_timed ht hn hscrub, ?_⟩
  have hports := fun p hp =>
    drawnStack_ports (modPwrBlk s fun p => { p with resetN := false }) 2 (p := p) hp
  obtain ⟨ports, draws, hdrawn, -⟩ :=
    drawGenerations_draw (clearStack (modPwrBlk s fun p => { p with resetN := false }) 2)
  rw [hdrawn] at hports ⊢
  exact ⟨fun j => ⟨rfl, rfl, rfl⟩, rfl, rfl, rfl, rfl, rfl, rfl, rfl, rfl, rfl, rfl, rfl, rfl, rfl, rfl, rfl, rfl,
    hports⟩

end Sys2Proof.Machine
end

section
/-! PROOFS. Training, link control, quiet, retraining and loss, each on the port states where it acts (R314 to R316,
R321, R323, R336 to R340, R342). -/

namespace Sys2Proof.Machine

/-! ## Lanes of a port -/

section
variable {p : Nat} {f : Nat → Lane → Lane}

theorem laneOf_eachLane_absent {j : Nat} : ∀ (l : List Nat) (s : State), j ∉ l →
    laneOf (each l (fun s i => modLane s (9 * p + i) (f i)) s) (9 * p + j) = laneOf s (9 * p + j)
  | [], _, _ => rfl
  | i :: l, s, h => by
    obtain ⟨hi, hl⟩ := not_or.1 (mt List.mem_cons.2 h)
    rw [each, List.foldl_cons]
    exact (laneOf_eachLane_absent l _ hl).trans (laneOf_modLane_other s _ _ _ (by omega))

/-- A change of the lanes of a port, one by one, changes each as it stood. -/
theorem laneOf_eachLane {j : Nat} : ∀ (l : List Nat) (s : State), l.Nodup → j ∈ l →
    laneOf (each l (fun s i => modLane s (9 * p + i) (f i)) s) (9 * p + j) = f j (laneOf s (9 * p + j))
  | [], _, _, h => absurd h List.not_mem_nil
  | i :: l, s, hn, h => by
    obtain ⟨hi, hl⟩ := List.nodup_cons.1 hn
    rw [each, List.foldl_cons]
    by_cases hj : j = i
    · subst hj
      exact (laneOf_eachLane_absent l _ hi).trans (laneOf_modLane_same s _ _)
    · refine (laneOf_eachLane l _ hl ((List.mem_cons.1 h).resolve_left hj)).trans (congrArg (f j) ?_)
      exact laneOf_modLane_other s _ _ _ (by omega)

end

theorem portOf_eachLane (p : Nat) (f : Nat → Lane → Lane) (l : List Nat) (s : State) (k : Nat) :
    portOf (each l (fun s i => modLane s (9 * p + i) (f i)) s) k = portOf s k := by
  obtain ⟨_, h⟩ := each_modLane_frame (fun i => 9 * p + i) f l s
  rw [h]
  rfl

/-- One direction of a lane moves from one power to another. -/
def movePower (tx : Bool) (a b : LPower) (x : Lane) : Lane :=
  if tx then { x with txPower := if x.txPower = a then b else x.txPower }
  else { x with rxPower := if x.rxPower = a then b else x.rxPower }

section
variable (s : State) (p : Nat) (tx : Bool) (a b : LPower)

theorem laneOf_portPower {j : Nat} (hj : j < 9) :
    laneOf (portPower s p tx a b) (9 * p + j) = movePower tx a b (laneOf s (9 * p + j)) :=
  laneOf_eachLane (f := fun _ => movePower tx a b) _ s List.nodup_range (List.mem_range.2 hj)

theorem portOf_portPower (k : Nat) : portOf (portPower s p tx a b) k = portOf s k :=
  portOf_eachLane p (fun _ => movePower tx a b) _ s k

theorem portPower_frame : ∃ lanes, portPower s p tx a b = { s with lry := { s.lry with lanes := lanes } } :=
  each_modLane_frame (fun i => 9 * p + i) (fun _ => movePower tx a b) (List.range 9) s

theorem portPower_out : (portPower s p tx a b).out = s.out := by
  obtain ⟨_, h⟩ := portPower_frame s p tx a b
  rw [h]

theorem movePower_tx {x : Lane} (h : x.txPower = a) : (movePower true a b x).txPower = b := if_pos h

theorem movePower_rx {x : Lane} (h : x.rxPower = a) : (movePower false a b x).rxPower = b := if_pos h

end

/-! ## Training (R314, R315) -/

section
variable {s : State} {p : Nat}

theorem laneTraining_effect (sig inv : BitVec 9) (reqs asks : List (Nat × Nat × TapReq))
    (hm : mayTrain s (portOf s p) = true) :
    let t := laneTraining s p sig inv reqs asks
    portOf t p = trainingPort (portOf s p) ∧
    (∀ j, j < 9 → withoutTaps (laneOf t (9 * p + j)) =
      withoutTaps (signalledLane sig inv j (laneOf s (9 * p + j)))) ∧
    ∀ k, k ≠ p → portOf t k = portOf s k := by
  have htaps := laneTraining_of_may s p (signal := sig) (inverted := inv) (reqs := reqs) (asks := asks) hm
  have hports : ∀ k, portOf (laneTraining s p sig inv reqs asks) k =
      portOf (setPort s p (trainingPort (portOf s p))) k := fun k =>
    (htaps.portOf k).trans (portOf_eachLane p (signalledLane sig inv) _ _ k)
  obtain ⟨_, _, _, -, hlanes⟩ := htaps
  refine ⟨(hports p).trans (portOf_setPort_same s p _), fun j hj => ?_, fun k hk =>
    (hports k).trans (portOf_modPort_other s p k (fun _ => trainingPort (portOf s p)) hk)⟩
  rw [hlanes, signalledLanes, laneOf_eachLane _ _ List.nodup_range (List.mem_range.2 hj)]
  rfl

theorem portOf_mapTaken (ready : BitVec 9) (marks : List LaneMark) :
    let w := trainedWidth (portOf s p) (usableLanes s p ready)
    let map := lowLanes (List.range 9) w (usableLanes s p ready)
    portOf (mapTaken s p ready marks) p = mappedPort (portOf s p) w map (deskewed map marks) := by
  have hreported : ∀ (q : Port) (w : Nat) (map : BitVec 9) (t : State),
      portOf (reportMap q w map t) p = portOf t p := fun q w map t => by
    rw [portOf, (reportMap_frame t q w map).lry, portOf]
  intro w map
  exact (hreported _ _ _ _).trans (portOf_setPort_same _ p _)

theorem mappedPort_laneMask (q : Port) (w : Nat) (map : BitVec 9) (locked : Bool) :
    (mappedPort q w map locked).laneMask = map := by
  simp only [mappedPort]
  split
  · rfl
  · rfl

theorem mappedPort_st (q : Port) (w : Nat) (map : BitVec 9) (locked : Bool) : (mappedPort q w map locked).st =
    if q.st = .chain then .chain else if locked then .init else .locking := by
  simp only [mappedPort]
  split
  · assumption
  · rfl

theorem mappedPort_actWidth (q : Port) (w : Nat) (map : BitVec 9) (locked : Bool) :
    (mappedPort q w map locked).actWidth = if q.st = .chain then q.actWidth else w := by
  simp only [mappedPort]
  split
  · rfl
  · rfl

/-- What INIT leaves of the port: nothing that training sets. -/
theorem sendInit_keeps (t : State) {α : Type} (f : Port → α) (hf : ∀ q, f (withoutControl q) = f q) :
    f (portOf (sendInit t p) p) = f (portOf t p) := (sendCtl_link t p 3 _).read f hf p

theorem trainingDone_effect (ready : BitVec 9) (marks : List LaneMark)
    (hm : mayTrain s (portOf s p) = true)
    (hw : ¬ (trainedWidth (portOf s p) (usableLanes s p ready) < leastWidth (portOf s p) ∨
      trainedWidth (portOf s p) (usableLanes s p ready) = 0)) {α : Type} (f : Port → α)
    (hf : ∀ q, f (withoutControl q) = f q) :
    let w := trainedWidth (portOf s p) (usableLanes s p ready)
    let map := lowLanes (List.range 9) w (usableLanes s p ready)
    f (portOf (trainingDone s p ready marks) p) =
      f (mappedPort (portOf s p) w map (deskewed map marks)) := by
  intro w map
  rw [trainingDone_of_wide s p hm hw]
  split
  · rw [sendInit_keeps _ f hf, portOf_mapTaken]
  · rw [portOf_mapTaken]

/-- A port that did not come UP within 1 s. -/
def restartedPort (q : Port) : Port :=
  { q with st := if q.st = .retrain then .retrain else .training, actWidth := 0 }

theorem bringupTimeout_effect (h : (portOf s p).st = .training ∨ (portOf s p).st = .locking ∨
    (portOf s p).st = .init ∨ (portOf s p).st = .retrain) :
    PortChange s p (restartedPort (portOf s p)) (bringupTimeout s p) := by
  have hst : (if (portOf s p).st = .chain ∨ (portOf s p).st = .retrain then (portOf s p).st
      else PState.training) = if (portOf s p).st = .retrain then .retrain else .training := by
    rcases h with h | h | h | h <;> rw [h] <;> rfl
  have hdue : (portOf s p).st = .training ∨ (portOf s p).st = .locking ∨ (portOf s p).st = .init ∨
      (portOf s p).st = .retrain ∨ ((portOf s p).st = .chain ∧ (portOf s p).actWidth = 0) := by
    tauto
  simp only [bringupTimeout, if_pos hdue, hst]
  exact each_modLane_frame _ _ _ (setPort s p (restartedPort (portOf s p)))

end

/-! ## INIT (R316, R341) -/

section
variable {s : State} {p : Nat}

theorem resendOne_link (s : State) (p : Nat) (f : Flit) :
    LinkFrame withoutControl withoutLine s (resendOne p s f) := putAhead_link s p _

/-- A replay buffer none of whose flits has been resent 8 times is resent; the port does not retrain (R338). -/
theorem resendAll_link (hf : ∀ f ∈ (portOf s p).replay, f.resends < 8) :
    LinkFrame withoutTraffic withoutPower s (resendAll s p) := by
  have hfew : (portOf s p).replay.any (fun f => decide (8 ≤ f.resends)) = false :=
    any_eq_false_of_forall fun f hmem => decide_eq_false (Nat.not_le.2 (hf f hmem))
  have hresent := (LinkFrame.foldl (fun s f => resendOne_link s p f) (portOf s p).replay (wakeTx s p)).map
    withoutTraffic withoutPower
  simp only [resendAll, hfew, Bool.false_eq_true, if_false]
  refine (LinkFrame.refl _ _ s).ite (LinkFrame.trans ?_ (leafAdd_link _ _))
  exact (((wakeTx_link s p).map withoutTraffic id).trans hresent).trans (linkFrame_modPort rfl)

theorem askResend_link (s : State) : LinkFrame withoutTraffic withoutPower s (askResend s) :=
  LinkFrame.foldl (fun s _ => (LinkFrame.refl _ _ s).ite (routeSend_link s _ _ _ _)) _ s

theorem upPort_resends (q : Port) (b : InitBody) : ∀ f ∈ (upPort q b).replay, f.resends < 8 := by
  intro f hf
  obtain ⟨f', -, rfl⟩ := List.mem_map.1 hf
  exact Nat.zero_lt_succ 7

theorem resentAfterInit_link (s : State) (b : InitBody) {t : State}
    (hf : ∀ f ∈ (portOf t p).replay, f.resends < 8) :
    LinkFrame withoutTraffic withoutPower t (resentAfterInit s p b t) := by
  have hresent : LinkFrame withoutTraffic withoutPower t
      (if samePeer (portOf s p) b then resendAll t p else t) := (resendAll_link hf).ite (LinkFrame.refl _ _ t)
  exact hresent.ite (hresent.trans (askResend_link _))

/-- Everything that INIT brings about after the port is UP leaves the port as it came UP, but for its traffic. -/
theorem initUp_link (s : State) (p : Nat) (b : InitBody) :
    LinkFrame withoutTraffic withoutPower (upState s p b) (initUp s p b) := by
  have hport : portOf (reportUp s p b (upState s p b)) p = upPort (portOf s p) b := by
    rw [portOf, (reportUp_frame s p b _).lry]
    exact portOf_setPort_same _ p _
  have hresent := resentAfterInit_link s b (hport ▸ upPort_resends (portOf s p) b)
  rw [initUp_eq]
  exact ((reportUp_frame s p b _).link.trans hresent).trans (pump_link _ p)

theorem initUp_effect (b : InitBody) (h : (portOf s p).st = .init) :
    (portOf (initUp s p b) p).st = .up ∧ (portOf (initUp s p b) p).peerGen = b.gen := by
  have hport : portOf (upState s p b) p = upPort (portOf s p) b := portOf_setPort_same _ p _
  have hst := (initUp_link s p b).read Port.st (fun _ => rfl) p
  have hgen := (initUp_link s p b).read Port.peerGen (fun _ => rfl) p
  rw [hport] at hst hgen
  exact ⟨hst.trans (if_neg (by rw [h]; exact PState.noConfusion)), hgen⟩

theorem initMessage_of_init (b : InitBody) (h : (portOf s p).st = .init) : initMessage s p b =
    if initMismatch s (portOf s p) b then emitDev s 0x0906 [] else initUp s p b :=
  if_neg fun hne => hne.1 h

end

/-! ## Quiet (R321, R323) -/

section
variable {s : State} {p : Nat}

theorem quietEnter_effect (hup : portUp (portOf s p) = true) :
    portOf (quietEnter s p) p = { portOf s p with rxAsleep := true } ∧
    ∀ j, j < 9 → (laneOf s (9 * p + j)).rxPower = .active →
      (laneOf (quietEnter s p) (9 * p + j)).rxPower = .quiet := by
  rw [quietEnter, if_pos hup]
  refine ⟨(portOf_portPower _ p _ _ _ p).trans (portOf_modPort_same s p _), fun j hj hx => ?_⟩
  rw [laneOf_portPower _ p _ _ _ hj]
  exact movePower_rx _ _ hx

theorem wakeSequence_effect (s : State) (p : Nat) :
    let t := portPower (modPort s p fun q => { q with rxAsleep := false }) p false .quiet .active
    portOf t p = { portOf s p with rxAsleep := false } ∧
    ∀ j, j < 9 → (laneOf s (9 * p + j)).rxPower = .quiet → (laneOf t (9 * p + j)).rxPower = .active := by
  refine ⟨(portOf_portPower _ p _ _ _ p).trans (portOf_modPort_same s p _), fun j hj hx => ?_⟩
  rw [laneOf_portPower _ p _ _ _ hj]
  exact movePower_rx _ _ hx

theorem wakeTx_effect (h : (portOf s p).txAsleep = true) :
    (portOf (wakeTx s p) p).txAsleep = false ∧ (wakeTx s p).out = .wake p :: s.out ∧
    ∀ j, j < 9 → (laneOf s (9 * p + j)).txPower = .quiet →
      (laneOf (wakeTx s p) (9 * p + j)).txPower = .active := by
  rw [wakeTx, if_pos h]
  refine ⟨?_, portPower_out _ p _ _ _, fun j hj hx => ?_⟩
  · rw [portOf_portPower, portOf_modPort_same]
  · rw [laneOf_portPower _ p _ _ _ hj]
    exact movePower_tx _ _ hx

/-- A port without traffic sends QUIET_ENTER and its transmit direction sleeps. -/
def fallAsleep (s : State) (p : Nat) : State :=
  portPower (modPort (sendCtl s p 4 [0]) p fun q => { q with txAsleep := true }) p true .active .quiet

theorem fallAsleep_effect (h : (portOf s p).txAsleep = false) :
    (portOf (fallAsleep s p) p).txAsleep = true ∧ (fallAsleep s p).out = (sendCtl s p 4 [0]).out ∧
    ∀ j, j < 9 → (laneOf s (9 * p + j)).txPower = .active →
      (laneOf (fallAsleep s p) (9 * p + j)).txPower = .quiet := by
  have hlanes := (sendCtl_link_of_awake h 4 [0]).readLane Lane.txPower (fun _ => rfl)
  rw [fallAsleep]
  generalize sendCtl s p 4 [0] = t at hlanes
  refine ⟨?_, (portPower_out _ p _ _ _).trans (modPort_out _ _ _), fun j hj hx => ?_⟩
  · rw [portOf_portPower, portOf_modPort_same]
  · rw [laneOf_portPower _ p _ _ _ hj]
    exact movePower_tx _ _ ((hlanes (9 * p + j)).trans hx)

end

/-! ## Retraining and loss (R339, R340, R342) -/

section
variable {s : State} {p : Nat}

/-- A port that retrains. -/
def retrainingPort (q : Port) : Port :=
  { q with st := if q.st = .chain then .chain else .retrain, actWidth := 0, leftUp := q.leftUp || q.st == .up }

theorem retrain_of_up (h : (portOf s p).st = .up) :
    retrain s p = modPort (sendCtl s p 5 [0]) p retrainingPort := if_pos (Or.inl h)

/-- A port that leaves UP is in RETRAIN; what it held and queued is kept. -/
theorem retrain_effect (h : (portOf s p).st = .up) :
    (portOf (retrain s p) p).st = .retrain ∧ (portOf (retrain s p) p).actWidth = 0 ∧
    (portOf (retrain s p) p).replay = (portOf s p).replay ∧
    (portOf (retrain s p) p).queue = (portOf s p).queue ∧
    (portOf (retrain s p) p).failed = (portOf s p).failed := by
  have hkept := sendCtl_link s p 5 [0]
  have hst := hkept.read Port.st (fun _ => rfl) p
  have hreplay := hkept.read Port.replay (fun _ => rfl) p
  have hqueue := hkept.read Port.queue (fun _ => rfl) p
  have hfailed := hkept.read Port.failed (fun _ => rfl) p
  rw [retrain_of_up h, portOf_modPort_same]
  generalize portOf (sendCtl s p 5 [0]) p = q at hst hreplay hqueue hfailed
  have hup : ¬ q.st = .chain := by
    rw [hst, h]
    exact PState.noConfusion
  exact ⟨if_neg hup, rfl, hreplay, hqueue, hfailed⟩

theorem portOf_markLane (s : State) (l : Nat) :
    portOf (markLane s l) (l / 9) = markedPort l (portOf s (l / 9)) := by
  obtain ⟨_, h⟩ := markLane_frame s l
  rw [h]
  exact portOf_modPort_same s (l / 9) _

theorem markedPort_failed (l : Nat) (q : Port) : (markedPort l q).failed.getLsbD (l % 9) = true := by
  have hlane : l % 9 < 9 := Nat.mod_lt l (by decide)
  simp only [markedPort, BitVec.getLsbD_or, BitVec.getLsbD_ofNat, Nat.testBit_two_pow_self, hlane, decide_true,
    Bool.and_self, Bool.or_true]

/-- A lane in use of a port that is UP makes it retrain, from a state in which the lane may have been marked. -/
theorem laneTrigger_of_up {l : Nat} (hu : laneInUse s l = true) (h : (portOf s (l / 9)).st = .up) :
    ∃ u, laneTrigger s l = retrain u (l / 9) ∧
      (portOf u (l / 9) = portOf s (l / 9) ∨ portOf u (l / 9) = markedPort l (portOf s (l / 9))) := by
  have hst : ((portOf s (l / 9)).st == PState.retrain) = false := by rw [h]; rfl
  simp only [laneTrigger, hu, hst, Bool.not_true, Bool.or_self, Bool.false_eq_true, if_false]
  refine ⟨_, rfl, ?_⟩
  split
  · exact Or.inr (portOf_markLane _ l)
  · exact Or.inl rfl

theorem linkTimeout_of_retrain (hl : (portOf s p).leftUp = true) (h : (portOf s p).st = .retrain) :
    let u := emitDev (setPort s p (downPort (portOf s p))) 0x0902 []
    linkTimeout s p = each (portJobs s p) (fun s j => emitJob s 0x0A02 j []) u := by
  intro u
  have hjobs : portJobs u p = portJobs s p := by
    simp only [u, portJobs, routeOf, emitDev_arr, emitDev_lry, setPort_arr, setPort_lry]
  rw [← hjobs]
  exact if_pos ⟨hl, Or.inl h⟩

end

theorem sendAck_sinceAck (s : State) (p : Nat) : (portOf (sendAck s p) p).sinceAck = 0 := by
  rw [(sendAck_link s p).read Port.sinceAck (fun _ => rfl) p, portOf_setPort_same]

/-! ## The rows -/

section
variable {s : State} {p : Nat}

theorem exec_ackSend_of_owed (hp : p < 12) (hup : portUp (portOf s p) = true) (hs : 0 < (portOf s p).sinceAck) :
    exec (.ackSend p) s = .next (sendAck s p) := exec_of_unit rfl hp (if_pos ⟨hup, hs⟩)

theorem exec_quietIdleExpiry_of_idle (hp : p < 12) (hup : portUp (portOf s p) = true)
    (hq : (portOf s p).txQuiet = true) (ha : (portOf s p).txAsleep = false) (hr : (portOf s p).replay = [])
    (hqueue : (portOf s p).queue = []) (hs : (portOf s p).sinceAck = 0) :
    exec (.quietIdleExpiry p) s = .next (fallAsleep s p) :=
  exec_of_unit rfl hp (if_pos (by rw [hup, hq, ha, hr, hqueue, hs]; rfl))

theorem exec_laneErrorWindow_of_used {l : Nat} (hl : l < 108) (hu : laneInUse s l = true) :
    exec (.laneErrorWindow l) s = .next (retrain (markLane s l) (l / 9)) := exec_of_unit rfl hl (if_pos hu)

/-- Loss of lock and a burst of codewords make the port of a lane in use retrain. -/
theorem laneTrigger_effect {l : Nat} (hu : laneInUse s l = true) (h : (portOf s (l / 9)).st = .up) :
    (portOf (laneTrigger s l) (l / 9)).st = .retrain ∧
    (portOf (laneTrigger s l) (l / 9)).replay = (portOf s (l / 9)).replay ∧
    (portOf (laneTrigger s l) (l / 9)).queue = (portOf s (l / 9)).queue := by
  obtain ⟨u, htrig, hport⟩ := laneTrigger_of_up hu h
  have hkept : (portOf u (l / 9)).st = (portOf s (l / 9)).st ∧
      (portOf u (l / 9)).replay = (portOf s (l / 9)).replay ∧
      (portOf u (l / 9)).queue = (portOf s (l / 9)).queue := by
    rcases hport with hport | hport
    · rw [hport]; exact ⟨rfl, rfl, rfl⟩
    · rw [hport]; exact ⟨rfl, rfl, rfl⟩
  obtain ⟨hst, hreplay, hqueue⟩ := hkept
  obtain ⟨hst', -, hreplay', hqueue', -⟩ := retrain_effect (hst.trans h)
  rw [htrig]
  exact ⟨hst', hreplay'.trans hreplay, hqueue'.trans hqueue⟩

/-- A lane with too many symbol errors is marked, and its port retrains. -/
theorem errorWindow_effect {l : Nat} (h : (portOf s (l / 9)).st = .up) :
    let t := retrain (markLane s l) (l / 9)
    (portOf t (l / 9)).st = .retrain ∧ (portOf t (l / 9)).replay = (portOf s (l / 9)).replay ∧
    (portOf t (l / 9)).queue = (portOf s (l / 9)).queue ∧ (portOf t (l / 9)).failed.getLsbD (l % 9) = true := by
  have hport := portOf_markLane s l
  obtain ⟨hst, -, hreplay, hqueue, hfailed⟩ := retrain_effect (s := markLane s l) (p := l / 9) (by rw [hport]; exact h)
  rw [hport] at hreplay hqueue hfailed
  exact ⟨hst, hreplay, hqueue, by rw [hfailed]; exact markedPort_failed l _⟩

end

/-- Settles O42, row by row. -/
theorem linkEventsAct : Obligations.LinkEventsAct := by
  unfold Obligations.LinkEventsAct
  refine ⟨?training, ?trained, ?bringup, ?init, ?ack, ?ackSend, ?ackTimeout, ?quietEnter, ?quietIdle, ?quietWake,
    ?wake, ?retrain, ?lanes, ?timeout⟩
  case training =>
    intro s p sig inv reqs asks hp hm
    obtain ⟨hport, hlanes, hothers⟩ := laneTraining_effect sig inv reqs asks hm
    refine ⟨_, exec_of_unit rfl hp rfl, congrArg Port.st hport, fun j hj => ?_, hothers⟩
    exact ⟨congrArg Lane.inverted (hlanes j hj), congrArg Lane.ready (hlanes j hj),
      congrArg Lane.signal (hlanes j hj)⟩
  case trained =>
    intro s p ready marks hp hm q usable w map hleast hw
    have hwide : ¬ (trainedWidth (portOf s p) (usableLanes s p ready) < leastWidth (portOf s p) ∨
        trainedWidth (portOf s p) (usableLanes s p ready) = 0) := not_or.2 ⟨Nat.not_lt.2 hleast, hw⟩
    have hmask := (trainingDone_effect ready marks hm hwide Port.laneMask fun _ => rfl).trans
      (mappedPort_laneMask _ _ _ _)
    refine ⟨_, exec_of_unit rfl hp rfl, hmask,
      (trainingDone_effect ready marks hm hwide Port.st fun _ => rfl).trans (mappedPort_st _ _ _ _),
      (trainingDone_effect ready marks hm hwide Port.actWidth fun _ => rfl).trans (mappedPort_actWidth _ _ _ _),
      fun hd => ⟨mapTaken s p ready marks, ?_, ?_⟩⟩
    · exact (trainingDone_of_wide s p hm hwide).trans (if_pos hd)
    · rw [portOf_mapTaken]
      exact mappedPort_laneMask _ _ _ _
  case bringup =>
    intro s p hp hst
    have hchange := bringupTimeout_effect hst
    obtain ⟨_, hframe⟩ := id hchange
    exact ⟨_, exec_of_unit rfl hp rfl, hchange.portOf_same, by rw [hframe]⟩
  case init =>
    intro s p b hp hst
    obtain ⟨hup, hgen⟩ := initUp_effect b hst
    have hexec : ∀ m, initMismatch s (portOf s p) b = m →
        exec (.init p b) s = .next (if m then emitDev s 0x0906 [] else initUp s p b) := fun m hm =>
      exec_of_unit rfl hp (hm ▸ initMessage_of_init b hst)
    exact ⟨fun hm => ⟨hexec false hm, hup, hgen⟩, fun hm => hexec true hm⟩
  case ack =>
    intro s p n a b c hp hup
    have hnot : ¬ (!portUp (portOf s p)) = true := by rw [hup]; exact Bool.false_ne_true
    exact ⟨exec_of_unit rfl hp (if_neg hnot), exec_of_unit rfl hp (if_neg hnot)⟩
  case ackSend =>
    intro s p hp hup hs
    exact ⟨_, exec_ackSend_of_owed hp hup hs, sendAck_sinceAck s p, rfl⟩
  case ackTimeout => exact fun s p hp => exec_of_unit rfl hp rfl
  case quietEnter =>
    exact fun s p hp hup => ⟨_, exec_of_unit rfl hp rfl, quietEnter_effect hup⟩
  case quietIdle =>
    intro s p hp hup hq ha hr hqueue hs
    obtain ⟨hasleep, hout, hlanes⟩ := fallAsleep_effect ha
    exact ⟨_, exec_quietIdleExpiry_of_idle hp hup hq ha hr hqueue hs, hasleep, hlanes, hout⟩
  case quietWake =>
    intro s p hp ha
    exact ⟨exec_of_unit rfl hp (if_pos ha), wakeTx_effect ha⟩
  case wake => exact fun s p hp => ⟨_, exec_of_unit rfl hp rfl, wakeSequence_effect s p⟩
  case retrain =>
    intro s p hp hst
    obtain ⟨hst', hwidth, hreplay, hqueue, -⟩ := retrain_effect hst
    exact ⟨_, exec_of_unit rfl hp rfl, hst', hwidth, hreplay, hqueue, by rw [retrain_of_up hst, modPort_out]⟩
  case lanes =>
    intro s l hl hu hst
    obtain ⟨hst', hreplay, hqueue⟩ := laneTrigger_effect hu hst
    obtain ⟨hstE, hreplayE, hqueueE, hmarked⟩ := errorWindow_effect hst
    simp only [List.forall_mem_cons]
    exact ⟨⟨_, exec_of_unit rfl hl rfl, hst', hreplay, hqueue, nofun⟩,
      ⟨_, exec_of_unit rfl hl rfl, hst', hreplay, hqueue, nofun⟩,
      ⟨_, exec_laneErrorWindow_of_used hl hu, hstE, hreplayE, hqueueE, fun _ => hmarked⟩,
      fun _ hnone => absurd hnone List.not_mem_nil⟩
  case timeout =>
    intro s p hp hleft hst
    refine ⟨_, _, exec_of_unit rfl hp rfl, ?_, rfl, linkTimeout_of_retrain hleft hst⟩
    rw [linkTimeout_of_retrain hleft hst]
    have hevents : HostFrame (setPort s p (downPort (portOf s p))) (each (portJobs s p)
        (fun s j => emitJob s 0x0A02 j []) (emitDev (setPort s p (downPort (portOf s p))) 0x0902 [])) :=
      (emitDev_frame _ _ _).trans (HostFrame.foldl _ (fun s j => emitJob_frame s _ j _) _ _)
    rw [portOf, hevents.lry]
    exact congrArg Port.st (portOf_setPort_same s p (downPort (portOf s p)))

end Sys2Proof.Machine
end

section
/-! PROOFS. The Larey commands, the lane test functions and the messages for this device, each where it acts (R318 to
R326, R338, R340, R342, R344, R346). -/

namespace Sys2Proof.Machine

/-! ## Ports, lanes and tables read after the answer -/

section
variable (s : State) (h : Hdr) (op : Nat) (pl : List Byte)

theorem portOf_answer (k : Nat) : portOf (answer s h op pl) k = portOf s k := by
  rw [portOf, answer_lry, portOf]

theorem laneOf_answer (k : Nat) : laneOf (answer s h op pl) k = laneOf s k := by
  rw [laneOf, answer_lry, laneOf]

theorem routeOf_answer (k : Nat) : routeOf (answer s h op pl) k = routeOf s k := by
  rw [routeOf, answer_lry, routeOf]

end

/-- A change of Larey alone that is answered changes what is driven outward and the host interface besides. -/
theorem answered_frame {s u : State} (hu : ∃ l, u = { s with lry := l }) (h : Hdr) (op : Nat) (pl : List Byte) :
    let t := answer u h op pl
    t = { s with lry := t.lry, hif := t.hif, out := t.out } := by
  obtain ⟨l, rfl⟩ := hu
  obtain ⟨_, _, hans⟩ := answer_frame { s with lry := l } h op pl
  rw [hans]

/-! ## Settings of ports and lanes (R318, R322 to R324, R342) -/

section
variable {s : State} {h : Hdr}

/-- The two timeouts of CMD_LRY_PORT_CFG, each where it is given. -/
def setTimeouts (lt ack : Option Nat) (l : Larey) : Larey :=
  { l with linkTimeoutUs := lt.getD l.linkTimeoutUs, ackTimeoutUs := ack.getD l.ackTimeoutUs }

theorem exec_cmdLryPortCfg_of_ok {p : Nat} {cfg : BitVec 32} {lt ack : Option Nat}
    (hg : granted s h 0x0701 = true) (hp : p < 12) (hcfg : portCfgOk cfg lt ack = true) :
    exec (.cmdLryPortCfg h p cfg lt ack) s = .next (answer (modLryBlk
      (modPort s p fun q => setPortCfg q cfg.toNat) (setTimeouts lt ack)) h 0x0701 []) := by
  rw [exec_of_granted rfl rfl hg]
  exact congrArg _ (if_neg (by simp [hp, hcfg]))

theorem cmdLryPortCfg_effect {p : Nat} {cfg : BitVec 32} {lt ack : Option Nat}
    (hg : granted s h 0x0701 = true) (hp : p < 12) (hcfg : portCfgOk cfg lt ack = true) :
    ∃ t, exec (.cmdLryPortCfg h p cfg lt ack) s = .next t ∧
      portOf t p = setPortCfg (portOf s p) cfg.toNat ∧
      t.lry.linkTimeoutUs = lt.getD s.lry.linkTimeoutUs ∧ t.lry.ackTimeoutUs = ack.getD s.lry.ackTimeoutUs ∧
      t = { s with lry := t.lry, hif := t.hif, out := t.out } := by
  have hport := portOf_modPort_same s p fun q => setPortCfg q cfg.toNat
  refine ⟨_, exec_cmdLryPortCfg_of_ok hg hp hcfg, (portOf_answer _ _ _ _ p).trans hport, ?_, ?_,
    answered_frame ⟨_, rfl⟩ h _ _⟩
  · rw [answer_lry]
    rfl
  · rw [answer_lry]
    rfl

section
variable {l : Nat} (hg : granted s h 0x0703 = true) (hl : l < 108)
include hg hl

theorem exec_cmdLryLaneTaps_read : exec (.cmdLryLaneTaps h l none) s =
    .next (answer s h 0x0703 (leBytes 4 (laneOf s l).taps.toNat)) := by
  rw [exec_of_granted rfl rfl hg]
  exact congrArg _ (if_neg (Nat.not_le.2 hl))

theorem exec_cmdLryLaneTaps_of_ok {w : BitVec 32} (hw : tapsOk w = true) :
    exec (.cmdLryLaneTaps h l (some w)) s = .next (answer (modLane s l fun x =>
      { x with taps := w &&& 0x3FFFFF }) h 0x0703 (leBytes 4 (w &&& 0x3FFFFF).toNat)) := by
  rw [exec_of_granted rfl rfl hg]
  exact congrArg _ ((if_neg (Nat.not_le.2 hl)).trans (ite_not_of_true hw))

theorem exec_cmdLryLaneTaps_of_bad {w : BitVec 32} (hw : tapsOk w = false) :
    exec (.cmdLryLaneTaps h l (some w)) s = .next (fail s h 0x0703 .badParam) := by
  rw [exec_of_granted rfl rfl hg]
  exact congrArg _ ((if_neg (Nat.not_le.2 hl)).trans (if_pos (by rw [hw]; rfl)))

/-- The power of a lane as it is answered. -/
def powerBytes (x : Lane) : List Byte :=
  [BitVec.ofNat 8 (lpowerCode x.txPower), BitVec.ofNat 8 (lpowerCode x.rxPower)]

theorem exec_cmdLryLanePower_of_ok {tx : Bool} {p : LPower} (hp : p ≠ .off ∨ laneInUse s l = false) :
    exec (.cmdLryLanePower h l tx p) s = .next (answer (modLane s l fun x => setLanePower x tx p) h 0x0703
      (powerBytes (laneOf (modLane s l fun x => setLanePower x tx p) l))) := by
  have hfree : ¬ (p = .off ∧ laneInUse s l = true) := by
    rintro ⟨hoff, huse⟩
    exact hp.elim (· hoff) fun hno => Bool.false_ne_true (hno.symm.trans huse)
  rw [exec_of_granted rfl rfl hg]
  exact congrArg _ ((if_neg (Nat.not_le.2 hl)).trans (if_neg hfree))

/-- A lane that takes its test configuration (R325): INJ_GO and SLIP, once asked for, stay due. -/
def configureTest (w : BitVec 32) (x : Lane) : Lane :=
  { x with test := w &&& 0x33FFFFFF, injDue := x.injDue || w.getLsbD 26, slipDue := x.slipDue || w.getLsbD 27,
           locked := x.locked && w.getLsbD 3, chkRun := if w.getLsbD 3 then x.chkRun else 0 }

theorem exec_cmdLryLaneTest_of_ok {w : BitVec 32} (hw : laneTestOk w.toNat = true)
    (hidle : needsIdleLane w.toNat = false ∨ laneInUse s l = false) :
    exec (.cmdLryLaneTest h l w) s = .next (answer (modLane s l (configureTest w)) h 0x0703
      (leBytes 4 (laneOf (modLane s l (configureTest w)) l).test.toNat)) := by
  have hfree : ¬ (needsIdleLane w.toNat = true ∧ laneInUse s l = true) := by
    rintro ⟨hneeds, huse⟩
    rw [hneeds, huse] at hidle
    exact hidle.elim Bool.noConfusion Bool.noConfusion
  rw [exec_of_granted rfl rfl hg]
  exact congrArg _ ((if_neg (by simp [hl, hw])).trans (if_neg hfree))

theorem exec_cmdLryLaneWords_write (w : BitVec 128) :
    let u := modLane s l fun x => { x with word := w }
    exec (.cmdLryLaneWords h l (some w)) s = .next (answer (readWords u l).2 h 0x0703
      (leBytes 16 (laneOf (readWords u l).2 l).word.toNat ++ leBytes 16 (readWords u l).1.toNat)) := by
  rw [exec_of_granted rfl rfl hg]
  exact congrArg _ (if_neg (Nat.not_le.2 hl))

theorem exec_cmdLryLaneWords_read (hidle : laneInUse s l = false) :
    exec (.cmdLryLaneWords h l none) s = .next (answer s h 0x0703
      (leBytes 16 (laneOf s l).word.toNat ++ leBytes 16 (laneOf s l).rxword.toNat)) := by
  have hwords : readWords s l = ((laneOf s l).rxword, s) := if_neg (by rw [hidle]; exact Bool.false_ne_true)
  have hexec : exec (.cmdLryLaneWords h l none) s = .next (answer (readWords s l).2 h 0x0703
      (leBytes 16 (laneOf (readWords s l).2 l).word.toNat ++ leBytes 16 (readWords s l).1.toNat)) := by
    rw [exec_of_granted rfl rfl hg]
    exact congrArg _ (if_neg (Nat.not_le.2 hl))
  rw [hexec, hwords]

end

theorem cmdLryLanePower_effect {l : Nat} {tx : Bool} {p : LPower} (hg : granted s h 0x0703 = true)
    (hl : l < 108) (hp : p ≠ .off ∨ laneInUse s l = false) : ∃ t,
    exec (.cmdLryLanePower h l tx p) s = .next t ∧ laneOf t l = setLanePower (laneOf s l) tx p ∧
    (∀ k, k ≠ l → laneOf t k = laneOf s k) ∧ t = { s with lry := t.lry, hif := t.hif, out := t.out } := by
  refine ⟨_, exec_cmdLryLanePower_of_ok hg hl hp, (laneOf_answer _ _ _ _ l).trans (laneOf_modLane_same s l _),
    fun k hk => (laneOf_answer _ _ _ _ k).trans (laneOf_modLane_other s l k _ hk),
    answered_frame ⟨_, rfl⟩ h _ _⟩

theorem cmdLryLaneTest_effect {l : Nat} {w : BitVec 32} (hg : granted s h 0x0703 = true) (hl : l < 108)
    (hw : laneTestOk w.toNat = true) (hidle : needsIdleLane w.toNat = false ∨ laneInUse s l = false) : ∃ t,
    exec (.cmdLryLaneTest h l w) s = .next t ∧ (laneOf t l).test = w &&& 0x33FFFFFF ∧
    (laneOf t l).injDue = ((laneOf s l).injDue || w.getLsbD 26) ∧
    (laneOf t l).slipDue = ((laneOf s l).slipDue || w.getLsbD 27) := by
  refine ⟨_, exec_cmdLryLaneTest_of_ok hg hl hw hidle, ?_⟩
  rw [laneOf_answer, laneOf_modLane_same]
  exact ⟨rfl, rfl, rfl⟩

/-- The receive word of a lane in use takes a free value, nothing else. -/
theorem readWords_frame (s : State) (l : Nat) : ∃ ctr, (readWords s l).2 = { s with freeCtr := ctr } := by
  rw [readWords]
  split
  · exact ⟨_, rfl⟩
  · exact ⟨_, rfl⟩

theorem cmdLryLaneWords_effect {l : Nat} (w : BitVec 128) (hg : granted s h 0x0703 = true) (hl : l < 108) : ∃ t,
    exec (.cmdLryLaneWords h l (some w)) s = .next t ∧ laneOf t l = { laneOf s l with word := w } ∧
    t = { s with lry := t.lry, hif := t.hif, freeCtr := t.freeCtr, out := t.out } := by
  refine ⟨_, exec_cmdLryLaneWords_write hg hl w, ?_⟩
  obtain ⟨ctr, hread⟩ := readWords_frame (modLane s l fun x => { x with word := w }) l
  generalize leBytes 16 _ ++ _ = pl
  rw [hread]
  obtain ⟨hif, out, hans⟩ := answer_frame
    { modLane s l (fun x => { x with word := w }) with freeCtr := ctr } h 0x0703 pl
  rw [hans]
  exact ⟨laneOf_modLane_same s l _, rfl⟩

end

/-! ## Tables (R338, R344) -/

section
variable {s : State} {h : Hdr}

/-- An entry of the forwarding table is written, its ECC sound. -/
def putFwd (s : State) (e : Nat × Fwd) : State :=
  { s with lry := { s.lry with fwd := mapPut s.lry.fwd {} e.1 e.2, fwdErr := mapPut s.lry.fwdErr 0 e.1 0 } }

def putRoute (s : State) (e : Nat × Nat) : State :=
  { s with lry := { s.lry with route := mapPut s.lry.route 0xE e.1 e.2 } }

theorem exec_cmdLryFwdWrite_of_ok {es : List (Nat × Fwd)} (hg : granted s h 0x0704 = true)
    (hes : ∀ e ∈ es, e.1 < 4096 ∧ e.2.job < 8) :
    exec (.cmdLryFwdWrite h es) s = .next (answer (each es putFwd s) h 0x0704 []) := by
  have hok : ¬ (es.any fun e => decide (4096 ≤ e.1) || decide (8 ≤ e.2.job)) = true := by
    rw [Bool.not_eq_true, List.any_eq_false]
    intro e he
    obtain ⟨hi, hj⟩ := hes e he
    simp [hi, hj]
  rw [exec_of_granted rfl rfl hg]
  exact congrArg _ (if_neg hok)

theorem exec_cmdLryRouteWrite_of_ok {es : List (Nat × Nat)} (hg : granted s h 0x0705 = true)
    (hes : ∀ e ∈ es, e.1 < 1024 ∧ (e.2 < 12 ∨ e.2 = 14 ∨ e.2 = 15)) :
    exec (.cmdLryRouteWrite h es) s = .next (answer (each es putRoute s) h 0x0705 []) := by
  have hok : ¬ (es.any fun e => decide (1024 ≤ e.1) || !(decide (e.2 < 12) || e.2 == 14 || e.2 == 15)) = true := by
    rw [Bool.not_eq_true, List.any_eq_false]
    intro e he
    obtain ⟨hi, hr⟩ := hes e he
    simp [hi]
    omega
  rw [exec_of_granted rfl rfl hg]
  exact congrArg _ (if_neg hok)

theorem cmdLryFwdWrite_effect {i : Nat} {f : Fwd} (hg : granted s h 0x0704 = true) (hi : i < 4096)
    (hj : f.job < 8) : ∃ t,
    exec (.cmdLryFwdWrite h [(i, f)]) s = .next t ∧ mapGet t.lry.fwd {} i = f ∧
    (∀ k, k ≠ i → mapGet t.lry.fwd {} k = mapGet s.lry.fwd {} k) := by
  refine ⟨_, exec_cmdLryFwdWrite_of_ok hg fun e he => List.mem_singleton.1 he ▸ ⟨hi, hj⟩, ?_⟩
  rw [answer_lry]
  exact ⟨mapGet_mapPut_same _ _ _ _, fun k hk => mapGet_mapPut_other _ _ _ _ _ hk⟩

theorem cmdLryRouteWrite_effect {d r : Nat} (hg : granted s h 0x0705 = true) (hd : d < 1024)
    (hr : r < 12 ∨ r = 14 ∨ r = 15) : ∃ t,
    exec (.cmdLryRouteWrite h [(d, r)]) s = .next t ∧ routeOf t d = r ∧
    (∀ k, k ≠ d → routeOf t k = routeOf s k) := by
  refine ⟨_, exec_cmdLryRouteWrite_of_ok hg fun e he => List.mem_singleton.1 he ▸ ⟨hd, hr⟩,
    (routeOf_answer _ _ _ _ d).trans (mapGet_mapPut_same _ _ _ _),
    fun k hk => (routeOf_answer _ _ _ _ k).trans (mapGet_mapPut_other _ _ _ _ _ hk)⟩

end

/-! ## CMD_LRY_PORT_RESET (R338, R340, R341) -/

section
variable {s : State} {h : Hdr} {p : Nat} (hg : granted s h 0x0706 = true) (hp : p < 12)
include hg hp

theorem exec_cmdLryPortResetRetrain_of_ok :
    exec (.cmdLryPortResetRetrain h p) s = .next (answer (retrain s p) h 0x0706 []) := by
  rw [exec_of_granted rfl rfl hg]
  exact congrArg _ (if_neg (Nat.not_le.2 hp))

/-- A port anew that goes on from what it was: a chain port stays one, an enabled port trains. -/
def resumePort (old q : Port) : Port :=
  { q with st := if old.st = .chain then .chain else if q.enable then .training else .disabled,
           leftUp := old.leftUp || old.st == .up, inbox := keepOwn old.inbox }

theorem exec_cmdLryPortResetReset_of_ok : exec (.cmdLryPortResetReset h p) s =
    .next (answer (modPort (freshPort s p) p (resumePort (portOf s p))) h 0x0706 []) := by
  rw [exec_of_granted rfl rfl hg]
  exact congrArg _ (if_neg (Nat.not_le.2 hp))

theorem cmdLryPortResetReset_effect : ∃ t, exec (.cmdLryPortResetReset h p) s = .next t ∧
    portOf t p = resumePort (portOf s p) (anewPort s.draws (portOf s p)) ∧
    t = { s with lry := t.lry, hif := t.hif, draws := t.draws, out := t.out } := by
  refine ⟨_, exec_cmdLryPortResetReset_of_ok hg hp, ?_, ?_⟩
  · rw [portOf_answer, portOf_modPort_same, freshPort_eq, portOf_modPort_same]
    rfl
  · obtain ⟨l, d, hfresh⟩ : ∃ l d, modPort (freshPort s p) p (resumePort (portOf s p)) =
        { s with lry := l, draws := d } := ⟨_, _, rfl⟩
    obtain ⟨_, _, hans⟩ := answer_frame { s with lry := l, draws := d } h 0x0706 []
    rw [hfresh, hans]

/-- An entry of the repair map once the failed lanes of port p are forgotten (R340): theirs go to state 2. -/
def withdrawLane (p : Nat) (r : Repair) : Repair :=
  if r.kind = 10 ∧ r.loc / 9 = p then { r with state := 2 } else r

theorem exec_cmdLryPortResetClearMarks_of_ok : exec (.cmdLryPortResetClearMarks h p) s =
    .next (answer (modSprBlk (modPort s p fun q => { q with failed := 0 }) fun m =>
      { m with map := m.map.map (withdrawLane p) }) h 0x0706 []) := by
  rw [exec_of_granted rfl rfl hg]
  exact congrArg _ (if_neg (Nat.not_le.2 hp))

omit hg hp in
theorem withdrawLane_state {r : Repair} (hk : (withdrawLane p r).kind = 10)
    (hl : (withdrawLane p r).loc / 9 = p) : (withdrawLane p r).state = 2 := by
  rw [withdrawLane] at hk hl ⊢
  split at hk
  next h => rw [if_pos h]
  next h =>
    rw [if_neg h] at hl
    exact absurd ⟨hk, hl⟩ h

theorem cmdLryPortResetClearMarks_effect : ∃ t, exec (.cmdLryPortResetClearMarks h p) s = .next t ∧
    portOf t p = { portOf s p with failed := 0 } ∧
    (∀ r ∈ t.spr.map, r.kind = 10 → r.loc / 9 = p → r.state = 2) := by
  have hport := portOf_modPort_same s p fun q => { q with failed := 0 }
  refine ⟨_, exec_cmdLryPortResetClearMarks_of_ok hg hp, (portOf_answer _ _ _ _ p).trans hport, ?_⟩
  rw [answer_spr]
  intro r hr hk hl
  obtain ⟨r₀, -, rfl⟩ := List.mem_map.1 hr
  exact withdrawLane_state hk hl

end

/-! ## Lane test functions (R325, R326) -/

section
variable {s : State} {l : Nat}

/-- A lane on which INJ_GO acts (R325): mode 1 inverts one symbol, mode 2 as many as it counts, mode 3 starts or
stops. -/
def injected (x : Lane) : Lane :=
  let mode := field x.test.toNat 7 6
  { x with
    injDue := false,
    injLeft := if mode = 1 then 1 else if mode = 2 then field x.test.toNat 19 8 else x.injLeft,
    injGap := if mode = 3 then 0 else x.injGap, injOn := if mode = 3 then !x.injOn else x.injOn }

/-- The symbols of the generator that follow, where it runs. -/
def generated (s : State) (l n : Nat) : State :=
  sendPairs (modLane s l fun _ => (generate n (laneOf s l)).2) l (generate n (laneOf s l)).1

theorem injectGo_of_due (n : Nat) (hd : (laneOf s l).injDue = true) : injectGo s l n =
    if (laneOf s l).test.getLsbD 0 && !laneInUse (modLane s l injected) l && (laneOf s l).txPower == .active
    then generated (modLane s l injected) l n else modLane s l injected := by
  rw [injectGo]
  exact if_neg (by rw [hd]; exact Bool.false_ne_true)

theorem generated_injDue (s : State) (l n : Nat) :
    (laneOf (generated s l n) l).injDue = (laneOf s l).injDue := by
  have hgen : LinkFrame id withoutLine s (modLane s l fun _ => (generate n (laneOf s l)).2) :=
    linkFrame_modLane (withoutLine_generate n _)
  exact (hgen.trans (sendPairs_link _ _ _ _)).readLane Lane.injDue (fun _ => rfl) l

theorem injectGo_injDue (n : Nat) (hd : (laneOf s l).injDue = true) :
    (laneOf (injectGo s l n) l).injDue = false := by
  rw [injectGo_of_due n hd]
  split
  · rw [generated_injDue, laneOf_modLane_same]
    rfl
  · rw [laneOf_modLane_same]
    rfl

theorem injectGo_of_stopped (n : Nat) (hd : (laneOf s l).injDue = true)
    (hgen : (laneOf s l).test.getLsbD 0 = false) : injectGo s l n = modLane s l injected := by
  rw [injectGo_of_due n hd, hgen]
  rfl

/-- SLIP is no longer due, and the boundary stands one symbol further. -/
theorem slipLane_effect (s : State) (l : Nat) (levels : List (BitVec 2)) :
    (laneOf (slipLane s l levels) l).slipDue = false ∧
    (laneOf (slipLane s l levels) l).slips = ((laneOf s l).slips + 1) % 64 := by
  have hline : LinkFrame id withoutLine
      (modLane s l fun x => { x with slipDue := false, slips := (x.slips + 1) % 64 }) (slipLane s l levels) :=
    ((receiveLine_link _ _ l _).trans (linkFrame_modLane rfl)).trans (receiveLine_link _ _ l _)
  rw [hline.readLane Lane.slipDue (fun _ => rfl) l, hline.readLane Lane.slips (fun _ => rfl) l,
    laneOf_modLane_same]
  exact ⟨rfl, rfl⟩

end

/-! ## Messages (R343 to R346) -/

section
variable {s : State} {p : Nat} {m : RxMsg}

theorem isHere_takeMsg (s : State) (p : Nat) (m : RxMsg) (d : Nat) :
    isHere (takeMsg s p m) d = isHere s d := by
  rw [isHere, isHere, routeOf, routeOf, (takeMsg_link s p m).route]

/-- The oldest message of a kind is taken, and acts here or is passed on (R344). -/
theorem arriving_of_next {cls kind : Nat} (here : Env → List Byte → State → State)
    (hm : nextMsg s p cls kind = some m) :
    let e := envOf m.body
    let u := takeMsg s p m
    arriving s p cls kind here = if isHere s e.dst then here e (m.body.drop 4) u
      else relay u p e cls kind (m.body.drop 4) := by
  simp only [arriving, hm, isHere_takeMsg]

end

/-! ## Items to another device (R346, R348) -/

section
variable (s : State) (h : Nat) (a : Agent)

theorem grantCredits_rSent : (grantCredits s h).pal.rSent = s.pal.rSent := by
  simp only [grantCredits]
  split
  · rfl
  · split
    · rfl
    · rw [(routeSend_onlyLarey _ _ _ _ _).pal]
      rfl

theorem wmCheck_rSent (before : Nat) : (wmCheck s h before).pal.rSent = s.pal.rSent := by
  obtain ⟨_, _, hwm⟩ := wmCheck_frame s h before
  rw [hwm]
  exact grantCredits_rSent s h

theorem parityNote_rSent (w : BitVec 71) : (parityNote s h w).pal.rSent = s.pal.rSent := by
  simp only [parityNote, setPoison]
  split
  · rfl
  · split
    · rfl
    · rw [emitJob_pal]
      rfl

theorem takePart_rSent : (takePart true s h a).2.pal.rSent = s.pal.rSent := by
  simp only [takePart]
  split
  · rfl
  · split
    · rfl
    · exact parityNote_rSent _ h _

theorem hodPopWord_rSent : (hodPopWord s h a).2.pal.rSent = s.pal.rSent := by
  simp only [hodPopWord]
  rw [wmCheck_rSent, takePart_rSent]
  split
  · rfl
  · split
    · rfl
    · rfl

/-- Taking an item leaves the counts of items sent. -/
theorem takeWholeItem_rSent : ∀ (n : Nat) (s : State), (takeWholeItem n s h a).2.pal.rSent = s.pal.rSent
  | 0, _ => rfl
  | n + 1, s => by
    have hpop := hodPopWord_rSent s h a
    simp only [takeWholeItem]
    split
    next w t ht =>
      rw [ht] at hpop
      split
      · exact hpop
      · exact (takeWholeItem_rSent n t).trans hpop
    next t ht =>
      rw [ht] at hpop
      exact hpop

end

/-- An item of a hod, taken and counted as sent to the other device. -/
def sentItem (s : State) (hod o : Nat) : State :=
  modPalBlk (takeWholeItem 16 s hod (.remote o)).2 fun p => { p with rSent := mapMod p.rSent 0 hod (· + 1) }

theorem sentItem_rSent (s : State) (hod o : Nat) :
    mapGet (sentItem s hod o).pal.rSent 0 hod = mapGet s.pal.rSent 0 hod + 1 := by
  rw [sentItem, modPalBlk_pal, mapGet_mapMod_same, takeWholeItem_rSent]

/-- What is left of the credit of a remote pair, modulo 2 ^ 32 (R348). -/
def creditLeft (s : State) (hod : Nat) : Nat :=
  (mapGet s.pal.rCredit 0 hod + 2 ^ 32 - mapGet s.pal.rSent 0 hod % 2 ^ 32) % 2 ^ 32

/-- The body of a remote item: its words, their poison as a mask, the priority of the first (R346). -/
def itemBody (hod : Nat) (ws : List PortWord) : List Byte :=
  let poison := (ws.zip (List.range ws.length)).foldl (fun (m : BitVec 16) w =>
    if w.1.poison then m ||| BitVec.ofNat 16 (2 ^ w.2) else m) 0
  let prio := match ws with | w :: _ => w.prio | [] => 0
  remoteBody hod prio (ws.map (·.data)) poison

section
variable {s : State} {hod : Nat} {ups : List Upset}

theorem exec_remoteHodSend_eq (s : State) (hod : Nat) (ups : List Upset) :
    let v := upsets s ups
    let o := (hodOf v hod).p.consEp % 1024
    exec (.remoteHodSend hod ups) s =
      .next (if !isConsumer v (hodOf v hod) (.remote o) || hodEmpty (hodOf v hod) || creditLeft v hod == 0 then v
        else routeSend (sentItem v hod o) 1 0 o (itemBody hod (takeWholeItem 16 v hod (.remote o)).1)) := rfl

theorem exec_remoteHodSend_of_empty (he : hodEmpty (hodOf (upsets s ups) hod) = true) :
    exec (.remoteHodSend hod ups) s = .next (upsets s ups) := by
  rw [exec_remoteHodSend_eq, he, Bool.or_true, Bool.true_or]
  rfl

theorem exec_remoteHodSend_of_credit {v : State} (hv : upsets s ups = v)
    (hc : isConsumer v (hodOf v hod) (.remote ((hodOf v hod).p.consEp % 1024)) = true)
    (he : hodEmpty (hodOf v hod) = false) (hleft : creditLeft v hod ≠ 0) :
    let o := (hodOf v hod).p.consEp % 1024
    exec (.remoteHodSend hod ups) s = .next (routeSend (sentItem v hod o) 1 0 o
      (itemBody hod (takeWholeItem 16 v hod (.remote o)).1)) := by
  intro o
  rw [exec_remoteHodSend_eq, hv, hc, he, beq_eq_false_iff_ne.2 hleft]
  rfl

end

/-- Settles O43, row by row. That a credit grant carries its hod in bytes 1:0 and its total in bytes 7:4 is the
model's choice (log 19). -/
theorem lareyCommandsAct : Obligations.LareyCommandsAct := by
  unfold Obligations.LareyCommandsAct
  refine ⟨?portCfg, ?tapsWrite, ?tapsRead, ?tapsBad, ?lanePower, ?laneTest, ?wordsWrite, ?wordsRead, ?fwdWrite,
    ?fwdList, ?routeWrite, ?routeList, ?retrain, ?reset, ?clearMarks, ?injGo, ?slip, ?checker, ?remoteItem,
    ?creditGrant, ?takeGrant, ?management, ?sendEmpty, ?send⟩
  case portCfg => exact fun _ _ _ _ _ _ hg hp hcfg => cmdLryPortCfg_effect hg hp hcfg
  case tapsWrite => exact fun _ _ _ _ hg hl hw => exec_cmdLryLaneTaps_of_ok hg hl hw
  case tapsRead => exact fun _ _ _ hg hl => exec_cmdLryLaneTaps_read hg hl
  case tapsBad => exact fun _ _ _ _ hg hl hw => exec_cmdLryLaneTaps_of_bad hg hl hw
  case lanePower => exact fun _ _ _ _ _ hg hl hp => cmdLryLanePower_effect hg hl hp
  case laneTest => exact fun _ _ _ _ hg hl hw hidle => cmdLryLaneTest_effect hg hl hw hidle
  case wordsWrite => exact fun _ _ _ w hg hl => cmdLryLaneWords_effect w hg hl
  case wordsRead => exact fun _ _ _ hg hl hidle => exec_cmdLryLaneWords_read hg hl hidle
  case fwdWrite => exact fun _ _ _ _ hg hi hj => cmdLryFwdWrite_effect hg hi hj
  case fwdList => exact fun _ _ _ hg hes => exec_cmdLryFwdWrite_of_ok hg hes
  case routeWrite => exact fun _ _ _ _ hg hd hr => cmdLryRouteWrite_effect hg hd hr
  case routeList => exact fun _ _ _ hg hes => exec_cmdLryRouteWrite_of_ok hg hes
  case retrain => exact fun _ _ _ hg hp => exec_cmdLryPortResetRetrain_of_ok hg hp
  case reset =>
    intro s h p hg hp
    obtain ⟨t, hexec, hport, hframe⟩ := cmdLryPortResetReset_effect hg hp
    refine ⟨t, hexec, ?_⟩
    rw [hport]
    exact ⟨rfl, rfl, rfl, rfl, rfl, rfl, hframe⟩
  case clearMarks => exact fun _ _ _ hg hp => cmdLryPortResetClearMarks_effect hg hp
  case injGo =>
    intro s l n hl hd
    refine ⟨injectGo s l n, exec_of_unit rfl hl rfl, injectGo_injDue n hd, fun hgen => ?_⟩
    rw [injectGo_of_stopped n hd hgen, laneOf_modLane_same]
    refine ⟨rfl, fun hmode => if_pos hmode, fun hmode => ?_, fun hmode => if_pos hmode⟩
    exact (if_neg (by rw [hmode]; decide)).trans (if_pos hmode)
  case slip =>
    intro s l levels hl hd hidle
    exact ⟨_, exec_of_unit rfl hl (if_pos (by rw [hd, hidle]; rfl)), rfl, slipLane_effect s l levels⟩
  case checker =>
    intro s l levels lost hl ht hidle
    exact exec_of_unit rfl hl (if_pos (by rw [ht, hidle]; rfl))
  case remoteItem => exact fun s p m hp hm => exec_of_unit rfl hp (arriving_of_next _ hm)
  case creditGrant => exact fun s p m hp hm => exec_of_unit rfl hp (arriving_of_next _ hm)
  case takeGrant =>
    intro s src body hc
    rw [takeGrant]
    exact (congrArg (fun t : State => mapGet t.pal.rCredit 0 (leAt body 0 2)) (if_pos hc)).trans
      (mapGet_mapPut_same _ _ _ _)
  case management => exact fun s p m hp hm => exec_of_unit rfl hp (arriving_of_next _ hm)
  case sendEmpty => exact fun _ _ _ he => exec_remoteHodSend_of_empty he
  case send =>
    intro s hod ups v hc he hleft
    exact ⟨_, _, exec_remoteHodSend_of_credit rfl hc he hleft, sentItem_rSent v hod _⟩

end Sys2Proof.Machine
end

section
/-! PROOFS. The extension of 32-bit stamps (R363): below 2 ^ 63 the rule's words do not wrap, so its code is the same
comparison of natural numbers; every answer keeps the stamp as its low half. -/

namespace Sys2Proof.Machine

/-- The stamp under the upper half of the receiver's own number. -/
def stampBase (own : Word) (lo : BitVec 32) : Word := (own &&& ~~~0xFFFFFFFF) ||| lo.setWidth 64

theorem extendStamp_eq (own : Word) (lo : BitVec 32) :
    let ext := stampBase own lo
    extendStamp own lo = if ext + 0x80000000 < own then ext + 0x100000000
      else if own + 0x80000000 < ext ∧ 0x100000000 ≤ ext then ext - 0x100000000 else ext := rfl

theorem stampBase_toNat (own : Word) (lo : BitVec 32) :
    (stampBase own lo).toNat = own.toNat / 2 ^ 32 * 2 ^ 32 + lo.toNat := by
  have hmask : (~~~0xFFFFFFFF : Word) = BitVec.allOnes 64 <<< 32 := by decide
  have hhigh : (own &&& ~~~0xFFFFFFFF).toNat = (own.toNat / 2 ^ 32) <<< 32 := by
    rw [hmask, ← BitVec.shiftLeft_ushiftRight, BitVec.toNat_shiftLeft, BitVec.toNat_ushiftRight,
      Nat.shiftRight_eq_div_pow, Nat.shiftLeft_eq]
    omega
  rw [stampBase, BitVec.toNat_or, hhigh, BitVec.toNat_setWidth_of_le (by decide),
    ← Nat.shiftLeft_add_eq_or_of_lt lo.isLt, Nat.shiftLeft_eq]

theorem stampBase_low (own : Word) (lo : BitVec 32) : (stampBase own lo).setWidth 32 = lo := by
  apply BitVec.eq_of_toNat_eq
  rw [BitVec.toNat_setWidth, stampBase_toNat]
  omega

/-- Counting 2 ^ 32 up or down leaves the low half. -/
theorem extendStamp_low (own : Word) (lo : BitVec 32) : (extendStamp own lo).setWidth 32 = lo := by
  have hlow := stampBase_low own lo
  rw [extendStamp_eq]
  split
  · bv_omega
  · split
    · bv_omega
    · exact hlow

/-- R363's code in natural numbers. -/
theorem extendStamp_toNat {own : Word} (hown : own.toNat < 2 ^ 63) (lo : BitVec 32) :
    let ext := own.toNat / 2 ^ 32 * 2 ^ 32 + lo.toNat
    (extendStamp own lo).toNat = if ext + 2 ^ 31 < own.toNat then ext + 2 ^ 32
      else if own.toNat + 2 ^ 31 < ext ∧ 2 ^ 32 ≤ ext then ext - 2 ^ 32 else ext := by
  intro ext
  have hbase : (stampBase own lo).toNat = ext := stampBase_toNat own lo
  have hext : ext < 2 ^ 63 := by omega
  have hup : stampBase own lo + 0x80000000 < own ↔ ext + 2 ^ 31 < own.toNat := by bv_omega
  have hdown : own + 0x80000000 < stampBase own lo ∧ 0x100000000 ≤ stampBase own lo ↔
      own.toNat + 2 ^ 31 < ext ∧ 2 ^ 32 ≤ ext := by bv_omega
  simp only [extendStamp_eq, hup, hdown]
  split
  · bv_omega
  · split
    · bv_omega
    · exact hbase

/-- The cycle that a stamp was cut from, while it lies near. -/
theorem extendStamp_of_near {own c : Word} (hown : own.toNat < 2 ^ 63)
    (hlow : c.toNat < own.toNat + 2 ^ 31) (hhigh : own.toNat < c.toNat + 2 ^ 31) :
    extendStamp own (c.setWidth 32) = c := by
  apply BitVec.eq_of_toNat_eq
  rw [extendStamp_toNat hown, BitVec.toNat_setWidth]
  split_ifs <;> omega

theorem extendStamp_near {own : Word} (hbig : 2 ^ 31 ≤ own.toNat) (hown : own.toNat < 2 ^ 63) (lo : BitVec 32) :
    (extendStamp own lo).toNat ≤ own.toNat + 2 ^ 31 ∧ own.toNat ≤ (extendStamp own lo).toNat + 2 ^ 31 := by
  rw [extendStamp_toNat hown]
  split_ifs <;> omega

/-- Settles O48. The bound 2 ^ 63 on the receiver's own number keeps the rule's words from wrapping. -/
theorem stampExtension : Obligations.StampExtension := by
  unfold Obligations.StampExtension
  exact ⟨fun _ _ hown hlow hhigh => extendStamp_of_near hown hlow hhigh, extendStamp_low,
    fun _ lo hbig hown => extendStamp_near hbig hown lo, fun _ lo hown => extendStamp_toNat hown lo⟩

end Sys2Proof.Machine
end

section
/-! PROOFS. The array commands, each where it is granted (R352, R355, R364, R375, R382): `runCmd` with a body whose
checks pass. -/

namespace Sys2Proof.Machine

section
variable {s : State} {h : Hdr}

theorem exec_cmdArrOrdinal_of_empty {o : Nat} (hg : granted s h 0x0707 = true)
    (hempty : ∀ j, j < 8 → (jobOf s j).state = .empty) (ho : o < 1024) :
    exec (.cmdArrOrdinal h o) s = .next (answer { s with arr := { s.arr with
      ordinal := some o, ordFromChain := false } } h 0x0707 []) := by
  have hnone : ¬ ((List.range 8).any fun j => loadedState (jobOf s j).state) = true := by
    rw [Bool.not_eq_true, List.any_eq_false]
    intro j hj
    rw [hempty j (List.mem_range.1 hj)]
    decide
  rw [exec_of_granted rfl rfl hg]
  exact congrArg _ ((if_neg hnone).trans (if_neg (Nat.not_le.2 ho)))

/-! ## Stream entries (R355, R356) -/

/-- A source entry written with fresh run state. -/
def writeSrc (s : State) (st : Nat) (e : SrcEntry) : State :=
  modArrBlk s fun a => { a with src := mapPut a.src {} st e, srcRun := mapPut a.srcRun {} st {} }

/-- A consumer entry written with fresh run state. -/
def writeCons (s : State) (st : Nat) (e : ConsEntry) : State :=
  modArrBlk s fun a => { a with cons := mapPut a.cons {} st e, consRun := mapPut a.consRun {} st {} }

/-- A change of the arrays alone that is answered changes the host interface and what is driven outward besides. -/
theorem answered_arr_frame (s : State) (f : Arr → Arr) (h : Hdr) (op : Nat) (pl : List Byte) :
    let t := answer (modArrBlk s f) h op pl
    t = { s with arr := t.arr, hif := t.hif, out := t.out } := by
  obtain ⟨_, _, hans⟩ := answer_frame (modArrBlk s f) h op pl
  intro t
  simp only [t, hans]
  rfl

/-- The job's state and the stream's number pass; without an image the figures are 384 and 32. -/
theorem exec_cmdArrStream_source {st : Nat} {e : SrcEntry} (hg : granted s h 0x0708 = true)
    (hempty : (jobOf s (namedJob h)).state = .empty) (himg : imageParams s (namedJob h) = none)
    (hst : st < 4096) (hfit : srcFits s (namedJob h) st e 384 32 = true) :
    exec (.cmdArrStream h st (.source e)) s = .next (answer (writeSrc s st e) h 0x0708 []) := by
  rw [exec_of_granted rfl rfl hg]
  simp only [hempty, himg]
  exact congrArg _ ((if_neg Bool.false_ne_true).trans ((if_neg (Nat.not_le.2 hst)).trans (if_pos hfit)))

theorem exec_cmdArrStream_consumer {st : Nat} {e : ConsEntry} (hg : granted s h 0x0708 = true)
    (hempty : (jobOf s (namedJob h)).state = .empty) (himg : imageParams s (namedJob h) = none)
    (hst : st < 4096) (hfit : consFits s (namedJob h) st e 384 32 none = true) :
    exec (.cmdArrStream h st (.consumer e)) s = .next (answer (writeCons s st e) h 0x0708 []) := by
  rw [exec_of_granted rfl rfl hg]
  simp only [hempty, himg]
  exact congrArg _ ((if_neg Bool.false_ne_true).trans ((if_neg (Nat.not_le.2 hst)).trans (if_pos hfit)))

theorem writeSrc_effect (s : State) (st : Nat) (e : SrcEntry) (h : Hdr) :
    let t := answer (writeSrc s st e) h 0x0708 []
    srcOf t st = e ∧ srcRunOf t st = {} ∧ (∀ k, k ≠ st → srcOf t k = srcOf s k) ∧
      t = { s with arr := t.arr, hif := t.hif, out := t.out } := by
  refine ⟨?_, ?_, fun k hk => ?_, answered_arr_frame s _ h _ _⟩
  · rw [srcOf, answer_arr, writeSrc, modArrBlk_arr, mapGet_mapPut_same]
  · rw [srcRunOf, answer_arr, writeSrc, modArrBlk_arr, mapGet_mapPut_same]
  · rw [srcOf, answer_arr, writeSrc, modArrBlk_arr, mapGet_mapPut_other _ _ _ _ _ hk, srcOf]

theorem writeCons_effect (s : State) (st : Nat) (e : ConsEntry) (h : Hdr) :
    let t := answer (writeCons s st e) h 0x0708 []
    consOf t st = e ∧ consRunOf t st = {} ∧ (∀ k, k ≠ st → consOf t k = consOf s k) ∧
      t = { s with arr := t.arr, hif := t.hif, out := t.out } := by
  refine ⟨?_, ?_, fun k hk => ?_, answered_arr_frame s _ h _ _⟩
  · rw [consOf, answer_arr, writeCons, modArrBlk_arr, mapGet_mapPut_same]
  · rw [consRunOf, answer_arr, writeCons, modArrBlk_arr, mapGet_mapPut_same]
  · rw [consOf, answer_arr, writeCons, modArrBlk_arr, mapGet_mapPut_other _ _ _ _ _ hk, consOf]

/-! ## The interval (R364) -/

theorem intervalLog_two_pow {n : Nat} (hlow : 10 ≤ n) (hhigh : n ≤ 32) : intervalLog (2 ^ n) = some n := by
  obtain ⟨i, rfl⟩ := Nat.exists_eq_add_of_le hlow
  have hall : ∀ i, i < 23 → intervalLog (2 ^ (10 + i)) = some (10 + i) := by decide
  exact hall i (by omega)

theorem exec_cmdArrCkptPolicy_of_two_pow {n : Nat} (hg : granted s h 0x0709 = true) (hlow : 10 ≤ n)
    (hhigh : n ≤ 32) : exec (.cmdArrCkptPolicy h (2 ^ n)) s =
      .next (answer (modJob s (namedJob h) fun x => { x with ckptLog2 := n }) h 0x0709 []) := by
  rw [exec_of_granted rfl rfl hg, intervalLog_two_pow hlow hhigh]

/-! ## Rollback (R375, R380) -/

section
variable (hg : granted s h 0x070A = true) (hroll : rollState (jobOf s (namedJob h)) = true)
  (hreplay : (jobOf s (namedJob h)).replay = none) (hpwr : s.pwr.state ≠ .deepHold)
  (hroom : s.hif.accepted.length < 16) (hmem : lp5xBad s = false)
include hg hroll hreplay hpwr hroom hmem

theorem exec_cmdArrRollbackLocal_of_recoverable
    (hrec : (jobOf s (namedJob h)).recoverable = true) (hck : latestCkpt (jobOf s (namedJob h)) ≠ none) :
    exec (.cmdArrRollbackLocal h) s = .next (respond (enlist (startRollback s (namedJob h) (some h))
      h 0x070A [namedJob h]) h 0x070A .accepted []) := by
  rw [exec_of_granted rfl rfl hg]
  exact congrArg _ ((if_neg (by simp [hroll, hrec, hreplay, hpwr, hck])).trans
    ((if_neg (by simp [hmem])).trans (accept_eq hroom)))

/-- The command completes at once (log 26). -/
theorem exec_cmdArrRollbackGlobal_of_held {k : Word} {epoch : BitVec 4} {ck : Ckpt}
    (hck : ckptAt (jobOf s (namedJob h)) k = some ck) :
    exec (.cmdArrRollbackGlobal h k epoch) s = .next (complete (globalRollback
      (respond s h 0x070A .accepted []) (namedJob h) ck epoch) h 0x070A 0x0A04 .ok []) := by
  rw [exec_of_granted rfl rfl hg]
  simp only [hck]
  exact congrArg _ ((if_neg (by simp [hroll, hreplay, hpwr])).trans
    ((if_neg (by simp [hmem])).trans (if_neg (Nat.not_le.2 hroom))))

end

/-! ## Export and import (R382) -/

theorem exec_cmdArrCkptExport_of_ready {b : Bulk} (hg : granted s h 0x070B = true) (hb : bulkReady s b = true)
    (hst : (jobOf s (namedJob h)).state = .running ∨ (jobOf s (namedJob h)).state = .releasing ∨
      (jobOf s (namedJob h)).state = .heldCmd)
    (hreq : (jobOf s (namedJob h)).exportReq = none) (hreplay : (jobOf s (namedJob h)).replay = none)
    (hpwr : s.pwr.state ≠ .deepHold) (hmem : lp5xBad s = false) :
    let u := modJob s (namedJob h) fun x => { x with exportReq := some h }
    let x := jobOf s (namedJob h)
    exec (.cmdArrCkptExport h b) s = .next (respond (enlist
      (if x.state == .heldCmd && x.endDone && atCommit x && x.capturing.isNone
       then startCapture u (namedJob h) else u) h 0x070B [namedJob h]) h 0x070B .accepted []) := by
  intro u x
  obtain ⟨hlist, hroom⟩ := bulkReady_iff.1 hb
  have hrun : (x.state == .running || x.state == .releasing || x.state == .heldCmd) = true := by
    simpa only [Bool.or_eq_true, beq_iff_eq, or_assoc] using hst
  rw [exec_of_granted rfl rfl hg]
  simp only [hlist]
  exact congrArg _ ((if_neg (by rw [hrun]; simp [hreq, hreplay, hpwr])).trans
    ((if_neg (by simp [hmem])).trans (accept_eq hroom)))

theorem exec_cmdArrCkptImport_of_ready {e : Export} {b : Bulk} (hg : granted s h 0x070C = true)
    (hb : bulkReady s b = true) (hheld : heldBeforeZero (jobOf s (namedJob h)) = true)
    (hcap : (jobOf s (namedJob h)).capturing = none)
    (hcrc : (jobOf s (namedJob h)).image.map (·.crc) = some e.ckpt.imageCrc)
    (hfit : importFits s (namedJob h) e = true) (hmem : lp5xBad s = false) :
    exec (.cmdArrCkptImport h e b) s = .next (respond (enlist (importJob s (namedJob h) e)
      h 0x070C [namedJob h]) h 0x070C .accepted []) := by
  obtain ⟨hlist, hroom⟩ := bulkReady_iff.1 hb
  rw [exec_of_granted rfl rfl hg]
  simp only [hlist]
  exact congrArg _ ((if_neg (by simp [hheld, hcap])).trans ((if_neg (by simp [hcrc])).trans
    ((if_neg (by simp [hfit])).trans ((if_neg (by simp [hmem])).trans (accept_eq hroom)))))

end

/-- Settles O46, row by row. That a global rollback completes within its command is the model's choice (log 26), as
are the states in which CMD_ARR_CKPT_EXPORT acts (log 62). -/
theorem arrayCommandsAct : Obligations.ArrayCommandsAct := by
  unfold Obligations.ArrayCommandsAct
  refine ⟨?ordinal, ?source, ?consumer, ?interval, ?rollback, ?exported, ?imported⟩
  case ordinal => exact fun _ _ _ hg hempty ho => exec_cmdArrOrdinal_of_empty hg hempty ho
  case source =>
    exact fun s h st e hg hempty himg hst hfit =>
      ⟨_, exec_cmdArrStream_source hg hempty himg hst hfit, writeSrc_effect s st e h⟩
  case consumer =>
    exact fun s h st e hg hempty himg hst hfit =>
      ⟨_, exec_cmdArrStream_consumer hg hempty himg hst hfit, writeCons_effect s st e h⟩
  case interval => exact fun _ _ _ hg hlow hhigh => exec_cmdArrCkptPolicy_of_two_pow hg hlow hhigh
  case rollback =>
    intro s h hg hroll hreplay hpwr hroom hmem
    exact ⟨exec_cmdArrRollbackLocal_of_recoverable hg hroll hreplay hpwr hroom hmem,
      fun _ _ _ => exec_cmdArrRollbackGlobal_of_held hg hroll hreplay hpwr hroom hmem⟩
  case exported =>
    exact fun _ _ _ hg hb hst hreq hreplay hpwr hmem =>
      exec_cmdArrCkptExport_of_ready hg hb hst hreq hreplay hpwr hmem
  case imported =>
    exact fun _ _ _ _ hg hb hheld hcap hcrc hfit hmem =>
      exec_cmdArrCkptImport_of_ready hg hb hheld hcap hcrc hfit hmem

end Sys2Proof.Machine
end

section
/-! PROOFS. The array events, each on the state where it acts (R359, R361, R365, R366, R368, R378, R380, R383). -/

namespace Sys2Proof.Machine

/-! ## Peers and run state -/

section
variable (s : State) (j o st : Nat)

theorem addPeer_frame : ∃ ps, addPeer s j o = { s with arr := { s.arr with peers := ps } } := by
  rw [addPeer]
  split
  · exact ⟨s.arr.peers, rfl⟩
  · exact ⟨_, rfl⟩

theorem mem_addPeer : (j, o) ∈ (addPeer s j o).arr.peers := by
  rw [addPeer]
  split
  next h => exact List.contains_iff_mem.1 h
  next => exact List.mem_append_right _ List.mem_cons_self

theorem srcRunOf_addPeer : srcRunOf (addPeer s j o) st = srcRunOf s st := by
  obtain ⟨_, h⟩ := addPeer_frame s j o
  rw [h]
  rfl

theorem jobOf_addPeer (k : Nat) : jobOf (addPeer s j o) k = jobOf s k := by
  obtain ⟨_, h⟩ := addPeer_frame s j o
  rw [h]
  rfl

theorem srcRunOf_modSrcRun_same (f : SrcRun → SrcRun) :
    srcRunOf (modSrcRun s st f) st = f (srcRunOf s st) := mapGet_mapMod_same _ _ _ _

end

/-! ## Tokens (R359) -/

theorem takeToken_of_epoch {s : State} {o st : Nat} {ep : BitVec 4} {lo : BitVec 32}
    (hv : (srcOf s st).valid = true) (hep : ep = (jobOf s (srcOf s st).job).epoch) :
    takeToken s o st ep lo = modSrcRun (addPeer s (srcOf s st).job o) st fun r =>
      putToken r o (extendStamp (jobOf s (srcOf s st).job).cycle lo) :=
  if_neg (by simp [hv, hep])

/-! ## Checkpoint markers (R365) -/

theorem sendMarkers_onlyLarey (s : State) (j stream : Nat) (target : Word) :
    onlyLarey s (sendMarkers s j stream target) := by
  refine onlyLarey.foldl (fun u p => ?_) _ s
  split
  · exact onlyLarey.refl u
  · exact routeSend_onlyLarey _ _ _ _ _

theorem onlyLarey.arr {s t : State} (h : onlyLarey s t) : t.arr = s.arr := by
  obtain ⟨_, _, _, _, _, _, _, rfl⟩ := onlyLarey_iff.1 h
  rfl

/-- A checkpoint target, kept once. -/
def scheduleAt (s : State) (j : Nat) (target : Word) : State :=
  modJob s j fun x =>
    { x with earlyAt := if x.earlyAt.contains target then x.earlyAt else x.earlyAt ++ [target] }

theorem mem_scheduleAt (s : State) (j : Nat) (target : Word) :
    target ∈ (jobOf (scheduleAt s j target) j).earlyAt := by
  rw [scheduleAt, jobOf_modJob_same]
  dsimp only
  split
  next h => exact List.contains_iff_mem.1 h
  next => exact List.mem_append_right _ List.mem_cons_self

/-- A target relayed by a job, once. -/
def relayMarker (s : State) (j st : Nat) (target : Word) : State :=
  if s.arr.relayed.contains (j, target) then s
  else sendMarkers (modArrBlk s fun a => { a with relayed := a.relayed ++ [(j, target)] }) j st target

theorem relayMarker_jobs (s : State) (j st : Nat) (target : Word) :
    (relayMarker s j st target).jobs = s.jobs := by
  rw [relayMarker]
  split
  · rfl
  · exact (sendMarkers_onlyLarey _ _ _ _).jobs

theorem mem_relayMarker (s : State) (j st : Nat) (target : Word) :
    (j, target) ∈ (relayMarker s j st target).arr.relayed := by
  rw [relayMarker]
  split
  next h => exact List.contains_iff_mem.1 h
  next =>
    rw [(sendMarkers_onlyLarey _ _ _ _).arr]
    exact List.mem_append_right _ List.mem_cons_self

theorem takeMarker_of_ahead {s : State} {src st j : Nat} {ep : BitVec 4} {target : Word}
    (hj : streamJob s st = some j) (hep : ep = (jobOf s j).epoch) (hlt : (jobOf s j).cycle < target) :
    takeMarker s src st ep target = relayMarker (scheduleAt (addPeer s j src) j target) j st target := by
  rw [takeMarker, hj]
  exact (if_neg (by simp [hep])).trans (if_neg (BitVec.not_le.2 hlt))

/-! ## Resends (R383) -/

theorem takeResend_of_records {s u : State} {st : Nat} {c : Word} (hv : (srcOf s st).valid = true)
    (hu : resendFrom s st c = some u) : takeResend s st c = u := by
  rw [takeResend, hu]
  exact ite_not_of_true hv

/-! ## The capture (R366, R368) -/

section
variable {s : State} {j : Nat}

theorem exec_checkpointCut_of_quiet (hcap : (jobOf s j).capturing = some .pausing)
    (hmasons : (masonsOfJob s j).all (fun m => pausedNow (masonOf s m)) = true)
    (hreqs : (jobOf s j).memReqs.all (fun r => r.result.isSome) = true) :
    let u := beginEpoch s j (jobOf s j).cycle
    exec (.checkpointCut j) s = .next (modJob u j fun y =>
      { y with capturing := some .cut, cutState := some (makeCkpt u j (jobOf s j).cycle) }) := by
  intro u
  refine congrArg _ (if_neg ?_)
  rw [hcap, hmasons, hreqs]
  decide

/-- The checkpoint becomes the job's latest (R367). -/
def storeCkpt (ck : Ckpt) (y : Job) : Job :=
  { y with slotA := if y.nextB then y.slotA else some ck
           slotB := if y.nextB then some ck else y.slotB
           nextB := !y.nextB
           recoverable := true
           imported := false
           earlyAt := y.earlyAt.filter fun t => decide (ck.k < t) }

/-- The capture is over, with its checkpoint or without. -/
def captureOver (s : State) (j : Nat) (ck : Ckpt) (failed : Bool) : State :=
  if failed then stopEntry (failCapture s j 2)
  else endCapture (writeExport
    (freeRecords (emitJob (modJob s j (storeCkpt ck)) 0x0A01 j [(8, ck.k.toNat)]) j) j ck) j

theorem exec_ckptDone_of_cut {ck : Ckpt} (failed : Bool) (hcap : (jobOf s j).capturing = some .cut)
    (hcut : (jobOf s j).cutState = some ck) :
    let v := modJob (captureOver s j ck failed) j fun y => { y with skipCkpt := true }
    exec (.ckptDone j failed) s =
      .next (if holdDue (jobOf v j) (jobOf v j).cycle then enterHold v j else v) := by
  intro v
  have hexec : exec (.ckptDone j failed) s = execCkptDone j failed s := rfl
  simp only [hexec, execCkptDone, hcap, hcut]
  rfl

/-! ## The end of a replay (R376, R378) -/

theorem exec_shadowPop_of_live {vt port : Nat} (hlive : (jobOf s j).replay = none) :
    exec (.shadowPop j vt port) s = .next s := by
  have hexec : exec (.shadowPop j vt port) s = execShadowPop j vt port s := rfl
  simp only [hexec, execShadowPop, hlive]

/-- A shadow pop made: its record is no longer awaited. -/
def dropShadow (s : State) (j : Nat) (e : JEntry) : State :=
  modJob s j fun x => { x with replay := x.replay.map fun r => { r with shadow := r.shadow.erase e } }

/-- The word popped is compared with its record. -/
theorem exec_shadowPop_of_popped {vt port course h : Nat} {k cyc : Word} {v w : PortWord} {r : Replay} {u : State}
    (hr : (jobOf s j).replay = some r) (hsh : r.shadow = [⟨j, k, cyc, .hodDeliver vt port course h w⟩])
    (hh : (hodOf s h).valid = true) (hc : portConsumes s j vt port ≠ none)
    (hpop : hodPopWord s h (.tile j vt port) = (some v, u)) :
    let t := stepArrivals (dropShadow u j ⟨j, k, cyc, .hodDeliver vt port course h w⟩) j
    exec (.shadowPop j vt port) s = .next (if v = w then t else diverge t j 1 h cyc) := by
  intro t
  have hexec : exec (.shadowPop j vt port) s = execShadowPop j vt port s := rfl
  have hopen : ¬ ((!(hodOf s h).valid || (portConsumes s j vt port).isNone) = true) := by simp [hh, hc]
  simp only [hexec, execShadowPop, hr, hsh, List.find?_cons, beq_self_eq_true, Bool.and_self, if_neg hopen, hpop]
  rfl

theorem exec_replayDone_of_atB {r : Replay} (hr : (jobOf s j).replay = some r) (hb : atB (jobOf s j) = true)
    (hsh : r.shadow = []) : exec (.replayDone j) s = .next (endReplay s j) := by
  have hexec : exec (.replayDone j) s = execReplayDone j s := rfl
  simp only [hexec, execReplayDone, hr, hb, hsh, List.isEmpty_nil, Bool.and_self, if_true]

end

/-- Settles O47, row by row. The reason number of a capture that fails is the model's choice (log 136). -/
theorem arrayEventsAct : Obligations.ArrayEventsAct := by
  unfold Obligations.ArrayEventsAct
  refine ⟨?frame, ?token, ?takeToken, ?marker, ?takeMarker, ?resend, ?takeResend, ?cut, ?captured, ?live, ?shadow,
    ?replayed⟩
  case frame =>
    intro s p m hp hm
    exact exec_of_unit rfl hp (by rw [jointFrame, hm])
  case token => exact fun s p m hp hm => exec_of_unit rfl hp (arriving_of_next _ hm)
  case takeToken =>
    intro s o st ep lo hv hep
    rw [takeToken_of_epoch hv hep, srcRunOf_modSrcRun_same, srcRunOf_addPeer]
    exact ⟨rfl, mem_addPeer s _ o⟩
  case marker => exact fun s p m hp hm => exec_of_unit rfl hp (arriving_of_next _ hm)
  case takeMarker =>
    intro s src st ep target j hj hep hlt
    rw [takeMarker_of_ahead hj hep hlt, jobOf, relayMarker_jobs]
    exact ⟨mem_scheduleAt _ j target, mem_relayMarker _ j st target⟩
  case resend => exact fun s p m hp hm => exec_of_unit rfl hp (arriving_of_next _ hm)
  case takeResend => exact fun s st c u hv hu => takeResend_of_records hv hu
  case cut =>
    intro s j hcap hmasons hreqs
    refine ⟨_, exec_checkpointCut_of_quiet hcap hmasons hreqs, ?_⟩
    rw [jobOf_modJob_same]
    exact ⟨rfl, _, rfl, rfl⟩
  case captured => exact fun s j ck failed hcap hcut => exec_ckptDone_of_cut failed hcap hcut
  case live => exact fun s j vt port hlive => exec_shadowPop_of_live hlive
  case shadow =>
    intro s j vt port course h r k cyc w u hr hsh hh hc
    exact ⟨fun hpop => (exec_shadowPop_of_popped hr hsh hh hc hpop).trans (congrArg _ (if_pos rfl)),
      fun v hne hpop => ⟨_, (exec_shadowPop_of_popped hr hsh hh hc hpop).trans (congrArg _ (if_neg hne))⟩⟩
  case replayed => exact fun s j r hr hb hsh => exec_replayDone_of_atB hr hb hsh

end Sys2Proof.Machine
end

section
/-! PROOFS. A packet's way by the reset routes (R386, R387, R391, R392, R396, R398): a routing entry at its reset
contents leads one hop nearer, so the walk ends at the destination's router with nothing but arbiters, trace and
counters touched, and what is left to say is what the block or its fence sink does there. -/

namespace Sys2Proof.Machine

/-! ## Headers (Table 12-2) -/

theorem testBit_field (v hi lo i : Nat) :
    (field v hi lo).testBit i = (decide (i < hi + 1 - lo) && v.testBit (lo + i)) := by
  rw [field, Nat.testBit_mod_two_pow, Nat.testBit_div_two_pow, Nat.add_comm lo]

theorem field_lt (v hi lo : Nat) : field v hi lo < 2 ^ (hi + 1 - lo) := Nat.mod_lt _ (Nat.two_pow_pos _)

/-- Stamping writes bit 33 alone. -/
theorem stamp_getLsbD (s : State) (h : BitVec 128) (k : Nat) :
    (stamp s h).getLsbD k = if k = 33 then s.spn.inject else h.getLsbD k := by
  have hone : (1 : BitVec 128).getLsbD (k - 33) = decide (k - 33 = 0) := by simp
  have hinj : (BitVec.ofNat 128 (b2n s.spn.inject)).getLsbD (k - 33) = (decide (k - 33 = 0) && s.spn.inject) := by
    cases s.spn.inject <;> simp [b2n]
  have hrange : h.getLsbD k = true → k < 128 := BitVec.lt_of_getLsbD
  rw [stamp, BitVec.getLsbD_or, BitVec.getLsbD_and, BitVec.getLsbD_not, BitVec.getLsbD_shiftLeft,
    BitVec.getLsbD_shiftLeft, hinj, hone]
  obtain hlow | rfl | hhigh := Nat.lt_trichotomy k 33
  · simp [hlow, hlow.ne, hlow.trans (show 33 < 128 by decide)]
  · simp
  · simpa [hhigh.ne', Nat.sub_ne_zero_of_lt hhigh] using hrange

theorem hEpoch_stamp (s : State) (h : BitVec 128) : hEpoch (stamp s h) = s.spn.inject :=
  (stamp_getLsbD s h 33).trans (if_pos rfl)

/-- A field of the header that does not hold bit 33 is as before the stamp. -/
theorem field_stamp (s : State) (h : BitVec 128) {hi lo : Nat} (hout : hi < 33 ∨ 33 < lo) :
    field (stamp s h).toNat hi lo = field h.toNat hi lo := by
  refine Nat.eq_of_testBit_eq fun i => ?_
  rw [testBit_field, testBit_field, BitVec.testBit_toNat, BitVec.testBit_toNat, stamp_getLsbD]
  by_cases hi' : i < hi + 1 - lo
  · rw [if_neg (by omega)]
  · simp [hi']

section
variable (s : State) (h : BitVec 128)

@[simp] theorem hDst_stamp : hDst (stamp s h) = hDst h := field_stamp s h (.inl (by decide))
@[simp] theorem hDstSub_stamp : hDstSub (stamp s h) = hDstSub h := field_stamp s h (.inl (by decide))
@[simp] theorem hSrc_stamp : hSrc (stamp s h) = hSrc h := field_stamp s h (.inl (by decide))
@[simp] theorem hSrcSub_stamp : hSrcSub (stamp s h) = hSrcSub h := field_stamp s h (.inl (by decide))
@[simp] theorem hVn_stamp : hVn (stamp s h) = hVn h := field_stamp s h (.inl (by decide))
@[simp] theorem hStatus_stamp : hStatus (stamp s h) = hStatus h := field_stamp s h (.inr (by decide))

end

/-- A reply goes back to the source. -/
theorem replyTo_dst (h : BitVec 128) {st : Nat} (hst : st < 16) :
    hDst (replyTo h st) = hSrc h ∧ hDstSub (replyTo h st) = hSrcSub h := by
  have hsrc : hSrc h < 2 ^ 7 := field_lt _ _ _
  have hsub : hSrcSub h < 2 ^ 8 := field_lt _ _ _
  have hdst : hDst h < 2 ^ 7 := field_lt _ _ _
  have hdsub : hDstSub h < 2 ^ 8 := field_lt _ _ _
  have htag : field h.toNat 57 34 < 2 ^ 24 := field_lt _ _ _
  have hnat : (replyTo h st).toNat = hSrc h + hSrcSub h * 2 ^ 7 + hDst h * 2 ^ 15 + hDstSub h * 2 ^ 22
      + 1 * 2 ^ 30 + field h.toNat 57 34 * 2 ^ 34 + st * 2 ^ 60 :=
    (BitVec.toNat_ofNat _ _).trans (Nat.mod_eq_of_lt (by omega))
  rw [hDst, hDstSub, hnat]
  constructor
  · show _ / 2 ^ 0 % 2 ^ 7 = _
    omega
  · show _ / 2 ^ 7 % 2 ^ 8 = _
    omega

/-! ## The reset routes (R392) -/

theorem attachRouter_lt {e : Nat} (he : e < 136) : attachRouter e < 100 := by
  revert e
  decide

/-- The routing entry of a known destination leads to the router it attaches at. -/
theorem attachRouter_routeEntry {node sub : Nat} (hn : nodeKnown node = true) :
    routeEntry node sub < 136 ∧ attachRouter (routeEntry node sub) = nodeRouter node sub := by
  have hlt : node < 122 := of_decide_eq_true hn
  have hq : sub % 4 < 4 := Nat.mod_lt _ (by decide)
  rw [routeEntry, nodeRouter]
  split
  next hub =>
    have hub4 : ∀ q < 4, attachRouter (128 + 4 * (118 - 118) + q) = listAt [33, 36, 63, 66] 33 q ∧
        attachRouter (128 + 4 * (119 - 118) + q) = listAt [33, 36, 63, 66] 33 q := by decide
    obtain ⟨hplc, henc⟩ := hub4 _ hq
    obtain rfl | rfl := hub
    · exact ⟨by omega, hplc⟩
    · exact ⟨by omega, henc⟩
  next => exact ⟨by omega, rfl⟩

theorem nodeRouter_lt {node sub : Nat} (hn : nodeKnown node = true) : nodeRouter node sub < 100 := by
  obtain ⟨he, hr⟩ := attachRouter_routeEntry (sub := sub) hn
  exact hr ▸ attachRouter_lt he

theorem routeReset_le (r e : Nat) : routeReset r e ≤ 4 := by
  simp only [routeReset]
  split_ifs <;> decide

/-- A reset entry says local at the destination's router only. -/
theorem routeReset_eq_zero {r e : Nat} : routeReset r e = 0 ↔ r = attachRouter e := by
  simp only [routeReset]
  split_ifs <;> simp <;> omega

/-- Elsewhere it leads one hop nearer. -/
theorem neighbour_routeReset {r e : Nat} (hr : r < 100) (he : attachRouter e < 100) (hne : r ≠ attachRouter e) :
    ∃ t, neighbour r (routeReset r e) = some t ∧ t < 100 ∧
      hops t (attachRouter e) + 1 = hops r (attachRouter e) := by
  simp only [routeReset, hops, gap]
  generalize attachRouter e = d at he hne
  split_ifs with heast hwest hnorth hsouth
  · exact ⟨r + 1, if_pos (by omega), by omega, by omega⟩
  · exact ⟨r - 1, if_pos (by omega), by omega, by omega⟩
  · exact ⟨r + 10, if_pos (by omega), by omega, by omega⟩
  · exact ⟨r - 10, if_pos (by omega), by omega, by omega⟩
  · omega

theorem hops_le {a b : Nat} (ha : a < 100) (hb : b < 100) : hops a b ≤ 18 := by
  simp only [hops, gap]
  omega

/-! ## What a packet on its way touches -/

/-- Only arbiters, trace records and counters differ. -/
def Carried (s t : State) : Prop := ∃ arb queue lost tel,
  t = { s with spn := { s.spn with arb := arb, trcQueue := queue, trcLost := lost }, tel := tel }

theorem Carried.refl (s : State) : Carried s s := ⟨_, _, _, _, rfl⟩

theorem Carried.trans {s t u : State} (h : Carried s t) (g : Carried t u) : Carried s u := by
  obtain ⟨_, _, _, _, rfl⟩ := h
  obtain ⟨_, _, _, _, rfl⟩ := g
  exact ⟨_, _, _, _, rfl⟩

theorem Carried.foldl {α : Type} {f : State → α → State} (h : ∀ s a, Carried s (f s a)) :
    ∀ (l : List α) (s : State), Carried s (l.foldl f s)
  | [], s => .refl s
  | a :: l, s => (h s a).trans (Carried.foldl h l (f s a))

theorem leafAdd_carried (s : State) (i n : Nat) : Carried s (leafAdd s i n) := ⟨_, _, _, _, rfl⟩

theorem takeOutput_carried (s : State) (r out vn : Nat) (busy : List (BitVec 5)) :
    Carried s (takeOutput s r out vn busy) := ⟨_, _, _, _, rfl⟩

theorem putTrace_carried (s : State) (w : BitVec 256) : Carried s (putTrace s w) := by
  simp only [putTrace, modSpnBlk]
  split <;> exact ⟨_, _, _, _, rfl⟩

theorem probeAt_carried (r point : Nat) (h : BitVec 128) (s : State) (i : Nat) :
    Carried s (probeAt r point h s i) := by
  simp only [probeAt]
  split_ifs
  · exact (leafAdd_carried s _ 1).trans (putTrace_carried _ _)
  · exact leafAdd_carried s _ 1
  · exact .refl s

theorem probesAt_carried (s : State) (r point : Nat) (h : BitVec 128) : Carried s (probesAt s r point h) :=
  .foldl (probeAt_carried r point h) _ s

/-- The routing banks hold their reset contents without an upset. -/
def ResetRoutes (s : State) : Prop := s.spn.routes = [] ∧ s.spn.routeErr = []

theorem Carried.resetRoutes {s t : State} (h : Carried s t) (hs : ResetRoutes s) : ResetRoutes t := by
  obtain ⟨_, _, _, _, rfl⟩ := h
  exact hs

theorem Carried.fenceMask {s t : State} (h : Carried s t) (b : Bool) (r : Nat) :
    fenceMask t b r = fenceMask s b r := by
  obtain ⟨_, _, _, _, rfl⟩ := h
  rfl

/-! ## The walk -/

/-- The read of a reset entry changes nothing. The definition is opened as a function, before it meets its
arguments: the kernel would run the decoder on the open word. -/
theorem readRoute_of_reset {s : State} (hs : ResetRoutes s) (b r e : Nat) :
    readRoute s b r e = (some (routeReset r e), s) := by
  obtain ⟨hroutes, herrs⟩ := hs
  have hroute : routeAt s b r e = routeReset r e := by
    rw [routeAt, hroutes]
    rfl
  have herr : mapGet s.spn.routeErr 0 (routeKey b r e) = 0 := by
    rw [herrs]
    rfl
  have hlt : routeReset r e < 2 ^ 3 := Nat.lt_of_le_of_lt (routeReset_le r e) (by decide)
  have hdec : secDecode 4 3 (secEncode 4 3 (routeReset r e) ^^^ (0 : BitVec 7).toNat) =
      some (secEncode 4 3 (routeReset r e), false) :=
    (congrArg _ (Nat.xor_zero _)).trans (secDecode_secEncode hlt)
  have hdata : secEncode 4 3 (routeReset r e) % 8 = routeReset r e := by
    rw [secEncode, show 8 = 2 ^ 3 by decide, Nat.add_mul_mod_self_right, Nat.mod_eq_of_lt hlt]
  generalize hF : readRoute = F
  delta readRoute at hF
  subst hF
  beta_reduce
  simp only [hroute, herr, hdec, hdata, Bool.false_eq_true, if_false]

/-- With more steps than hops left, the walk ends at the destination's router. -/
theorem walk_of_reset {h : BitVec 128} (hn : nodeKnown (hDst h) = true) :
    ∀ {n r : Nat} {s : State} (busy : List (List (BitVec 5))), ResetRoutes s → r < 100 →
      hops r (nodeRouter (hDst h) (hDstSub h)) < n →
      ∃ u, Carried s u ∧ walk n s r h busy = deliverAt u (nodeRouter (hDst h) (hDstSub h)) h
  | 0, _, _, _, _, _, hfuel => absurd hfuel (Nat.not_lt_zero _)
  | n + 1, r, s, busy, hs, hr, hfuel => by
    obtain ⟨he, hattach⟩ := attachRouter_routeEntry (sub := hDstSub h) hn
    rw [walk, readRoute_of_reset hs]
    by_cases hhere : r = nodeRouter (hDst h) (hDstSub h)
    · have hzero : routeReset r (routeEntry (hDst h) (hDstSub h)) = 0 :=
        routeReset_eq_zero.2 (hhere.trans hattach.symm)
      exact ⟨_, takeOutput_carried s r 4 (hVn h) (busy.headD []), (if_pos hzero).trans (by rw [← hhere])⟩
    · rw [← hattach] at hhere
      obtain ⟨t, hnext, ht, hnear⟩ := neighbour_routeReset hr (attachRouter_lt he) hhere
      rw [hattach] at hnear
      have hstep := ((takeOutput_carried s r (routeReset r (routeEntry (hDst h) (hDstSub h)) - 1) (hVn h)
        (busy.headD [])).trans (leafAdd_carried _ (leafRouter r (hVn h)) 1)).trans (probesAt_carried _ r
        (routeReset r (routeEntry (hDst h) (hDstSub h)) - 1) h)
      obtain ⟨u, hu, hwalk⟩ := walk_of_reset hn busy.tail (hstep.resetRoutes hs) ht
        (Nat.lt_of_succ_lt_succ (hnear ▸ hfuel))
      refine ⟨u, hstep.trans hu, ?_⟩
      simp only [if_neg (mt routeReset_eq_zero.1 hhere), hnext]
      exact hwalk

/-! ## At the destination's router (R396, R398) -/

/-- A destination lies behind a set bit of the fence masks in use. -/
def fencedOff (s : State) (h : BitVec 128) : Bool :=
  (fenceMask s s.spn.inject (nodeRouter (hDst h) (hDstSub h))).getLsbD (fenceSlot (hDst h) (hDstSub h))

theorem noteDelivery_stamp (s t : State) (h : BitVec 128) :
    noteDelivery s (stamp t h) = noteDelivery s h := by
  simp only [noteDelivery, hDst_stamp, hDstSub_stamp, hSrc_stamp, hSrcSub_stamp, hVn_stamp, hStatus_stamp]

/-- A delivery touches the drain counters alone, and counts from them alone. -/
theorem noteDelivery_frame (s : State) (h : BitVec 128) : noteDelivery s h =
    { s with spn := { s.spn with drains := (noteDelivery s h).spn.drains } } := by
  simp only [noteDelivery, modSpnBlk]
  split_ifs <;> rfl

theorem Carried.noteDelivery_drains {s t : State} (hc : Carried s t) (h : BitVec 128) :
    (noteDelivery t h).spn.drains = (noteDelivery s h).spn.drains := by
  obtain ⟨_, _, _, _, rfl⟩ := hc
  simp only [noteDelivery, modSpnBlk]
  split_ifs <;> rfl

/-- The router of a known block hands the packet over, unless its fence bit for the block is set. -/
theorem deliverAt_of_known (s : State) {h : BitVec 128} (hsub : subKnown (hDst h) (hDstSub h) = true) :
    ∃ u, Carried s u ∧ deliverAt s (nodeRouter (hDst h) (hDstSub h)) h =
      if (fenceMask s (hEpoch h) (nodeRouter (hDst h) (hDstSub h))).getLsbD (fenceSlot (hDst h) (hDstSub h))
      then (s, some (.fenced, nodeRouter (hDst h) (hDstSub h))) else (noteDelivery u h, none) := by
  refine ⟨_, (leafAdd_carried s (leafRouter (nodeRouter (hDst h) (hDstSub h)) (hVn h)) 1).trans
    (probesAt_carried _ (nodeRouter (hDst h) (hDstSub h)) 4 h), ?_⟩
  rw [deliverAt, hsub]
  exact if_neg (by simp)

/-- A packet injected for a known block is delivered there, or bounces off the block's fence. -/
theorem inject_of_reset {s : State} {r : Nat} {h : BitVec 128} (busy : List (List (BitVec 5)))
    (hs : ResetRoutes s) (hr : r < 100) (hn : nodeKnown (hDst h) = true)
    (hsub : subKnown (hDst h) (hDstSub h) = true) : ∃ u, Carried s u ∧ inject s r h busy =
      if fencedOff s h then (u, some (.fenced, nodeRouter (hDst h) (hDstSub h)))
      else (noteDelivery u h, none) := by
  have hprobe := probesAt_carried s r 5 (stamp s h)
  have hfuel : hops r (nodeRouter (hDst h) (hDstSub h)) < 400 :=
    Nat.lt_of_le_of_lt (hops_le hr (nodeRouter_lt hn)) (by decide)
  obtain ⟨u, hu, hwalk⟩ := walk_of_reset (h := stamp s h) (by rwa [hDst_stamp]) busy
    (hprobe.resetRoutes hs) hr (by rwa [hDst_stamp, hDstSub_stamp])
  obtain ⟨v, hv, hend⟩ := deliverAt_of_known u (h := stamp s h) (by rwa [hDst_stamp, hDstSub_stamp])
  have hcarried := hprobe.trans hu
  have hinject : inject s r h busy = walk 400 (probesAt s r 5 (stamp s h)) r (stamp s h) busy := by
    simp only [inject, hDst_stamp, hn, if_true]
  rw [hinject, hwalk, hend, hDst_stamp, hDstSub_stamp, hEpoch_stamp, hcarried.fenceMask, noteDelivery_stamp,
    ← fencedOff]
  split
  · exact ⟨u, hcarried, rfl⟩
  · exact ⟨v, hcarried.trans hv, rfl⟩

/-! ## A packet from injection to its end -/

theorem exec_spinePacket_of_known {s : State} {h : BitVec 128} (busy : List (List (BitVec 5))) (ups : List Upset)
    (hvn : hVn h < 5) (hsrc : nodeKnown (hSrc h) = true) (hssub : subKnown (hSrc h) (hSrcSub h) = true)
    (hdom : s.clk.domainsOn = true) :
    exec (.spinePacket h busy ups) s = .next (sendPacket (upsets s ups) h busy) := by
  have hexec : exec (.spinePacket h busy ups) s = execSpinePacket h busy ups s := rfl
  rw [hexec, execSpinePacket, decide_eq_true hvn, hsrc, hssub, if_pos hdom]
  rfl

theorem noteDiscard_spn (s : State) (src : Nat) : (noteDiscard s src).spn.badDest = s.spn.badDest ∧
    (noteDiscard s src).spn.drains = s.spn.drains ∧
    mapGet (noteDiscard s src).spn.fenceDisc 0 src = mapGet s.spn.fenceDisc 0 src + 1 := by
  rw [noteDiscard]
  split
  · rw [emitDev_spn]
    exact ⟨rfl, rfl, mapGet_mapMod_same s.spn.fenceDisc 0 src (· + 1)⟩
  · exact ⟨rfl, rfl, mapGet_mapMod_same s.spn.fenceDisc 0 src (· + 1)⟩

section
variable {s u v : State} {h : BitVec 128} {busy : List (List (BitVec 5))} {r : Nat}

theorem sendOnce_of_delivered (hinj : inject s (nodeRouter (hSrc h) (hSrcSub h)) h busy = (u, none)) :
    sendOnce s h busy = (u, false) := by
  rw [sendOnce, hinj]

theorem sendOnce_of_discarded
    (hinj : inject s (nodeRouter (hSrc h) (hSrcSub h)) h busy = (u, some (.fenced, r))) (hvn : hVn h ≠ 0) :
    sendOnce s h busy = (noteDiscard u (hSrc h), false) := by
  rw [sendOnce, hinj]
  exact if_neg hvn

/-- A request that a fence sink answers with DEST_FENCED (R398, R399). -/
theorem sendOnce_of_answered
    (hinj : inject s (nodeRouter (hSrc h) (hSrcSub h)) h busy = (u, some (.fenced, r))) (hvn : hVn h = 0)
    (hreply : inject u r (replyTo h 1) [] = (v, none)) : sendOnce s h busy = (v, false) := by
  rw [sendOnce, hinj]
  refine (if_pos hvn).trans ?_
  rw [bounceStatus, hreply]
  rfl

theorem sendOnce_of_answer_discarded {q : Nat}
    (hinj : inject s (nodeRouter (hSrc h) (hSrcSub h)) h busy = (u, some (.fenced, r))) (hvn : hVn h = 0)
    (hreply : inject u r (replyTo h 1) [] = (v, some (.fenced, q))) :
    sendOnce s h busy = (noteDiscard v (hSrc (replyTo h 1)), false) := by
  rw [sendOnce, hinj]
  refine (if_pos hvn).trans ?_
  rw [bounceStatus, hreply]
  rfl

theorem sendPacket_of_sent (hsent : sendOnce s h busy = (u, false)) : sendPacket s h busy = u := by
  rw [sendPacket, hsent]

end

/-- A reply is counted at a sink or at its block; either way no bad destination is. -/
theorem badDest_of_carried {s u t : State} (hu : Carried s u) {h : BitVec 128}
    (ht : t = noteDelivery u h ∨ t = noteDiscard u (hSrc h)) : t.spn.badDest = s.spn.badDest := by
  obtain ⟨_, _, _, _, rfl⟩ := hu
  obtain rfl | rfl := ht
  · rw [noteDelivery_frame]
  · exact (noteDiscard_spn _ _).1

section
variable {s : State} {h : BitVec 128} (busy : List (List (BitVec 5))) (hs : ResetRoutes s)
  (hsrc : nodeKnown (hSrc h) = true) (hdst : nodeKnown (hDst h) = true)
  (hdsub : subKnown (hDst h) (hDstSub h) = true)
include hs hsrc hdst hdsub

theorem sendPacket_of_open (hopen : fencedOff s h = false) :
    ∃ u, Carried s u ∧ sendPacket s h busy = noteDelivery u h := by
  obtain ⟨u, hu, hinj⟩ := inject_of_reset busy hs (nodeRouter_lt (sub := hSrcSub h) hsrc) hdst hdsub
  rw [hopen] at hinj
  exact ⟨u, hu, sendPacket_of_sent (sendOnce_of_delivered hinj)⟩

theorem sendPacket_of_fenced (hfence : fencedOff s h = true) (hvn : hVn h ≠ 0) :
    ∃ u, Carried s u ∧ sendPacket s h busy = noteDiscard u (hSrc h) := by
  obtain ⟨u, hu, hinj⟩ := inject_of_reset busy hs (nodeRouter_lt (sub := hSrcSub h) hsrc) hdst hdsub
  rw [hfence] at hinj
  exact ⟨u, hu, sendPacket_of_sent (sendOnce_of_discarded hinj hvn)⟩

/-- A request that a fence sink answers: the answer is delivered, or discarded at a fence of its own (R399). -/
theorem sendPacket_of_answered (hssub : subKnown (hSrc h) (hSrcSub h) = true) (hfence : fencedOff s h = true)
    (hvn : hVn h = 0) : ∃ u, Carried s u ∧ (sendPacket s h busy = noteDelivery u (replyTo h 1) ∨
      sendPacket s h busy = noteDiscard u (hSrc (replyTo h 1))) := by
  obtain ⟨u, hu, hinj⟩ := inject_of_reset busy hs (nodeRouter_lt (sub := hSrcSub h) hsrc) hdst hdsub
  obtain ⟨hback, hbsub⟩ := replyTo_dst h (st := 1) (by decide)
  obtain ⟨v, hv, hreply⟩ := inject_of_reset (h := replyTo h 1) [] (hu.resetRoutes hs)
    (nodeRouter_lt (sub := hDstSub h) hdst) (by rwa [hback]) (by rwa [hback, hbsub])
  rw [hfence] at hinj
  refine ⟨v, hu.trans hv, ?_⟩
  cases hbounce : fencedOff u (replyTo h 1) <;> rw [hbounce] at hreply
  case false => exact .inl (sendPacket_of_sent (sendOnce_of_answered hinj hvn hreply))
  case true => exact .inr (sendPacket_of_sent (sendOnce_of_answer_discarded hinj hvn hreply))

end

/-- Settles O50: the reset routes lead to the destination's router, and there the fence decides. That the packet
runs its whole way in one command is the model's choice (log 90). -/
theorem resetRoutesDeliver : Obligations.ResetRoutesDeliver := by
  unfold Obligations.ResetRoutesDeliver
  intro s h busy hroutes herrs hdom hvn hsrc hssub hdst hdsub
  have hexec : exec (.spinePacket h busy []) s = .next (sendPacket s h busy) :=
    exec_spinePacket_of_known busy [] hvn hsrc hssub hdom
  refine ⟨_, hexec, ?_⟩
  cases hfence : fencedOff s h
  case false =>
    obtain ⟨u, hu, hsent⟩ := sendPacket_of_open busy ⟨hroutes, herrs⟩ hsrc hdst hdsub hfence
    rw [hsent]
    refine ⟨badDest_of_carried hu (.inl rfl), fun _ => ?_, fun _ hset => ?_⟩
    · have hdrains := hu.noteDelivery_drains h
      obtain ⟨_, _, _, _, rfl⟩ := hu
      rw [noteDelivery_frame, hdrains]
      exact ⟨rfl, rfl, rfl, rfl⟩
    · exact absurd (hfence.symm.trans hset) Bool.false_ne_true
  case true =>
    have hnofence (hnone : s.spn.fences = []) : False := by
      rw [fencedOff, fenceMask, hnone] at hfence
      simp [mapGet] at hfence
    by_cases hreq : hVn h = 0
    · obtain ⟨u, hu, hsent⟩ := sendPacket_of_answered busy ⟨hroutes, herrs⟩ hsrc hdst hdsub hssub hfence hreq
      exact ⟨badDest_of_carried hu hsent, fun hnone => (hnofence hnone).elim, fun hpost _ => by omega⟩
    · obtain ⟨u, hu, hsent⟩ := sendPacket_of_fenced busy ⟨hroutes, herrs⟩ hsrc hdst hdsub hfence hreq
      obtain ⟨hbad, hdrains, hcount⟩ := noteDiscard_spn u (hSrc h)
      rw [hsent, hbad, hdrains, hcount]
      obtain ⟨_, _, _, _, rfl⟩ := hu
      exact ⟨rfl, fun hnone => (hnofence hnone).elim, fun _ _ => ⟨rfl, rfl⟩⟩

end Sys2Proof.Machine
end

section
/-! PROOFS. Epoch changes, power-down of a mason group, probes and the trace, each on the state where it acts (R394,
R396 to R398, R400 to R402). -/

namespace Sys2Proof.Machine

/-! ## Epoch changes (R394) -/

theorem bankOf_not (b : Bool) : bankOf (!b) = 1 - bankOf b := by cases b <;> rfl

section
variable (s : State)

theorem epochChange_routes (rs : List (Nat × Nat × Nat)) (fs : List (Nat × BitVec 6)) :
    (epochChange s rs fs).spn.routes = rs.foldl
      (fun m e => mapPut m 0 (routeKey (1 - bankOf s.spn.inject) e.1 e.2.1) (e.2.2 + 1))
      (copyBank s.spn.routes 0 13600 (bankOf s.spn.inject) (1 - bankOf s.spn.inject)) := rfl

/-- The one entry written is what the new bank reads there. -/
theorem routeAt_epochChange (fs : List (Nat × BitVec 6)) (r e v : Nat) :
    routeAt (epochChange s [(r, e, v)] fs) (bankOf !s.spn.inject) r e = v := by
  have hget : mapGet (epochChange s [(r, e, v)] fs).spn.routes 0 (routeKey (bankOf !s.spn.inject) r e) = v + 1 := by
    rw [bankOf_not, epochChange_routes, List.foldl_cons, List.foldl_nil, mapGet_mapPut_same]
  rw [routeAt, hget]

theorem fenceMask_epochChange (rs : List (Nat × Nat × Nat)) (r : Nat) (m : BitVec 6) :
    fenceMask (epochChange s rs [(r, m)]) (!s.spn.inject) r = m := by
  rw [fenceMask, bankOf_not]
  exact mapGet_mapPut_same _ _ _ _

variable {s}

theorem exec_epochChange_of_quiet {rs : List (Nat × Nat × Nat)} {fs : List (Nat × BitVec 6)}
    (hrs : ∀ e ∈ rs, e.1 < 100 ∧ e.2.1 < 136 ∧ e.2.2 ≤ 4) (hfs : ∀ e ∈ fs, e.1 < 100)
    (hq : epochBusy s = false) : exec (.epochChange rs fs) s = .next (epochChange s rs fs) := by
  have hexec : exec (.epochChange rs fs) s = execEpochChange rs fs s := rfl
  have hkeys : rs.all (fun e => decide (e.1 < 100) && decide (e.2.1 < 136)) = true :=
    List.all_eq_true.2 fun e he => by simp [(hrs e he).1, (hrs e he).2.1]
  have hvals : rs.all (fun e => decide (e.2.2 ≤ 4)) = true :=
    List.all_eq_true.2 fun e he => decide_eq_true (hrs e he).2.2
  have hrouters : fs.all (fun e => decide (e.1 < 100)) = true :=
    List.all_eq_true.2 fun e he => decide_eq_true (hfs e he)
  rw [hexec, execEpochChange, hkeys, hvals, hrouters, hq]
  rfl

/-- No packet of the old epoch is left. -/
def epochOver (s : State) : State := { s with spn := { s.spn with flipping := false, oldCount := 0 } }

theorem exec_oldCountZero_of_busy (hb : epochBusy s = true) :
    exec .oldCountZero s = .next (runUnfence (epochOver s)) := by
  have hexec : exec .oldCountZero s = .next (oldCountZero s) := rfl
  rw [hexec, oldCountZero, if_pos hb]
  rfl

theorem runUnfence_of_none (hnone : s.spn.unfence = []) : runUnfence s = s := by
  rw [runUnfence, hnone]
  exact if_pos (Bool.or_true _)

theorem runUnfence_frame (s : State) : ∃ spn ctr, runUnfence s = { s with spn := spn, freeCtr := ctr } := by
  rw [runUnfence]
  split
  · exact ⟨_, _, rfl⟩
  · exact ⟨_, _, rfl⟩

theorem unfenceGroup_pwr (s : State) (g : Nat) : (unfenceGroup s g).pwr = s.pwr := by
  rw [unfenceGroup]
  split
  · obtain ⟨_, _, h⟩ := runUnfence_frame (modSpnBlk s fun x => { x with unfence := x.unfence ++ [g] })
    rw [h]
    rfl
  · rfl

end

/-! ## Power-down of a group (Table 12-5) -/

theorem mayPowerDown_of_can {s : State} {g : Nat} (h : canPowerDown s g = true) : mayPowerDown s g = true := by
  rw [mayPowerDown, h, Bool.true_or]

theorem exec_domainPowerDown_of_can {s : State} {g : Nat} (hg : g < 12) (h : canPowerDown s g = true) :
    exec (.domainPowerDown g) s = .next (startPowerDown s g s.pwr.entering) :=
  exec_of_unit rfl hg (if_pos (mayPowerDown_of_can h))

/-- From the flip, new packets for the group meet its fence sink. -/
theorem groupFenced_startPowerDown (s : State) (g : Nat) (h : Option Hdr) :
    groupFenced (startPowerDown s g h) g = true := by
  have hmask : fenceMask (startPowerDown s g h) (!s.spn.inject) (groupRouter g) =
      fenceMask s s.spn.inject (groupRouter g) ||| 0x10 := fenceMask_epochChange s [] _ _
  have hinj : (startPowerDown s g h).spn.inject = !s.spn.inject := rfl
  rw [groupFenced, hinj, hmask, BitVec.getLsbD_or]
  exact Bool.or_true _

/-- What is left of a mason that loses its power (R284). -/
def unpowered (m : Mason) : Mason := { phys := m.phys, st := if m.st = .failed then .failed else .off }

/-- What is left of one that stays assigned through DEEP HOLD (Table 14-4). -/
def asleep (m : Mason) : Mason :=
  { phys := m.phys, job := m.job, safe := m.safe, st := if m.st = .failed then .failed else .off }

theorem unpowered_st (m : Mason) : (unpowered m).st = .off ∨ (unpowered m).st = .failed := by
  by_cases h : m.st = .failed
  · exact .inr (if_pos h)
  · exact .inl (if_neg h)

theorem each_modMason_frame (base : Nat) (f : Mason → Mason) : ∀ (l : List Nat) (s : State), ∃ ms,
    each l (fun s i => modMason s (base + i) f) s = { s with msn := { s.msn with masons := ms } }
  | [], _ => ⟨_, rfl⟩
  | i :: l, s => by
    obtain ⟨ms, h⟩ := each_modMason_frame base f l (modMason s (base + i) f)
    exact ⟨ms, h⟩

/-- What `f` gives every mason holds of each mason that a pass of `f` reaches. -/
theorem masonOf_each_modMason {P : Mason → Prop} {base i : Nat} {f : Mason → Mason} (hf : ∀ x, P (f x)) :
    ∀ (l : List Nat) (s : State), i ∈ l ∨ P (masonOf s (base + i)) →
      P (masonOf (each l (fun s i => modMason s (base + i) f) s) (base + i))
  | [], _, h => h.resolve_left List.not_mem_nil
  | k :: l, s, h => by
    refine masonOf_each_modMason hf l (modMason s (base + k) f) ?_
    by_cases hk : i = k
    · exact .inr (by rw [hk, masonOf_modMason_same]; exact hf _)
    · rw [masonOf_modMason_other _ _ (by omega)]
      exact h.imp_left fun hmem => (List.mem_cons.1 hmem).resolve_left hk

theorem groupOff_eq (s : State) (g : Nat) : groupOff s g = modGroup
    (each (List.range 16) (fun s i => modMason s (16 * g + i) unpowered) s) g
    fun x => { x with on := false, clearing := false } := rfl

theorem masonOf_modGroup (s : State) (g : Nat) (f : MGroup → MGroup) (m : Nat) :
    masonOf (modGroup s g f) m = masonOf s m := rfl

theorem masonOf_groupOff (s : State) (g : Nat) {i : Nat} (hi : i < 16) :
    (masonOf (groupOff s g) (16 * g + i)).job = none ∧
    ((masonOf (groupOff s g) (16 * g + i)).st = .off ∨ (masonOf (groupOff s g) (16 * g + i)).st = .failed) := by
  rw [groupOff_eq, masonOf_modGroup]
  exact masonOf_each_modMason (P := fun m => m.job = none ∧ (m.st = .off ∨ m.st = .failed))
    (fun m => ⟨rfl, unpowered_st m⟩) _ s (.inl (List.mem_range.2 hi))

theorem groupDown_of_awake {s : State} (h : s.pwr.entering = none) (g : Nat) : groupDown s g = groupOff s g := by
  rw [groupDown, h]
  rfl

theorem groupDown_on (s : State) (g : Nat) : (groupOf (groupDown s g) g).on = false := by
  rw [groupDown]
  split
  · rw [groupOf_modGroup_same]
  · rw [groupOff, groupOf_modGroup_same]

theorem groupDown_frame (s : State) (g : Nat) : ∃ ms gs, groupDown s g =
    { s with msn := { s.msn with masons := ms, groups := gs } } := by
  rw [groupDown]
  split
  · obtain ⟨ms, h⟩ := each_modMason_frame (16 * g) asleep (List.range 16) s
    exact ⟨ms, _, congrArg (modGroup · g fun x => { x with on := false, clearing := false }) h⟩
  · obtain ⟨ms, h⟩ := each_modMason_frame (16 * g) unpowered (List.range 16) s
    exact ⟨ms, _, congrArg (modGroup · g fun x => { x with on := false, clearing := false }) h⟩

/-- The command that asked for a power-down has its answer. -/
def askerAnswered (s : State) (d : PowerDown) (st : St) : State :=
  match d.hdr with
  | some h => if s.pwr.entering = some h then s else respond s h 0x0609 st []
  | none => s

theorem askerDone_eq (s : State) (d : PowerDown) (st : St) : askerDone s d st =
    if (askerAnswered s d st).pwr.entering.isSome then askerAnswered s d st
    else finishAssign (powerGroups (askerAnswered s d st)
      (groupsOf ((askerAnswered s d st).msn.assigning.flatMap fun e => e.2.2))) := rfl

theorem askerAnswered_msn (s : State) (d : PowerDown) (st : St) : (askerAnswered s d st).msn = s.msn := by
  rw [askerAnswered]
  split
  · split
    · rfl
    · exact respond_msn _ _ _ _ _
  · rfl

/-- With no assignment waiting no group comes up again. -/
theorem askerDone_groups {s : State} (d : PowerDown) (st : St) (hnone : s.msn.assigning = []) :
    (askerDone s d st).msn.groups = s.msn.groups := by
  have hmsn := askerAnswered_msn s d st
  rw [askerDone_eq]
  split
  · rw [hmsn]
  · rw [finishAssign_groups, hmsn, hnone]
    exact congrArg Msn.groups hmsn

/-- No power-down is in progress any more. -/
def downEnded (s : State) : State := { s with spn := { s.spn with down := none } }

section
variable {s : State} {d : PowerDown} (hd : s.spn.down = some d)
include hd

theorem exec_drainDone_of_drained (hdrain : groupDrain s d.group = 0) :
    exec .drainDone s = .next (askerDone (groupDown (downEnded s) d.group) d .ok) := by
  have hexec : exec .drainDone s = execDrainDone s := rfl
  simp only [hexec, execDrainDone, hd, hdrain, if_true]
  rfl

theorem exec_drainTimeout_of_down :
    let u := emitDev (unfenceGroup (downEnded s) d.group) 0x0B03 []
    exec .drainTimeout s = .next (if s.pwr.entering.isSome ∧ d.hdr = s.pwr.entering then stopEntry u
      else askerDone u d .timeout) := by
  intro u
  have hexec : exec .drainTimeout s = execDrainTimeout s := rfl
  have hpwr : u.pwr = s.pwr := (emitDev_pwr _ _ _).trans (unfenceGroup_pwr _ _)
  rw [← hpwr]
  simp only [hexec, execDrainTimeout, hd]
  rfl

end

/-! ## The trace (R401, Table 12-9) -/

section
variable {s : State} {r : BitVec 256} {rest : List (BitVec 256)} (hq : s.spn.trcQueue = r :: rest)
include hq

/-- The state with the first queued record in the buffer. -/
theorem writeTrace_of_room (hroom : s.spn.trcNext + 1 < traceSize) : writeTrace s = { s with spn := { s.spn with
    trcBuf := mapPut s.spn.trcBuf 0 s.spn.trcNext r, trcNext := s.spn.trcNext + 1, trcQueue := rest } } := by
  have hlast : (s.spn.trcNext + 1 == traceSize) = false := beq_eq_false_iff_ne.2 hroom.ne
  simp only [writeTrace, hq, hlast, Bool.false_and, Bool.false_eq_true, if_false, modSpnBlk, Nat.mod_eq_of_lt hroom,
    Bool.or_false, Bool.not_false, Bool.and_true]

/-- The buffer is full without WRAP: the trace stops. -/
theorem writeTrace_of_full (hlast : s.spn.trcNext + 1 = traceSize) (hwrap : s.spn.trcWrap = false) :
    ∃ u, writeTrace s = emitDev u 0x0B05 [] ∧ u.spn.trcEn = false ∧ u.spn.trcFull = true ∧ u.spn.trcNext = 0 ∧
      u.spn.trcQueue = [] := by
  have hstop : (s.spn.trcNext + 1 == traceSize) = true := beq_iff_eq.2 hlast
  have hzero : (s.spn.trcNext + 1) % traceSize = 0 := hlast ▸ Nat.mod_self _
  simp only [writeTrace, hq, hstop, hwrap, Bool.not_false, Bool.true_and, if_true]
  exact ⟨_, rfl, Bool.and_false _, Bool.or_true _, hzero, rfl⟩

end

/-! ## Commands (Tables 12-7 and 12-9) -/

theorem exec_cmdSpnProbe_of_ok {s : State} {h : Hdr} {i : Nat} {cfg : BitVec 64} (m k : BitVec 64)
    (hg : granted s h 0x0920 = true) (hi : i < 16) (hrouter : cfg.toNat / 2 % 128 < 100)
    (hpoint : cfg.toNat / 256 % 8 < 6) : exec (.cmdSpnProbe h i cfg m k) s = .next (answer { s with spn :=
      { s.spn with probes := mapPut s.spn.probes {} i { cfg := cfg &&& 0x1FFFF, mtch := m, mask := k } } }
      h 0x0920 []) := by
  have hok : ¬ (16 ≤ i ∨ 100 ≤ field cfg.toNat 7 1 ∨ 6 ≤ field cfg.toNat 10 8) := by
    simp only [field]
    omega
  rw [exec_of_granted rfl rfl hg]
  exact congrArg _ (if_neg hok)

/-- A write of SPN_TRACE_CTL: EN from 0 to 1 starts a new trace. -/
def controlTrace (w : BitVec 64) (x : Spn) : Spn :=
  if w.getLsbD 0 && !x.trcEn then
    { x with trcEn := true, trcWrap := w.getLsbD 1, trcNext := 0, trcLost := 0, trcFull := false }
  else { x with trcEn := w.getLsbD 0, trcWrap := w.getLsbD 1 }

theorem controlTrace_effect (w : BitVec 64) (x : Spn) : (controlTrace w x).trcEn = w.getLsbD 0 ∧
    (controlTrace w x).trcWrap = w.getLsbD 1 ∧ (controlTrace w x).trcBuf = x.trcBuf ∧
    (w.getLsbD 0 = true → x.trcEn = false → (controlTrace w x).trcNext = 0 ∧ (controlTrace w x).trcLost = 0 ∧
      (controlTrace w x).trcFull = false) := by
  rw [controlTrace]
  split
  next hstart =>
    obtain ⟨hen, -⟩ := Bool.and_eq_true_iff.1 hstart
    exact ⟨hen.symm, rfl, rfl, fun _ _ => ⟨rfl, rfl, rfl⟩⟩
  next hstart => exact ⟨rfl, rfl, rfl, fun hen hoff => absurd (by rw [hen, hoff]; rfl) hstart⟩

theorem cmdSpnTraceControl_effect {s : State} {h : Hdr} (w : BitVec 64) (hg : granted s h 0x0921 = true) :
    ∃ t, exec (.cmdSpnTraceControl h w) s = .next t ∧ t.spn = controlTrace w s.spn ∧
      t = { s with spn := t.spn, hif := t.hif, out := t.out } := by
  obtain ⟨_, _, hans⟩ := answer_frame (modSpnBlk s (controlTrace w)) h 0x0921 []
  refine ⟨answer (modSpnBlk s (controlTrace w)) h 0x0921 [], ?_, answer_spn _ _ _ _, by rw [hans]; rfl⟩
  rw [exec_of_granted rfl rfl hg]
  rfl

/-- Settles O49, row by row. That a packet is injected and ends at its block within one command is the model's choice
(log 90). -/
theorem spineRowsAct : Obligations.SpineRowsAct := by
  unfold Obligations.SpineRowsAct
  refine ⟨?packet, ?change, ?idle, ?ended, ?fence, ?drained, ?timeout, ?record, ?full, ?probe, ?control⟩
  case packet =>
    exact fun _ _ busy ups hvn hsrc hssub hdom => exec_spinePacket_of_known busy ups hvn hsrc hssub hdom
  case change =>
    intro s rs fs hrs hfs hq
    refine ⟨_, exec_epochChange_of_quiet hrs hfs hq, rfl, rfl, rfl, fun r e v h => ?_, fun r m h => ?_⟩
    · rw [h]
      exact routeAt_epochChange s fs r e v
    · rw [h]
      exact fenceMask_epochChange s rs r m
  case idle =>
    intro s hb hnone
    have hstay : runUnfence (epochOver s) = epochOver s := runUnfence_of_none hnone
    exact (exec_oldCountZero_of_busy hb).trans (congrArg _ hstay)
  case ended => exact fun _ hb => exec_oldCountZero_of_busy hb
  case fence =>
    exact fun s g hg hcan => ⟨_, exec_domainPowerDown_of_can hg hcan, groupFenced_startPowerDown s g _, rfl⟩
  case drained =>
    intro s d hd _ hdrain
    obtain ⟨ms, gs, hframe⟩ := groupDown_frame (downEnded s) d.group
    have hon := groupDown_on (downEnded s) d.group
    refine ⟨_, exec_drainDone_of_drained hd hdrain, by rw [hframe]; rfl, hon, fun i hi hawake => ?_,
      fun hnone => ?_⟩
    · rw [groupDown_of_awake (s := downEnded s) hawake]
      exact masonOf_groupOff _ _ hi
    · rwa [groupOf_congr (askerDone_groups d .ok (by rw [hframe]; exact hnone))]
  case timeout => exact fun _ _ hd => exec_drainTimeout_of_down hd
  case record =>
    intro s r rest hq hroom
    have hexec : exec .traceRecordWrite s = .next (writeTrace s) := rfl
    rw [hexec, writeTrace_of_room hq hroom]
    exact ⟨_, rfl, mapGet_mapPut_same _ _ _ _, rfl, rfl, rfl, rfl⟩
  case full =>
    intro s r rest hq hlast hwrap
    obtain ⟨u, hwrite, hstopped⟩ := writeTrace_of_full hq hlast hwrap
    exact ⟨writeTrace s, u, rfl, hwrite, hstopped⟩
  case probe => exact fun _ _ _ _ m k hg hi hrouter hpoint => exec_cmdSpnProbe_of_ok m k hg hi hrouter hpoint
  case control =>
    intro s h w hg
    obtain ⟨t, hexec, hspn, hframe⟩ := cmdSpnTraceControl_effect w hg
    obtain ⟨hen, hwrap, hbuf, hnew⟩ := controlTrace_effect w s.spn
    rw [← hspn] at hen hwrap hbuf hnew
    exact ⟨t, hexec, hen, hwrap, hbuf, hnew, hframe⟩

end Sys2Proof.Machine
end

section
/-! PROOFS. A PCIe reset (R424, R449): a channel stops with its function kept, mailboxes, rings and messages are
cleared, and each running job is to hold after its cycle. A step that changes the record of the one job it is given is spoken of
here once, for this reset and for the loss of REF. -/

namespace Sys2Proof.Machine

/-! ## Steps over the jobs -/

/-- What every step of a fold keeps, the fold keeps. -/
theorem each_keeps {α β : Type} {p : State → β} {f : State → α → State} (h : ∀ s a, p (f s a) = p s) :
    ∀ (l : List α) (s : State), p (each l f s) = p s
  | [], _ => rfl
  | a :: l, s => (each_keeps h l (f s a)).trans (h s a)

/-- The step changes the record of the job it is given, to what `g` makes of it, and nothing else. -/
def OwnJob (g : Job → Job) (f : State → Nat → State) : Prop := ∀ s j,
  (∃ jobs, f s j = { s with jobs := jobs }) ∧ ∀ k, jobOf (f s j) k = if k = j then g (jobOf s k) else jobOf s k

theorem ownJob_modJob (g : Job → Job) : OwnJob g fun s j => modJob s j g := fun s j =>
  ⟨⟨_, rfl⟩, fun k => by
    split
    next h => rw [h, jobOf_modJob_same]
    next h => exact jobOf_modJob_other s j k g h⟩

theorem OwnJob.frame {g : Job → Job} {f : State → Nat → State} (h : OwnJob g f) : ∀ (l : List Nat) (s : State),
    ∃ jobs, each l f s = { s with jobs := jobs }
  | [], s => ⟨s.jobs, rfl⟩
  | j :: l, s => by
    obtain ⟨_, hstep⟩ := (h s j).1
    obtain ⟨jobs, hrest⟩ := h.frame l (f s j)
    exact ⟨jobs, hrest.trans (by rw [hstep])⟩

theorem OwnJob.jobOf_each {g : Job → Job} {f : State → Nat → State} (h : OwnJob g f) {k : Nat} :
    ∀ {l : List Nat} (s : State), l.Nodup → jobOf (each l f s) k = if k ∈ l then g (jobOf s k) else jobOf s k
  | [], s, _ => (if_neg List.not_mem_nil).symm
  | j :: l, s, hl => by
    obtain ⟨hj, hl⟩ := List.nodup_cons.1 hl
    refine (h.jobOf_each (f s j) hl).trans ?_
    rw [(h s j).2 k]
    by_cases hk : k = j
    · simp [hk, hj]
    · simp [hk]

/-- The eight jobs in turn. -/
theorem OwnJob.jobOf_all {g : Job → Job} {f : State → Nat → State} (h : OwnJob g f) (s : State) {k : Nat}
    (hk : k < 8) : jobOf (each (List.range 8) f s) k = g (jobOf s k) :=
  (h.jobOf_each s List.nodup_range).trans (if_pos (List.mem_range.2 hk))

/-! ## Channels that stop (R449) -/

/-- Only the DMA channels and what is driven outward differ, and every channel keeps its function. -/
def ChannelFrame (s t : State) : Prop :=
  (∃ dma out, t = { s with hif := { s.hif with dma := dma }, out := out }) ∧
    ∀ c, (dmaOf t c).fn = (dmaOf s c).fn

theorem ChannelFrame.refl (s : State) : ChannelFrame s s := ⟨⟨_, _, rfl⟩, fun _ => rfl⟩

theorem ChannelFrame.trans {s t u : State} (h : ChannelFrame s t) (g : ChannelFrame t u) : ChannelFrame s u := by
  obtain ⟨⟨_, _, rfl⟩, hfn⟩ := h
  obtain ⟨⟨_, _, rfl⟩, gfn⟩ := g
  exact ⟨⟨_, _, rfl⟩, fun c => (gfn c).trans (hfn c)⟩

theorem modDma_channels {s : State} {c : Nat} {f : DmaChan → DmaChan} (hf : ∀ d, (f d).fn = d.fn) :
    ChannelFrame s (modDma s c f) := ⟨⟨_, _, rfl⟩, fun k => by
  by_cases hk : k = c
  · rw [hk, dmaOf_modDma_same, hf]
  · rw [dmaOf_modDma_other s c k f hk]⟩

theorem stopDma_channels (s : State) (c : Nat) : ChannelFrame s (stopDma s c) := by
  simp only [stopDma]
  split
  · split
    · exact ChannelFrame.trans (t := emitOut s _) ⟨⟨_, _, rfl⟩, fun _ => rfl⟩ (modDma_channels fun _ => rfl)
    · exact ChannelFrame.refl s
  · exact ChannelFrame.refl s

theorem each_stopDma_channels : ∀ (l : List Nat) (s : State), ChannelFrame s (each l stopDma s)
  | [], s => ChannelFrame.refl s
  | c :: l, s => (stopDma_channels s c).trans (each_stopDma_channels l (stopDma s c))

/-! ## The reset (R424) -/

/-- A channel as after power-up, but for its function (log 78). -/
def functionOnly (d : DmaChan) : DmaChan := { fn := d.fn }

/-- The host interface that a PCIe reset leaves. -/
def clearedPcie (h : HostIf) : HostIf :=
  { h with mbx := h.mbx.map fun e => (e.1, resetMbx e.2), rings := [], msix := [],
           dma := (List.range 8).foldl (fun m c => mapPut m {} c (functionOnly (mapGet h.dma {} c))) [],
           linkUp := false, linkTraining := false }

/-- A job that is to hold after its current cycle. -/
def heldNext (x : Job) : Job :=
  if (x.state == .running || x.state == .releasing) && x.replay.isNone then
    { x with holdAt := x.holdAt ++ [{ atCycle := x.cycle + 1 }] }
  else x

/-- The device once the PCIe core is reset, before the jobs are told to hold. -/
def pcieDown (s : State) : State :=
  modRstBlk (modHifBlk (each (List.range 8) stopDma s) clearedPcie) fun r => { r with perstSeen := true }

theorem perstReset_eq (s : State) : perstReset s = each (List.range 8) holdNext (pcieDown s) := rfl

theorem holdNext_ownJob : OwnJob heldNext holdNext := ownJob_modJob heldNext

theorem holdAt_heldNext {x : Job} (hst : x.state = .running) (hlive : x.replay = none) :
    { atCycle := x.cycle + 1 } ∈ (heldNext x).holdAt := by
  simp [heldNext, hst, hlive]

/-- A table each of whose records goes through `g`, which leaves the default. -/
theorem mapGet_map {α : Type} {g : α → α} {d : α} (hd : g d = d) (k : Nat) :
    ∀ m : SMap α, mapGet (m.map fun e => (e.1, g e.2)) d k = g (mapGet m d k)
  | [] => hd.symm
  | (k', v) :: m => by
    simp only [List.map_cons, mapGet, mapGet_map hd k m]
    split <;> rfl

theorem mbx_clearedPcie (h : HostIf) (key : Nat) :
    mapGet (clearedPcie h).mbx {} key = resetMbx (mapGet h.mbx {} key) :=
  mapGet_map (g := resetMbx) rfl key h.mbx

theorem dma_clearedPcie (h : HostIf) {c : Nat} (hc : c < 8) :
    mapGet (clearedPcie h).dma {} c = functionOnly (mapGet h.dma {} c) :=
  mapGet_foldl_mapPut ({} : DmaChan) (fun c => functionOnly (mapGet h.dma {} c)) (List.range 8) []
    (.inl (List.mem_range.2 hc))

theorem exec_perstNLow_of_up {s : State} (hup : s.pwr.state = .ready ∨ s.pwr.state = .deepHold) :
    exec .perstNLow s = .next (perstReset { s with pwr := { s.pwr with perstN := false } }) := by
  refine congrArg Host.Outcome.next (if_pos ?_)
  obtain h | h := hup <;> simp [h]

/-- A PCIe reset reaches the host interface, the holds of the jobs, the reset register and what is driven outward. -/
theorem perstReset_effect (s : State) :
    (∃ jobs hif out, perstReset s =
      { s with jobs := jobs, hif := hif, rst := { s.rst with perstSeen := true }, out := out }) ∧
    (∃ dma, (perstReset s).hif = clearedPcie { s.hif with dma := dma } ∧
      ∀ c, (mapGet dma {} c).fn = (dmaOf s c).fn) ∧
    ∀ j, j < 8 → jobOf (perstReset s) j = heldNext (jobOf s j) := by
  obtain ⟨⟨dma, out, hstop⟩, hfn⟩ := each_stopDma_channels (List.range 8) s
  obtain ⟨jobs, hhold⟩ := holdNext_ownJob.frame (List.range 8) (pcieDown s)
  have hjobs := fun j (hj : j < 8) => holdNext_ownJob.jobOf_all (pcieDown s) hj
  rw [pcieDown, hstop] at hhold hjobs
  rw [hstop] at hfn
  rw [perstReset_eq, pcieDown, hstop]
  exact ⟨⟨jobs, _, out, hhold⟩, ⟨dma, by rw [hhold]; rfl, hfn⟩, hjobs⟩

/-- Settles O55. That each DMA channel keeps its function is the model's deduction (log 78). -/
theorem pcieResetLeavesTheDesign : Obligations.PcieResetLeavesTheDesign := by
  unfold Obligations.PcieResetLeavesTheDesign
  intro s t hup hexec
  obtain rfl : perstReset { s with pwr := { s.pwr with perstN := false } } = t :=
    Host.Outcome.next.inj ((exec_perstNLow_of_up hup).symm.trans hexec)
  obtain ⟨⟨jobs, hif, out, hframe⟩, ⟨dma, hhif, hfn⟩, hjobs⟩ :=
    perstReset_effect { s with pwr := { s.pwr with perstN := false } }
  refine ⟨by rw [hframe], by rw [hframe], by rw [hhif]; rfl, by rw [hhif]; rfl, by rw [hhif]; rfl, by rw [hhif]; rfl,
    by rw [hhif]; rfl, fun j hj hst hlive => ?_, fun c hc => ?_, fun fn k _ => ?_⟩
  · rw [hjobs j hj]
    exact holdAt_heldNext hst hlive
  · rw [dmaOf, hhif, dma_clearedPcie _ hc, functionOnly, hfn c]
    rfl
  · rw [mbxOf, hhif, mbx_clearedPcie]
    rfl

end Sys2Proof.Machine
end

section
/-! PROOFS. The clock events, each on the state where it acts (R405 to R417): SAFE, REF and its loss, the PLLs, the
dividers, the frequency change of FAB, source switches and the end of the holdover. -/

namespace Sys2Proof.Machine

/-! ## SAFE (R407, R408) -/

theorem exec_safeWindow_of_good {s : State} {n : Nat} (hrun : islandRuns s = true)
    (hst : s.clk.safeStable = false) (hok : s.clk.safeFailed = false) (hlow : 3750 ≤ n) (hhigh : n ≤ 6250) :
    exec (.safeWindow n) s = .next { s with clk := { s.clk with safeStable := true, belicOnSafe := true } } :=
  congrArg Host.Outcome.next ((if_neg (by simp [hrun, hst, hok])).trans (if_pos ⟨hlow, hhigh⟩))

/-- The device held in reset because SAFE did not come. -/
def heldBySafe (s : State) : State :=
  linkEvent (tellHv { s with clk := { s.clk with safeFailed := true }, rst := { s.rst with held := true } }
    fun h => { h with safeBad := true }) 0x0103

theorem exec_safeTimeout_of_unstable {s : State} (hrun : islandRuns s = true) (hst : s.clk.safeStable = false) :
    exec .safeTimeout s = .next (heldBySafe s) :=
  congrArg Host.Outcome.next (if_neg (by simp [hrun, hst]))

theorem heldBySafe_linked {s : State} (hlink : s.pwr.linkLost = false) :
    (heldBySafe s).hv.safeBad = true ∧ (heldBySafe s).pwr.linkEvs.head? = some (0x0103, s.nowUs) := by
  simp [heldBySafe, hlink]

/-! ## REF (R409, R417) -/

section
variable {s : State} {n : Nat} (hrun : islandRuns s = true) (hsafe : s.clk.safeStable = true)
include hrun hsafe

theorem exec_refWindow_of_unstable (href : s.clk.refStable = false) :
    exec (.refWindow n) s = .next (judgeRef s n) :=
  congrArg Host.Outcome.next ((if_neg (by simp [hrun, hsafe])).trans (if_pos (by simp [href])))

theorem exec_refWindow_of_jump (href : s.clk.refStable = true) (harm : s.clk.refArmed = true)
    (hjump : differs s.clk.refLast n 2000 = true) : exec (.refWindow n) s = .next (refLoss s) :=
  congrArg Host.Outcome.next ((if_neg (by simp [hrun, hsafe])).trans
    ((if_neg (by simp [href])).trans (if_pos (by simp [harm, hjump]))))

end

/-- The eighth good window in a row. -/
theorem judgeRef_of_eighth {s : State} {n l : Nat} (hl : s.clk.refLast = some l) (hseven : s.clk.refRun = 7)
    (hlow : 3932 ≤ n) (hhigh : n ≤ 6554) (hnear : ((n - l) + (l - n)) * 1000000 ≤ l * 500) :
    judgeRef s n = { s with clk :=
      { s.clk with refLast := some n, refRun := 8, refStable := true, refArmed := true } } := by
  have hsame : differs s.clk.refLast n 500 = false := by
    rw [hl]
    exact decide_eq_false (Nat.not_lt.2 hnear)
  simp [judgeRef, hsame, hlow, hhigh, hseven, modClkBlk]

/-- A job that no frequency change holds. -/
def freed (x : Job) : Job := { x with clockHold := false }

theorem freeFromClock_ownJob : OwnJob freed fun s j =>
    if (jobOf s j).clockHold then modJob s j fun x => { x with clockHold := false } else s := fun s j => by
  dsimp only
  split
  next => exact ownJob_modJob freed s j
  next hfree =>
    refine ⟨⟨s.jobs, rfl⟩, fun k => ?_⟩
    split
    next hk =>
      have hfree : (jobOf s k).clockHold = false := by simpa [hk] using hfree
      rw [freed, ← hfree]
    next => rfl

theorem freeFromClock_frame (s : State) : ∃ jobs, freeFromClock s = { s with jobs := jobs } :=
  freeFromClock_ownJob.frame (List.range 8) s

theorem jobOf_freeFromClock (s : State) {j : Nat} (hj : j < 8) : jobOf (freeFromClock s) j = freed (jobOf s j) :=
  freeFromClock_ownJob.jobOf_all s hj

/-- A live job that is held where it stands (R417; log 76). -/
def stoodHere (x : Job) : Job :=
  if active x ∧ x.replay.isNone then
    setWait 4 true { x with state := .heldCmd, cmdHeld := true, go := false, ahead := 0 }
  else x

theorem holdHere_ownJob : OwnJob stoodHere holdHere := ownJob_modJob stoodHere

theorem stoodHere_freed {x : Job} (hact : active x = true) (hlive : x.replay = none) :
    (stoodHere (freed x)).state = .heldCmd := by
  have hstand : active (freed x) = true ∧ (freed x).replay.isNone = true := ⟨hact, by rw [freed, hlive]; rfl⟩
  rw [stoodHere, if_pos hstand]
  rfl

/-- The clocks once REF is lost. -/
def refLostClk (c : Clk) : Clk :=
  { c with refStable := false, refArmed := false, refLost := true, refRun := 0, refLast := none,
           belicOnSafe := true, change := none, ramping := false }

/-- The jobs stand where the loss of REF found them. -/
def stoodJobs (s : State) : State := each (List.range 8) holdHere (freeFromClock (modClkBlk s refLostClk))

theorem stoodJobs_frame (s : State) : ∃ jobs, stoodJobs s = { s with clk := refLostClk s.clk, jobs := jobs } := by
  obtain ⟨_, hfree⟩ := freeFromClock_frame (modClkBlk s refLostClk)
  obtain ⟨jobs, hhold⟩ := holdHere_ownJob.frame (List.range 8) (freeFromClock (modClkBlk s refLostClk))
  exact ⟨jobs, hhold.trans (by rw [hfree]; rfl)⟩

theorem jobOf_stoodJobs (s : State) {j : Nat} (hj : j < 8) : jobOf (stoodJobs s) j = stoodHere (freed (jobOf s j)) :=
  (holdHere_ownJob.jobOf_all _ hj).trans (congrArg stoodHere (jobOf_freeFromClock _ hj))

theorem refLoss_eq (s : State) : refLoss s = linkEvent (emitLog
    (tellHv (modLpBlk (selfRefresh (stoodJobs s)) fun l => { l with retainMask := 0xFF })
      fun h => { h with refLost := true }) 0x0102 []) 0x0102 := rfl

theorem refLoss_jobs (s : State) : (refLoss s).jobs = (stoodJobs s).jobs := by
  rw [refLoss_eq, linkEvent_jobs, emitLog_jobs, tellHv_jobs, modLpBlk_jobs, selfRefresh, modLpBlk_jobs]

theorem refLoss_clk (s : State) : (refLoss s).clk = refLostClk s.clk := by
  obtain ⟨_, hstood⟩ := stoodJobs_frame s
  rw [refLoss_eq, linkEvent_clk, emitLog_clk, tellHv_clk, modLpBlk_clk, selfRefresh, modLpBlk_clk, hstood]

theorem refLoss_retainMask (s : State) : (refLoss s).lp.retainMask = 0xFF := by
  rw [refLoss_eq, linkEvent_lp, emitLog_lp, tellHv_lp, modLpBlk_lp]

theorem exec_refMissingEdge_of_armed {s : State} (harm : s.clk.refArmed = true) :
    exec .refMissingEdge s = .next (refLoss s) := congrArg Host.Outcome.next (if_pos harm)

/-! ## PLLs (R405, R406, R409) -/

/-- A PLL enabled, and one of the two FAB PLLs programmed. -/
def enabledPll (p n : Nat) (c : Clk) : Clk :=
  { c with pllMhz := if p < 2 then mapPut c.pllMhz 0 p n else c.pllMhz, pllEn := c.pllEn ||| pllBit p }

theorem exec_pllEnable_of_stable {s : State} {p n : Nat} (hp : p < 6) (href : s.clk.refStable = true)
    (hheld : s.rst.held = false) (hoff : s.clk.pllEn.getLsbD p = false)
    (hfab : p < 2 → p = fabPll s ∧ n = s.clk.granted) :
    exec (.pllEnable p n) s = .next { s with clk := enabledPll p n s.clk } := by
  have hmay : (!s.clk.refStable || s.rst.held || s.clk.pllEn.getLsbD p
      || (decide (p < 2) && !(p == fabPll s && n == s.clk.granted))) = false := by
    simpa [href, hheld, hoff] using hfab
  refine (atUnit_of_lt hp).trans (congrArg Host.Outcome.next ((if_neg (Bool.eq_false_iff.1 hmay)).trans ?_))
  by_cases htwo : p < 2
  · simp only [htwo, if_true, enabledPll, modClkBlk]
  · simp only [htwo, if_false, enabledPll, modClkBlk]

theorem holdForClock_clk (s : State) : (holdForClock s).clk = s.clk :=
  each_keeps (p := State.clk) (fun s j => by split <;> rfl) (List.range 8) s

theorem startDomains_pllStable (s : State) : (startDomains s).clk.pllStable = s.clk.pllStable := by
  rw [startDomains]
  split <;> rfl

/-- A PLL that is enabled becomes stable, whatever its stability starts. -/
theorem pllStable_bits {s : State} {p : Nat} (hen : s.clk.pllEn.getLsbD p = true)
    (hst : s.clk.pllStable.getLsbD p = false) :
    (pllStable s p).clk.pllStable = s.clk.pllStable ||| pllBit p := by
  have hdom := startDomains_pllStable (modClkBlk s fun c => { c with pllStable := c.pllStable ||| pllBit p })
  simp only [pllStable, hen, hst, Bool.not_true, Bool.or_false, Bool.false_eq_true, if_false]
  split
  · split
    · rw [holdForClock_clk]
      exact hdom
    · exact hdom
  · exact hdom

/-! ## Dividers (R285, R411) -/

theorem exec_dividerStep_group {g : Nat} (s : State) (hg : g < 12) :
    exec (.dividerStep (5 + g)) s = .next (groupStep s g) := by
  refine (atUnit_of_lt (by omega)).trans (congrArg Host.Outcome.next ?_)
  rw [if_neg (by omega), if_pos (by omega), Nat.add_sub_cancel_left]

theorem groupStep_div {s : State} {g : Nat} (hne : (groupOf s g).div ≠ (groupOf s g).target) :
    (groupOf (groupStep s g) g).div = if (groupOf s g).div < (groupOf s g).target then (groupOf s g).div + 1
      else (groupOf s g).div - 1 := by
  rw [groupStep, groupOf_modGroup_same]
  show (if _ then _ else if _ then _ else _) = _
  by_cases hlow : (groupOf s g).div < (groupOf s g).target
  · rw [if_pos hlow, if_pos hlow]
  · rw [if_neg hlow, if_neg hlow, if_pos (by omega)]

theorem groupStep_target (s : State) (g : Nat) : (groupOf (groupStep s g) g).target = (groupOf s g).target := by
  rw [groupStep, groupOf_modGroup_same]

theorem exec_dividerStep_fab (s : State) : exec (.dividerStep 2) s = .next (fabStep s) := rfl

section
variable {s : State} {ch : FabChange} (hdom : s.clk.domainsOn = true)
include hdom

theorem fabStep_of_rampEnd (hch : s.clk.change = some ch) (hup : ch.stage = .rampUp) (hdiv : s.clk.fabDiv = 1) :
    fabStep s = applyWaiting (endChange { s with clk := { s.clk with fabDiv := 0 } } ch.mhz) := by
  simp [fabStep, hdom, hch, hup, hdiv, modClkBlk]

theorem fabStep_of_rampDown (hch : s.clk.change = some ch) (hdown : ch.stage = .rampDown) :
    fabStep s = { s with clk := { s.clk with
      fabDiv := if s.clk.fabDiv < 3 then s.clk.fabDiv + 1 else 4
      change := some (if s.clk.fabDiv < 3 then ch else { ch with stage := .switching }) } } := by
  simp only [fabStep, hch, hdown, if_true]
  rw [if_neg (by simp [hdom])]
  split
  · simp only [modClkBlk, ← hch]
  · rfl

theorem fabStep_of_unchanged (hch : s.clk.change = none) : fabStep s = { s with clk :=
    { s.clk with fabDiv := s.clk.fabDiv - 1, ramping := s.clk.ramping && decide (0 < s.clk.fabDiv - 1) } } := by
  simp only [fabStep, hch]
  rw [if_neg (by simp [hdom])]
  simp only [modClkBlk, hch]

end

/-! ## The frequency change (Table 13-4) -/

section
variable {s : State} {ch : FabChange} (hch : s.clk.change = some ch)
include hch

theorem exec_fabRampStart_of_rest (hhold : ch.stage = .holding) (hrest : allAtRest s = true) :
    exec .fabRampStart s =
      .next { s with clk := { s.clk with ramping := true, change := some { ch with stage := .rampDown } } } := by
  show execFabRampStart s = _
  simp [execFabRampStart, hch, hhold, hrest, modClkBlk]

/-- The other FAB PLL is the source from here on. -/
def switchedFab (s : State) (ch : FabChange) : State :=
  { s with clk := { s.clk with fabSrc := !s.clk.fabSrc, change := some { ch with stage := .rampUp } } }

theorem switchDue_fab (hsw : ch.stage = .switching) : switchDue s 2 = true := by
  simp [switchDue, hch, hsw]

theorem passClock_fab (hsw : ch.stage = .switching) : passClock s 2 = switchedFab s ch := by
  simp [passClock, switchDue_fab hch hsw, hch, switchedFab, modClkBlk]

end

/-- The clocks after a change: the new frequency, and the PLL `old` disabled. -/
def changedClk (old mhz : Nat) (c : Clk) : Clk :=
  { c with granted := mhz, ramping := false, change := none, pllEn := c.pllEn &&& ~~~pllBit old,
           pllStable := c.pllStable &&& ~~~pllBit old }

/-- The change over and the jobs freed, before its event. -/
def changedFab (s : State) (mhz : Nat) : State := freeFromClock (modClkBlk s (changedClk (idlePll s) mhz))

theorem endChange_eq (s : State) (mhz : Nat) : endChange s mhz = settleFab (emitDev (changedFab s mhz) 0x0106 []) := rfl

theorem changedFab_clk (s : State) (mhz : Nat) : (changedFab s mhz).clk = changedClk (idlePll s) mhz s.clk := by
  obtain ⟨_, hfree⟩ := freeFromClock_frame (modClkBlk s (changedClk (idlePll s) mhz))
  rw [changedFab, hfree]
  rfl

theorem changedFab_clockHold (s : State) (mhz : Nat) {j : Nat} (hj : j < 8) :
    (jobOf (changedFab s mhz) j).clockHold = false := by
  rw [changedFab, jobOf_freeFromClock _ hj, freed]

/-! ## Source switches (R414, R415) -/

theorem exec_sourceSwitch_eq {s : State} {d : Nat} (hd : d < 25) :
    exec (.sourceSwitch d) s = .next (passClock s d) := atUnit_of_lt hd

theorem exec_forcedSwitch_of_due {s : State} {d : Nat} (hd : d < 25) (hdue : switchDue s d = true) :
    exec (.forcedSwitch d) s =
      .next (emitDev (modClkBlk (passClock s d) fun c => { c with forced := true }) 0x0101 [(1, d + 1)]) :=
  (atUnit_of_lt hd).trans (congrArg Host.Outcome.next (if_pos hdue))

section
variable {s : State} (hsafe : s.clk.belicOnSafe = true) (hpll : s.clk.pllStable.getLsbD 3 = true)
  (hlost : s.clk.refLost = false)
include hsafe hpll hlost

theorem switchDue_belic : switchDue s 17 = true := by
  simp [switchDue, hsafe, hpll, hlost]

theorem passClock_belic : passClock s 17 = { s with clk := { s.clk with belicOnSafe := false } } := by
  simp [passClock, switchDue_belic hsafe hpll hlost, modClkBlk]

end

/-! ## The end of the holdover, and the way back (R417, R418) -/

theorem refHoldoverEnd_effect {s : State} (hlost : s.clk.refLost = true) (hrest : s.clk.restoring = false)
    (hdom : s.clk.domainsOn = true) : ∃ t, exec .refHoldoverEnd s = .next t ∧ t.clk.domainsOn = false ∧
      t.clk.pllEn = 0 ∧ t.clk.restoring = true ∧ t.hif.linkUp = false :=
  ⟨_, congrArg Host.Outcome.next (if_neg (by simp [hlost, hrest, hdom])), rfl, rfl, rfl, rfl⟩

theorem refRestore_effect {s : State} (hlost : s.clk.refLost = true) (href : s.clk.refStable = true)
    (hrest : s.clk.restoring = true) (hdom : s.clk.domainsOn = true) (hch : chansTrained s = true) :
    ∃ u, exec .refRestore s = .next (emitDev u 0x0104 []) ∧ u.clk.refLost = false ∧ u.clk.restoring = false :=
  ⟨_, congrArg Host.Outcome.next (if_neg (by simp [hlost, href, hrest, hdom, hch])), rfl, rfl⟩

/-- Settles O51, row by row. That the loss of REF holds each active job where it stands, in STATE 4, is the model's
deduction (log 76). -/
theorem clockEventsAct : Obligations.ClockEventsAct := by
  unfold Obligations.ClockEventsAct
  refine ⟨?safe, ?timeout, ?eighth, ?jump, ?edge, ?enable, ?stable, ?group, ?rampEnd, ?rampDown, ?unchanged, ?ended,
    ?rampStart, ?switch, ?belic, ?holdover, ?restore⟩
  case safe => exact fun _ _ => exec_safeWindow_of_good
  case timeout =>
    exact fun s hrun hst => ⟨_, exec_safeTimeout_of_unstable hrun hst, rfl, rfl, heldBySafe_linked⟩
  case eighth =>
    intro s n l hrun hsafe href hl hseven hlow hhigh hnear
    refine ⟨_, exec_refWindow_of_unstable hrun hsafe href, ?_⟩
    rw [judgeRef_of_eighth hl hseven hlow hhigh hnear]
    exact ⟨rfl, rfl, rfl⟩
  case jump => exact fun _ _ => exec_refWindow_of_jump
  case edge =>
    intro s harm
    have hclk := refLoss_clk s
    refine ⟨_, exec_refMissingEdge_of_armed harm, rfl, by rw [hclk]; rfl, by rw [hclk]; rfl, by rw [hclk]; rfl,
      refLoss_retainMask s, fun j hj hact hlive => ?_⟩
    have hjob : jobOf (refLoss s) j = jobOf (stoodJobs s) j := by rw [jobOf, jobOf, refLoss_jobs]
    rw [hjob, jobOf_stoodJobs s hj]
    exact stoodHere_freed hact hlive
  case enable =>
    intro s p n hp href hheld hoff hfab
    refine ⟨_, exec_pllEnable_of_stable hp href hheld hoff hfab, rfl, fun htwo => ?_, rfl⟩
    rw [enabledPll, if_pos htwo]
    exact mapGet_mapPut_same _ _ _ _
  case stable => exact fun s p hp hen hst => ⟨_, atUnit_of_lt hp, pllStable_bits hen hst⟩
  case group =>
    exact fun s g hg hne => ⟨_, exec_dividerStep_group s hg, groupStep_div hne, groupStep_target s g⟩
  case rampEnd =>
    intro s ch hdom hch hup hdiv
    exact ⟨_, (exec_dividerStep_fab s).trans (congrArg _ (fabStep_of_rampEnd hdom hch hup hdiv)), rfl, rfl⟩
  case rampDown =>
    intro s ch hdom hch hdown
    exact ⟨_, (exec_dividerStep_fab s).trans (congrArg _ (fabStep_of_rampDown hdom hch hdown)), rfl, rfl, rfl⟩
  case unchanged =>
    exact fun s hdom hch => (exec_dividerStep_fab s).trans (congrArg _ (fabStep_of_unchanged hdom hch))
  case ended =>
    exact fun s n => ⟨_, endChange_eq s n, by rw [changedFab_clk]; rfl, by rw [changedFab_clk]; rfl,
      fun _ => changedFab_clockHold s n⟩
  case rampStart => exact fun _ _ => exec_fabRampStart_of_rest
  case switch =>
    intro s ch hch hsw
    have hpass := passClock_fab hch hsw
    constructor
    · rw [exec_sourceSwitch_eq (by decide), hpass]
      rfl
    · rw [exec_forcedSwitch_of_due (by decide) (switchDue_fab hch hsw), hpass]
      rfl
  case belic =>
    intro s hsafe hpll hlost
    have hpass := passClock_belic hsafe hpll hlost
    constructor
    · rw [exec_sourceSwitch_eq (by decide), hpass]
    · rw [exec_forcedSwitch_of_due (by decide) (switchDue_belic hsafe hpll hlost), hpass]
      rfl
  case holdover => exact fun _ => refHoldoverEnd_effect
  case restore => exact fun _ => refRestore_effect

end Sys2Proof.Machine
end

section
/-! PROOFS. The resets, each on the state where it acts (R421, R422, R424 to R427, R527): RESET_N and PERST_N, the
course die and the face die, a job. -/

namespace Sys2Proof.Machine

/-! ## RESET_N (R421, R422) -/

theorem resetScrub_pwr (s : State) : (resetScrub s).pwr = s.pwr := by
  rw [resetScrub]
  split
  · rfl
  · rw [emitLog_pwr, modLpBlk_pwr]

/-- A warm reset records its cause and leaves the pin as it is, whether or not a scrub ran. -/
theorem warmReset_effect (s : State) (cause : Nat) :
    (warmReset s cause).rst.lastCause = cause ∧ (warmReset s cause).pwr.resetN = s.pwr.resetN := by
  obtain ⟨_, _, hdrawn, -⟩ := drawGenerations_draw (clearStack (resetScrub s) cause)
  have hpin : (resetScrub s).pwr.resetN = s.pwr.resetN := by rw [resetScrub_pwr]
  rw [warmReset, hdrawn]
  exact ⟨rfl, hpin⟩

theorem exec_resetNLow_of_long {s : State} {n : Nat} (ht : timesReset s = true) (hn : 380 ≤ n) :
    exec (.resetNLow n) s = .next (modRstBlk (warmReset { s with pwr := { s.pwr with resetN := false } } 2)
      fun r => { r with held := true }) := by
  have htimed : (timesReset { s with pwr := { s.pwr with resetN := false } } && decide (380 ≤ n)) = true := by
    rw [decide_eq_true hn, Bool.and_true]
    exact ht
  exact congrArg Host.Outcome.next (if_pos htimed)

theorem exec_resetNRise_of_powered {s : State} (hsafe : s.clk.safeFailed = false)
    (hrail : s.pwr.rails.getLsbD 0 = true) : exec .resetNRise s = .next
      { s with pwr := { s.pwr with resetN := true }, rst := { s.rst with held := false } } := by
  have hfree : (s.rst.held && (s.clk.safeFailed || !s.pwr.rails.getLsbD 0)) = false := by simp [hsafe, hrail]
  rw [← hfree]
  rfl

/-! ## PERST_N rises (R527) -/

theorem exec_perstNRise_of_ready {s : State} (hst : s.pwr.state = .ready) (hdom : s.clk.domainsOn = true) :
    exec .perstNRise s = .next { s with
      pwr := { s.pwr with perstN := true }, hif := { s.hif with linkTraining := !s.hif.linkUp } } :=
  congrArg Host.Outcome.next (if_pos (by simp [hst, hdom]))

/-! ## Die resets (R425, R426) -/

theorem rstDie_of_granted {s : State} {h : Hdr} (hg : granted s h 0x0212 = true) (hface : s.rst.faceBusy = false)
    (hcourse : s.rst.courseBusy = false) (hst : s.pwr.state ≠ .deepHold) (hroom : s.hif.accepted.length < 16)
    (face : Bool) : rstDie s h face =
      respond (enlist (startDie s h face) h 0x0212 [b2n face]) h 0x0212 .accepted [] :=
  (runCmd_of_granted rfl hg).trans ((if_neg (by simp [hface, hcourse])).trans
    ((if_neg (by simp [hst])).trans (accept_eq hroom)))

theorem dropJobReset_rst (s : State) (j : Nat) : (dropJobReset s j).rst = s.rst := by
  rw [dropJobReset]
  split
  · exact (dropAccOf_frame s _ _).rst
  · rfl

theorem startDie_rst (s : State) (h : Hdr) (face : Bool) : (startDie s h face).rst.dieHdr = some h ∧
    (startDie s h face).rst.faceBusy = face ∧ (startDie s h face).rst.courseBusy = !face := by
  have hkeep : ∀ t : State, (each (List.range 8) (fun s j =>
      if (jobTiles s j).isEmpty then s else faultHold .dieReset (dropJobReset s j) j) t).rst = t.rst :=
    each_keeps (p := State.rst) (fun s j => by
      split
      · rfl
      · exact dropJobReset_rst s j) (List.range 8)
  rw [startDie, hkeep]
  exact ⟨rfl, rfl, rfl⟩

section
variable {s : State} (hvias : s.rst.viasEmpty = false) (hstand : (dieJobs s).all (dieHeld s) = true)
include hvias hstand

theorem exec_viasEmpty_of_face (hface : s.rst.faceBusy = true) : exec .viasEmpty s = .next
    (preloadAgain (clearFaceDie { s with rst := { s.rst with viasEmpty := true } })) :=
  congrArg Host.Outcome.next ((if_neg (by simp [hface, hvias, hstand])).trans (if_pos hface))

theorem exec_viasEmpty_of_course (hcourse : s.rst.courseBusy = true) (hface : s.rst.faceBusy = false) :
    exec .viasEmpty s = .next { s with rst := { s.rst with viasEmpty := true } } :=
  congrArg Host.Outcome.next ((if_neg (by simp [hcourse, hvias, hstand])).trans (if_neg (by simp [hface])))

end

theorem exec_courseDieCleared_of_empty {s : State} (bad : List Nat) (hcourse : s.rst.courseBusy = true)
    (hvias : s.rst.viasEmpty = true) : exec (.courseDieCleared bad) s =
      .next (preloadAgain (each (List.range 8) (goldenPlanes bad) (clearCourseDie s))) :=
  congrArg Host.Outcome.next (if_neg (by simp [hcourse, hvias]))

/-! ## Job resets (R427) -/

/-- The body of CMD_JOB_RESET on a job that has none of its own under way, while no die is reset. -/
def resetJob (s : State) (h : Hdr) (j : Nat) : State :=
  if (jobOf s j).state == .running || (jobOf s j).state == .releasing then
    accept s h 0x0404 [j] fun s => modJob s j fun x => { x with resetReq := some h, go := false }
  else resetNow s h j

theorem exec_cmdJobReset_of_loaded {s : State} {h : Hdr} (hg : granted s h 0x0404 = true)
    (hst : s.pwr.state ≠ .deepHold) (hface : s.rst.faceBusy = false) (hcourse : s.rst.courseBusy = false)
    (hnone : (jobOf s (namedJob h)).resetReq = none) (hempty : (jobOf s (namedJob h)).state ≠ .empty)
    (hload : (jobOf s (namedJob h)).state ≠ .loading) :
    exec (.cmdJobReset h) s = .next (resetJob s h (namedJob h)) := by
  rw [exec_of_granted rfl rfl hg]
  exact congrArg Host.Outcome.next ((if_neg (by simp [hempty, hload, hst])).trans
    (if_neg (by simp [hface, hcourse, hnone])))

theorem resetJob_of_running {s : State} {h : Hdr} {j : Nat}
    (hrun : (jobOf s j).state ∈ [JobState.running, .releasing]) (hroom : s.hif.accepted.length < 16) :
    resetJob s h j = respond (enlist (modJob s j fun x => { x with resetReq := some h, go := false }) h 0x0404 [j])
      h 0x0404 .accepted [] :=
  (if_pos (by simpa using hrun)).trans (accept_eq hroom)

theorem resetJob_of_standing {s : State} {h : Hdr} {j : Nat}
    (hstand : (jobOf s j).state ∉ [JobState.running, .releasing]) (hroom : s.hif.accepted.length < 16) :
    resetJob s h j = complete (jobReset (respond s h 0x0404 .accepted []) j true) h 0x0404 0x0E02 .ok [] :=
  (if_neg (by simpa using hstand)).trans (if_neg (Nat.not_le.2 hroom))

theorem failCapture_of_none {s : State} {j : Nat} (hcap : (jobOf s j).capturing = none) (why : Nat) :
    failCapture s j why = s := if_pos (by rw [hcap]; rfl)

/-- A job whose golden copy can be read is held before its first release. -/
theorem jobReset_effect {s : State} {j : Nat} (hcap : (jobOf s j).capturing = none)
    (hlive : (jobOf s j).replay = none) (hread : (readSlabs s ((jobOf s j).image.getD {})).1 = false) :
    (jobOf (jobReset s j true) j).release = 0 ∧ (jobOf (jobReset s j true) j).resets = 0x7F ∧
      (jobOf (jobReset s j true) j).state = .heldCmd ∧ (jobOf (jobReset s j true) j).recoverable = false := by
  simp only [jobReset, failCapture_of_none hcap, hlive, Option.isSome_none, Bool.false_eq_true, if_false, hread,
    jobOf_modJob_same]
  exact ⟨rfl, rfl, rfl, rfl⟩

/-- Settles O53, row by row. -/
theorem resetRowsAct : Obligations.ResetRowsAct := by
  unfold Obligations.ResetRowsAct
  refine ⟨?low, ?rise, ?perstLow, ?perstRise, ?die, ?started, ?face, ?course, ?cleared, ?job, ?held⟩
  case low =>
    intro s n ht hn
    obtain ⟨hcause, hpin⟩ := warmReset_effect { s with pwr := { s.pwr with resetN := false } } 2
    exact ⟨_, exec_resetNLow_of_long ht hn, rfl, hcause, hpin⟩
  case rise => exact fun _ => exec_resetNRise_of_powered
  case perstLow => exact fun _ hst => exec_perstNLow_of_up (.inl hst)
  case perstRise => exact fun _ => exec_perstNRise_of_ready
  case die =>
    exact fun s h hg hface hcourse hst hroom =>
      ⟨congrArg _ (rstDie_of_granted hg hface hcourse hst hroom false),
        congrArg _ (rstDie_of_granted hg hface hcourse hst hroom true)⟩
  case started => exact startDie_rst
  case face => exact fun _ hface hvias hstand => exec_viasEmpty_of_face hvias hstand hface
  case course => exact fun _ hcourse hface hvias hstand => exec_viasEmpty_of_course hvias hstand hcourse hface
  case cleared => exact fun _ bad hcourse hvias => exec_courseDieCleared_of_empty bad hcourse hvias
  case job =>
    intro s h hg hst hface hcourse hnone hroom
    have hexec := exec_cmdJobReset_of_loaded hg hst hface hcourse hnone
    refine ⟨fun hstand => ?_, fun hrun => ?_⟩
    · obtain ⟨hempty, hload, hstill⟩ : (jobOf s (namedJob h)).state ≠ .empty ∧
          (jobOf s (namedJob h)).state ≠ .loading ∧
          (jobOf s (namedJob h)).state ∉ [JobState.running, .releasing] := by simpa using hstand
      rw [hexec hempty hload, resetJob_of_standing hstill hroom]
    · have hempty : (jobOf s (namedJob h)).state ≠ .empty := fun he => by simp [he] at hrun
      have hload : (jobOf s (namedJob h)).state ≠ .loading := fun he => by simp [he] at hrun
      rw [hexec hempty hload, resetJob_of_running hrun hroom]
  case held => exact fun _ _ => jobReset_effect

end Sys2Proof.Machine
end

section
/-! ## The queue, the bounds and the canonical form of design memory

`Kept` says which changes of the state keep them all at once; its lemmas take it through the shapes in which
the model builds a state. -/

set_option Elab.async false

namespace Sys2Proof.Machine

/-- The parts of the state of which the queue, the bounds and the canonical form speak. -/
def guarded (s : State) :=
  (s.pending, s.hif.log, s.hif.accepted, s.spr.map, s.pwr.linkEvs, s.mem.near, s.mem.far)

/-- From `s` to `t` the queue stays, `n` still bounds the accepted commands, and each other bound and each
canonical form that holds of `s` holds of `t`; if `still`, the power state and a wake under way stay as well. -/
structure Kept (still : Prop) (n : Nat) (s t : State) : Prop where
  pending : t.pending = s.pending
  log : s.hif.log.length ≤ 4096 → t.hif.log.length ≤ 4096
  accepted : s.hif.accepted.length ≤ n → t.hif.accepted.length ≤ n
  map : s.spr.map.length ≤ 16384 → t.spr.map.length ≤ 16384
  linkEvs : s.pwr.linkEvs.length ≤ 4 → t.pwr.linkEvs.length ≤ 4
  near : mapWf s.mem.near 0 = true → mapWf t.mem.near 0 = true
  far : mapWf s.mem.far none = true → mapWf t.mem.far none = true
  power : still → t.pwr.state = s.pwr.state ∧ t.pwr.waking = s.pwr.waking

section
variable {still : Prop} {n : Nat} {α β : Type} {s₀ s t u : State}

theorem Kept.refl (s : State) : Kept still n s s := ⟨rfl, id, id, id, id, id, id, fun _ => ⟨rfl, rfl⟩⟩

theorem Kept.trans (h : Kept still n s t) (g : Kept still n t u) : Kept still n s u :=
  ⟨g.pending.trans h.pending, g.log ∘ h.log, g.accepted ∘ h.accepted, g.map ∘ h.map,
    g.linkEvs ∘ h.linkEvs, g.near ∘ h.near, g.far ∘ h.far, fun hp =>
      ⟨(g.power hp).1.trans (h.power hp).1, (g.power hp).2.trans (h.power hp).2⟩⟩

/-- An update of other parts of the state. -/
theorem Kept.congr (h : Kept still n s₀ s) (e : guarded t = guarded s := by rfl)
    (hp : still → t.pwr.state = s.pwr.state ∧ t.pwr.waking = s.pwr.waking := by exact fun _ => ⟨rfl, rfl⟩) :
    Kept still n s₀ t := by
  simp only [guarded, Prod.mk.injEq] at e
  obtain ⟨hpend, hlog, hacc, hmap, hlink, hnear, hfar⟩ := e
  exact h.trans ⟨hpend, by simp [hlog], by simp [hacc], by simp [hmap], by simp [hlink], by simp [hnear],
    by simp [hfar], hp⟩

theorem Kept.ite {c : Prop} [Decidable c] (ht : Kept still n s₀ s) (hu : Kept still n s₀ t) :
    Kept still n s₀ (if c then s else t) := by
  split <;> assumption

/-- An update that a condition asks for. -/
theorem Kept.opt {c : Prop} [Decidable c] (h : Kept still n s₀ s) (ht : Kept still n s₀ s → Kept still n s₀ t) :
    Kept still n s₀ (if c then t else s) := .ite (ht h) h

theorem Kept.opt' {c : Prop} [Decidable c] (h : Kept still n s₀ s) (ht : Kept still n s₀ s → Kept still n s₀ t) :
    Kept still n s₀ (if c then s else t) := .ite h (ht h)

theorem Kept.foldl {f : State → α → State} {l : List α} (hf : ∀ s a, Kept still n s₀ s → Kept still n s₀ (f s a))
    (h : Kept still n s₀ s) : Kept still n s₀ (l.foldl f s) := by
  induction l generalizing s with
  | nil => exact h
  | cons a l ih => exact ih (hf s a h)

theorem Kept.each {f : State → α → State} {l : List α} (hf : ∀ s a, Kept still n s₀ s → Kept still n s₀ (f s a))
    (h : Kept still n s₀ s) : Kept still n s₀ (each l f s) := Kept.foldl hf h

theorem Kept.foldl_by (p : β → State) {f : β → α → β} {l : List α} {b : β}
    (hf : ∀ b a, Kept still n s₀ (p b) → Kept still n s₀ (p (f b a))) (h : Kept still n s₀ (p b)) :
    Kept still n s₀ (p (l.foldl f b)) := by
  induction l generalizing b with
  | nil => exact h
  | cons a l ih => exact ih (hf b a h)

theorem modMemBlk_kept {f : Mem → Mem} (h : Kept still n s₀ s) (hn : ∀ m, (f m).near = m.near := by intro; rfl)
    (hf : ∀ m, (f m).far = m.far := by intro; rfl) : Kept still n s₀ (modMemBlk s f) :=
  h.congr (by simp [guarded, hn, hf])

theorem clearNearWords_kept {f : Mem → Mem} (h : Kept still n s₀ s) (hn : ∀ m, (f m).near = [])
    (hf : ∀ m, (f m).far = m.far) : Kept still n s₀ (modMemBlk s f) :=
  h.trans ⟨rfl, id, id, id, id, fun _ => by simp [modMemBlk, hn, mapOk], fun hw => by simpa [modMemBlk, hf] using hw,
    fun _ => ⟨rfl, rfl⟩⟩

theorem modHifBlk_kept {f : HostIf → HostIf} (h : Kept still n s₀ s) (hl : ∀ m, (f m).log = m.log := by intro; rfl)
    (ha : ∀ m, (f m).accepted = m.accepted := by intro; rfl) : Kept still n s₀ (modHifBlk s f) :=
  h.congr (by simp [guarded, hl, ha])

theorem modSprBlk_kept {f : Spares → Spares} (h : Kept still n s₀ s) (hm : ∀ m, (f m).map = m.map := by intro; rfl) :
    Kept still n s₀ (modSprBlk s f) :=
  h.congr (by simp [guarded, hm])

theorem shortenMap_kept {f : Spares → Spares} (h : Kept still n s₀ s)
    (hm : ∀ m, (f m).map.length ≤ m.map.length) : Kept still n s₀ (modSprBlk s f) :=
  h.trans ⟨rfl, id, id, (hm _).trans, id, id, id, fun _ => ⟨rfl, rfl⟩⟩

theorem modPwrBlk_kept {f : Pwr → Pwr} (h : Kept False n s₀ s)
    (hl : ∀ m, (f m).linkEvs = m.linkEvs := by intro; rfl) : Kept False n s₀ (modPwrBlk s f) :=
  h.congr (by simp [guarded, hl]) False.elim

/-- An update of other parts of the power block than its state and a wake under way. -/
theorem modPins_kept {f : Pwr → Pwr} (h : Kept still n s₀ s) (hl : ∀ m, (f m).linkEvs = m.linkEvs := by intro; rfl)
    (hs : ∀ m, (f m).state = m.state := by intro; rfl) (hw : ∀ m, (f m).waking = m.waking := by intro; rfl) :
    Kept still n s₀ (modPwrBlk s f) :=
  h.congr (by simp [guarded, hl]) fun _ => ⟨hs _, hw _⟩

theorem clearLinkEvs_kept {f : Pwr → Pwr} (h : Kept False n s₀ s) (hl : ∀ m, (f m).linkEvs = []) :
    Kept False n s₀ (modPwrBlk s f) :=
  h.trans ⟨rfl, id, id, id, fun _ => by simp [modPwrBlk, hl], id, id, False.elim⟩

/-- An update of the state outside its guarded parts. -/
theorem Kept.update {tiles tileMap jobs trigPin load chain mem lp pal msn lry arr spn clk rst pwr hv hif fw spr
    tel jtag nowUs sched draws freeCtr out} (h : Kept False n s₀ s) (hn : mem.near = s.mem.near := by rfl)
    (hf : mem.far = s.mem.far := by rfl) (hl : hif.log = s.hif.log := by rfl)
    (ha : hif.accepted = s.hif.accepted := by rfl) (hm : spr.map = s.spr.map := by rfl)
    (he : pwr.linkEvs = s.pwr.linkEvs := by rfl) :
    Kept False n s₀ { s with tiles := tiles, tileMap := tileMap, jobs := jobs, trigPin := trigPin, load := load,
                             chain := chain, mem := mem, lp := lp, pal := pal, msn := msn, lry := lry, arr := arr,
                             spn := spn, clk := clk, rst := rst, pwr := pwr, hv := hv, hif := hif, fw := fw,
                             spr := spr, tel := tel, jtag := jtag, nowUs := nowUs, sched := sched, draws := draws,
                             freeCtr := freeCtr, out := out } :=
  h.congr (by simp only [guarded, hn, hf, hl, ha, hm, he]) False.elim

/-- One that leaves the power block. -/
theorem Kept.keep {tiles tileMap jobs trigPin load chain mem lp pal msn lry arr spn clk rst hv hif fw spr
    tel jtag nowUs sched draws freeCtr out} (h : Kept still n s₀ s) (hn : mem.near = s.mem.near := by rfl)
    (hf : mem.far = s.mem.far := by rfl) (hl : hif.log = s.hif.log := by rfl)
    (ha : hif.accepted = s.hif.accepted := by rfl) (hm : spr.map = s.spr.map := by rfl) :
    Kept still n s₀ { s with tiles := tiles, tileMap := tileMap, jobs := jobs, trigPin := trigPin, load := load,
                             chain := chain, mem := mem, lp := lp, pal := pal, msn := msn, lry := lry, arr := arr,
                             spn := spn, clk := clk, rst := rst, hv := hv, hif := hif, fw := fw,
                             spr := spr, tel := tel, jtag := jtag, nowUs := nowUs, sched := sched, draws := draws,
                             freeCtr := freeCtr, out := out } :=
  h.congr (by simp only [guarded, hn, hf, hl, ha, hm])

theorem Kept.mk_fst {a : α} (h : Kept still n s₀ t) : Kept still n s₀ (t, a).1 := h

theorem Kept.mk_snd {a : α} (h : Kept still n s₀ t) : Kept still n s₀ (a, t).2 := h

theorem Kept.mk_snd2 {a : α} {b : β} (h : Kept still n s₀ t) : Kept still n s₀ (a, b, t).2.2 := h

theorem Kept.mk_snd1 {a : α} {b : β} (h : Kept still n s₀ t) : Kept still n s₀ (a, t, b).2.1 := h

theorem Kept.fst {p : State × α} {a : α} (e : p = (t, a)) (h : Kept still n s₀ p.1) : Kept still n s₀ t := by
  subst e; exact h

theorem Kept.snd {p : α × State} {a : α} (e : p = (a, t)) (h : Kept still n s₀ p.2) : Kept still n s₀ t := by
  subst e; exact h

theorem Kept.snd2 {p : α × β × State} {a : α} {b : β} (e : p = (a, b, t)) (h : Kept still n s₀ p.2.2) :
    Kept still n s₀ t := by
  subst e; exact h

/-- The outcome is no next state, or one that keeps what `s₀` has. -/
def NextKept (s₀ : State) (o : Host.Outcome State Fault Refusal) : Prop := ∀ t, o = .next t → Kept False 16 s₀ t

theorem NextKept.next (h : Kept False 16 s₀ t) : NextKept s₀ (.next t) := by
  intro u e
  cases e
  exact h

theorem NextKept.fault {r : Fault} : NextKept s₀ (.fault r) := fun _ e => nomatch e

theorem NextKept.refused {r : Refusal} : NextKept s₀ (.refused r) := fun _ e => nomatch e

theorem atUnit_kept {c : Bool} (h : Kept False 16 s₀ t) : NextKept s₀ (atUnit c t) := by
  unfold atUnit
  split
  · exact .next h
  · exact .fault

theorem NextKept.ite {c : Prop} [Decidable c] {o p : Host.Outcome State Fault Refusal}
    (ho : NextKept s₀ o) (hp : NextKept s₀ p) : NextKept s₀ (if c then o else p) := by
  split <;> assumption

end
end Sys2Proof.Machine

end

section
/-! ## Every operation and every command keeps the queue, the bounds and the canonical form

One lemma `f_kept` for each function of the model that answers a state, in the order of the model's calls:
the operations that touch the log, the accepted commands, the repair map, the link events, the near words and
the far lines show their bound, the others pass it on. -/

set_option Elab.async false

namespace Sys2Proof.Machine
open Host
section
variable {still : Prop} {n : Nat} {s₀ s t : State}

theorem leafAdd_kept {root n' : Nat} (hk : Kept still n s₀ s) : Kept still n s₀ (leafAdd s root n') := .keep hk

theorem modPalBlk_kept {f : Pal → Pal} (hk : Kept still n s₀ s) : Kept still n s₀ (modPalBlk s f) := .keep hk

theorem masonTick_kept {n' : Nat} (hk : Kept False n s₀ s) : Kept False n s₀ (masonTick n' s) := by
  dsimp only [masonTick]
  exact Kept.each (fun _ _ hk' => Kept.ite (leafAdd_kept (modPalBlk_kept hk'))
      (leafAdd_kept (modPalBlk_kept hk'))) hk

theorem modSpnBlk_kept {f : Spn → Spn} (hk : Kept False n s₀ s) : Kept False n s₀ (modSpnBlk s f) := .update hk

theorem modTelBlk_kept {f : Tel → Tel} (hk : Kept False n s₀ s) : Kept False n s₀ (modTelBlk s f) := .update hk

theorem setFar_kept {l : Nat} {f : FarLine} (hk : Kept still n s₀ s) : Kept still n s₀ (setFar s l f) :=
  hk.trans ⟨rfl, id, id, id, id, id, mapWf_mapPut s.mem.far none l (some f), fun _ => ⟨rfl, rfl⟩⟩

theorem writeFar_kept {l : Nat} {key : Option Nat} {d : Line} (hk : Kept still n s₀ s) :
    Kept still n s₀ (writeFar s l key d) := by
  dsimp only [writeFar]
  exact setFar_kept hk

theorem putNear_kept {k : Nat} {v : BitVec 72} (hk : Kept still n s₀ s) : Kept still n s₀ (putNear s k v) :=
  hk.trans ⟨rfl, id, id, id, id, mapWf_mapPut s.mem.near 0 k v, id, fun _ => ⟨rfl, rfl⟩⟩

theorem readNear_kept {frame dl : Nat} (hk : Kept still n s₀ s) : Kept still n s₀ (readNear s frame dl).2 := by
  dsimp only [readNear]
  refine Kept.foldl_by Prod.snd (fun _ _ hk' => ?_) hk
  split
  · exact hk'
  · exact Kept.mk_snd (Kept.opt hk' (fun _ => putNear_kept hk'))

theorem newEv_kept {code job : Nat} {payload : List Byte} (hk : Kept still n s₀ s) :
    Kept still n s₀ (newEv s code job payload).2 := by
  dsimp only [newEv]
  exact Kept.keep hk

theorem setRing_kept {fn : Nat} {r : Ring} (hk : Kept still n s₀ s) :
    Kept still n s₀ (setRing s fn r) := .keep hk

theorem emitOut_kept {o : Out} (hk : Kept still n s₀ s) : Kept still n s₀ (emitOut s o) := .keep hk

theorem ringSignal_kept {fn : Nat} (hk : Kept still n s₀ s) : Kept still n s₀ (ringSignal s fn) := by
  dsimp only [ringSignal]
  exact Kept.opt' (emitOut_kept hk) (fun hk' => Kept.ite (setRing_kept hk) (setRing_kept hk'))

theorem ringStep_kept {fn : Nat} {e : Ev} {i : Nat} (hk : Kept still n s₀ s) :
    Kept still n s₀ (ringStep s fn e i) := by
  dsimp only [ringStep]
  exact setRing_kept (emitOut_kept hk)

theorem ringPut_kept {fn : Nat} {e : Ev} (hk : Kept still n s₀ s) : Kept still n s₀ (ringPut s fn e) := by
  dsimp only [ringPut]
  exact Kept.ite hk (Kept.ite (setRing_kept hk) (ringSignal_kept (Kept.foldl (fun _ _ => ringStep_kept) hk)))

theorem logPut_kept {e : Ev} (hk : Kept still n s₀ s) : Kept still n s₀ (logPut s e) := by
  refine hk.trans ⟨logPut_pending s e, fun _ => ?_, ?_, ?_, ?_, ?_, ?_, ?_⟩
  · simp only [logPut, List.length_drop]
    omega
  all_goals simp only [logPut_accepted, logPut_spr, logPut_pwr, logPut_mem, imp_self, and_self, implies_true]

theorem ringOverflow_kept {fn : Nat} (hk : Kept still n s₀ s) : Kept still n s₀ (ringOverflow s fn) := by
  dsimp only [ringOverflow]
  exact Kept.ite (ringPut_kept (setRing_kept (logPut_kept (newEv_kept hk)))) hk

theorem toRing_kept {e : Ev} {fn : Nat} (hk : Kept still n s₀ s) : Kept still n s₀ (toRing e s fn) := by
  dsimp only [toRing]
  exact ringPut_kept (ringOverflow_kept hk)

theorem emitTo_kept {fns : List Nat} {code job : Nat} {fs : List (Nat × Nat)} (hk : Kept still n s₀ s) :
    Kept still n s₀ (emitTo s fns code job fs) := by
  unfold emitTo
  dsimp only
  exact Kept.foldl (fun _ _ => toRing_kept) (logPut_kept (newEv_kept hk))

theorem emitJob_kept {code j : Nat} {fs : List (Nat × Nat)} (hk : Kept still n s₀ s) :
    Kept still n s₀ (emitJob s code j fs) := by
  dsimp only [emitJob]
  exact emitTo_kept hk

theorem setPpt_kept {p : Nat} {v : Ppt} (hk : Kept still n s₀ s) : Kept still n s₀ (setPpt s p v) := .keep hk

theorem modPpt_kept {p : Nat} {f : Ppt → Ppt} (hk : Kept still n s₀ s) : Kept still n s₀ (modPpt s p f) := by
  dsimp only [modPpt]
  exact setPpt_kept hk

theorem emitDev_kept {code : Nat} {fs : List (Nat × Nat)} (hk : Kept still n s₀ s) :
    Kept still n s₀ (emitDev s code fs) := by
  dsimp only [emitDev]
  exact emitTo_kept hk

theorem modMirror_kept {p : Nat} {f : Mirror → Mirror} (hk : Kept still n s₀ s) :
    Kept still n s₀ (modMirror s p f) := by
  dsimp only [modMirror]
  exact modMemBlk_kept hk

theorem quarantine_kept {dl job : Nat} {r : QReason} (hk : Kept still n s₀ s) :
    Kept still n s₀ (quarantine s dl job r) := by
  dsimp only [quarantine]
  exact Kept.ite hk (Kept.ite (modPpt_kept (modMemBlk_kept hk)) (emitDev_kept
      (modMirror_kept (modPpt_kept hk))))

theorem lineFailed_kept {dl job : Nat} {r : QReason} (hk : Kept still n s₀ s) :
    Kept still n s₀ (lineFailed s dl job r) := by
  dsimp only [lineFailed]
  refine quarantine_kept ?_
  split
  · exact emitJob_kept (modPins_kept (leafAdd_kept hk))
  · exact emitJob_kept (leafAdd_kept hk)

theorem copyDownLine_kept {p : Nat} {e : Ppt} {ln : Nat} (hk : Kept False n s₀ s) :
    Kept False n s₀ (copyDownLine p e s ln) := by
  dsimp only [copyDownLine]
  refine Kept.ite (writeFar_kept hk) ?_
  split
  next _ _ _ heq =>
    exact writeFar_kept (Kept.snd heq (readNear_kept hk))
  next _ _ heq =>
    exact writeFar_kept (lineFailed_kept (Kept.snd heq (readNear_kept hk)))

theorem copyDown_kept {p : Nat} {e : Ppt} {lo hi : Nat} (hk : Kept False n s₀ s) :
    Kept False n s₀ (copyDown s p e lo hi) := by
  dsimp only [copyDown]
  exact Kept.each (fun _ _ => copyDownLine_kept) hk

theorem modLpBlk_kept {f : Lp5x → Lp5x} (hk : Kept still n s₀ s) : Kept still n s₀ (modLpBlk s f) := .keep hk

theorem noteUncorrectable_kept {l : Nat} (hk : Kept still n s₀ s) :
    Kept still n s₀ (noteUncorrectable s l) := by
  dsimp only [noteUncorrectable]
  exact modLpBlk_kept hk

theorem noteCorrected_kept {l : Nat} (hk : Kept still n s₀ s) : Kept still n s₀ (noteCorrected s l) := by
  dsimp only [noteCorrected]
  exact modLpBlk_kept hk

theorem checkFar_kept {l : Nat} {key : Option Nat} (hk : Kept still n s₀ s) :
    Kept still n s₀ (checkFar s l key).2 := by
  dsimp only [checkFar]
  split
  · exact Kept.mk_snd (leafAdd_kept hk)
  · split
    · exact Kept.mk_snd (noteUncorrectable_kept (leafAdd_kept hk))
    · split
      · exact Kept.mk_snd (noteCorrected_kept (leafAdd_kept (setFar_kept hk)))
      · exact hk

theorem readFar_kept {l : Nat} {key : Option Nat} (hk : Kept still n s₀ s) :
    Kept still n s₀ (readFar s l key).2 := by
  unfold readFar
  split
  next _ _ heq =>
    exact Kept.mk_snd (Kept.snd heq (checkFar_kept hk))
  next _ _ _ heq =>
    exact Kept.mk_snd (Kept.snd heq (checkFar_kept hk))

theorem writeNear_kept {frame dl : Nat} {d : Line} (hk : Kept still n s₀ s) :
    Kept still n s₀ (writeNear s frame dl d) := by
  dsimp only [writeNear]
  exact Kept.foldl (fun _ _ => putNear_kept) hk

theorem copyUp_kept {p : Nat} {e : Ppt} {lo hi : Nat} (hk : Kept False n s₀ s) :
    Kept False n s₀ (copyUp s p e lo hi).2 := by
  dsimp only [copyUp]
  refine Kept.foldl_by Prod.snd (fun _ _ hk' => ?_) hk
  split
  · split
    next _ _ _ heq =>
      exact Kept.mk_snd (writeNear_kept (Kept.snd heq (readFar_kept hk')))
    next _ _ heq =>
      exact Kept.mk_snd (lineFailed_kept (Kept.snd heq (readFar_kept hk')))
    next _ _ heq =>
      exact Kept.mk_snd (lineFailed_kept (Kept.snd heq (readFar_kept hk')))
  · exact hk'

theorem setReverse_kept {frame : Nat} {p : Option Nat} (hk : Kept False n s₀ s) :
    Kept False n s₀ (setReverse s frame p) := by
  dsimp only [setReverse]
  exact modMemBlk_kept hk

theorem freeNearOf_kept {p : Nat} (hk : Kept False n s₀ s) : Kept False n s₀ (freeNearOf s p) := by
  unfold freeNearOf
  split
  · exact setReverse_kept hk
  · exact hk

theorem settleFar_kept {p : Nat} (hk : Kept False n s₀ s) : Kept False n s₀ (settleFar s p) := by
  dsimp only [settleFar]
  exact modPpt_kept (freeNearOf_kept hk)

theorem copyOn_kept {p hi : Nat} (hk : Kept False n s₀ s) : Kept False n s₀ (copyOn s p hi) := by
  dsimp only [copyOn]
  exact Kept.ite (modMemBlk_kept (copyDown_kept hk)) (Kept.ite (modMemBlk_kept (copyUp_kept hk))
      (settleFar_kept (copyUp_kept hk)))

theorem copyTick_kept (hk : Kept False n s₀ s) : Kept False n s₀ (copyTick s) := by
  unfold copyTick
  split
  · exact hk
  · exact Kept.ite (copyOn_kept hk) hk

theorem tickDomains_kept (hk : Kept False n s₀ s) : Kept False n s₀ (tickDomains s) := by
  dsimp only [tickDomains]
  exact Kept.ite (Kept.opt (modTelBlk_kept (masonTick_kept (modSpnBlk_kept (Kept.update hk)))) copyTick_kept)
      hk

theorem countHours_kept (hk : Kept False n s₀ s) : Kept False n s₀ (countHours s) := by
  dsimp only [countHours]
  exact Kept.ite (modSprBlk_kept hk) hk

theorem tick_kept (hk : Kept False n s₀ s) : Kept False n s₀ (tick s) := by
  dsimp only [tick]
  exact tickDomains_kept (modPwrBlk_kept (Kept.update (countHours_kept hk)))

theorem idle_kept (hk : Kept False n s₀ s) : Kept False n s₀ (idle s) := by
  dsimp only [idle]
  exact tick_kept hk

theorem setJob_kept {j : Nat} {v : Job} (hk : Kept still n s₀ s) : Kept still n s₀ (setJob s j v) := .keep hk

theorem modJob_kept {j : Nat} {f : Job → Job} (hk : Kept still n s₀ s) : Kept still n s₀ (modJob s j f) := by
  dsimp only [modJob]
  exact setJob_kept hk

theorem setTile_kept {t : Nat} {v : Tile} (hk : Kept still n s₀ s) : Kept still n s₀ (setTile s t v) := .keep hk

theorem modTile_kept {t : Nat} {f : Tile → Tile} (hk : Kept still n s₀ s) :
    Kept still n s₀ (modTile s t f) := by
  dsimp only [modTile]
  exact setTile_kept hk

theorem setHod_kept {h : Nat} {v : Hod} (hk : Kept still n s₀ s) : Kept still n s₀ (setHod s h v) := .keep hk

theorem modHod_kept {h : Nat} {f : Hod → Hod} (hk : Kept still n s₀ s) : Kept still n s₀ (modHod s h f) := by
  dsimp only [modHod]
  exact setHod_kept hk

theorem setMason_kept {m : Nat} {v : Mason} (hk : Kept still n s₀ s) :
    Kept still n s₀ (setMason s m v) := .keep hk

theorem modMason_kept {m : Nat} {f : Mason → Mason} (hk : Kept still n s₀ s) :
    Kept still n s₀ (modMason s m f) := by
  dsimp only [modMason]
  exact setMason_kept hk

theorem upset_kept {u : Upset} (hk : Kept False n s₀ s) : Kept False n s₀ (upset s u) := by
  unfold upset
  split
  case h_7 w m => exact hk.trans ⟨rfl, id, id, id, id, mapWf_mapMod s.mem.near 0 w (· ^^^ m), id, False.elim⟩
  case h_8 => exact setFar_kept hk
  case h_9 => exact modHod_kept hk
  case h_11 => exact modMason_kept hk
  all_goals exact hk.congr

theorem upsets_kept {us : List Upset} (hk : Kept False n s₀ s) : Kept False n s₀ (upsets s us) := by
  dsimp only [upsets]
  exact Kept.foldl (fun _ _ => upset_kept) hk

theorem setPoison_kept {h : Nat} (hk : Kept False n s₀ s) : Kept False n s₀ (setPoison s h) := by
  dsimp only [setPoison]
  exact Kept.ite hk (emitJob_kept (setHod_kept hk))

theorem parityNote_kept {h : Nat} {w : BitVec 71} (hk : Kept False n s₀ s) :
    Kept False n s₀ (parityNote s h w) := by
  dsimp only [parityNote]
  exact Kept.ite hk (setPoison_kept (modHod_kept hk))

theorem markAside_kept {j vt p : Nat} (hk : Kept False n s₀ s) : Kept False n s₀ (markAside s j vt p) := by
  unfold markAside
  dsimp only
  split
  · refine modHod_kept ?_
    split
    · exact parityNote_kept hk
    · exact hk
  · exact hk

theorem setAsides_kept {j : Nat} (hk : Kept False n s₀ s) : Kept False n s₀ (setAsides s j) := by
  dsimp only [setAsides]
  exact Kept.each (fun _ _ hk' => modTile_kept (Kept.ite hk' (markAside_kept hk'))) hk

theorem setMoving_kept {v : Bool} {j vt : Nat} (hk : Kept False n s₀ s) :
    Kept False n s₀ (setMoving v j vt s) := .update hk

theorem endSweepOf_kept {t : Nat} (hk : Kept False n s₀ s) : Kept False n s₀ (endSweepOf s t) := by
  dsimp only [endSweepOf]
  exact Kept.ite (modTile_kept (modSprBlk_kept hk)) hk

theorem faultHold_kept {c : HoldCause} {j : Nat} (hk : Kept False n s₀ s) :
    Kept False n s₀ (faultHold c s j) := by
  dsimp only [faultHold]
  exact modJob_kept hk

theorem planMove_kept {j vt src : Nat} {retire : Bool} {reason : Nat} (hk : Kept False n s₀ s)
    (e : planMove s j vt src retire reason = some t) : Kept False n s₀ t := by
  unfold planMove at e
  split at e
  · cases e
  · cases e
    exact faultHold_kept (modSprBlk_kept (setMoving_kept (modTile_kept (endSweepOf_kept hk))))

theorem frameRepeat_kept {j vt t : Nat} {bricks : List Nat} (hk : Kept False n s₀ s) :
    Kept False n s₀ (frameRepeat s j vt t bricks) := by
  dsimp only [frameRepeat]
  refine Kept.opt (modTile_kept hk) (fun hk' => ?_)
  split
  next _ _ heq =>
    exact modSprBlk_kept (planMove_kept hk' heq)
  · exact hk'

theorem frameFault_kept {n' : Net} {j : Nat} {e : Nat × Nat} (hk : Kept False n s₀ s) :
    Kept False n s₀ (frameFault n' j s e) := by
  dsimp only [frameFault]
  exact Kept.ite hk (modJob_kept (faultHold_kept (frameRepeat_kept (Kept.opt (leafAdd_kept (modTile_kept hk))
      emitJob_kept))))

theorem frameFaults_kept {n' : Net} {j : Nat} (hk : Kept False n s₀ s) :
    Kept False n s₀ (frameFaults n' j s) := by
  dsimp only [frameFaults]
  exact Kept.each (fun _ _ => frameFault_kept) hk

theorem enterFault_kept {j : Nat} (hk : Kept False n s₀ s) : Kept False n s₀ (enterFault j s) := by
  dsimp only [enterFault]
  exact modJob_kept hk

theorem holdFor_kept {j : Nat} {cs : List Nat} (hk : Kept False n s₀ s) : Kept False n s₀ (holdFor s j cs) := by
  dsimp only [holdFor]
  exact Kept.opt (modJob_kept hk) enterFault_kept

theorem execSequencerSample_kept {job cycles : Nat} {ups : List Upset} (hk : Kept False 16 s₀ s) :
    NextKept s₀ (execSequencerSample job cycles ups s) := by
  dsimp only [execSequencerSample]
  refine .next (Kept.ite hk (Kept.ite (Kept.opt (upsets_kept hk) modJob_kept) ?_))
  split
  · exact modJob_kept (setAsides_kept (frameFaults_kept (upsets_kept hk)))
  · exact holdFor_kept (setAsides_kept (frameFaults_kept (upsets_kept hk)))

theorem complete_kept {h : Hdr} {opcode code : Nat} {st : St} {fs : List (Nat × Nat)} (hk : Kept still n s₀ s) :
    Kept still n s₀ (complete s h opcode code st fs) := by
  dsimp only [complete]
  exact emitTo_kept hk

theorem dropAccOf_kept (hk : Kept still n s₀ s) {op : Nat} {h : Hdr} : Kept still n s₀ (dropAccOf s op h) := by
  unfold dropAccOf
  split
  · exact hk.trans ⟨rfl, id, fun hl => (List.length_eraseIdx_le ..).trans hl, id, id, id, id, fun _ => ⟨rfl, rfl⟩⟩
  · exact hk

theorem askPause_kept {m : Nat} (hk : Kept False n s₀ s) : Kept False n s₀ (askPause s m) := by
  dsimp only [askPause]
  exact modMason_kept hk

theorem startCapture_kept {j : Nat} (hk : Kept False n s₀ s) : Kept False n s₀ (startCapture s j) := by
  dsimp only [startCapture]
  exact Kept.each (fun _ _ => askPause_kept) (modJob_kept hk)

theorem enterHold_kept {j : Nat} (hk : Kept False n s₀ s) : Kept False n s₀ (enterHold s j) := by
  dsimp only [enterHold]
  refine Kept.opt (Kept.each (fun _ _ hk' => ?_) (modJob_kept hk)) startCapture_kept
  split
  · exact complete_kept (dropAccOf_kept hk')
  · exact hk'

theorem dropMoves_kept {j : Nat} (hk : Kept still n s₀ s) : Kept still n s₀ (dropMoves s j) := by
  dsimp only [dropMoves]
  exact Kept.keep (modSprBlk_kept (Kept.foldl (fun _ _ hk' => Kept.ite hk' (modTile_kept hk')) hk))

theorem logFull_kept {js : List Nat} (hk : Kept still n s₀ s) : Kept still n s₀ (logFull s js) := by
  dsimp only [logFull]
  exact Kept.each (fun _ _ hk' => emitJob_kept (modJob_kept hk')) hk

theorem modArrBlk_kept {f : Arr → Arr} (hk : Kept still n s₀ s) : Kept still n s₀ (modArrBlk s f) := .keep hk

theorem setPort_kept {p : Nat} {v : Port} (hk : Kept still n s₀ s) : Kept still n s₀ (setPort s p v) := .keep hk

theorem modLane_kept {l : Nat} {f : Lane → Lane} (hk : Kept still n s₀ s) :
    Kept still n s₀ (modLane s l f) := .keep hk

theorem putLevels_kept {l : Nat} {ps : List (BitVec 2)} (hk : Kept still n s₀ s) :
    Kept still n s₀ (putLevels s l ps).2 := by
  unfold putLevels
  dsimp only
  exact emitOut_kept (modLane_kept hk)

theorem takeLevels_kept {l : Nat} {levels : List (BitVec 2)} (hk : Kept still n s₀ s) :
    Kept still n s₀ (takeLevels s l levels).2 := by
  dsimp only [takeLevels]
  split
  · exact hk
  · exact Kept.mk_snd (leafAdd_kept (leafAdd_kept (modLane_kept hk)))

theorem sendPairs_kept {l : Nat} {ps : List (BitVec 2)} (hk : Kept still n s₀ s) :
    Kept still n s₀ (sendPairs s l ps) := by
  unfold sendPairs
  dsimp only
  exact Kept.opt (putLevels_kept hk) takeLevels_kept

theorem fillSlotOf_kept {p slot : Nat} {flag : Bool} {bytes : List Byte} (hk : Kept still n s₀ s) :
    Kept still n s₀ (fillSlotOf s p slot flag bytes) := by
  dsimp only [fillSlotOf]
  exact Kept.ite (setPort_kept hk) (sendPairs_kept (setPort_kept hk))

theorem sendMarker_kept {p : Nat} (hk : Kept still n s₀ s) : Kept still n s₀ (sendMarker s p) := by
  dsimp only [sendMarker]
  exact fillSlotOf_kept (emitOut_kept (setPort_kept hk))

theorem putSlot_kept {p : Nat} {bytes : List Byte} (hk : Kept still n s₀ s) :
    Kept still n s₀ (putSlot s p bytes) := by
  dsimp only [putSlot]
  exact fillSlotOf_kept (emitOut_kept (setPort_kept (Kept.each (fun _ _ => sendMarker_kept) hk)))

theorem sendSlot_kept {p : Nat} (hk : Kept still n s₀ s) (e : sendSlot s p = some t) : Kept still n s₀ t := by
  dsimp only [sendSlot] at e
  split at e
  · cases e
  · split at e
    · cases e
    · split at e
      · cases e
      · cases e
        exact leafAdd_kept (putSlot_kept (setPort_kept hk))

theorem pumpN_kept {k p : Nat} (hk : Kept still n s₀ s) : Kept still n s₀ (pumpN k s p) := by
  induction k generalizing s with
  | zero => exact hk
  | succ k ih =>
    unfold pumpN
    split
    next e => exact ih (sendSlot_kept hk e)
    next => exact hk

theorem pump_kept {p : Nat} (hk : Kept still n s₀ s) : Kept still n s₀ (pump s p) := by
  dsimp only [pump]
  exact pumpN_kept hk

theorem modPort_kept {p : Nat} {f : Port → Port} (hk : Kept still n s₀ s) :
    Kept still n s₀ (modPort s p f) := by
  dsimp only [modPort]
  exact setPort_kept hk

theorem sendMsg_kept {p cls kind : Nat} {body : List Byte} (hk : Kept still n s₀ s) :
    Kept still n s₀ (sendMsg s p cls kind body) := by
  dsimp only [sendMsg]
  exact pump_kept (modPort_kept hk)

theorem unroutable_kept {p : Nat} (hk : Kept still n s₀ s) : Kept still n s₀ (unroutable s p) := by
  dsimp only [unroutable]
  exact emitDev_kept (leafAdd_kept hk)

theorem routeSend_kept {cls kind dst : Nat} {body : List Byte} (hk : Kept still n s₀ s) :
    Kept still n s₀ (routeSend s cls kind dst body) := by
  dsimp only [routeSend]
  exact Kept.ite (sendMsg_kept hk) (Kept.ite (modPort_kept hk) (unroutable_kept hk))

theorem sendMarkers_kept {j stream : Nat} {target : Word} (hk : Kept still n s₀ s) :
    Kept still n s₀ (sendMarkers s j stream target) := by
  dsimp only [sendMarkers]
  exact Kept.each (fun _ _ hk' => Kept.ite hk' (routeSend_kept hk')) hk

theorem scheduleEarly_kept {j : Nat} (hk : Kept still n s₀ s) : Kept still n s₀ (scheduleEarly s j) := by
  dsimp only [scheduleEarly]
  exact Kept.ite hk (sendMarkers_kept (modJob_kept hk))

theorem addRecord_kept {j : Nat} {cycle : Word} {r : JRec} (hk : Kept still n s₀ s) :
    Kept still n s₀ (addRecord s j cycle r) := by
  dsimp only [addRecord]
  exact Kept.ite hk (Kept.ite (logFull_kept hk) (Kept.opt (modArrBlk_kept hk)
      (fun hk' => Kept.each (fun _ _ => scheduleEarly_kept) hk')))

theorem grantCredits_kept {h : Nat} (hk : Kept still n s₀ s) : Kept still n s₀ (grantCredits s h) := by
  dsimp only [grantCredits]
  exact Kept.ite hk (Kept.ite hk (routeSend_kept (modPalBlk_kept hk)))

theorem wmSend_kept {h kind ep job msix : Nat} (hk : Kept still n s₀ s) :
    Kept still n s₀ (wmSend s h kind ep job msix) := by
  dsimp only [wmSend]
  exact Kept.ite (emitOut_kept hk) (Kept.ite (Kept.each (fun _ _ => modMason_kept) hk) hk)

theorem wmCheck_kept {h before : Nat} (hk : Kept still n s₀ s) : Kept still n s₀ (wmCheck s h before) := by
  dsimp only [wmCheck]
  exact Kept.opt (Kept.opt (grantCredits_kept hk) wmSend_kept) wmSend_kept

theorem storeItem_kept {h : Nat} {a : Agent} {prio : Nat} {ws : List (BitVec 71)} (hk : Kept still n s₀ s) :
    Kept still n s₀ (storeItem s h a prio ws) := by
  dsimp only [storeItem]
  exact wmCheck_kept (modPalBlk_kept (modHod_kept hk))

theorem storeRecorded_kept {h : Nat} {a : Agent} {prio : Nat} {ws : List Word} {poison : BitVec 16}
    (hk : Kept still n s₀ s) :
    Kept still n s₀ (storeRecorded s h a prio ws poison) := by
  dsimp only [storeRecorded]
  exact storeItem_kept (modHod_kept hk)

theorem fetchEntry_kept {p : Nat} (hk : Kept still n s₀ s) : Kept still n s₀ (fetchEntry s p).2 := by
  rw [fetchEntry]
  split
  · exact hk
  · extract_lets m clear
    split
    · exact hk
    · split
      · exact Kept.mk_snd (setPpt_kept (modMemBlk_kept hk))
      · exact Kept.mk_snd (emitDev_kept (modMemBlk_kept hk))

theorem rebuildEntry_kept {p : Nat} (hk : Kept still n s₀ s) : Kept still n s₀ (rebuildEntry s p) := by
  dsimp only [rebuildEntry]
  exact modMemBlk_kept (setPpt_kept hk)

theorem readEntry_kept {p : Nat} (hk : Kept still n s₀ s) : Kept still n s₀ (readEntry s p).2 := by
  unfold readEntry
  dsimp only
  exact Kept.opt' (fetchEntry_kept hk) rebuildEntry_kept

theorem quarRefused_kept (hk : Kept still n s₀ s) : Kept still n s₀ (quarRefused s) := by
  dsimp only [quarRefused]
  exact leafAdd_kept hk

theorem readPlaced_kept {e : Ppt} {dl : Nat} (hk : Kept still n s₀ s) :
    Kept still n s₀ (readPlaced s e dl).2.2 := by
  dsimp only [readPlaced]
  split
  · split
    next _ _ _ heq =>
      exact Kept.mk_snd2 (Kept.snd heq (readNear_kept hk))
    next _ _ heq =>
      exact Kept.mk_snd2 (lineFailed_kept (Kept.snd heq (readNear_kept hk)))
  · split
    next _ _ _ heq =>
      exact Kept.mk_snd2 (Kept.snd heq (readFar_kept hk))
    next _ _ heq =>
      exact Kept.mk_snd2 (lineFailed_kept (Kept.snd heq (readFar_kept hk)))
    next _ _ heq =>
      exact Kept.mk_snd2 (lineFailed_kept (Kept.snd heq (readFar_kept hk)))

theorem readLine_kept {dl : Nat} (hk : Kept still n s₀ s) : Kept still n s₀ (readLine s dl).2.2 := by
  unfold readLine
  dsimp only
  split
  · exact Kept.mk_snd2 (quarRefused_kept (readEntry_kept hk))
  · exact Kept.mk_snd2 (readEntry_kept hk)
  · split
    · exact Kept.mk_snd2 (quarRefused_kept (readEntry_kept hk))
    · exact readPlaced_kept (readEntry_kept hk)

theorem takeFree_kept {w : Nat} (hk : Kept still n s₀ s) : Kept still n s₀ (takeFree s w).2 := by
  dsimp only [takeFree]
  exact Kept.keep hk

theorem undoLine_kept {dl : Nat} (hk : Kept still n s₀ s) : Kept still n s₀ (undoLine s dl).2 := by
  unfold undoLine
  split
  next _ _ _ heq =>
    exact Kept.mk_snd (Kept.snd2 heq (readLine_kept hk))
  next _ _ _ _ _ heq =>
    exact takeFree_kept (Kept.snd2 heq (readLine_kept hk))

theorem undoTouch_kept {job dl : Nat} (hk : Kept still n s₀ s) : Kept still n s₀ (undoTouch s job dl) := by
  unfold undoTouch
  extract_lets x block
  refine Kept.ite hk (Kept.ite (logFull_kept hk) ?_)
  split
  next heq =>
    have h := Kept.snd heq (Kept.foldl_by Prod.snd (fun acc i hk' => by
      split
      next heq => exact Kept.mk_snd (.snd heq (undoLine_kept hk'))) hk)
    exact Kept.opt (modJob_kept (modArrBlk_kept h)) (Kept.each fun _ _ => scheduleEarly_kept)

theorem storeServed_kept {p : Nat} {e : Ppt} {dl : Nat} {d : Line} (hk : Kept still n s₀ s) :
    Kept still n s₀ (storeServed s p e dl d) := by
  dsimp only [storeServed]
  exact Kept.ite (modPpt_kept (writeNear_kept hk)) (writeFar_kept hk)

theorem storePlaced_kept {p : Nat} {e : Ppt} {dl : Nat} {d : Line} (hk : Kept still n s₀ s) :
    Kept still n s₀ (storePlaced s p e dl d) := by
  dsimp only [storePlaced]
  exact storeServed_kept (Kept.ite (Kept.ite (writeFar_kept hk) (writeNear_kept hk)) hk)

theorem unlist_kept {dl : Nat} (hk : Kept still n s₀ s) : Kept still n s₀ (unlist s dl) := by
  dsimp only [unlist]
  exact Kept.ite (modPpt_kept (modMemBlk_kept hk)) hk

theorem landWrite_kept {e : Ppt} {dl : Nat} {d : Line} (hk : Kept still n s₀ s) :
    Kept still n s₀ (landWrite s e dl d).2 := by
  dsimp only [landWrite]
  split
  · exact Kept.mk_snd (quarRefused_kept (undoTouch_kept hk))
  · exact Kept.mk_snd (storePlaced_kept (unlist_kept (undoTouch_kept hk)))

theorem writeLine_kept {dl : Nat} {d : Line} {be : BitVec 128} (hk : Kept still n s₀ s) :
    Kept still n s₀ (writeLine s dl d be).2 := by
  unfold writeLine
  dsimp only
  split
  · exact Kept.mk_snd (quarRefused_kept (readEntry_kept hk))
  · exact Kept.mk_snd (readEntry_kept hk)
  · split
    · exact Kept.mk_snd (quarRefused_kept (readEntry_kept hk))
    · split
      · split
        · exact Kept.mk_snd (lineFailed_kept (readEntry_kept hk))
        · exact landWrite_kept (readEntry_kept hk)
      · split
        next _ _ _ heq' =>
          exact landWrite_kept (Kept.snd2 heq' (readPlaced_kept (readEntry_kept hk)))
        next _ _ _ _ _ heq' =>
          exact Kept.mk_snd (Kept.snd2 heq' (readPlaced_kept (readEntry_kept hk)))

theorem plainWrite_kept {addr : Nat} {bs : List Byte} (hk : Kept still n s₀ s) :
    Kept still n s₀ (plainWrite s addr bs) := by
  dsimp only [plainWrite]
  exact Kept.foldl_by Prod.fst (fun _ _ hk' => Kept.mk_fst (writeLine_kept hk')) hk

theorem applyQueued_kept {recorded : Bool} {j : Nat} {q : QInput} (hk : Kept still n s₀ s) :
    Kept still n s₀ (applyQueued recorded j s q) := by
  unfold applyQueued
  dsimp only
  split
  · exact Kept.ite hk (storeRecorded_kept (Kept.ite hk (addRecord_kept hk)))
  · exact Kept.opt' (plainWrite_kept hk) addRecord_kept

theorem releaseQueued_kept {j : Nat} {recorded : Bool} (hk : Kept still n s₀ s) :
    Kept still n s₀ (releaseQueued s j recorded) := by
  dsimp only [releaseQueued]
  exact Kept.each (fun _ _ => applyQueued_kept) (modJob_kept hk)

theorem resumeMason_kept {m : Nat} (hk : Kept still n s₀ s) : Kept still n s₀ (resumeMason s m) := by
  dsimp only [resumeMason]
  exact modMason_kept hk

theorem endCapture_kept {j : Nat} (hk : Kept still n s₀ s) : Kept still n s₀ (endCapture s j) := by
  dsimp only [endCapture]
  exact Kept.each (fun _ _ => resumeMason_kept) (releaseQueued_kept (modJob_kept hk))

theorem failCapture_kept {j why : Nat} (hk : Kept still n s₀ s) : Kept still n s₀ (failCapture s j why) := by
  dsimp only [failCapture]
  refine Kept.ite hk ?_
  split
  · exact complete_kept (dropAccOf_kept (modJob_kept (emitJob_kept (endCapture_kept hk))))
  · exact modJob_kept (emitJob_kept (endCapture_kept hk))

theorem stopJob_kept {j : Nat} (hk : Kept still n s₀ s) : Kept still n s₀ (stopJob s j) := by
  dsimp only [stopJob]
  exact modJob_kept (Kept.opt (dropMoves_kept (failCapture_kept hk))
      (fun hk' => releaseQueued_kept (modJob_kept hk')))

theorem pageStop_kept {j : Nat} {rs : List MemReq} {c : Word} (hk : Kept False n s₀ s) :
    Kept False n s₀ (pageStop s j rs c) := by
  unfold pageStop
  dsimp only
  split
  · exact hk
  · exact emitJob_kept (stopJob_kept hk)

theorem swapResets_kept {j : Nat} {c : Word} (hk : Kept False n s₀ s) : Kept False n s₀ (swapResets s j c) := by
  dsimp only [swapResets]
  split
  · exact modJob_kept hk
  · split
    · exact hk
    · exact modJob_kept (addRecord_kept hk)

theorem loadDone_kept {j : Nat} {h : Option Hdr} {st : St} {held : Bool} {c : Nat} (hk : Kept False n s₀ s) :
    Kept False n s₀ (loadDone s j h st held c) := by
  dsimp only [loadDone]
  refine emitTo_kept ?_
  split
  · exact dropAccOf_kept hk
  · exact hk

theorem releaseStep_kept {j : Nat} {c : Word} (hk : Kept False n s₀ s) :
    Kept False n s₀ (releaseStep s j c) := by
  dsimp only [releaseStep]
  exact Kept.ite (modJob_kept hk) (Kept.ite (modJob_kept hk) (Kept.ite
      (Kept.opt' (modJob_kept hk) (fun hk' => loadDone_kept (modJob_kept hk'))) hk))

theorem dropRec_kept {j : Nat} {e : JEntry} (hk : Kept False n s₀ s) : Kept False n s₀ (dropRec s j e) := by
  dsimp only [dropRec]
  exact modJob_kept hk

theorem replayWrites_kept {j : Nat} {c : Word} (hk : Kept False n s₀ s) :
    Kept False n s₀ (replayWrites s j c) := by
  unfold replayWrites
  split
  · exact hk
  · refine Kept.each (fun _ _ hk' => ?_) hk
    split
    · exact dropRec_kept (plainWrite_kept hk')
    · exact hk'

theorem diverge_kept {j isHod unit : Nat} {c : Word} (hk : Kept False n s₀ s) :
    Kept False n s₀ (diverge s j isHod unit c) := by
  dsimp only [diverge]
  exact modJob_kept (emitJob_kept hk)

theorem addShadow_kept {j vt p : Nat} {e : JEntry} {h : Nat} (hk : Kept False n s₀ s) :
    Kept False n s₀ (addShadow s j vt p e h) := by
  dsimp only [addShadow]
  exact Kept.ite (modJob_kept hk) (diverge_kept hk)

theorem claimItem_kept {h i : Nat} {a : Agent} (hk : Kept False n s₀ s) :
    Kept False n s₀ (claimItem s h i a) := by
  dsimp only [claimItem]
  exact modHod_kept hk

theorem takePart_kept {read : Bool} {h : Nat} {a : Agent} (hk : Kept False n s₀ s) :
    Kept False n s₀ (takePart read s h a).2 := by
  dsimp only [takePart]
  split
  · exact hk
  · split
    · exact hk
    · exact Kept.mk_snd (Kept.opt (setHod_kept (leafAdd_kept hk)) parityNote_kept)

theorem hodPopAside_kept {h : Nat} {a : Agent} (hk : Kept False n s₀ s) :
    Kept False n s₀ (hodPopAside s h a) := by
  dsimp only [hodPopAside]
  refine wmCheck_kept (takePart_kept (Kept.ite hk ?_))
  split
  · exact claimItem_kept hk
  · exact hk

theorem presentHod_kept {j k : Nat} {c : Word} {e : Nat × Nat × Nat} (hk : Kept False n s₀ s) :
    Kept False n s₀ (presentHod j k c s e) := by
  dsimp only [presentHod]
  split
  · split
    · split
      · exact addShadow_kept (modTile_kept hk)
      · exact modTile_kept hk
    · exact modTile_kept hk
  · split
    · exact addRecord_kept (hodPopAside_kept (Kept.opt (modTile_kept hk) addRecord_kept))
    · exact Kept.opt (modTile_kept hk) addRecord_kept

theorem presentHods_kept {j k : Nat} {c : Word} (hk : Kept False n s₀ s) :
    Kept False n s₀ (presentHods s j k c) := by
  dsimp only [presentHods]
  exact Kept.each (fun _ _ => presentHod_kept) hk

theorem presentMem_kept {j i : Nat} (hk : Kept False n s₀ s) : Kept False n s₀ (presentMem s j i) := by
  dsimp only [presentMem]
  refine modJob_kept (Kept.each (fun _ _ hk' => ?_) hk)
  split <;> exact modTile_kept hk'

theorem modConsRun_kept {st : Nat} {f : ConsRun → ConsRun} (hk : Kept False n s₀ s) :
    Kept False n s₀ (modConsRun s st f) := by
  dsimp only [modConsRun]
  exact modArrBlk_kept hk

theorem addPeer_kept {j o : Nat} (hk : Kept False n s₀ s) : Kept False n s₀ (addPeer s j o) := by
  dsimp only [addPeer]
  exact Kept.ite hk (modArrBlk_kept hk)

theorem modSrcRun_kept {st : Nat} {f : SrcRun → SrcRun} (hk : Kept False n s₀ s) :
    Kept False n s₀ (modSrcRun s st f) := by
  dsimp only [modSrcRun]
  exact modArrBlk_kept hk

theorem takeToken_kept {o st : Nat} {epoch : BitVec 4} {lo : BitVec 32} (hk : Kept False n s₀ s) :
    Kept False n s₀ (takeToken s o st epoch lo) := by
  dsimp only [takeToken]
  exact Kept.ite hk (modSrcRun_kept (addPeer_kept hk))

theorem sendToken_kept {j st : Nat} {c : Word} (hk : Kept False n s₀ s) :
    Kept False n s₀ (sendToken s j st c) := by
  dsimp only [sendToken]
  exact Kept.ite hk (Kept.ite (takeToken_kept (modConsRun_kept hk)) (routeSend_kept (modConsRun_kept hk)))

theorem presentOne_kept {j : Nat} {d : Nat × ConsEntry × Word} (hk : Kept False n s₀ s) :
    Kept False n s₀ (presentOne j s d) := by
  unfold presentOne
  dsimp only
  split
  · exact hk
  · refine Kept.opt' (Kept.foldl (fun _ _ hk' => Kept.ite ?_ hk') hk)
      (fun hk' => sendToken_kept (modConsRun_kept hk'))
    split
    · exact modTile_kept hk'
    · exact hk'

theorem presentJoints_kept {j course : Nat} {c : Word} (hk : Kept False n s₀ s) :
    Kept False n s₀ (presentJoints s j course c) := by
  dsimp only [presentJoints]
  exact Kept.each (fun _ _ => presentOne_kept) hk

theorem replayArrivals_kept {k j : Nat} (hk : Kept False n s₀ s) : Kept False n s₀ (replayArrivals k s j) := by
  induction k generalizing s with
  | zero => exact hk
  | succ k ih =>
    unfold replayArrivals
    split
    · exact hk
    · split
      · exact hk
      · split
        · exact Kept.ite (ih (dropRec_kept hk)) (Kept.ite hk
            (ih (storeRecorded_kept (dropRec_kept (Kept.ite (diverge_kept hk) hk)))))
        · exact hk

theorem stepArrivals_kept {j : Nat} (hk : Kept False n s₀ s) : Kept False n s₀ (stepArrivals s j) := by
  unfold stepArrivals
  split
  · exact replayArrivals_kept hk
  · exact hk

theorem doSwap_kept {j : Nat} (hk : Kept False n s₀ s) : Kept False n s₀ (doSwap s j) := by
  dsimp only [doSwap]
  refine Kept.ite hk ?_
  split
  · exact pageStop_kept hk
  · exact stepArrivals_kept (modJob_kept (Kept.each (fun _ _ => modTile_kept)
      (presentJoints_kept (presentHods_kept (presentMem_kept (Kept.ite
      (swapResets_kept (releaseStep_kept (replayWrites_kept hk))) hk))))))

theorem execBoundaryConditionsMet_kept {job cycles waited : Nat} {ups : List Upset} (hk : Kept False 16 s₀ s) :
    NextKept s₀ (execBoundaryConditionsMet job cycles waited ups s) := by
  dsimp only [execBoundaryConditionsMet]
  refine .next (Kept.ite hk ?_)
  split
  · exact Kept.opt' (setAsides_kept (Kept.opt' (upsets_kept (Kept.ite hk (leafAdd_kept hk)))
      frameFaults_kept)) (fun hk' => Kept.ite (Kept.ite (enterHold_kept hk') (doSwap_kept hk'))
      (modJob_kept hk'))
  · exact holdFor_kept (setAsides_kept (Kept.opt' (upsets_kept (Kept.ite hk (leafAdd_kept hk)))
      frameFaults_kept))

theorem readGoldenLines_kept {ls : List Nat} (hk : Kept still n s₀ s) :
    Kept still n s₀ (readGoldenLines s ls).2 := by
  dsimp only [readGoldenLines]
  refine Kept.foldl_by Prod.snd (fun _ _ hk' => ?_) hk
  split
  next _ _ _ heq =>
    exact Kept.mk_snd (Kept.snd heq (readFar_kept hk'))
  next _ _ _ _ heq =>
    exact Kept.mk_snd (Kept.snd heq (readFar_kept hk'))

theorem readGolden_kept {img : Image} {off len : Nat} (hk : Kept still n s₀ s) :
    Kept still n s₀ (readGolden s img off len).2 := by
  dsimp only [readGolden]
  split
  · exact hk
  · split
    · exact hk
    · exact readGoldenLines_kept hk

theorem readSlabs_kept {img : Image} (hk : Kept False n s₀ s) : Kept False n s₀ (readSlabs s img).2 := by
  dsimp only [readSlabs]
  exact readGolden_kept hk

theorem goldenLost_kept {j : Nat} (hk : Kept still n s₀ s) : Kept still n s₀ (goldenLost s j) := by
  dsimp only [goldenLost]
  exact emitJob_kept (stopJob_kept hk)

theorem hodFlush_kept {h : Nat} (hk : Kept False n s₀ s) : Kept False n s₀ (hodFlush s h) := by
  dsimp only [hodFlush]
  exact wmCheck_kept (modHod_kept hk)

theorem clearStreams_kept {j : Nat} (hk : Kept False n s₀ s) : Kept False n s₀ (clearStreams s j) := by
  dsimp only [clearStreams]
  exact Kept.each (fun _ _ => modConsRun_kept) (Kept.each (fun _ _ => modSrcRun_kept) hk)

theorem clearFlows_kept {j : Nat} (hk : Kept False n s₀ s) : Kept False n s₀ (clearFlows s j) := by
  dsimp only [clearFlows]
  exact modPalBlk_kept hk

theorem rbDrop_kept {out : RbEntry → Bool} (hk : Kept False n s₀ s) : Kept False n s₀ (rbDrop s out) := by
  dsimp only [rbDrop]
  exact modPalBlk_kept hk

theorem modFlow_kept {j f : Nat} {g : Flow → Flow} (hk : Kept False n s₀ s) :
    Kept False n s₀ (modFlow s j f g) := by
  dsimp only [modFlow]
  exact modPalBlk_kept hk

theorem releaseSeq_kept {j f : Nat} (hk : Kept False n s₀ s) : Kept False n s₀ (releaseSeq s j f) := by
  dsimp only [releaseSeq]
  exact modFlow_kept (leafAdd_kept hk)

theorem setOverrun_kept {h : Nat} (hk : Kept False n s₀ s) : Kept False n s₀ (setOverrun s h) := by
  dsimp only [setOverrun]
  exact Kept.ite hk (emitJob_kept (setHod_kept hk))

theorem setFlushed_kept {h : Nat} (hk : Kept False n s₀ s) : Kept False n s₀ (setFlushed s h) := by
  dsimp only [setFlushed]
  exact Kept.ite hk (emitJob_kept (setHod_kept hk))

theorem outsideItem_kept {h : Nat} {a : Agent} {prio : Nat} {ws : List (BitVec 71)} (hk : Kept False n s₀ s) :
    Kept False n s₀ (outsideItem s h a prio ws) := by
  dsimp only [outsideItem]
  exact Kept.ite (modJob_kept hk) (Kept.ite (modJob_kept (addRecord_kept hk))
      (storeItem_kept (modHod_kept (addRecord_kept hk))))

theorem completeItem_kept {h : Nat} {a : Agent} {prio : Nat} {ws : List (BitVec 71)} (hk : Kept False n s₀ s) :
    Kept False n s₀ (completeItem s h a prio ws) := by
  dsimp only [completeItem]
  exact Kept.ite (outsideItem_kept hk) (Kept.opt' (modHod_kept hk) storeItem_kept)

theorem appendWord_kept {h : Nat} {a : Agent} {o : OpenItem} {start last : Bool} {data : Word}
    {poison : Bool} (hk : Kept False n s₀ s) :
    Kept False n s₀ (appendWord s h a o start last data poison) := by
  dsimp only [appendWord]
  exact Kept.ite (completeItem_kept (modHod_kept (leafAdd_kept hk))) (modHod_kept (leafAdd_kept hk))

theorem discardWord_kept {h : Nat} {a : Agent} (hk : Kept False n s₀ s) :
    Kept False n s₀ (discardWord s h a).2 := by
  dsimp only [discardWord]
  exact setFlushed_kept (modHod_kept hk)

theorem hodPushWord_kept {h : Nat} {a : Agent} {start last : Bool} {prio : Nat} {data : Word} {poison : Bool}
    (hk : Kept False n s₀ s) :
    Kept False n s₀ (hodPushWord s h a start last prio data poison).2 := by
  dsimp only [hodPushWord]
  split
  · exact Kept.mk_snd (setOverrun_kept (Kept.ite (setHod_kept hk) hk))
  · split
    · split
      · split
        · exact Kept.mk_snd (setOverrun_kept (Kept.opt' (setFlushed_kept (modHod_kept hk)) modHod_kept))
        · exact Kept.mk_snd (appendWord_kept (setFlushed_kept (modHod_kept hk)))
      · split
        · exact Kept.mk_snd (setOverrun_kept (Kept.ite hk (modHod_kept hk)))
        · exact Kept.mk_snd (appendWord_kept hk)
    · split
      · exact discardWord_kept hk
      · split
        · exact discardWord_kept hk
        · exact Kept.mk_snd (appendWord_kept hk)

theorem hodPushItem_kept {h : Nat} {a : Agent} {prio : Nat} {ws : List Word} {poison : BitVec 16}
    (hk : Kept False n s₀ s) :
    Kept False n s₀ (hodPushItem s h a prio ws poison) := by
  dsimp only [hodPushItem]
  exact Kept.foldl (fun _ _ => hodPushWord_kept) hk

theorem releaseItem_kept {e : RbEntry} (hk : Kept False n s₀ s) : Kept False n s₀ (releaseItem s e) := by
  unfold releaseItem
  split
  · exact hk
  · exact Kept.ite (hodPushItem_kept hk) hk

theorem rbAdd_kept {e : RbEntry} (hk : Kept still n s₀ s) : Kept still n s₀ (rbAdd s e) := by
  dsimp only [rbAdd]
  exact modPalBlk_kept hk

theorem completeSeq_kept {j f q : Nat} (hk : Kept False n s₀ s) : Kept False n s₀ (completeSeq s j f q) := by
  dsimp only [completeSeq]
  exact Kept.ite hk (Kept.ite (releaseSeq_kept (Kept.each (fun _ _ => releaseItem_kept) (rbDrop_kept hk)))
      (rbAdd_kept hk))

theorem completeSlot_kept {j : Nat} {p : Slot} (hk : Kept False n s₀ s) :
    Kept False n s₀ (completeSlot s j p) := by
  dsimp only [completeSlot]
  exact completeSeq_kept hk

theorem completePallets_kept {m : Nat} (hk : Kept False n s₀ s) : Kept False n s₀ (completePallets s m) := by
  dsimp only [completePallets]
  refine modMason_kept ?_
  split
  · exact Kept.each (fun _ _ => completeSlot_kept) (rbDrop_kept hk)
  · exact rbDrop_kept hk

theorem resetMason_kept {m : Nat} (hk : Kept False n s₀ s) : Kept False n s₀ (resetMason s m) := by
  dsimp only [resetMason]
  exact modMason_kept (completePallets_kept hk)

theorem resetMasons_kept {j : Nat} (hk : Kept False n s₀ s) : Kept False n s₀ (resetMasons s j) := by
  dsimp only [resetMasons]
  exact Kept.each (fun _ _ => resetMason_kept) hk

theorem dropRecords_kept {j : Nat} (hk : Kept False n s₀ s) : Kept False n s₀ (dropRecords s j) := by
  dsimp only [dropRecords]
  exact modArrBlk_kept hk

theorem jobReset_kept {j : Nat} {held : Bool} (hk : Kept False n s₀ s) :
    Kept False n s₀ (jobReset s j held) := by
  dsimp only [jobReset]
  refine Kept.ite (goldenLost_kept (readSlabs_kept (Kept.opt (failCapture_kept hk)
      (fun hk' => Kept.each (fun _ _ hk2 => ?_) (modJob_kept hk')))))
      (modJob_kept (dropRecords_kept (clearStreams_kept (clearFlows_kept
      (resetMasons_kept (Kept.each (fun _ _ => hodFlush_kept) (Kept.each (fun _ _ => modTile_kept)
      (readSlabs_kept (Kept.opt (failCapture_kept hk) (fun hk' => Kept.each (fun _ _ hk2 => ?_)
      (modJob_kept hk')))))))))))
  · split
    · exact plainWrite_kept hk2
    · exact hk2
  · split
    · exact plainWrite_kept hk2
    · exact hk2

theorem atBoundary_kept {j : Nat} (hk : Kept False n s₀ s) : Kept False n s₀ (atBoundary s j) := by
  dsimp only [atBoundary]
  split
  · exact complete_kept (dropAccOf_kept (startCapture_kept (jobReset_kept hk)))
  · exact Kept.ite (startCapture_kept hk) (Kept.ite (enterHold_kept hk) hk)

theorem goAhead_kept {n' j : Nat} (hk : Kept False n s₀ s) : Kept False n s₀ (goAhead n' s j) := by
  dsimp only [goAhead]
  exact Kept.ite hk (modJob_kept (setAsides_kept hk))

theorem courseDone_kept {j : Nat} {x0 : Job} {blocked : Bool} (hk : Kept False n s₀ s) :
    Kept False n s₀ (courseDone s j x0 blocked) := by
  dsimp only [courseDone]
  exact Kept.opt' (Kept.ite (atBoundary_kept hk) hk) (fun hk' => Kept.ite (enterFault_kept (modJob_kept hk'))
      (Kept.opt' hk' (fun _ => Kept.ite (goAhead_kept (doSwap_kept hk')) (modJob_kept hk'))))

theorem resolve_kept {b : Option Bool} (hk : Kept False n s₀ s) : Kept False n s₀ (resolve s b).2 := by
  unfold resolve
  dsimp only
  split
  · exact hk
  · exact Kept.mk_snd (takeFree_kept hk)

theorem resolveCell_kept {n' : Net} {k w : Nat} {x : CellVal} (hk : Kept False n s₀ s) :
    Kept False n s₀ (resolveCell n' s k w x).2 := by
  unfold resolveCell
  dsimp only
  exact resolve_kept (resolve_kept (resolve_kept hk))

theorem resolveVals_kept {n' : Net} {v : Vals} (hk : Kept False n s₀ s) :
    Kept False n s₀ (resolveVals n' s v).2 := by
  dsimp only [resolveVals]
  exact Kept.foldl_by Prod.snd (fun _ _ hk' => Kept.mk_snd (resolveCell_kept hk')) hk

theorem slabAtEnd_kept {cells : SMap CellVal} {vt t : Nat} {weHold : Bool} {j sl : Nat}
    (hk : Kept False n s₀ s) :
    Kept False n s₀ (slabAtEnd cells vt t weHold j s sl) := by
  dsimp only [slabAtEnd]
  exact Kept.ite hk (Kept.each (fun _ _ => emitJob_kept) (leafAdd_kept (setTile_kept hk)))

theorem slabsAtEnd_kept {cells : SMap CellVal} {j : Nat} (hk : Kept False n s₀ s) :
    Kept False n s₀ (slabsAtEnd cells j s) := by
  dsimp only [slabsAtEnd]
  exact Kept.each (fun _ _ hk' => Kept.each (fun _ _ => slabAtEnd_kept) hk') hk

theorem memAtEnd_kept {cells : SMap CellVal} {j : Nat} (hk : Kept False n s₀ s) :
    Kept False n s₀ (memAtEnd cells j s) := by
  dsimp only [memAtEnd]
  exact leafAdd_kept (modJob_kept hk)

theorem tilePush_kept {j vt p bits : Nat} (hk : Kept False n s₀ s) :
    Kept False n s₀ (tilePush j vt p bits s) := by
  dsimp only [tilePush]
  refine Kept.ite hk ?_
  split
  · exact hk
  · exact hodPushWord_kept (Kept.ite (hodPushWord_kept hk) hk)

theorem hodsAtEnd_kept {cells : SMap CellVal} {j : Nat} (hk : Kept False n s₀ s) :
    Kept False n s₀ (hodsAtEnd cells j s) := by
  dsimp only [hodsAtEnd]
  exact modJob_kept (Kept.each (fun _ _ => tilePush_kept) hk)

theorem pinsAtEnd_kept {cells : SMap CellVal} {j : Nat} (hk : Kept False n s₀ s) :
    Kept False n s₀ (pinsAtEnd cells j s) := by
  dsimp only [pinsAtEnd]
  exact Kept.ite (modJob_kept hk) (modJob_kept hk)

theorem modLryBlk_kept {f : Larey → Larey} (hk : Kept False n s₀ s) :
    Kept False n s₀ (modLryBlk s f) := .update hk

/-- The function is opened by `delta`: its equation cannot be checked without running the decoder on the
open entry word. -/
theorem fwdRead_kept {stream : Nat} (hk : Kept False n s₀ s) : Kept False n s₀ (fwdRead s stream).2 := by
  generalize hF : fwdRead = read
  delta fwdRead at hF
  subst hF
  beta_reduce
  cases hdec : secDecode 7 32 (secEncode 7 32 (fwdWord (mapGet s.lry.fwd {} stream)) ^^^
      (mapGet s.lry.fwdErr 0 stream).toNat) with
  | none => simp only [hdec]; exact emitDev_kept (modLryBlk_kept hk)
  | some r =>
    obtain ⟨w, fixed⟩ := r
    simp only [hdec]
    split
    · exact Kept.mk_snd (modLryBlk_kept (modLryBlk_kept hk))
    · exact hk

theorem unroutableFrame_kept {p stream : Nat} (hk : Kept False n s₀ s) :
    Kept False n s₀ (unroutableFrame s p stream) := by
  dsimp only [unroutableFrame]
  exact Kept.opt (leafAdd_kept hk) (fun hk' => emitDev_kept (modLryBlk_kept hk'))

theorem discardFrame_kept {st : Nat} (hk : Kept False n s₀ s) : Kept False n s₀ (discardFrame s st) := by
  dsimp only [discardFrame]
  exact modArrBlk_kept hk

theorem frameError_kept {j st : Nat} (hk : Kept False n s₀ s) : Kept False n s₀ (frameError s j st) := by
  dsimp only [frameError]
  exact Kept.opt (discardFrame_kept hk) (fun hk' => emitJob_kept (modArrBlk_kept hk'))

theorem acceptFrame_kept {j : Nat} {f : Frame} (hk : Kept False n s₀ s) :
    Kept False n s₀ (acceptFrame s j f) := by
  dsimp only [acceptFrame]
  exact Kept.opt' (discardFrame_kept hk) (fun hk' => Kept.opt' hk' (fun _ => Kept.opt' (frameError_kept hk)
      (fun hk3 => Kept.ite hk' (Kept.ite hk3 (modConsRun_kept (addRecord_kept
      (addPeer_kept (leafAdd_kept hk))))))))

theorem forwardCopies_kept {e : Fwd} {f : Frame} {inPort : Option Nat} {hops : Nat} (hk : Kept False n s₀ s) :
    Kept False n s₀ (forwardCopies s e f inPort hops) := by
  dsimp only [forwardCopies]
  exact Kept.ite hk (Kept.ite (unroutableFrame_kept hk) (Kept.each (fun _ _ => sendMsg_kept) hk))

theorem handleBy_kept {e : Fwd} {f : Frame} {inPort : Option Nat} {hops : Nat} (hk : Kept False n s₀ s) :
    Kept False n s₀ (handleBy s e f inPort hops) := by
  dsimp only [handleBy]
  exact Kept.ite (unroutableFrame_kept hk) (forwardCopies_kept (Kept.ite (acceptFrame_kept hk) hk))

theorem handleFrame_kept {f : Frame} (hk : Kept False n s₀ s) : Kept False n s₀ (handleFrame s f) := by
  generalize hF : handleFrame = handle
  delta handleFrame at hF
  rw [← hF]
  rcases hr : fwdRead s f.stream with ⟨e, t⟩
  beta_reduce
  rw [hr]
  exact handleBy_kept (.snd hr (fwdRead_kept hk))

theorem sendFrame_kept {j st : Nat} {e : SrcEntry} {slices : List (BitVec 192)} (hk : Kept False n s₀ s) :
    Kept False n s₀ (sendFrame s j st e slices) := by
  dsimp only [sendFrame]
  refine Kept.ite ?_ (handleFrame_kept (modSrcRun_kept (addRecord_kept (leafAdd_kept hk))))
  split
  · exact Kept.ite hk (diverge_kept hk)
  · exact diverge_kept hk

theorem jointsAtEnd_kept {cells : SMap CellVal} {j : Nat} (hk : Kept False n s₀ s) :
    Kept False n s₀ (jointsAtEnd cells j s) := by
  dsimp only [jointsAtEnd]
  exact Kept.each (fun _ _ => sendFrame_kept) hk

theorem captureCommit_kept {j : Nat} {u : Word} (hk : Kept False n s₀ s) :
    Kept False n s₀ (captureCommit s j u) := by
  dsimp only [captureCommit]
  exact Kept.ite hk (Kept.opt (Kept.opt (modJob_kept (Kept.ite (modTelBlk_kept hk)
      (Kept.ite (leafAdd_kept hk) hk))) emitJob_kept) emitJob_kept)

theorem sampleTrig_kept {j : Nat} {pins : BitVec 16} (hk : Kept False n s₀ s) :
    Kept False n s₀ (sampleTrig s j pins) := by
  dsimp only [sampleTrig]
  split
  · exact modJob_kept hk
  · exact Kept.ite hk (modJob_kept (addRecord_kept hk))

theorem commitJob_kept {j : Nat} {pins : BitVec 16} (hk : Kept False n s₀ s) :
    Kept False n s₀ (commitJob s j pins) := by
  dsimp only [commitJob]
  exact modJob_kept (leafAdd_kept (captureCommit_kept (sampleTrig_kept
      (Kept.each (fun _ _ => modTile_kept) hk))))

theorem courseEffects_kept {j : Nat} {pins : BitVec 16} (hk : Kept False n s₀ s) :
    Kept False n s₀ (courseEffects s j pins) := by
  dsimp only [courseEffects]
  exact Kept.ite (modJob_kept (commitJob_kept (modJob_kept (leafAdd_kept
      (pinsAtEnd_kept (jointsAtEnd_kept (hodsAtEnd_kept (memAtEnd_kept
      (slabsAtEnd_kept (Kept.each (fun _ _ => modTile_kept) (resolveVals_kept
      (frameFaults_kept hk)))))))))))) (modJob_kept (modJob_kept (leafAdd_kept
      (pinsAtEnd_kept (jointsAtEnd_kept (hodsAtEnd_kept (memAtEnd_kept
      (slabsAtEnd_kept (Kept.each (fun _ _ => modTile_kept) (resolveVals_kept (frameFaults_kept hk)))))))))))

theorem execCourseEnd_kept {job : Nat} {trig : BitVec 16} {ups : List Upset} (hk : Kept False 16 s₀ s) :
    NextKept s₀ (execCourseEnd job trig ups s) := by
  dsimp only [execCourseEnd]
  exact .next (Kept.ite hk (courseDone_kept (courseEffects_kept (upsets_kept hk))))

theorem noteStop_kept {t : Nat} {m : BitVec 32} (hk : Kept False n s₀ s) :
    Kept False n s₀ (noteStop s t m) := by
  dsimp only [noteStop]
  exact modTile_kept hk

theorem addRepair_kept {kind loc spare : Nat} (hk : Kept False n s₀ s) :
    Kept False n s₀ (addRepair s kind loc spare) := by
  dsimp only [addRepair]
  split
  · exact hk.trans ⟨rfl, id, id, fun hl => by simpa [listMod] using hl, id, id, id, False.elim⟩
  · split
    · exact hk.congr
    · exact hk.trans ⟨rfl, id, id, fun _ => by simp only [List.length_append, List.length_singleton]; omega,
        id, id, id, False.elim⟩

theorem tileRetired_kept {t reason job vt dst : Nat} (hk : Kept False n s₀ s) :
    Kept False n s₀ (tileRetired s t reason job vt dst) := by
  dsimp only [tileRetired]
  exact Kept.ite (emitJob_kept hk) (emitDev_kept hk)

theorem retireTile_kept {t reason : Nat} (hk : Kept False n s₀ s) :
    Kept False n s₀ (retireTile s t reason) := by
  dsimp only [retireTile]
  refine Kept.ite hk ?_
  split
  · exact tileRetired_kept (modTile_kept (addRepair_kept hk))
  · split
    next _ _ heq' =>
      exact planMove_kept (modTile_kept (addRepair_kept hk)) heq'
    · exact emitJob_kept (stopJob_kept (modTile_kept (addRepair_kept hk)))

theorem trowelStop_kept {t : Nat} (hk : Kept False n s₀ s) : Kept False n s₀ (trowelStop s t) := by
  dsimp only [trowelStop]
  refine Kept.ite hk ?_
  split
  · exact faultHold_kept (emitJob_kept (leafAdd_kept (modTile_kept (noteStop_kept hk))))
  · exact Kept.opt (modTile_kept (emitDev_kept (leafAdd_kept (modTile_kept (noteStop_kept hk)))))
      retireTile_kept

theorem checkVote_kept {t : Nat} (hk : Kept False n s₀ s) : Kept False n s₀ (checkVote s t) := by
  dsimp only [checkVote]
  exact Kept.ite (leafAdd_kept (setTile_kept hk)) (Kept.ite (trowelStop_kept hk) hk)

theorem mismatchEvent_kept {j vt t : Nat} {fs : List RowFind} {sweep : Bool} {rollback : Nat}
    (hk : Kept False n s₀ s) :
    Kept False n s₀ (mismatchEvent s j vt t fs sweep rollback) := by
  dsimp only [mismatchEvent]
  split
  · exact hk
  · exact Kept.ite hk (emitJob_kept (modTile_kept hk))

theorem noteFinds_kept {j vt t : Nat} {fs : List RowFind} {sweep : Bool} {rollback : Nat}
    (hk : Kept False n s₀ s) :
    Kept False n s₀ (noteFinds s j vt t fs sweep rollback) := by
  dsimp only [noteFinds]
  exact mismatchEvent_kept (Kept.each (fun _ _ => emitDev_kept) (leafAdd_kept
      (leafAdd_kept (leafAdd_kept (modTile_kept hk)))))

theorem verdictTile_kept {j c rollback : Nat} {e : Nat × Nat} (hk : Kept False n s₀ s) :
    Kept False n s₀ (verdictTile j c rollback s e) := by
  dsimp only [verdictTile]
  exact modJob_kept (Kept.opt' (Kept.opt (Kept.opt (noteFinds_kept (setTile_kept (checkVote_kept hk)))
      (fun hk' => modJob_kept (faultHold_kept hk'))) faultHold_kept) faultHold_kept)

theorem listStartup_kept {c : Nat} {e : Nat × Nat} (hk : Kept False n s₀ s) :
    Kept False n s₀ (listStartup c s e) := by
  dsimp only [listStartup]
  exact Kept.each (fun _ _ => modSprBlk_kept) hk

theorem retryMove_kept {r : Reloc} (hk : Kept False n s₀ s) : Kept False n s₀ (retryMove s r) := by
  unfold retryMove
  dsimp only
  split
  · exact hk
  · exact modSprBlk_kept (setMoving_kept (modTile_kept (endSweepOf_kept hk)))

theorem retryMoves_kept {j : Nat} (hk : Kept False n s₀ s) : Kept False n s₀ (retryMoves s j) := by
  dsimp only [retryMoves]
  exact Kept.each (fun _ _ => retryMove_kept) hk

theorem startedUp_kept {j : Nat} (hk : Kept False n s₀ s) : Kept False n s₀ (startedUp s j) := by
  dsimp only [startedUp]
  exact Kept.ite (loadDone_kept (modJob_kept (Kept.update (Kept.each (fun _ _ => modTile_kept) hk))))
      (startCapture_kept (modJob_kept (Kept.update (Kept.each (fun _ _ => modTile_kept) hk))))

theorem leaveFault_kept {j : Nat} {keep : List HoldCause} (hk : Kept False n s₀ s) :
    Kept False n s₀ (leaveFault s j keep) := by
  dsimp only [leaveFault]
  exact modJob_kept hk

theorem restoreTile_kept {static : Bool} {ck : Ckpt} {e : Nat × Nat} (hk : Kept still n s₀ s) :
    Kept still n s₀ (restoreTile static ck s e) := by
  dsimp only [restoreTile]
  exact modTile_kept hk

theorem restoreHod_kept {ck : Ckpt} {h : Nat} (hk : Kept still n s₀ s) :
    Kept still n s₀ (restoreHod ck s h) := by
  dsimp only [restoreHod]
  exact modHod_kept hk

theorem restoreMason_kept {ck : Ckpt} {m : Nat} (hk : Kept still n s₀ s) :
    Kept still n s₀ (restoreMason ck s m) := by
  unfold restoreMason
  dsimp only
  split
  · exact modMason_kept hk
  · exact hk

theorem restorePins_kept {j : Nat} {e : Nat × Ppt} (hk : Kept still n s₀ s) :
    Kept still n s₀ (restorePins j s e) := by
  dsimp only [restorePins]
  exact Kept.ite hk (modMirror_kept (modPpt_kept hk))

theorem restoreCkpt_kept {j : Nat} {ck : Ckpt} (hk : Kept still n s₀ s) :
    Kept still n s₀ (restoreCkpt s j ck) := by
  dsimp only [restoreCkpt]
  exact modJob_kept (Kept.each (fun _ _ => restorePins_kept) (Kept.each (fun _ _ => rbAdd_kept)
      (modPalBlk_kept (Kept.each (fun _ _ => restoreMason_kept) (Kept.each (fun _ _ => restoreHod_kept)
      (Kept.each (fun _ _ => restoreTile_kept) hk))))))

theorem applyUndo_kept {j : Nat} {k : Word} (hk : Kept False n s₀ s) : Kept False n s₀ (applyUndo s j k) := by
  dsimp only [applyUndo]
  exact Kept.each (fun _ _ hk' => Kept.each (fun _ _ hk2 => Kept.ite hk2
      (storePlaced_kept (unlist_kept hk2))) hk') hk

theorem startRollback_kept {j : Nat} {hdr : Option Hdr} (hk : Kept False n s₀ s) :
    Kept False n s₀ (startRollback s j hdr) := by
  dsimp only [startRollback]
  split
  · exact hk
  · exact emitJob_kept (restoreCkpt_kept (applyUndo_kept (modJob_kept
      (resetMasons_kept (failCapture_kept hk)))))

theorem clearFault_kept {j : Nat} {keep : List HoldCause} (hk : Kept False n s₀ s) :
    Kept False n s₀ (clearFault s j keep) := by
  dsimp only [clearFault]
  exact modJob_kept hk

theorem dieRelease_kept {face : Bool} {j : Nat} (hk : Kept False n s₀ s) :
    Kept False n s₀ (dieRelease face s j) := by
  dsimp only [dieRelease]
  exact Kept.ite (leaveFault_kept hk) (Kept.ite (startRollback_kept (clearFault_kept hk)) (stopJob_kept hk))

theorem modRstBlk_kept {f : Rst → Rst} (hk : Kept False n s₀ s) : Kept False n s₀ (modRstBlk s f) := .update hk

theorem dieDone_kept (hk : Kept False n s₀ s) : Kept False n s₀ (dieDone s) := by
  dsimp only [dieDone]
  refine Kept.ite hk ?_
  split
  · exact complete_kept (dropAccOf_kept (modRstBlk_kept (Kept.each (fun _ _ => dieRelease_kept) hk)))
  · exact emitDev_kept (modRstBlk_kept (Kept.each (fun _ _ => dieRelease_kept) hk))

theorem endRelocs_kept {j : Nat} (hk : Kept False n s₀ s) : Kept False n s₀ (endRelocs s j) := by
  dsimp only [endRelocs]
  exact Kept.each (fun _ _ => tileRetired_kept) (modSprBlk_kept hk)

theorem releaseFault_kept {j : Nat} (hk : Kept False n s₀ s) : Kept False n s₀ (releaseFault s j) := by
  dsimp only [releaseFault]
  exact Kept.ite (leaveFault_kept (endRelocs_kept hk)) (Kept.ite (startRollback_kept
      (clearFault_kept (endRelocs_kept hk))) (leaveFault_kept (endRelocs_kept hk)))

theorem verdict_kept {j c : Nat} (hk : Kept False n s₀ s) : Kept False n s₀ (verdict s j c) := by
  dsimp only [verdict]
  exact Kept.ite (Kept.ite (Kept.each (fun _ _ => listStartup_kept)
      (Kept.each (fun _ _ => verdictTile_kept) (modJob_kept hk))) (retryMoves_kept
      (modJob_kept (Kept.each (fun _ _ => verdictTile_kept) (modJob_kept hk)))))
      (Kept.ite (startedUp_kept (Kept.each (fun _ _ => verdictTile_kept) (modJob_kept hk)))
      (Kept.ite (dieDone_kept (modJob_kept (Kept.each (fun _ _ => verdictTile_kept) (modJob_kept hk))))
      (Kept.opt (Kept.each (fun _ _ => verdictTile_kept) (modJob_kept hk)) releaseFault_kept)))

theorem execTrowelVerdict_kept {job : Nat} {ups : List Upset} (hk : Kept False 16 s₀ s) :
    NextKept s₀ (execTrowelVerdict job ups s) := by
  dsimp only [execTrowelVerdict]
  exact .next (Kept.ite (verdict_kept (upsets_kept hk)) (Kept.ite (verdict_kept (upsets_kept hk)) hk))

theorem execStoreWriteback_kept {tile brick : Nat} (hk : Kept False 16 s₀ s) :
    NextKept s₀ (execStoreWriteback tile brick s) := by
  dsimp only [execStoreWriteback]
  exact atUnit_kept (modTile_kept hk)

theorem execStaticPreload_kept {job : Nat} {ups : List Upset} (hk : Kept False 16 s₀ s) :
    NextKept s₀ (execStaticPreload job ups s) := by
  dsimp only [execStaticPreload]
  exact .next (Kept.ite (verdict_kept (upsets_kept hk)) hk)

theorem execRefreshTimerExpiry_kept {job : Nat} (hk : Kept False 16 s₀ s) :
    NextKept s₀ (execRefreshTimerExpiry job s) := by
  dsimp only [execRefreshTimerExpiry]
  exact .next (Kept.ite (modJob_kept hk) hk)

theorem spareRow_kept {t b c r row sp : Nat} (hk : Kept False n s₀ s) :
    Kept False n s₀ (spareRow s t b c r row sp) := by
  dsimp only [spareRow]
  exact leafAdd_kept (emitDev_kept (addRepair_kept hk))

theorem repeatRule_kept {t b c r : Nat} (hk : Kept False n s₀ s) :
    Kept False n s₀ (repeatRule s t b c r).2 := by
  dsimp only [repeatRule]
  split
  · split
    · exact Kept.mk_snd (spareRow_kept (modSprBlk_kept hk))
    · exact Kept.mk_snd (modSprBlk_kept hk)
  · exact Kept.mk_snd (modSprBlk_kept hk)

theorem readFrame_kept {j vt b c r : Nat} (hk : Kept False n s₀ s) :
    Kept False n s₀ (readFrame s j vt b c r).2 := by
  unfold readFrame
  dsimp only
  split
  · exact hk
  · split
    · exact readGolden_kept hk
    · exact hk

theorem rewriteRow_kept {j t b c r : Nat} {viaStore : Bool} (hk : Kept False n s₀ s) :
    Kept False n s₀ (rewriteRow s j t b c r viaStore).2 := by
  unfold rewriteRow
  dsimp only
  split
  · split
    · split
      · exact Kept.mk_snd (setTile_kept hk)
      · exact hk
    · split
      · exact Kept.mk_snd (setTile_kept hk)
      · exact hk
  · exact hk

theorem handleRow_kept {j : Nat} {goldenBad : Bool} {r : Nat × Nat × Nat × Nat × Bool}
    (hk : Kept False n s₀ s) :
    Kept False n s₀ (handleRow j goldenBad s r) := by
  unfold handleRow
  dsimp only
  refine Kept.ite hk (Kept.opt' (Kept.opt ?_ retireTile_kept) (fun hk' => Kept.ite (goldenLost_kept ?_)
      (Kept.opt' (rewriteRow_kept ?_) goldenLost_kept)))
  · split
    · exact hk
    · exact repeatRule_kept hk
  · split
    · exact readFrame_kept hk'
    · exact hk'
  · split
    · exact readFrame_kept hk'
    · exact hk'

theorem sweepTile_kept {j n' : Nat} {e : Nat × Nat} (hk : Kept False n s₀ s) :
    Kept False n s₀ (sweepTile j n' s e) := by
  dsimp only [sweepTile]
  exact Kept.ite hk (Kept.each (fun _ _ => handleRow_kept) (noteFinds_kept hk))

theorem execRefreshSweep_kept {job : Nat} {ups : List Upset} (hk : Kept False 16 s₀ s) :
    NextKept s₀ (execRefreshSweep job ups s) := by
  dsimp only [execRefreshSweep]
  exact .next (Kept.ite hk (Kept.each (fun _ _ => sweepTile_kept) (modJob_kept (upsets_kept hk))))

theorem execRefreshSweepEnd_kept {job : Nat} (hk : Kept False 16 s₀ s) :
    NextKept s₀ (execRefreshSweepEnd job s) := by
  dsimp only [execRefreshSweepEnd]
  exact .next (modJob_kept hk)

theorem execHoldingSweep_kept {tile : Nat} (hk : Kept False 16 s₀ s) :
    NextKept s₀ (execHoldingSweep tile s) := by
  dsimp only [execHoldingSweep]
  exact atUnit_kept (Kept.ite (modTile_kept hk) hk)

theorem auditTile_kept {t : Nat} (hk : Kept False n s₀ s) : Kept False n s₀ (auditTile s t) := by
  dsimp only [auditTile]
  refine Kept.ite hk ?_
  split
  · exact Kept.opt (modTile_kept (noteStop_kept hk)) retireTile_kept
  · exact modJob_kept (faultHold_kept (modTile_kept (noteStop_kept hk)))

theorem reloadTile_kept {e : Nat × Nat} (hk : Kept False n s₀ s) : Kept False n s₀ (reloadTile s e) := by
  dsimp only [reloadTile]
  exact Kept.opt (Kept.ite (modTile_kept hk) hk) (fun hk' => retireTile_kept (modTile_kept hk'))

theorem handleFaults_kept {j : Nat} {goldenBad : Bool} (hk : Kept False n s₀ s) :
    Kept False n s₀ (handleFaults s j goldenBad) := by
  dsimp only [handleFaults]
  exact Kept.opt' (Kept.each (fun _ _ => handleRow_kept) (Kept.each (fun _ _ => reloadTile_kept)
      (Kept.each (fun _ _ => auditTile_kept) (enterFault_kept (modJob_kept hk))))) modJob_kept

theorem execFaultHoldHandling_kept {job : Nat} {goldenBad : Bool} (hk : Kept False 16 s₀ s) :
    NextKept s₀ (execFaultHoldHandling job goldenBad s) := by
  dsimp only [execFaultHoldHandling]
  exact .next (Kept.ite (handleFaults_kept hk) hk)

theorem execMismatchListExpiry_kept (hk : Kept False 16 s₀ s) : NextKept s₀ (execMismatchListExpiry s) := by
  dsimp only [execMismatchListExpiry]
  exact .next (modSprBlk_kept hk)

theorem sweepEntry_kept {t e b : Nat} (hk : Kept False n s₀ s) : Kept False n s₀ (sweepEntry t e s b) := by
  dsimp only [sweepEntry]
  split
  · exact leafAdd_kept (setTile_kept hk)
  · exact hk
  · split
    · refine Kept.ite (goldenLost_kept ?_) (emitDev_kept (setTile_kept ?_))
      · split
        · exact readFrame_kept (leafAdd_kept hk)
        · exact Kept.mk_snd (leafAdd_kept hk)
      · split
        · exact readFrame_kept (leafAdd_kept hk)
        · exact Kept.mk_snd (leafAdd_kept hk)
    · exact emitDev_kept (setTile_kept (leafAdd_kept hk))

theorem execStoreSweepRead_kept {tile : Nat} {ups : List Upset} (hk : Kept False 16 s₀ s) :
    NextKept s₀ (execStoreSweepRead tile ups s) := by
  dsimp only [execStoreSweepRead]
  exact atUnit_kept (Kept.opt' (upsets_kept hk) (fun hk' => modTile_kept
      (Kept.each (fun _ _ => sweepEntry_kept) hk')))

theorem execTrwRegisterAudit_kept {ups : List Upset} (hk : Kept False 16 s₀ s) :
    NextKept s₀ (execTrwRegisterAudit ups s) := by
  dsimp only [execTrwRegisterAudit]
  exact .next (Kept.each (fun _ _ => auditTile_kept) (upsets_kept hk))

theorem execVoteFix_kept {tile : Nat} {ups : List Upset} (hk : Kept False 16 s₀ s) :
    NextKept s₀ (execVoteFix tile ups s) := by
  dsimp only [execVoteFix]
  exact atUnit_kept (checkVote_kept (upsets_kept hk))

theorem execTrowelStop_kept {tile : Nat} {ups : List Upset} (hk : Kept False 16 s₀ s) :
    NextKept s₀ (execTrowelStop tile ups s) := by
  dsimp only [execTrowelStop]
  exact atUnit_kept (checkVote_kept (upsets_kept hk))

theorem modMbx_kept {fn m : Nat} {f : Mbx → Mbx} (hk : Kept False n s₀ s) :
    Kept False n s₀ (modMbx s fn m f) := .update hk

theorem respondJ_kept {h : Hdr} {opcode : Nat} {st : St} {job : Nat} {payload : List Byte}
    (hk : Kept False n s₀ s)
    :
    Kept False n s₀ (respondJ s h opcode st job payload) := by
  dsimp only [respondJ]
  exact Kept.ite (emitTo_kept (modMbx_kept hk)) (Kept.ite (emitTo_kept (modMbx_kept hk))
      (emitOut_kept (modMbx_kept hk)))

theorem respond_kept {h : Hdr} {opcode : Nat} {st : St} {payload : List Byte} (hk : Kept False n s₀ s) :
    Kept False n s₀ (respond s h opcode st payload) := by
  dsimp only [respond]
  exact respondJ_kept hk

theorem runCmd_kept {h : Hdr} {op : Nat} {who : From} {need : Bool} {body : Nat → State}
    (hk : Kept False n s₀ s)
    (hb : ∀ j, Kept False n s₀ (body j)) : Kept False n s₀ (runCmd s h op who need body) := by
  unfold runCmd
  split
  · exact respond_kept hk
  · exact hb _

theorem fail_kept {h : Hdr} {opcode : Nat} {st : St} (hk : Kept False n s₀ s) :
    Kept False n s₀ (fail s h opcode st) := by
  dsimp only [fail]
  exact respond_kept hk

theorem answerReq_kept (hk : Kept False n s₀ s) : Kept False n s₀ (answerReq s) := by
  unfold answerReq
  dsimp only
  split
  · exact respond_kept (Kept.update hk)
  · exact hk

theorem sendChunks_kept {k : Nat} {bs : List Byte} (hk : Kept False n s₀ s) :
    Kept False n s₀ (sendChunks k s bs) := by
  induction k generalizing s bs with
  | zero => exact hk
  | succ k ih => exact Kept.ite hk (ih (sendMsg_kept hk))

theorem forwardBytes_kept {bs : List Byte} (hk : Kept False n s₀ s) : Kept False n s₀ (forwardBytes s bs) := by
  dsimp only [forwardBytes]
  exact Kept.ite hk (Kept.ite (sendChunks_kept hk) (Kept.update hk))

theorem clearTile_kept {t : Nat} (hk : Kept False n s₀ s) : Kept False n s₀ (clearTile s t) := by
  dsimp only [clearTile]
  exact modTile_kept hk

theorem dropEntries_kept {j : Nat} (hk : Kept False n s₀ s) : Kept False n s₀ (dropEntries s j) := .update hk

theorem freeGolden_kept {img : Image} (hk : Kept False n s₀ s) : Kept False n s₀ (freeGolden s img) :=
  hk.trans ⟨rfl, id, id, id, id, id, mapWf_mapDrop s.mem.far none (inSpans img.spans), False.elim⟩

theorem failLoad_kept {st : St} (hk : Kept False n s₀ s) : Kept False n s₀ (failLoad s st) := by
  unfold failLoad
  dsimp only
  split
  · exact hk
  · refine Kept.ite ?_ (loadDone_kept (modJob_kept (dropEntries_kept
      (freeGolden_kept (Kept.each (fun _ _ => clearTile_kept) (Kept.ite (Kept.update hk)
      (Kept.update hk)))))))
    split
    · exact Kept.opt (respond_kept (Kept.ite (Kept.update hk) (Kept.update hk))) loadDone_kept
    · exact loadDone_kept (Kept.ite (Kept.update hk) (Kept.update hk))

/-- An accepted command joins fewer than sixteen, and what it does before that adds none. -/
theorem accept_kept {h : Hdr} {op : Nat} {args : List Nat} {f : State → State} (hk : Kept False 16 s₀ s)
    (hf : ∀ t, Kept False 15 s t → Kept False 15 s (f t)) : Kept False 16 s₀ (accept s h op args f) := by
  unfold accept
  split
  · exact fail_kept hk
  · next hroom =>
    obtain ⟨hpend, hlog, hacc, hmap, hlink, hnear, hfar, -⟩ := hf s (.refl s)
    refine respond_kept (hk.trans ⟨hpend, hlog, fun _ => ?_, hmap, hlink, hnear, hfar, False.elim⟩)
    have := hacc (by omega)
    simp only [List.length_append, List.length_singleton]
    omega

theorem takeHeader_kept {l : Load} {bs : List Byte} (hk : Kept False 16 s₀ s) :
    Kept False 16 s₀ (takeHeader s l bs) := by
  unfold takeHeader
  dsimp only
  split
  · exact failLoad_kept hk
  · split
    · exact Kept.ite (failLoad_kept hk) (accept_kept hk (fun _ hk' => modJob_kept (Kept.update hk')))
    · exact modJob_kept (Kept.update hk)

theorem takeDescriptor_kept {l : Load} {bs : List Byte} (hk : Kept False n s₀ s) :
    Kept False n s₀ (takeDescriptor s l bs) := by
  dsimp only [takeDescriptor]
  exact Kept.ite (failLoad_kept hk) (Kept.update hk)

theorem bindTile_kept {l : Load} {vt t' : Nat} (hk : Kept False n s₀ s) (e : bindTile s l vt = some (t', t)) :
    Kept False n s₀ t := by
  unfold bindTile at e
  split at e
  · cases e
  · cases e
    exact Kept.update (modTile_kept (endSweepOf_kept hk))

theorem takeBlock_kept {l : Load} {bs : List Byte} (hk : Kept False n s₀ s) :
    Kept False n s₀ (takeBlock s l bs) := by
  unfold takeBlock
  dsimp only
  split
  · exact failLoad_kept hk
  next _ _ _ heq =>
    split
    · exact failLoad_kept (Kept.update (bindTile_kept hk heq))
    · split
      · exact failLoad_kept (Kept.update (modTile_kept (bindTile_kept hk heq)))
      · exact Kept.opt (Kept.update (modTile_kept (bindTile_kept hk heq))) failLoad_kept

theorem takeSlab_kept {l : Load} {bs : List Byte} (hk : Kept False n s₀ s) :
    Kept False n s₀ (takeSlab s l bs) := by
  dsimp only [takeSlab]
  exact Kept.ite (failLoad_kept hk) (Kept.update hk)

theorem takeSignatures_kept {l : Load} {bs : List Byte} (hk : Kept False n s₀ s) :
    Kept False n s₀ (takeSignatures s l bs) := by
  dsimp only [takeSignatures]
  exact Kept.ite (failLoad_kept hk) (Kept.ite (failLoad_kept hk) (Kept.update hk))

theorem restartFlows_kept {j : Nat} (hk : Kept False n s₀ s) : Kept False n s₀ (restartFlows s j) := by
  dsimp only [restartFlows]
  exact modPalBlk_kept hk

theorem applyImage_kept {l : Load} (hk : Kept False n s₀ s) : Kept False n s₀ (applyImage s l) := by
  dsimp only [applyImage]
  exact Kept.opt (restartFlows_kept (modJob_kept (Kept.update (Kept.each (fun _ _ => modTile_kept) hk))))
      modArrBlk_kept

theorem applyWaiting_kept (hk : Kept False n s₀ s) : Kept False n s₀ (applyWaiting s) := by
  unfold applyWaiting
  dsimp only
  split
  · exact hk
  · exact Kept.ite hk (Kept.ite (failLoad_kept (readGolden_kept hk)) (applyImage_kept (readGolden_kept hk)))

theorem modClkBlk_kept {f : Clk → Clk} (hk : Kept False n s₀ s) : Kept False n s₀ (modClkBlk s f) := .update hk

theorem startChange_kept {mhz : Nat} (hk : Kept False n s₀ s) : Kept False n s₀ (startChange s mhz) := by
  dsimp only [startChange]
  exact Kept.ite hk (modClkBlk_kept hk)

theorem settleFab_kept (hk : Kept False n s₀ s) : Kept False n s₀ (settleFab s) := by
  dsimp only [settleFab]
  exact Kept.ite (startChange_kept hk) hk

theorem takeEnd_kept {l : Load} {bs : List Byte} (hk : Kept False n s₀ s) :
    Kept False n s₀ (takeEnd s l bs) := by
  dsimp only [takeEnd]
  exact Kept.ite (failLoad_kept hk) (Kept.ite (failLoad_kept hk) (applyWaiting_kept
      (settleFab_kept (Kept.update hk))))

theorem takeSection_kept {l : Load} {bs : List Byte} (hk : Kept False 16 s₀ s) :
    Kept False 16 s₀ (takeSection s l bs) := by
  dsimp only [takeSection]
  refine Kept.ite (failLoad_kept hk) ?_
  split
  · exact takeHeader_kept hk
  · exact takeDescriptor_kept hk
  · exact takeBlock_kept hk
  · exact takeSlab_kept hk
  · exact takeSignatures_kept hk
  · exact takeEnd_kept hk
  · exact hk
  · exact hk

theorem feedLoad_kept {k : Nat} (hk : Kept False 16 s₀ s) : Kept False 16 s₀ (feedLoad k s) := by
  induction k generalizing s with
  | zero => exact hk
  | succ k ih =>
    unfold feedLoad
    split
    · exact hk
    · split
      · exact hk
      · exact Kept.ite (failLoad_kept hk) (Kept.ite hk (ih (takeSection_kept hk)))

theorem chainBytes_kept {bs : List Byte} (hk : Kept False 16 s₀ s) : Kept False 16 s₀ (chainBytes s bs) := by
  unfold chainBytes
  dsimp only
  split
  · exact hk
  · exact Kept.ite hk (feedLoad_kept (Kept.update hk))

theorem passBytes_kept {bs : List Byte} (hk : Kept False 16 s₀ s) : Kept False 16 s₀ (passBytes s bs) := by
  dsimp only [passBytes]
  exact Kept.ite (forwardBytes_kept (Kept.update hk)) (Kept.opt (Kept.update hk) chainBytes_kept)

theorem chainOver_kept {endPassed : Bool} (hk : Kept False n s₀ s) :
    Kept False n s₀ (chainOver s endPassed) := by
  dsimp only [chainOver]
  exact Kept.update (answerReq_kept (Kept.ite hk (emitDev_kept hk)))

theorem passEnd_kept {bs : List Byte} (hk : Kept False n s₀ s) : Kept False n s₀ (passEnd s bs) := by
  dsimp only [passEnd]
  exact chainOver_kept (forwardBytes_kept hk)

theorem keepImage_kept {hd : List Byte} (hk : Kept False 16 s₀ s) : Kept False 16 s₀ (keepImage s hd) := by
  dsimp only [keepImage]
  exact Kept.ite (loadDone_kept (Kept.update hk)) (chainBytes_kept (Kept.update hk))

theorem beginImage_kept {hd : List Byte} (hk : Kept False 16 s₀ s) : Kept False 16 s₀ (beginImage s hd) := by
  dsimp only [beginImage]
  exact Kept.ite (keepImage_kept (Kept.update hk)) (Kept.ite (Kept.update hk)
      (forwardBytes_kept (Kept.update hk)))

theorem feedChain_kept {k : Nat} {bs : List Byte} (hk : Kept False 16 s₀ s) :
    Kept False 16 s₀ (feedChain k s bs) := by
  induction k generalizing s bs with
  | zero => exact hk
  | succ k ih =>
    exact Kept.ite hk (Kept.ite (ih (passBytes_kept hk)) (Kept.ite (Kept.update hk)
      (ih (Kept.ite (passEnd_kept (Kept.update hk)) (beginImage_kept (Kept.update hk))))))

theorem chainStream_kept {bs : List Byte} (hk : Kept False 16 s₀ s) : Kept False 16 s₀ (chainStream s bs) := by
  dsimp only [chainStream]
  exact Kept.ite hk (feedChain_kept (Kept.update hk))

theorem execCmdImageLoad_kept {h : Hdr} {noRelease : Bool} {b : Bulk} (hk : Kept False 16 s₀ s) :
    NextKept s₀ (execCmdImageLoad h noRelease b s) := by
  dsimp only [execCmdImageLoad]
  refine .next (runCmd_kept hk (fun _ => ?_))
  split
  · exact respond_kept hk
  · exact Kept.ite (fail_kept hk) (Kept.ite (fail_kept hk) (Kept.ite
      (answerReq_kept (chainStream_kept (Kept.update hk))) (Kept.update hk)))

theorem hostSection_kept {stage : LoadStage} {least : Nat} {bs : List Byte} (hk : Kept False 16 s₀ s) :
    Kept False 16 s₀ (hostSection s stage least bs) := by
  unfold hostSection
  split
  · exact hk
  · exact Kept.ite hk (Kept.ite (failLoad_kept hk) (takeSection_kept hk))

theorem execImageHeader_kept {bytes : List Byte} (hk : Kept False 16 s₀ s) :
    NextKept s₀ (execImageHeader bytes s) := by
  dsimp only [execImageHeader]
  exact .next (hostSection_kept hk)

theorem execImageDescriptor_kept {bytes : List Byte} (hk : Kept False 16 s₀ s) :
    NextKept s₀ (execImageDescriptor bytes s) := by
  dsimp only [execImageDescriptor]
  exact .next (hostSection_kept hk)

theorem execImageTileBlock_kept {bytes : List Byte} (hk : Kept False 16 s₀ s) :
    NextKept s₀ (execImageTileBlock bytes s) := by
  dsimp only [execImageTileBlock]
  exact .next (hostSection_kept hk)

theorem execImageSlabBlock_kept {bytes : List Byte} (hk : Kept False 16 s₀ s) :
    NextKept s₀ (execImageSlabBlock bytes s) := by
  dsimp only [execImageSlabBlock]
  exact .next (hostSection_kept hk)

theorem execImageSignatureTable_kept {bytes : List Byte} (hk : Kept False 16 s₀ s) :
    NextKept s₀ (execImageSignatureTable bytes s) := by
  dsimp only [execImageSignatureTable]
  exact .next (hostSection_kept hk)

theorem execImageEndRecord_kept {bytes : List Byte} (hk : Kept False 16 s₀ s) :
    NextKept s₀ (execImageEndRecord bytes s) := by
  dsimp only [execImageEndRecord]
  exact .next (hostSection_kept hk)

theorem readBlock_kept {img : Image} {vt : Nat} (hk : Kept False n s₀ s) :
    Kept False n s₀ (readBlock s img vt).2 := by
  dsimp only [readBlock]
  exact readGolden_kept hk

theorem execTileRebind_kept {vt : Nat} (hk : Kept False 16 s₀ s) : NextKept s₀ (execTileRebind vt s) := by
  dsimp only [execTileRebind]
  refine .next ?_
  split
  · exact hk
  · split
    · exact hk
    · split
      · exact failLoad_kept hk
      · exact Kept.ite (failLoad_kept (readBlock_kept hk)) (Kept.update
          (modTile_kept (clearTile_kept (endSweepOf_kept (readBlock_kept hk)))))

theorem execLoadSilenceTimeout_kept (hk : Kept False 16 s₀ s) : NextKept s₀ (execLoadSilenceTimeout s) := by
  dsimp only [execLoadSilenceTimeout]
  refine .next ?_
  split
  · exact hk
  · exact Kept.ite hk (failLoad_kept hk)

theorem answer_kept {h : Hdr} {opcode : Nat} {payload : List Byte} (hk : Kept False n s₀ s) :
    Kept False n s₀ (answer s h opcode payload) := by
  dsimp only [answer]
  exact respond_kept hk

theorem execCmdImageAbort_kept {h : Hdr} (hk : Kept False 16 s₀ s) : NextKept s₀ (execCmdImageAbort h s) := by
  dsimp only [execCmdImageAbort]
  exact .next (runCmd_kept hk (fun _ => Kept.ite (fail_kept hk) (failLoad_kept (answer_kept hk))))

theorem execCmdImageReadbackGolden_kept {h : Hdr} {vfirst vcount cfirst ccount : Nat} {b : Bulk}
    (hk : Kept False 16 s₀ s) :
    NextKept s₀ (execCmdImageReadbackGolden h vfirst vcount cfirst ccount b s) := by
  dsimp only [execCmdImageReadbackGolden]
  refine .next (runCmd_kept hk (fun _ => ?_))
  split
  · exact respond_kept hk
  · split
    · exact fail_kept hk
    · exact Kept.ite (fail_kept hk) (Kept.ite (fail_kept hk) (accept_kept hk (fun _ => emitOut_kept)))

theorem planeRun_kept {j cfirst ccount : Nat} {acc : List Byte × State} {vt : Nat}
    (hk : Kept False n s₀ acc.2) :
    Kept False n s₀ (planeRun j cfirst ccount acc vt).2 := by
  dsimp only [planeRun]
  split
  · exact hk
  · refine Kept.foldl_by Prod.snd (fun _ _ hk' => Kept.mk_snd ?_) hk
    split
    · exact takeFree_kept hk'
    · exact hk'

theorem execCmdImageReadbackPlanes_kept {h : Hdr} {vfirst vcount cfirst ccount : Nat} {b : Bulk}
    (hk : Kept False 16 s₀ s) :
    NextKept s₀ (execCmdImageReadbackPlanes h vfirst vcount cfirst ccount b s) := by
  dsimp only [execCmdImageReadbackPlanes]
  refine .next (runCmd_kept hk (fun _ => ?_))
  split
  · exact respond_kept hk
  · exact Kept.ite (fail_kept hk) (Kept.ite (fail_kept hk) (accept_kept hk
      (fun _ hk' => emitOut_kept (Kept.foldl_by Prod.snd (fun _ _ => planeRun_kept) hk'))))

theorem chainPort_kept {p : Nat} (hk : Kept False n s₀ s) : Kept False n s₀ (chainPort s p) := by
  dsimp only [chainPort]
  exact Kept.each (fun _ _ => modLane_kept) (setPort_kept hk)

theorem execCmdChainArm_kept {h : Hdr} (hk : Kept False 16 s₀ s) : NextKept s₀ (execCmdChainArm h s) := by
  dsimp only [execCmdChainArm]
  exact .next (runCmd_kept hk fun _ => .ite (fail_kept hk) (.opt' (answer_kept hk) fun hk' =>
    Kept.update (Kept.each (fun _ _ => chainPort_kept) hk')))

theorem endSession_kept (hk : Kept False n s₀ s) : Kept False n s₀ (endSession s) := by
  dsimp only [endSession]
  refine chainOver_kept (Kept.opt ?_ sendMsg_kept)
  split
  · exact Kept.ite (failLoad_kept hk) hk
  · exact hk

theorem execCmdChainDisarm_kept {h : Hdr} (hk : Kept False 16 s₀ s) : NextKept s₀ (execCmdChainDisarm h s) := by
  dsimp only [execCmdChainDisarm]
  refine .next (runCmd_kept hk (fun _ => Kept.opt' (answer_kept hk) (fun hk' => endSession_kept ?_)))
  split
  · exact Kept.opt hk' (fun _ => failLoad_kept hk')
  · exact hk'

theorem portPower_kept {p : Nat} {tx : Bool} {from_ into : LPower} (hk : Kept False n s₀ s) :
    Kept False n s₀ (portPower s p tx from_ into) := by
  dsimp only [portPower]
  exact Kept.each (fun _ _ => modLane_kept) hk

theorem wakeTx_kept {p : Nat} (hk : Kept False n s₀ s) : Kept False n s₀ (wakeTx s p) := by
  dsimp only [wakeTx]
  exact Kept.ite (portPower_kept (modPort_kept (emitOut_kept hk))) hk

theorem sendCtl_kept {p kind : Nat} {body : List Byte} (hk : Kept False n s₀ s) :
    Kept False n s₀ (sendCtl s p kind body) := by
  dsimp only [sendCtl]
  exact putSlot_kept (modPort_kept (wakeTx_kept hk))

theorem sendAck_kept {p : Nat} (hk : Kept False n s₀ s) : Kept False n s₀ (sendAck s p) := by
  dsimp only [sendAck]
  exact sendCtl_kept (setPort_kept hk)

theorem takeMsg_kept {p : Nat} {m : RxMsg} (hk : Kept False n s₀ s) : Kept False n s₀ (takeMsg s p m) := by
  dsimp only [takeMsg]
  exact Kept.opt (modPort_kept hk) sendAck_kept

theorem execChainData_kept (hk : Kept False 16 s₀ s) : NextKept s₀ (execChainData s) := by
  dsimp only [execChainData]
  refine .next ?_
  split
  · exact hk
  · exact Kept.opt (takeMsg_kept hk) chainStream_kept

theorem execChainSessionSilence_kept (hk : Kept False 16 s₀ s) : NextKept s₀ (execChainSessionSilence s) := by
  dsimp only [execChainSessionSilence]
  exact .next (Kept.ite (endSession_kept hk) hk)

theorem execChainAbort_kept (hk : Kept False 16 s₀ s) : NextKept s₀ (execChainAbort s) := by
  dsimp only [execChainAbort]
  refine .next ?_
  split
  · exact hk
  · exact Kept.opt (takeMsg_kept hk) endSession_kept

theorem restorePort_kept {p : Nat} (hk : Kept False n s₀ s) : Kept False n s₀ (restorePort s p) := by
  dsimp only [restorePort]
  exact Kept.ite (Kept.each (fun _ _ => modLane_kept) (setPort_kept hk)) hk

theorem execChainPortsRestore_kept (hk : Kept False 16 s₀ s) : NextKept s₀ (execChainPortsRestore s) := by
  dsimp only [execChainPortsRestore]
  exact .next (Kept.ite hk (Kept.each (fun _ _ => restorePort_kept) (Kept.update hk)))

theorem updatePasr_kept (hk : Kept False n s₀ s) : Kept False n s₀ (updatePasr s) := by
  dsimp only [updatePasr]
  exact modLpBlk_kept hk

theorem takeFrame_kept {j : Nat} {pf : Nat × Nat} (hk : Kept False n s₀ s) :
    Kept False n s₀ (takeFrame j s pf) := by
  dsimp only [takeFrame]
  exact modMemBlk_kept hk

theorem execCmdMemMap_kept {h : Hdr} {first count : Nat} (hk : Kept False 16 s₀ s) :
    NextKept s₀ (execCmdMemMap h first count s) := by
  dsimp only [execCmdMemMap]
  exact .next (runCmd_kept hk (fun _ => Kept.ite (fail_kept hk) (Kept.ite (fail_kept hk)
      (Kept.ite (fail_kept hk) (accept_kept hk (fun _ hk' => updatePasr_kept
      (Kept.each (fun _ _ => takeFrame_kept) hk')))))))

theorem dropAcc_kept (hk : Kept False n s₀ s) {op : Nat} : Kept False n s₀ (dropAcc s op) := by
  unfold dropAcc
  split
  · exact hk.trans ⟨rfl, id, fun hl => (List.length_eraseIdx_le ..).trans hl, id, id, id, id, False.elim⟩
  · exact hk

theorem dropFrame_kept {frame : Nat} (hk : Kept False n s₀ s) : Kept False n s₀ (dropFrame s frame) :=
  hk.trans ⟨rfl, id, id, id, id, id, mapWf_mapDrop s.mem.far none fun k => k / 8192 == frame, False.elim⟩

theorem finishMap_kept {p : Nat} (hk : Kept False n s₀ s) : Kept False n s₀ (finishMap s p) := by
  unfold finishMap
  split
  · exact hk
  · exact modMemBlk_kept (setPpt_kept (dropFrame_kept hk))

theorem memMapDone_kept (hk : Kept False n s₀ s) : Kept False n s₀ (memMapDone s) := by
  unfold memMapDone
  dsimp only
  split
  · exact complete_kept (dropAcc_kept (Kept.each (fun _ _ => finishMap_kept) hk))
  · exact hk

theorem execMemMapDone_kept (hk : Kept False 16 s₀ s) : NextKept s₀ (execMemMapDone s) := by
  dsimp only [execMemMapDone]
  exact .next (memMapDone_kept hk)

theorem dropQuar_kept {p : Nat} (hk : Kept False n s₀ s) : Kept False n s₀ (dropQuar s p) := by
  dsimp only [dropQuar]
  exact modMemBlk_kept hk

theorem cancelMoves_kept {p : Nat} (hk : Kept False n s₀ s) : Kept False n s₀ (cancelMoves s p) := by
  dsimp only [cancelMoves]
  exact modMemBlk_kept hk

theorem unmapPage_kept {p : Nat} (hk : Kept False n s₀ s) : Kept False n s₀ (unmapPage s p) := by
  dsimp only [unmapPage]
  refine modMemBlk_kept (setPpt_kept ?_)
  split
  · exact dropFrame_kept (dropQuar_kept (freeNearOf_kept (cancelMoves_kept hk)))
  · exact dropQuar_kept (freeNearOf_kept (cancelMoves_kept hk))

theorem execCmdMemUnmap_kept {h : Hdr} {first count : Nat} (hk : Kept False 16 s₀ s) :
    NextKept s₀ (execCmdMemUnmap h first count s) := by
  dsimp only [execCmdMemUnmap]
  exact .next (runCmd_kept hk (fun _ => Kept.ite (fail_kept hk) (Kept.ite (fail_kept hk)
      (Kept.ite (fail_kept hk) (answer_kept (updatePasr_kept (Kept.each (fun _ _ => unmapPage_kept) hk)))))))

theorem fetchAll_kept {rs : List MemReq} (hk : Kept False n s₀ s) : Kept False n s₀ (fetchAll rs s).2 := by
  induction rs generalizing s with
  | nil => exact hk
  | cons r rs ih =>
    dsimp only [fetchAll]
    split
    · exact ih (fetchEntry_kept hk)
    · exact fetchEntry_kept hk

theorem setResult_kept {j : Nat} {r : MemReq} {st : AccStatus} {d : BitVec 512} (hk : Kept False n s₀ s) :
    Kept False n s₀ (setResult s j r st d) := by
  dsimp only [setResult]
  exact modJob_kept hk

theorem countAccess_kept {p n' : Nat} (hk : Kept False n s₀ s) : Kept False n s₀ (countAccess s p n') := by
  dsimp only [countAccess]
  exact modTelBlk_kept hk

theorem readReq_kept {j : Nat} {r : MemReq} (hk : Kept False n s₀ s) : Kept False n s₀ (readReq j s r) := by
  dsimp only [readReq]
  refine Kept.ite (setResult_kept hk) ?_
  split
  · exact setResult_kept (countAccess_kept hk)
  · exact setResult_kept (readLine_kept (countAccess_kept hk))

theorem writeReqs_kept {j : Nat} {rs : List MemReq} (hk : Kept False n s₀ s) :
    Kept False n s₀ (writeReqs j s rs) := by
  unfold writeReqs
  dsimp only
  split
  · exact hk
  · split
    · exact Kept.each (fun _ _ => setResult_kept) (countAccess_kept hk)
    · exact Kept.each (fun _ _ => setResult_kept) (writeLine_kept (countAccess_kept hk))

theorem memoryAccess_kept {j : Nat} {ups : List Upset} (hk : Kept False n s₀ s) :
    Kept False n s₀ (memoryAccess s j ups) := by
  dsimp only [memoryAccess]
  exact Kept.opt' (upsets_kept hk) (fun hk' => Kept.opt' (fetchAll_kept hk')
      (fun hk2 => Kept.each (fun _ _ => writeReqs_kept) (Kept.each (fun _ _ => setResult_kept)
      (Kept.each (fun _ _ => readReq_kept) hk2))))

theorem execDesignMemoryAccess_kept {job : Nat} {ups : List Upset} (hk : Kept False 16 s₀ s) :
    NextKept s₀ (execDesignMemoryAccess job ups s) := by
  dsimp only [execDesignMemoryAccess]
  exact .next (memoryAccess_kept hk)

theorem holdAccess_kept {a : HostAcc} (hk : Kept False n s₀ s) : Kept False n s₀ (holdAccess s a) := by
  dsimp only [holdAccess]
  exact modLpBlk_kept hk

theorem denied_kept {m : Nat} (hk : Kept False n s₀ s) : Kept False n s₀ (denied s m) := by
  dsimp only [denied]
  exact Kept.opt (leafAdd_kept hk) (fun hk' => emitDev_kept (modMemBlk_kept hk'))

theorem masterReadLine_kept {m dl units : Nat} (hk : Kept False n s₀ s) :
    Kept False n s₀ (masterReadLine s m dl units).2.2 := by
  unfold masterReadLine
  dsimp only
  split
  · exact Kept.mk_snd2 (readEntry_kept hk)
  · split
    · exact Kept.mk_snd2 (readEntry_kept hk)
    · split
      · exact readLine_kept (countAccess_kept (readEntry_kept hk))
      · exact Kept.mk_snd2 (denied_kept (readEntry_kept hk))

theorem farLineRead_kept {master dl : Nat} {ups : List Upset} (hk : Kept False n s₀ s) :
    Kept False n s₀ (farLineRead s master dl ups) := by
  dsimp only [farLineRead]
  exact Kept.opt' (upsets_kept hk) (fun hk' => Kept.ite (Kept.opt hk' (fun _ => holdAccess_kept hk'))
      (Kept.opt (masterReadLine_kept hk') emitOut_kept))

theorem execFarLineRead_kept {master line : Nat} {ups : List Upset} (hk : Kept False 16 s₀ s) :
    NextKept s₀ (execFarLineRead master line ups s) := by
  dsimp only [execFarLineRead]
  exact atUnit_kept (farLineRead_kept hk)

theorem masterWriteLine_kept {m : Nat} {host : Bool} {dl off : Nat} {bs : List Byte} (hk : Kept False n s₀ s) :
    Kept False n s₀ (masterWriteLine s m host dl off bs).2 := by
  unfold masterWriteLine
  dsimp only
  split
  · exact Kept.mk_snd (readEntry_kept hk)
  · split
    · exact Kept.mk_snd (readEntry_kept hk)
    · split
      · exact Kept.mk_snd (denied_kept (readEntry_kept hk))
      · split
        · exact Kept.mk_snd (modJob_kept (readEntry_kept hk))
        · split
          · exact Kept.mk_snd (addRecord_kept (writeLine_kept (countAccess_kept (readEntry_kept hk))))
          · exact Kept.mk_snd (writeLine_kept (countAccess_kept (readEntry_kept hk)))

theorem masterWrite_kept {m : Nat} {host : Bool} {addr : Nat} {bs : List Byte} (hk : Kept False n s₀ s) :
    Kept False n s₀ (masterWrite s m host addr bs).2 := by
  dsimp only [masterWrite]
  refine Kept.foldl_by (fun p : _ × State × _ => p.2.1) (fun _ _ hk' => ?_) hk
  split
  · exact Kept.mk_snd1 (masterWriteLine_kept hk')
  · exact hk'

theorem farLineWrite_kept {master addr : Nat} {data : List Byte} (hk : Kept False n s₀ s) :
    Kept False n s₀ (farLineWrite s master addr data) := by
  dsimp only [farLineWrite]
  exact Kept.ite hk (Kept.ite (Kept.ite (holdAccess_kept hk) hk) (masterWrite_kept hk))

theorem execFarLineWrite_kept {master addr : Nat} {data : List Byte} (hk : Kept False 16 s₀ s) :
    NextKept s₀ (execFarLineWrite master addr data s) := by
  dsimp only [execFarLineWrite]
  exact atUnit_kept (farLineWrite_kept hk)

theorem execTileMemoryReply_kept {job vt port : Nat} (hk : Kept False 16 s₀ s) :
    NextKept s₀ (execTileMemoryReply job vt port s) := by
  dsimp only [execTileMemoryReply]
  exact atUnit_kept (modJob_kept hk)

theorem execPlcEntryRebuild_kept {page : Nat} (hk : Kept False 16 s₀ s) :
    NextKept s₀ (execPlcEntryRebuild page s) := by
  dsimp only [execPlcEntryRebuild]
  exact .next (Kept.ite (rebuildEntry_kept hk) hk)

theorem setNode_kept {p : Nat} {n' : PNode} (hk : Kept False n s₀ s) : Kept False n s₀ (setNode s p n') := by
  dsimp only [setNode]
  exact modTelBlk_kept hk

theorem setRoot_kept {i : Nat} {r : Root} (hk : Kept False n s₀ s) : Kept False n s₀ (setRoot s i r) := by
  dsimp only [setRoot]
  exact modTelBlk_kept hk

theorem freezePage_kept {v : Bool} {p : Nat} (hk : Kept False n s₀ s) : Kept False n s₀ (freezePage v s p) := by
  dsimp only [freezePage]
  exact modPpt_kept hk

theorem nodeMark_kept {p : Nat} (hk : Kept False n s₀ s) : Kept False n s₀ (nodeMark s p) := by
  dsimp only [nodeMark]
  exact freezePage_kept (emitDev_kept (setRoot_kept (setNode_kept hk)))

theorem checkNode_kept {p : Nat} (hk : Kept False n s₀ s) : Kept False n s₀ (checkNode s p) := by
  dsimp only [checkNode]
  refine Kept.ite hk ?_
  split
  · exact setNode_kept hk
  · exact nodeMark_kept hk

theorem rootInvalid_kept {i : Nat} (hk : Kept False n s₀ s) : Kept False n s₀ (rootInvalid s i) := by
  dsimp only [rootInvalid]
  exact Kept.opt (emitDev_kept (setRoot_kept hk)) (fun hk' => Kept.each (fun _ _ => freezePage_kept) hk')

theorem checkRoot_kept {i : Nat} (hk : Kept False n s₀ s) : Kept False n s₀ (checkRoot s i) := by
  dsimp only [checkRoot]
  refine Kept.ite hk ?_
  split
  · exact setRoot_kept hk
  · exact rootInvalid_kept hk

theorem rollInto_kept {i n' : Nat} (hk : Kept False n s₀ s) : Kept False n s₀ (rollInto s i n') := by
  dsimp only [rollInto]
  exact Kept.opt' (checkRoot_kept hk) (fun hk' => Kept.ite (setRoot_kept hk')
      (emitDev_kept (setRoot_kept hk')))

theorem branchRolls_kept (hk : Kept False n s₀ s) : Kept False n s₀ (branchRolls s) := by
  dsimp only [branchRolls]
  exact Kept.each (fun _ _ => rollInto_kept) hk

theorem clearNodes_kept (hk : Kept False n s₀ s) : Kept False n s₀ (clearNodes s) := by
  dsimp only [clearNodes]
  exact modTelBlk_kept hk

theorem updateHeat_kept {k : Knobs} (hk : Kept False n s₀ s) : Kept False n s₀ (updateHeat k s) := by
  dsimp only [updateHeat]
  exact Kept.each (fun _ _ => modPpt_kept) hk

theorem readEntries_kept (hk : Kept False n s₀ s) : Kept False n s₀ (readEntries s) := by
  dsimp only [readEntries]
  exact Kept.each (fun _ _ => fetchEntry_kept) hk

theorem addMove_kept {p : Nat} {demote : Bool} (hk : Kept False n s₀ s) :
    Kept False n s₀ (addMove s p demote) := by
  dsimp only [addMove]
  exact modMemBlk_kept hk

theorem demoteExcluded_kept {k : Knobs} (hk : Kept False n s₀ s) : Kept False n s₀ (demoteExcluded k s).2 := by
  dsimp only [demoteExcluded]
  refine Kept.foldl_by Prod.snd (fun _ _ hk' => ?_) hk
  split
  · exact Kept.mk_snd (addMove_kept hk')
  · exact hk'

theorem considerPage_kept {k : Knobs} {acc : Nat × State} {c : Nat × Ppt} (hk : Kept False n s₀ acc.2) :
    Kept False n s₀ (considerPage k acc c).2 := by
  unfold considerPage
  dsimp only
  split
  · exact hk
  · split
    · exact Kept.mk_snd (addMove_kept hk)
    · split
      · split
        · split
          · exact Kept.mk_snd (addMove_kept (addMove_kept hk))
          · exact hk
        · exact hk
      · exact hk

theorem clearNear_kept {f : Nat} (hk : Kept False n s₀ s) : Kept False n s₀ (clearNear s f) :=
  hk.trans ⟨rfl, id, id, id, id, mapWf_mapDrop s.mem.near 0 fun k => k / 131072 == f, id, False.elim⟩

/-- The recursion is opened by `delta`: the equations of `startMove` cannot be derived without running the
decoder on the open entry word. -/
theorem startMove_kept {k : Nat} (hk : Kept False n s₀ s) : Kept False n s₀ (startMove k s) := by
  induction k generalizing s with
  | zero => exact hk
  | succ k ih =>
    generalize hnext : startMove k = next at ih
    delta startMove at hnext ⊢
    dsimp only [Nat.brecOn.go, startMove._f] at hnext ⊢
    eta_reduce at hnext
    rw [hnext]
    split
    · exact hk
    next p demote rest _ =>
      have hf : Kept False n s₀ (fetchEntry s p).2 := fetchEntry_kept hk
      have skip {t : State} (ht : Kept False n s₀ t) :
          Kept False n s₀ (next (modMemBlk t fun m => { m with moves := rest })) := ih (modMemBlk_kept ht)
      refine .ite (skip hf) (.ite (.ite (skip hf) (.ite
        (modMemBlk_kept (setPpt_kept hf)) (skip (settleFar_kept hf)))) ?_)
      split
      · exact modMemBlk_kept (setPpt_kept (clearNear_kept hf))
      · exact skip hf

theorem nextMove_kept (hk : Kept False n s₀ s) : Kept False n s₀ (nextMove s) := by
  unfold nextMove
  split
  · exact hk
  · exact Kept.ite hk (startMove_kept hk)

theorem epochMoves_kept (hk : Kept False n s₀ s) : Kept False n s₀ (epochMoves s) := by
  dsimp only [epochMoves]
  exact nextMove_kept (Kept.foldl_by Prod.snd (fun _ _ => considerPage_kept)
      (demoteExcluded_kept (updateHeat_kept (readEntries_kept (modMemBlk_kept hk)))))

theorem restartNodes_kept (hk : Kept False n s₀ s) : Kept False n s₀ (restartNodes s) := by
  dsimp only [restartNodes]
  exact modTelBlk_kept hk

theorem unfreeze_kept (hk : Kept False n s₀ s) : Kept False n s₀ (unfreeze s) := by
  dsimp only [unfreeze]
  exact Kept.each (fun _ _ => freezePage_kept) hk

theorem takeSnapshot_kept (hk : Kept False n s₀ s) : Kept False n s₀ (takeSnapshot s) := by
  dsimp only [takeSnapshot]
  exact modTelBlk_kept hk

theorem epochEnd_kept (hk : Kept False n s₀ s) : Kept False n s₀ (epochEnd s) := by
  dsimp only [epochEnd]
  exact restartNodes_kept (unfreeze_kept (takeSnapshot_kept (clearNodes_kept
      (epochMoves_kept (branchRolls_kept (Kept.each (fun _ _ => checkNode_kept) hk))))))

theorem execPlacementEpochEnd_kept (hk : Kept False 16 s₀ s) : NextKept s₀ (execPlacementEpochEnd s) := by
  dsimp only [execPlacementEpochEnd]
  exact .next (Kept.ite (epochEnd_kept hk) hk)

theorem switchEntry_kept {p : Nat} (hk : Kept False n s₀ s) : Kept False n s₀ (switchEntry s p) := by
  dsimp only [switchEntry]
  exact Kept.ite hk (Kept.ite (Kept.ite (settleFar_kept hk) (modPpt_kept hk))
      (Kept.ite (setReverse_kept (modPpt_kept hk)) (settleFar_kept hk)))

theorem finishMove_kept {p : Nat} (hk : Kept False n s₀ s) : Kept False n s₀ (finishMove s p) := by
  unfold finishMove
  dsimp only
  split
  · exact hk
  · exact Kept.opt' (fetchEntry_kept hk) (fun hk' => nextMove_kept (switchEntry_kept
      (copyOn_kept (modMemBlk_kept hk'))))

theorem execPageMigrationDone_kept {page : Nat} {ups : List Upset} (hk : Kept False 16 s₀ s) :
    NextKept s₀ (execPageMigrationDone page ups s) := by
  dsimp only [execPageMigrationDone]
  exact .next (Kept.opt (upsets_kept hk) finishMove_kept)

theorem execCmdPlcPolicy_kept {h : Hdr} {k : Knobs} (hk : Kept False 16 s₀ s) :
    NextKept s₀ (execCmdPlcPolicy h k s) := by
  dsimp only [execCmdPlcPolicy]
  exact .next (runCmd_kept hk (fun _ => Kept.ite (fail_kept hk) (answer_kept (modMemBlk_kept hk))))

theorem execCmdPlcQuery_kept {h : Hdr} {first count : Nat} (hk : Kept False 16 s₀ s) :
    NextKept s₀ (execCmdPlcQuery h first count s) := by
  dsimp only [execCmdPlcQuery]
  exact .next (runCmd_kept hk (fun _ => Kept.ite (fail_kept hk) (Kept.ite (fail_kept hk)
      (answer_kept (Kept.each (fun _ _ => readEntry_kept) hk)))))

theorem setPins_kept {pin exclude : Bool} {p : Nat} (hk : Kept False n s₀ s) :
    Kept False n s₀ (setPins pin exclude s p) := by
  dsimp only [setPins]
  exact modMirror_kept (modPpt_kept hk)

theorem execCmdMemPinPin_kept {h : Hdr} {first count : Nat} {alsoExclude : Bool} (hk : Kept False 16 s₀ s) :
    NextKept s₀ (execCmdMemPinPin h first count alsoExclude s) := by
  dsimp only [execCmdMemPinPin]
  refine .next (runCmd_kept hk (fun _ => ?_))
  split
  · exact fail_kept hk
  · exact Kept.ite (fail_kept hk) (Kept.ite (fail_kept hk) (answer_kept
      (Kept.each (fun _ _ => setPins_kept) hk)))

theorem execCmdMemPinExclude_kept {h : Hdr} {first count : Nat} (hk : Kept False 16 s₀ s) :
    NextKept s₀ (execCmdMemPinExclude h first count s) := by
  dsimp only [execCmdMemPinExclude]
  refine .next (runCmd_kept hk (fun _ => ?_))
  split
  · exact fail_kept hk
  · exact Kept.ite (fail_kept hk) (answer_kept (Kept.each (fun _ _ => setPins_kept) hk))

theorem execCmdMemPinClear_kept {h : Hdr} {first count : Nat} (hk : Kept False 16 s₀ s) :
    NextKept s₀ (execCmdMemPinClear h first count s) := by
  dsimp only [execCmdMemPinClear]
  refine .next (runCmd_kept hk (fun _ => ?_))
  split
  · exact fail_kept hk
  · exact answer_kept (Kept.each (fun _ _ => setPins_kept) hk)

theorem execCmdMemPageReset_kept {h : Hdr} {page : Nat} (hk : Kept False 16 s₀ s) :
    NextKept s₀ (execCmdMemPageReset h page s) := by
  dsimp only [execCmdMemPageReset]
  exact .next (runCmd_kept hk (fun _ => Kept.ite (fail_kept hk) (Kept.ite (fail_kept hk)
      (Kept.ite (fail_kept hk) (Kept.ite (fail_kept hk) (accept_kept hk (fun _ hk' => hk')))))))

theorem resetPage_kept {p : Nat} (hk : Kept False n s₀ s) : Kept False n s₀ (resetPage s p) := by
  unfold resetPage
  dsimp only
  split
  · exact hk
  · exact modMirror_kept (setPpt_kept (dropFrame_kept (dropQuar_kept
      (freeNearOf_kept (cancelMoves_kept hk)))))

theorem pageResetDone_kept (hk : Kept False n s₀ s) : Kept False n s₀ (pageResetDone s) := by
  unfold pageResetDone
  dsimp only
  split
  · exact complete_kept (dropAcc_kept (Kept.ite (resetPage_kept hk) hk))
  · exact hk

theorem execPageResetDone_kept (hk : Kept False 16 s₀ s) : NextKept s₀ (execPageResetDone s) := by
  dsimp only [execPageResetDone]
  exact .next (pageResetDone_kept hk)

theorem moveFarLine_kept {p old new job ln : Nat} (hk : Kept False n s₀ s) :
    Kept False n s₀ (moveFarLine p old new job s ln) := by
  dsimp only [moveFarLine]
  split
  next _ _ _ heq =>
    exact writeFar_kept (Kept.snd heq (readFar_kept hk))
  next _ _ heq =>
    exact writeFar_kept (quarantine_kept (Kept.snd heq (readFar_kept hk)))
  next _ _ heq =>
    exact writeFar_kept (quarantine_kept (Kept.snd heq (readFar_kept hk)))

theorem moveFrame_kept {p new : Nat} (hk : Kept False n s₀ s) : Kept False n s₀ (moveFrame s p new) := by
  unfold moveFrame
  dsimp only
  split
  · exact hk
  · exact modMirror_kept (modPpt_kept (dropFrame_kept (Kept.each (fun _ _ => moveFarLine_kept)
      (dropFrame_kept hk))))

theorem packFrames_kept (hk : Kept False n s₀ s) : Kept False n s₀ (packFrames s) := by
  dsimp only [packFrames]
  exact Kept.each (fun _ _ => moveFrame_kept) hk

theorem execCmdMemRegions_kept {h : Hdr} {r : Regions} (hk : Kept False 16 s₀ s) :
    NextKept s₀ (execCmdMemRegions h r s) := by
  dsimp only [execCmdMemRegions]
  exact .next (runCmd_kept hk (fun _ => Kept.ite (fail_kept hk) (Kept.ite (fail_kept hk)
      (Kept.ite (fail_kept hk) (Kept.ite (fail_kept hk) (answer_kept
      (updatePasr_kept (packFrames_kept (modMemBlk_kept hk)))))))))

theorem execCmdMemRights_kept {h : Hdr} {master : Nat} {rights : BitVec 16} (hk : Kept False 16 s₀ s) :
    NextKept s₀ (execCmdMemRights h master rights s) := by
  dsimp only [execCmdMemRights]
  exact .next (runCmd_kept hk (fun _ => Kept.ite (fail_kept hk) (answer_kept
      (emitDev_kept (modMemBlk_kept hk)))))

theorem modDma_kept {c : Nat} {f : DmaChan → DmaChan} (hk : Kept False n s₀ s) :
    Kept False n s₀ (modDma s c f) := .update hk

theorem execCmdMemDmaAssign_kept {h : Hdr} {channel fn : Nat} (hk : Kept False 16 s₀ s) :
    NextKept s₀ (execCmdMemDmaAssign h channel fn s) := by
  dsimp only [execCmdMemDmaAssign]
  exact .next (runCmd_kept hk (fun _ => Kept.ite (fail_kept hk) (Kept.ite (fail_kept hk)
      (answer_kept (modDma_kept hk)))))

theorem execCmdMemQuarantineRead_kept {h : Hdr} {first : Nat} (hk : Kept False 16 s₀ s) :
    NextKept s₀ (execCmdMemQuarantineRead h first s) := by
  dsimp only [execCmdMemQuarantineRead]
  exact .next (runCmd_kept hk (fun _ => answer_kept hk))

theorem removeQuar_kept {p : Nat} (hk : Kept False n s₀ s) : Kept False n s₀ (removeQuar s p) := by
  dsimp only [removeQuar]
  exact modPpt_kept (dropQuar_kept hk)

theorem execCmdMemQuarantineRemove_kept {h : Hdr} {page : Nat} (hk : Kept False 16 s₀ s) :
    NextKept s₀ (execCmdMemQuarantineRemove h page s) := by
  dsimp only [execCmdMemQuarantineRemove]
  exact .next (runCmd_kept hk (fun _ => Kept.ite (fail_kept hk) (answer_kept (removeQuar_kept hk))))

theorem masterRead_kept {m addr len : Nat} (hk : Kept False n s₀ s) :
    Kept False n s₀ (masterRead s m addr len).2.2 := by
  dsimp only [masterRead]
  refine Kept.foldl_by (fun p : _ × _ × State => p.2.2) (fun _ _ hk' => ?_) hk
  split
  · exact Kept.mk_snd2 (masterReadLine_kept hk')
  · exact hk'

theorem doRead_kept {fn addr len : Nat} (hk : Kept False n s₀ s) : Kept False n s₀ (doRead s fn addr len) := by
  dsimp only [doRead]
  exact Kept.ite (emitOut_kept hk) (emitOut_kept (masterRead_kept hk))

theorem doWrite_kept {fn addr : Nat} {data : List Byte} (hk : Kept False n s₀ s) :
    Kept False n s₀ (doWrite s fn addr data) := by
  dsimp only [doWrite]
  exact Kept.ite (emitOut_kept hk) (Kept.opt' (masterWrite_kept hk) emitOut_kept)

theorem doAccess_kept {a : HostAcc} (hk : Kept False n s₀ s) : Kept False n s₀ (doAccess s a) := by
  unfold doAccess
  split
  · exact doRead_kept hk
  · exact doWrite_kept hk

theorem hostAccess_kept {a : HostAcc} (hk : Kept False n s₀ s) : Kept False n s₀ (hostAccess s a) := by
  dsimp only [hostAccess]
  exact Kept.ite (holdAccess_kept hk) (doAccess_kept hk)

theorem bar4Read_kept {fn addr len : Nat} {ups : List Upset} (hk : Kept False n s₀ s) :
    Kept False n s₀ (bar4Read s fn addr len ups) := by
  dsimp only [bar4Read]
  exact Kept.opt (upsets_kept hk) hostAccess_kept

theorem execBar4Read_kept {fn addr len : Nat} {ups : List Upset} (hk : Kept False 16 s₀ s) :
    NextKept s₀ (execBar4Read fn addr len ups s) := by
  dsimp only [execBar4Read]
  exact atUnit_kept (bar4Read_kept hk)

theorem bar4Write_kept {fn addr : Nat} {data : List Byte} {ups : List Upset} (hk : Kept False n s₀ s) :
    Kept False n s₀ (bar4Write s fn addr data ups) := by
  dsimp only [bar4Write]
  exact Kept.opt (upsets_kept hk) hostAccess_kept

theorem execBar4Write_kept {fn addr : Nat} {data : List Byte} {ups : List Upset} (hk : Kept False 16 s₀ s) :
    NextKept s₀ (execBar4Write fn addr data ups s) := by
  dsimp only [execBar4Write]
  exact atUnit_kept (bar4Write_kept hk)

theorem execMbxDmaDoorbell_kept {fn channel : Nat} {value : BitVec 16} (hk : Kept False 16 s₀ s) :
    NextKept s₀ (execMbxDmaDoorbell fn channel value s) := by
  dsimp only [execMbxDmaDoorbell]
  exact atUnit_kept (modDma_kept hk)

theorem dmaMove_kept {fn : Nat} {d : DmaDesc} (hk : Kept False n s₀ s) :
    Kept False n s₀ (dmaMove s fn d).2 := by
  dsimp only [dmaMove]
  split
  · exact Kept.mk_snd (takeFree_kept hk)
  · split
    · exact Kept.mk_snd (emitOut_kept (masterRead_kept hk))
    · exact Kept.mk_snd (masterWrite_kept hk)

theorem dmaDescriptor_kept {c : Nat} {d : DmaDesc} {ups : List Upset} (hk : Kept False n s₀ s) :
    Kept False n s₀ (dmaDescriptor s c d ups) := by
  dsimp only [dmaDescriptor]
  split
  · exact Kept.opt' (upsets_kept hk) (fun hk' => modDma_kept (dmaMove_kept hk'))
  · exact upsets_kept hk

theorem execDmaDescriptor_kept {channel : Nat} {desc data : List Byte} {ups : List Upset}
    (hk : Kept False 16 s₀ s)
    :
    NextKept s₀ (execDmaDescriptor channel desc data ups s) := by
  dsimp only [execDmaDescriptor]
  exact atUnit_kept (dmaDescriptor_kept hk)

theorem dmaComplete_kept {c : Nat} (hk : Kept False n s₀ s) : Kept False n s₀ (dmaComplete s c) := by
  dsimp only [dmaComplete]
  split
  · exact modDma_kept (Kept.opt (emitOut_kept hk) emitOut_kept)
  · exact hk

theorem execDmaDescriptorComplete_kept {channel : Nat} (hk : Kept False 16 s₀ s) :
    NextKept s₀ (execDmaDescriptorComplete channel s) := by
  dsimp only [execDmaDescriptorComplete]
  exact atUnit_kept (dmaComplete_kept hk)

theorem execMbxDmaRestart_kept {fn channel : Nat} (hk : Kept False 16 s₀ s) :
    NextKept s₀ (execMbxDmaRestart fn channel s) := by
  dsimp only [execMbxDmaRestart]
  exact atUnit_kept (modDma_kept hk)

theorem modChan_kept {c : Nat} {f : Chan → Chan} (hk : Kept False n s₀ s) :
    Kept False n s₀ (modChan s c f) := .update hk

theorem execLp5xRefresh_kept {channel : Nat} (hk : Kept False 16 s₀ s) :
    NextKept s₀ (execLp5xRefresh channel s) := by
  dsimp only [execLp5xRefresh]
  exact atUnit_kept (modChan_kept hk)

theorem linkEvent_kept {code : Nat} (hk : Kept False n s₀ s) : Kept False n s₀ (linkEvent s code) := by
  refine hk.trans ⟨rfl, id, id, id, fun hl => ?_, id, id, False.elim⟩
  dsimp only [linkEvent]
  split
  · exact hl
  · exact List.length_take_le 4 _

theorem tellHv_kept {f : Hv → Hv} (hk : Kept False n s₀ s) : Kept False n s₀ (tellHv s f) := .update hk

theorem lp5xWarn_kept {ch : Nat} (hk : Kept False n s₀ s) : Kept False n s₀ (lp5xWarn s ch) := by
  dsimp only [lp5xWarn]
  exact linkEvent_kept (emitDev_kept (tellHv_kept hk))

theorem mr4Read_kept {ch : Nat} {code : BitVec 5} {degC : Option Nat} (hk : Kept False n s₀ s) :
    Kept False n s₀ (mr4Read s ch code degC) := by
  dsimp only [mr4Read]
  exact Kept.ite hk (Kept.opt (modChan_kept hk) (fun hk' => lp5xWarn_kept (emitDev_kept hk')))

theorem execMr4Read_kept {channel : Nat} {code : BitVec 5} {degC : Option Nat} (hk : Kept False 16 s₀ s) :
    NextKept s₀ (execMr4Read channel code degC s) := by
  dsimp only [execMr4Read]
  exact atUnit_kept (mr4Read_kept hk)

theorem execDqsOscMeasure_kept {channel osc : Nat} (hk : Kept False 16 s₀ s) :
    NextKept s₀ (execDqsOscMeasure channel osc s) := by
  dsimp only [execDqsOscMeasure]
  exact atUnit_kept (modChan_kept hk)

theorem execDqRetrainPause_kept {channel : Nat} {inWindow : Bool} (hk : Kept False 16 s₀ s) :
    NextKept s₀ (execDqRetrainPause channel inWindow s) := by
  dsimp only [execDqRetrainPause]
  exact atUnit_kept (modChan_kept hk)

theorem runWaiting_kept {as : List HostAcc} (hk : Kept False n s₀ s) : Kept False n s₀ (runWaiting as s) := by
  induction as generalizing s with
  | nil => exact modLpBlk_kept hk
  | cons a as ih => exact Kept.ite (modLpBlk_kept hk) (ih (doAccess_kept hk))

theorem channelTraining_kept {ch : Nat} {ok : Bool} {osc : Nat} (hk : Kept False n s₀ s) :
    Kept False n s₀ (channelTraining s ch ok osc) := by
  dsimp only [channelTraining]
  exact Kept.ite hk (runWaiting_kept (Kept.ite (emitDev_kept (modChan_kept hk))
      (Kept.each (fun _ _ => faultHold_kept) (emitDev_kept (modChan_kept hk)))))

theorem execChannelTrainingDone_kept {channel : Nat} {ok : Bool} {osc : Nat} (hk : Kept False 16 s₀ s) :
    NextKept s₀ (execChannelTrainingDone channel ok osc s) := by
  dsimp only [execChannelTrainingDone]
  exact atUnit_kept (channelTraining_kept hk)

theorem startTraining_kept (hk : Kept False n s₀ s) : Kept False n s₀ (startTraining s) := by
  dsimp only [startTraining]
  exact modLpBlk_kept hk

theorem execFullTraining_kept (hk : Kept False 16 s₀ s) : NextKept s₀ (execFullTraining s) := by
  dsimp only [execFullTraining]
  exact .next (Kept.ite (startTraining_kept hk) hk)

theorem takeDraw_kept (hk : Kept False n s₀ s) : Kept False n s₀ (takeDraw s).2 := by
  dsimp only [takeDraw]
  exact Kept.update hk

theorem drawSysKey_kept (hk : Kept False n s₀ s) : Kept False n s₀ (drawSysKey s) := by
  dsimp only [drawSysKey]
  exact Kept.ite hk (modPwrBlk_kept (takeDraw_kept hk))

theorem modFwBlk_kept {f : Fw → Fw} (hk : Kept False n s₀ s) : Kept False n s₀ (modFwBlk s f) := .update hk

theorem trialGood_kept (hk : Kept False n s₀ s) : Kept False n s₀ (trialGood s) := by
  dsimp only [trialGood]
  exact Kept.ite (modFwBlk_kept hk) hk

theorem losePage_kept {p : Nat} (hk : Kept False n s₀ s) : Kept False n s₀ (losePage s p) := by
  dsimp only [losePage]
  exact modMirror_kept (dropFrame_kept (modPpt_kept (freeNearOf_kept hk)))

theorem segmentsLost_kept (hk : Kept False n s₀ s) : Kept False n s₀ (segmentsLost s) := by
  dsimp only [segmentsLost]
  exact Kept.opt' (Kept.each (fun _ _ hk' => Kept.ite hk' (modJob_kept hk'))
      (Kept.each (fun _ _ => modJob_kept) (modArrBlk_kept (Kept.each (fun _ _ => losePage_kept) hk))))
      emitDev_kept

theorem rebindOne_kept {j : Nat} {img : Image} {d : Desc} {vt : Nat} (hk : Kept False n s₀ s) :
    Kept False n s₀ (rebindOne j img d s vt) := by
  unfold rebindOne
  dsimp only
  split
  · exact hk
  · exact modTile_kept (Kept.update hk)

theorem readPlanes_kept {img : Image} (hk : Kept still n s₀ s) : Kept still n s₀ (readPlanes s img).2 := by
  dsimp only [readPlanes]
  exact readGolden_kept hk

theorem reloadJob_kept {bad : List Nat} {j : Nat} (hk : Kept False n s₀ s) :
    Kept False n s₀ (reloadJob bad s j) := by
  unfold reloadJob
  dsimp only
  split
  · exact hk
  · exact Kept.ite (goldenLost_kept (readPlanes_kept (Kept.each (fun _ _ => rebindOne_kept) hk)))
      (modJob_kept (readPlanes_kept (Kept.each (fun _ _ => rebindOne_kept) hk)))

theorem modGroup_kept {g : Nat} {f : MGroup → MGroup} (hk : Kept False n s₀ s) :
    Kept False n s₀ (modGroup s g f) := .update hk

theorem powerGroups_kept {gs : List Nat} (hk : Kept False n s₀ s) : Kept False n s₀ (powerGroups s gs) := by
  dsimp only [powerGroups]
  exact Kept.each (fun _ _ hk' => Kept.ite hk' (modGroup_kept hk')) hk

theorem wakeGroups_kept (hk : Kept False n s₀ s) : Kept False n s₀ (wakeGroups s) := by
  dsimp only [wakeGroups]
  exact powerGroups_kept hk

theorem freshPort_kept {p : Nat} (hk : Kept False n s₀ s) : Kept False n s₀ (freshPort s p) := by
  unfold freshPort
  dsimp only
  exact modPort_kept (takeDraw_kept hk)

theorem drawGenerations_kept (hk : Kept False n s₀ s) : Kept False n s₀ (drawGenerations s) := by
  dsimp only [drawGenerations]
  exact Kept.each (fun _ _ => freshPort_kept) hk

/-- A warm reset empties design memory and the accepted commands, and keeps the event log and the repair map. -/
theorem clearStack_kept {cause : Nat} (hk : Kept False n s₀ s) : Kept False n s₀ (clearStack s cause) :=
  hk.trans ⟨rfl, id, fun _ => Nat.zero_le _, id, id, fun _ => rfl, fun _ => rfl, False.elim⟩

theorem emitLog_kept {code : Nat} {fs : List (Nat × Nat)} (hk : Kept False n s₀ s) :
    Kept False n s₀ (emitLog s code fs) := by
  dsimp only [emitLog]
  exact emitTo_kept hk

theorem resetScrub_kept (hk : Kept False n s₀ s) : Kept False n s₀ (resetScrub s) := by
  unfold resetScrub
  split
  · exact hk
  · exact emitLog_kept (modLpBlk_kept hk)

theorem warmReset_kept {cause : Nat} (hk : Kept False n s₀ s) : Kept False n s₀ (warmReset s cause) := by
  dsimp only [warmReset]
  exact modPwrBlk_kept (drawGenerations_kept (clearStack_kept (resetScrub_kept hk)))

theorem endRestart_kept {bad : List Nat} (hk : Kept False n s₀ s) : Kept False n s₀ (endRestart s bad) := by
  dsimp only [endRestart]
  exact Kept.opt' (linkEvent_kept (emitDev_kept (modPwrBlk_kept (Kept.each (fun _ _ => reloadJob_kept)
      (wakeGroups_kept (segmentsLost_kept hk)))))) (fun hk' => modRstBlk_kept (warmReset_kept hk'))

theorem tryReady_kept (hk : Kept False n s₀ s) : Kept False n s₀ (tryReady s) := by
  dsimp only [tryReady]
  refine Kept.ite ?_ hk
  split
  · exact endRestart_kept (updatePasr_kept (modHifBlk_kept (modPwrBlk_kept
      (drawSysKey_kept (trialGood_kept hk)))))
  · exact updatePasr_kept (modHifBlk_kept (modPwrBlk_kept (drawSysKey_kept (trialGood_kept hk))))

theorem replayRepairs_kept (hk : Kept False n s₀ s) : Kept False n s₀ (replayRepairs s) := by
  dsimp only [replayRepairs]
  exact modLpBlk_kept (shortenMap_kept hk fun _ => List.length_filter_le _ _)

theorem endTraining_kept {failed oscs : List Nat} (hk : Kept False n s₀ s) :
    Kept False n s₀ (endTraining s failed oscs) := by
  dsimp only [endTraining]
  exact Kept.each (fun _ _ => emitDev_kept) (modLpBlk_kept (Kept.ite (replayRepairs_kept hk) hk))

theorem execFullTrainingDone_kept {failed oscs : List Nat} (hk : Kept False 16 s₀ s) :
    NextKept s₀ (execFullTrainingDone failed oscs s) := by
  dsimp only [execFullTrainingDone]
  exact .next (Kept.ite (tryReady_kept (endTraining_kept hk)) hk)

theorem repairLine_kept {l : Nat} (hk : Kept False n s₀ s) : Kept False n s₀ (repairLine s l) := by
  unfold repairLine
  split
  · split
    · exact setFar_kept hk
    · exact hk
  · exact hk

theorem repairedEvent_kept {l : Nat} {spared : Bool} (hk : Kept False n s₀ s) :
    Kept False n s₀ (repairedEvent s l spared) := by
  unfold repairedEvent
  split
  · exact complete_kept (dropAccOf_kept hk)
  · exact emitDev_kept hk

theorem dropCandidate_kept {l : Nat} (hk : Kept False n s₀ s) : Kept False n s₀ (dropCandidate s l) := by
  dsimp only [dropCandidate]
  exact modLpBlk_kept hk

theorem retireFrame_kept {f : Nat} (hk : Kept False n s₀ s) : Kept False n s₀ (retireFrame s f) := by
  dsimp only [retireFrame]
  refine Kept.ite hk ?_
  split
  · exact updatePasr_kept (moveFrame_kept (modMemBlk_kept hk))
  · exact modMemBlk_kept hk

theorem softRepair_kept {l : Nat} {resource : Bool} (hk : Kept False n s₀ s) :
    Kept False n s₀ (softRepair s l resource) := by
  dsimp only [softRepair]
  exact Kept.ite hk (Kept.ite (repairedEvent_kept (addRepair_kept (dropCandidate_kept
      (modLpBlk_kept (Kept.each (fun _ _ => repairLine_kept) hk)))))
      (repairedEvent_kept (Kept.each (fun _ _ => retireFrame_kept) (dropCandidate_kept hk))))

theorem execPprSoftRepair_kept {line : Nat} {resource : Bool} (hk : Kept False 16 s₀ s) :
    NextKept s₀ (execPprSoftRepair line resource s) := by
  dsimp only [execPprSoftRepair]
  exact atUnit_kept (softRepair_kept hk)

theorem execCmdMemScrub_kept {h : Hdr} {first bytes share : Nat} {b : Bulk} (hk : Kept False 16 s₀ s) :
    NextKept s₀ (execCmdMemScrub h first bytes share b s) := by
  dsimp only [execCmdMemScrub]
  refine .next (runCmd_kept hk (fun _ => Kept.ite (fail_kept hk) ?_))
  split
  · exact respond_kept hk
  · exact Kept.ite (fail_kept hk) (Kept.ite (fail_kept hk) (accept_kept hk (fun _ => modLpBlk_kept)))

theorem endScrub_kept {status : Nat} (hk : Kept False n s₀ s) : Kept False n s₀ (endScrub s status) := by
  unfold endScrub
  dsimp only
  split
  · exact hk
  · exact complete_kept (dropAccOf_kept (modLpBlk_kept (emitOut_kept hk)))

theorem execCmdMemScrubAbort_kept {h : Hdr} (hk : Kept False 16 s₀ s) :
    NextKept s₀ (execCmdMemScrubAbort h s) := by
  dsimp only [execCmdMemScrubAbort]
  exact .next (runCmd_kept hk (fun _ => Kept.ite (fail_kept hk) (endScrub_kept (answer_kept hk))))

theorem scrubOne_kept {c : Scrub} {l : Nat} (hk : Kept False n s₀ s) : Kept False n s₀ (scrubOne s c l).2 := by
  dsimp only [scrubOne]
  split
  next _ _ heq =>
    split
    · exact Kept.mk_snd (quarantine_kept (Kept.snd heq (checkFar_kept hk)))
    · exact Kept.mk_snd (Kept.snd heq (checkFar_kept hk))
  next _ _ _ heq =>
    split <;> split <;> exact Kept.mk_snd (Kept.snd heq (checkFar_kept hk))

theorem scrubLine_kept {ups : List Upset} (hk : Kept False n s₀ s) : Kept False n s₀ (scrubLine s ups) := by
  dsimp only [scrubLine]
  split
  · exact upsets_kept hk
  · refine Kept.opt (modLpBlk_kept ?_) endScrub_kept
    split
    · exact scrubOne_kept (upsets_kept hk)
    · exact Kept.mk_snd (upsets_kept hk)

theorem execScrubLine_kept {ups : List Upset} (hk : Kept False 16 s₀ s) :
    NextKept s₀ (execScrubLine ups s) := by
  dsimp only [execScrubLine]
  exact .next (scrubLine_kept hk)

theorem execCmdMemEccDiagWriteFar_kept {h : Hdr} {addr : Nat} {cipher : Line} {tag check : BitVec 32}
    (hk : Kept False 16 s₀ s) :
    NextKept s₀ (execCmdMemEccDiagWriteFar h addr cipher tag check s) := by
  dsimp only [execCmdMemEccDiagWriteFar]
  refine .next (runCmd_kept hk (fun _ => ?_))
  split
  · exact fail_kept hk
  · exact Kept.ite (fail_kept hk) (answer_kept (setFar_kept hk))

theorem execCmdMemEccDiagReadFar_kept {h : Hdr} {addr : Nat} (hk : Kept False 16 s₀ s) :
    NextKept s₀ (execCmdMemEccDiagReadFar h addr s) := by
  dsimp only [execCmdMemEccDiagReadFar]
  refine .next (runCmd_kept hk (fun _ => ?_))
  split
  · exact fail_kept hk
  · exact Kept.ite (fail_kept hk) (Kept.ite (answer_kept (takeFree_kept hk)) (answer_kept hk))

theorem execCmdMemEccDiagWriteChip_kept {h : Hdr} {target addr : Nat} {data : BitVec 64} {check : BitVec 8}
    (hk : Kept False 16 s₀ s) :
    NextKept s₀ (execCmdMemEccDiagWriteChip h target addr data check s) := by
  dsimp only [execCmdMemEccDiagWriteChip]
  exact .next (runCmd_kept hk (fun _ => Kept.ite (fail_kept hk) (answer_kept
      (Kept.ite (putNear_kept hk) (Kept.ite (modTile_kept hk) (modLpBlk_kept hk))))))

theorem execCmdMemEccDiagReadChip_kept {h : Hdr} {target addr : Nat} (hk : Kept False 16 s₀ s) :
    NextKept s₀ (execCmdMemEccDiagReadChip h target addr s) := by
  dsimp only [execCmdMemEccDiagReadChip]
  exact .next (runCmd_kept hk (fun _ => Kept.ite (fail_kept hk) (answer_kept hk)))

theorem execCmdMemRepairList_kept {h : Hdr} (hk : Kept False 16 s₀ s) :
    NextKept s₀ (execCmdMemRepairList h s) := by
  dsimp only [execCmdMemRepairList]
  exact .next (runCmd_kept hk (fun _ => answer_kept hk))

theorem execCmdMemRepairRequest_kept {h : Hdr} {addr : Nat} (hk : Kept False 16 s₀ s) :
    NextKept s₀ (execCmdMemRepairRequest h addr s) := by
  dsimp only [execCmdMemRepairRequest]
  exact .next (runCmd_kept hk (fun _ => Kept.ite (fail_kept hk) (Kept.ite (fail_kept hk)
      (accept_kept hk (fun _ => noteUncorrectable_kept)))))

theorem execCmdMemRetain_kept {h : Hdr} {retain : Bool} (hk : Kept False 16 s₀ s) :
    NextKept s₀ (execCmdMemRetain h retain s) := by
  dsimp only [execCmdMemRetain]
  exact .next (runCmd_kept hk (fun _ => answer_kept (updatePasr_kept (modLpBlk_kept hk))))

theorem execCmdMemChStatus_kept {h : Hdr} {first count : Nat} (hk : Kept False 16 s₀ s) :
    NextKept s₀ (execCmdMemChStatus h first count s) := by
  dsimp only [execCmdMemChStatus]
  exact .next (runCmd_kept hk (fun _ => Kept.ite (fail_kept hk) (answer_kept hk)))

theorem execCmdHodCreate_kept {h : Hdr} {p : HodParams} (hk : Kept False 16 s₀ s) :
    NextKept s₀ (execCmdHodCreate h p s) := by
  dsimp only [execCmdHodCreate]
  refine .next (runCmd_kept hk (fun _ => Kept.ite (fail_kept hk) ?_))
  split
  · exact answer_kept (grantCredits_kept (setHod_kept hk))
  · exact fail_kept hk

theorem hodDestroy_kept {h : Nat} (hk : Kept False n s₀ s) : Kept False n s₀ (hodDestroy s h) := by
  dsimp only [hodDestroy]
  exact modPalBlk_kept (setHod_kept hk)

theorem execCmdHodDestroy_kept {h : Hdr} {hod : Nat} (hk : Kept False 16 s₀ s) :
    NextKept s₀ (execCmdHodDestroy h hod s) := by
  dsimp only [execCmdHodDestroy]
  refine .next (runCmd_kept hk (fun _ => ?_))
  split
  · exact fail_kept hk
  · exact Kept.ite (fail_kept hk) (answer_kept (hodDestroy_kept hk))

theorem execCmdHodFlush_kept {h : Hdr} {hod : Nat} (hk : Kept False 16 s₀ s) :
    NextKept s₀ (execCmdHodFlush h hod s) := by
  dsimp only [execCmdHodFlush]
  refine .next (runCmd_kept hk (fun _ => ?_))
  split
  · exact fail_kept hk
  · exact answer_kept (hodFlush_kept hk)

theorem execCmdHodQuery_kept {h : Hdr} {hod : Nat} (hk : Kept False 16 s₀ s) :
    NextKept s₀ (execCmdHodQuery h hod s) := by
  dsimp only [execCmdHodQuery]
  refine .next (runCmd_kept hk (fun _ => ?_))
  split
  · exact fail_kept hk
  · exact answer_kept hk

theorem execCmdHodQueryClear_kept {h : Hdr} {hod : Nat} (hk : Kept False 16 s₀ s) :
    NextKept s₀ (execCmdHodQueryClear h hod s) := by
  dsimp only [execCmdHodQueryClear]
  refine .next (runCmd_kept hk (fun _ => ?_))
  split
  · exact fail_kept hk
  · exact answer_kept (setHod_kept hk)

theorem execHodPushWord_kept {src : Agent} {hod : Nat} {start last : Bool} {prio : Nat} {data : Word}
    {poison : Bool} (hk : Kept False 16 s₀ s) :
    NextKept s₀ (execHodPushWord src hod start last prio data poison s) := by
  dsimp only [execHodPushWord]
  exact atUnit_kept (Kept.ite (hodPushWord_kept hk) hk)

theorem hostPush_kept {fn hod size : Nat} {start last : Bool} {value : Word} (hk : Kept False n s₀ s) :
    Kept False n s₀ (hostPush s fn hod size start last value) := by
  dsimp only [hostPush]
  exact Kept.ite hk (modHod_kept (hodPushWord_kept hk))

theorem execHodPushMid_kept {fn hod size : Nat} {value : Word} (hk : Kept False 16 s₀ s) :
    NextKept s₀ (execHodPushMid fn hod size value s) := by
  dsimp only [execHodPushMid]
  exact atUnit_kept (hostPush_kept hk)

theorem execHodPushFirst_kept {fn hod size : Nat} {value : Word} (hk : Kept False 16 s₀ s) :
    NextKept s₀ (execHodPushFirst fn hod size value s) := by
  dsimp only [execHodPushFirst]
  exact atUnit_kept (hostPush_kept hk)

theorem execHodPushLast_kept {fn hod size : Nat} {value : Word} (hk : Kept False 16 s₀ s) :
    NextKept s₀ (execHodPushLast fn hod size value s) := by
  dsimp only [execHodPushLast]
  exact atUnit_kept (hostPush_kept hk)

theorem execHodPushOnly_kept {fn hod size : Nat} {value : Word} (hk : Kept False 16 s₀ s) :
    NextKept s₀ (execHodPushOnly fn hod size value s) := by
  dsimp only [execHodPushOnly]
  exact atUnit_kept (hostPush_kept hk)

theorem hodPopWord_kept {h : Nat} {a : Agent} (hk : Kept False n s₀ s) :
    Kept False n s₀ (hodPopWord s h a).2 := by
  dsimp only [hodPopWord]
  refine wmCheck_kept (takePart_kept (Kept.ite hk ?_))
  split
  · exact claimItem_kept hk
  · exact hk

theorem hostPop_kept {fn hod : Nat} {ups : List Upset} (hk : Kept False n s₀ s) :
    Kept False n s₀ (hostPop s fn hod ups) := by
  dsimp only [hostPop]
  exact Kept.opt' (upsets_kept hk) (fun hk' => Kept.ite (emitOut_kept hk')
      (emitOut_kept (modHod_kept (hodPopWord_kept hk'))))

theorem execHodPop_kept {fn hod : Nat} {ups : List Upset} (hk : Kept False 16 s₀ s) :
    NextKept s₀ (execHodPop fn hod ups s) := by
  dsimp only [execHodPop]
  exact atUnit_kept (hostPop_kept hk)

theorem execHodCtlFlush_kept {fn hod : Nat} (hk : Kept False 16 s₀ s) :
    NextKept s₀ (execHodCtlFlush fn hod s) := by
  dsimp only [execHodCtlFlush]
  exact atUnit_kept (Kept.ite (hodFlush_kept hk) hk)

theorem putHandlers_kept {j first : Nat} {es : List (Bool × BitVec 16)} (hk : Kept False n s₀ s) :
    Kept False n s₀ (putHandlers s j first es) := by
  dsimp only [putHandlers]
  exact Kept.each (fun _ _ => modPalBlk_kept) hk

theorem execCmdPalHandlers_kept {h : Hdr} {first : Nat} {entries : List (Bool × BitVec 16)}
    (hk : Kept False 16 s₀ s) :
    NextKept s₀ (execCmdPalHandlers h first entries s) := by
  dsimp only [execCmdPalHandlers]
  exact .next (runCmd_kept hk (fun _ => Kept.ite (fail_kept hk) (answer_kept (putHandlers_kept hk))))

theorem execCmdPalFlowRead_kept {h : Hdr} {flow : Nat} (hk : Kept False 16 s₀ s) :
    NextKept s₀ (execCmdPalFlowRead h flow s) := by
  dsimp only [execCmdPalFlowRead]
  exact .next (runCmd_kept hk (fun _ => Kept.ite (fail_kept hk) (answer_kept hk)))

theorem resetFlow_kept {j f : Nat} (hk : Kept False n s₀ s) : Kept False n s₀ (resetFlow s j f) := by
  dsimp only [resetFlow]
  exact modPalBlk_kept hk

theorem execCmdPalFlowReset_kept {h : Hdr} {flow : Nat} (hk : Kept False 16 s₀ s) :
    NextKept s₀ (execCmdPalFlowReset h flow s) := by
  dsimp only [execCmdPalFlowReset]
  exact .next (runCmd_kept hk (fun _ => Kept.ite (fail_kept hk) (answer_kept (resetFlow_kept hk))))

theorem execCmdPalPolicy_kept {h : Hdr} {band : Nat} (hk : Kept False 16 s₀ s) :
    NextKept s₀ (execCmdPalPolicy h band s) := by
  dsimp only [execCmdPalPolicy]
  exact .next (runCmd_kept hk (fun _ => Kept.ite (fail_kept hk) (answer_kept (modPalBlk_kept hk))))

theorem execCmdPalStats_kept {h : Hdr} {flows : List Nat} {first : Nat} (hk : Kept False 16 s₀ s) :
    NextKept s₀ (execCmdPalStats h flows first s) := by
  dsimp only [execCmdPalStats]
  exact .next (runCmd_kept hk (fun _ => Kept.ite (fail_kept hk) (answer_kept hk)))

theorem takeItem_kept {h i : Nat} (hk : Kept False n s₀ s) : Kept False n s₀ (takeItem s h i) := by
  dsimp only [takeItem]
  exact wmCheck_kept (Kept.each (fun _ _ => parityNote_kept) (leafAdd_kept (modHod_kept (claimItem_kept hk))))

theorem discardBad_kept {j h i : Nat} {it : Item} (hk : Kept False n s₀ s) :
    Kept False n s₀ (discardBad s j h i it) := by
  dsimp only [discardBad]
  exact Kept.opt (emitJob_kept (leafAdd_kept (takeItem_kept hk))) completeSlot_kept

theorem fillSlot_kept {j h i m : Nat} {p : Slot} (hk : Kept False n s₀ s) :
    Kept False n s₀ (fillSlot s j h i m p) := by
  dsimp only [fillSlot]
  exact leafAdd_kept (leafAdd_kept (modPalBlk_kept (Kept.opt' (modMason_kept (takeItem_kept hk))
      modFlow_kept)))

theorem dispatchFrom_kept {j : Nat} {as : List (Nat × Nat × Item)} (hk : Kept False n s₀ s) :
    Kept False n s₀ (dispatchFrom s j as) := by
  have hfill {h i m : Nat} {p : Slot} : Kept False n s₀ (fillSlot s j h i m p) := fillSlot_kept hk
  induction as with
  | nil => exact hk
  | cons a as ih =>
    obtain ⟨h, i, it⟩ := a
    unfold dispatchFrom
    split
    · exact discardBad_kept hk
    · refine Kept.ite ?_ (Kept.ite ih (Kept.ite (emitJob_kept (leafAdd_kept (takeItem_kept hk))) ?_))
      all_goals
        split
        · exact hfill
        · exact hk

theorem palletDispatch_kept {j : Nat} (hk : Kept False n s₀ s) : Kept False n s₀ (palletDispatch s j) := by
  dsimp only [palletDispatch]
  exact Kept.ite hk (dispatchFrom_kept hk)

theorem execPalletDispatch_kept {job : Nat} (hk : Kept False 16 s₀ s) :
    NextKept s₀ (execPalletDispatch job s) := by
  dsimp only [execPalletDispatch]
  exact atUnit_kept (palletDispatch_kept hk)

theorem drainOne_kept (hk : Kept False n s₀ s) : Kept False n s₀ (drainOne s) := by
  unfold drainOne
  dsimp only
  split
  · exact hk
  · split
    · exact hk
    · split
      · exact releaseSeq_kept (modPalBlk_kept hk)
      · exact releaseItem_kept (modPalBlk_kept hk)

theorem execReleaseBufferDrain_kept (hk : Kept False 16 s₀ s) : NextKept s₀ (execReleaseBufferDrain s) := by
  dsimp only [execReleaseBufferDrain]
  exact .next (drainOne_kept hk)

theorem modMsnBlk_kept {f : Msn → Msn} (hk : Kept False n s₀ s) : Kept False n s₀ (modMsnBlk s f) := .update hk

theorem unassignMason_kept {m : Nat} (hk : Kept False n s₀ s) : Kept False n s₀ (unassignMason s m) := by
  dsimp only [unassignMason]
  exact modMason_kept (completePallets_kept hk)

theorem moveMason_kept {j m : Nat} (hk : Kept False n s₀ s) : Kept False n s₀ (moveMason j s m) := by
  dsimp only [moveMason]
  exact Kept.ite hk (modMason_kept (unassignMason_kept hk))

theorem finishAssign_kept (hk : Kept False n s₀ s) : Kept False n s₀ (finishAssign s) := by
  dsimp only [finishAssign]
  exact Kept.each (fun _ _ hk' => answer_kept (Kept.each (fun _ _ => moveMason_kept) hk')) (modMsnBlk_kept hk)

theorem assignMasons_kept {h : Hdr} {j : Nat} {ms : List Nat} (hk : Kept False n s₀ s) :
    Kept False n s₀ (assignMasons s h j ms) := by
  dsimp only [assignMasons]
  exact finishAssign_kept (powerGroups_kept (modMsnBlk_kept hk))

theorem execCmdMsnAssign_kept {h : Hdr} {masons : List Nat} (hk : Kept False 16 s₀ s) :
    NextKept s₀ (execCmdMsnAssign h masons s) := by
  dsimp only [execCmdMsnAssign]
  exact .next (runCmd_kept hk (fun _ => Kept.ite (fail_kept hk) (Kept.ite (fail_kept hk)
      (assignMasons_kept hk))))

theorem epochChange_kept {routes : List (Nat × Nat × Nat)} {fences : List (Nat × BitVec 6)}
    (hk : Kept False n s₀ s) :
    Kept False n s₀ (epochChange s routes fences) := by
  dsimp only [epochChange]
  exact modSpnBlk_kept (takeFree_kept hk)

theorem startPowerDown_kept {g : Nat} {hdr : Option Hdr} (hk : Kept False n s₀ s) :
    Kept False n s₀ (startPowerDown s g hdr) := by
  dsimp only [startPowerDown]
  exact modSpnBlk_kept (epochChange_kept hk)

theorem execCmdMsnUnassign_kept {h : Hdr} {masons : List Nat} (hk : Kept False 16 s₀ s) :
    NextKept s₀ (execCmdMsnUnassign h masons s) := by
  dsimp only [execCmdMsnUnassign]
  refine .next (runCmd_kept hk (fun _ => Kept.ite (fail_kept hk) (Kept.ite (fail_kept hk) ?_)))
  split
  · exact startPowerDown_kept (Kept.each (fun _ _ => unassignMason_kept) hk)
  · exact answer_kept (Kept.each (fun _ _ => unassignMason_kept) hk)

theorem startMason_kept {m : Nat} (hk : Kept False n s₀ s) : Kept False n s₀ (startMason s m) := by
  dsimp only [startMason]
  exact modMason_kept hk

theorem execCmdMsnControlStart_kept {h : Hdr} {masons : List Nat} (hk : Kept False 16 s₀ s) :
    NextKept s₀ (execCmdMsnControlStart h masons s) := by
  dsimp only [execCmdMsnControlStart]
  refine .next (runCmd_kept hk (fun _ => ?_))
  split
  · exact fail_kept hk
  · exact Kept.ite (fail_kept hk) (answer_kept (Kept.each (fun _ _ => startMason_kept) hk))

theorem execCmdMsnControlReset_kept {h : Hdr} {group : Option Nat} {masons : List Nat}
    (hk : Kept False 16 s₀ s) :
    NextKept s₀ (execCmdMsnControlReset h group masons s) := by
  dsimp only [execCmdMsnControlReset]
  refine .next (runCmd_kept hk (fun _ => ?_))
  split
  · exact fail_kept hk
  · exact Kept.ite (fail_kept hk) (answer_kept (Kept.each (fun _ _ => resetMason_kept) hk))

theorem execCmdMsnControlClock_kept {h : Hdr} {group mhz : Nat} (hk : Kept False 16 s₀ s) :
    NextKept s₀ (execCmdMsnControlClock h group mhz s) := by
  dsimp only [execCmdMsnControlClock]
  refine .next (runCmd_kept hk (fun _ => ?_))
  split
  · exact fail_kept hk
  · exact Kept.ite (fail_kept hk) (answer_kept (modGroup_kept hk))

theorem execCmdMsnControlPauseTimeout_kept {h : Hdr} {us : Nat} (hk : Kept False 16 s₀ s) :
    NextKept s₀ (execCmdMsnControlPauseTimeout h us s) := by
  dsimp only [execCmdMsnControlPauseTimeout]
  exact .next (runCmd_kept hk (fun _ => Kept.ite (fail_kept hk) (answer_kept (modMsnBlk_kept hk))))

theorem execCmdMsnLoad_kept {h : Hdr} {masons : List Nat} {b : Bulk} (hk : Kept False 16 s₀ s) :
    NextKept s₀ (execCmdMsnLoad h masons b s) := by
  dsimp only [execCmdMsnLoad]
  refine .next (runCmd_kept hk (fun _ => ?_))
  split
  · exact fail_kept hk
  · refine Kept.ite (fail_kept hk) ?_
    split
    · exact respond_kept hk
    · exact Kept.ite (fail_kept hk) (Kept.ite (fail_kept hk) (accept_kept hk (fun _ => modMsnBlk_kept)))

theorem writeProgram_kept {img : List Byte} {m : Nat} (hk : Kept False n s₀ s) :
    Kept False n s₀ (writeProgram img s m) := by
  dsimp only [writeProgram]
  exact modMason_kept (resetMason_kept hk)

theorem msnLoadDone_kept (hk : Kept False n s₀ s) : Kept False n s₀ (msnLoadDone s) := by
  unfold msnLoadDone
  dsimp only
  split
  · exact hk
  · exact Kept.ite (complete_kept (Kept.each (fun _ _ => writeProgram_kept)
      (dropAccOf_kept (modMsnBlk_kept hk)))) (complete_kept (dropAccOf_kept (modMsnBlk_kept hk)))

theorem execMsnLoadDone_kept (hk : Kept False 16 s₀ s) : NextKept s₀ (execMsnLoadDone s) := by
  dsimp only [execMsnLoadDone]
  exact .next (msnLoadDone_kept hk)

theorem execCmdMsnStatus_kept {h : Hdr} {masons : List Nat} (hk : Kept False 16 s₀ s) :
    NextKept s₀ (execCmdMsnStatus h masons s) := by
  dsimp only [execCmdMsnStatus]
  exact .next (runCmd_kept hk (fun _ => Kept.ite (fail_kept hk) (Kept.ite (fail_kept hk) (answer_kept hk))))

theorem trap_kept {m cause : Nat} {tval : Word} {reason : Option Nat} (hk : Kept False n s₀ s) :
    Kept False n s₀ (trap s m cause tval reason) := by
  dsimp only [trap]
  refine Kept.ite ?_ (setMason_kept (leafAdd_kept hk))
  split
  · exact emitJob_kept (setMason_kept (leafAdd_kept hk))
  · exact emitDev_kept (setMason_kept (leafAdd_kept hk))

theorem illegal_kept {m : Nat} (hk : Kept False n s₀ s) : Kept False n s₀ (illegal s m) := by
  unfold illegal
  dsimp only
  exact trap_kept (takeFree_kept hk)

theorem hodTrap_kept {m hod reason : Nat} (hk : Kept False n s₀ s) :
    Kept False n s₀ (hodTrap s m hod reason) := by
  dsimp only [hodTrap]
  exact trap_kept hk

theorem retire_kept {m rd : Nat} {v : Word} {len : Nat} (hk : Kept False n s₀ s) :
    Kept False n s₀ (retire s m rd v len) := by
  dsimp only [retire]
  exact modMason_kept hk

theorem pushInstr_kept {m : Nat} {funct7 : BitVec 7} {last : Bool} {rs2 rs1 rd : Nat} (hk : Kept False n s₀ s) :
    Kept False n s₀ (pushInstr s m funct7 last rs2 rs1 rd) := by
  dsimp only [pushInstr]
  refine Kept.ite hk (Kept.ite (illegal_kept hk) ?_)
  split
  · exact hodTrap_kept hk
  · exact retire_kept (hodPushWord_kept hk)

theorem execHodPush_kept {m : Nat} {funct7 : BitVec 7} {rs2 rs1 rd : Nat} (hk : Kept False 16 s₀ s) :
    NextKept s₀ (execHodPush m funct7 rs2 rs1 rd s) := by
  dsimp only [execHodPush]
  exact atUnit_kept (pushInstr_kept hk)

theorem execHodPushl_kept {m : Nat} {funct7 : BitVec 7} {rs2 rs1 rd : Nat} (hk : Kept False 16 s₀ s) :
    NextKept s₀ (execHodPushl m funct7 rs2 rs1 rd s) := by
  dsimp only [execHodPushl]
  exact atUnit_kept (pushInstr_kept hk)

theorem popInstr_kept {m : Nat} {funct7 : BitVec 7} {rs1 rd : Nat} {ups : List Upset} (hk : Kept False n s₀ s) :
    Kept False n s₀ (popInstr s m funct7 rs1 rd ups) := by
  dsimp only [popInstr]
  refine Kept.opt' (upsets_kept hk) (fun hk' => Kept.ite (illegal_kept hk') ?_)
  split
  · exact hodTrap_kept hk'
  · exact retire_kept (modMason_kept (hodPopWord_kept hk'))

theorem execHodPopInstruction_kept {m : Nat} {funct7 : BitVec 7} {rs1 rd : Nat} {ups : List Upset}
    (hk : Kept False 16 s₀ s) :
    NextKept s₀ (execHodPopInstruction m funct7 rs1 rd ups s) := by
  dsimp only [execHodPopInstruction]
  exact atUnit_kept (popInstr_kept hk)

theorem statInstr_kept {m : Nat} {funct7 : BitVec 7} {rs1 rd : Nat} (hk : Kept False n s₀ s) :
    Kept False n s₀ (statInstr s m funct7 rs1 rd) := by
  dsimp only [statInstr]
  refine Kept.ite hk (Kept.ite (illegal_kept hk) ?_)
  split
  · exact hodTrap_kept hk
  · exact retire_kept hk

theorem execHodStat_kept {m : Nat} {funct7 : BitVec 7} {rs1 rd : Nat} (hk : Kept False 16 s₀ s) :
    NextKept s₀ (execHodStat m funct7 rs1 rd s) := by
  dsimp only [execHodStat]
  exact atUnit_kept (statInstr_kept hk)

theorem pauseMason_kept {m : Nat} (hk : Kept False n s₀ s) : Kept False n s₀ (pauseMason s m) := by
  dsimp only [pauseMason]
  exact modMason_kept hk

theorem waitOn_kept {m rd : Nat} {w : Word} (hk : Kept False n s₀ s) : Kept False n s₀ (waitOn s m rd w) := by
  dsimp only [waitOn]
  exact Kept.ite (pauseMason_kept hk) (Kept.ite (retire_kept hk) (modMason_kept hk))

theorem waitInstr_kept {m : Nat} {funct7 : BitVec 7} {rs1 rd : Nat} (hk : Kept False n s₀ s) :
    Kept False n s₀ (waitInstr s m funct7 rs1 rd) := by
  dsimp only [waitInstr]
  refine Kept.ite hk (Kept.ite (illegal_kept hk) ?_)
  split
  · exact hodTrap_kept hk
  · exact waitOn_kept hk

theorem execHodWait_kept {m : Nat} {funct7 : BitVec 7} {rs1 rd : Nat} (hk : Kept False 16 s₀ s) :
    NextKept s₀ (execHodWait m funct7 rs1 rd s) := by
  dsimp only [execHodWait]
  exact atUnit_kept (waitInstr_kept hk)

theorem wakeMason_kept {m : Nat} (hk : Kept False n s₀ s) : Kept False n s₀ (wakeMason s m) := by
  dsimp only [wakeMason]
  split
  · exact Kept.ite hk (retire_kept (modMason_kept hk))
  · exact hk

theorem execHodWaitWake_kept {m : Nat} (hk : Kept False 16 s₀ s) : NextKept s₀ (execHodWaitWake m s) := by
  dsimp only [execHodWaitWake]
  exact atUnit_kept (wakeMason_kept hk)

theorem execWfi_kept {m : Nat} (hk : Kept False 16 s₀ s) : NextKept s₀ (execWfi m s) := by
  dsimp only [execWfi]
  exact atUnit_kept (Kept.ite (waitOn_kept hk) hk)

theorem putScratch_kept {m w v : Nat} (hk : Kept False n s₀ s) : Kept False n s₀ (putScratch s m w v) := by
  dsimp only [putScratch]
  exact modMason_kept hk

theorem takePallet_kept {m rd addr : Nat} {p : Slot} {rest : List Slot} (hk : Kept False n s₀ s) :
    Kept False n s₀ (takePallet s m rd addr p rest) := by
  dsimp only [takePallet]
  exact retire_kept (modMason_kept (Kept.each (fun _ _ => putScratch_kept) hk))

theorem getInstr_kept {m : Nat} {funct7 : BitVec 7} {rs1 rd : Nat} (hk : Kept False n s₀ s) :
    Kept False n s₀ (getInstr s m funct7 rs1 rd) := by
  dsimp only [getInstr]
  refine Kept.ite hk (Kept.ite (illegal_kept hk) (Kept.ite (pauseMason_kept hk) ?_))
  split
  · exact retire_kept hk
  · exact Kept.ite (trap_kept hk) (Kept.ite (trap_kept hk) (takePallet_kept hk))

theorem execPalGet_kept {m : Nat} {funct7 : BitVec 7} {rs1 rd : Nat} (hk : Kept False 16 s₀ s) :
    NextKept s₀ (execPalGet m funct7 rs1 rd s) := by
  dsimp only [execPalGet]
  exact atUnit_kept (getInstr_kept hk)

theorem doneInstr_kept {m : Nat} {funct7 : BitVec 7} {rd : Nat} (hk : Kept False n s₀ s) :
    Kept False n s₀ (doneInstr s m funct7 rd) := by
  dsimp only [doneInstr]
  refine Kept.ite hk (Kept.opt' (illegal_kept hk) (fun hk' => ?_))
  split
  · exact Kept.opt' (rbDrop_kept hk) (fun hk2 => retire_kept (modMason_kept (completeSlot_kept hk2)))
  · exact hk'

theorem execPalDone_kept {m : Nat} {funct7 : BitVec 7} {rd : Nat} (hk : Kept False 16 s₀ s) :
    NextKept s₀ (execPalDone m funct7 rd s) := by
  dsimp only [execPalDone]
  exact atUnit_kept (doneInstr_kept hk)

theorem dropOpenFor_kept {m h : Nat} (hk : Kept False n s₀ s) : Kept False n s₀ (dropOpenFor s m h) := by
  dsimp only [dropOpenFor]
  exact Kept.ite (setFlushed_kept (rbDrop_kept hk)) hk

theorem bufferWord_kept {m h : Nat} {last : Bool} {data : Word} (hk : Kept False n s₀ s) :
    Kept False n s₀ (bufferWord s m h last data).2 := by
  unfold bufferWord
  dsimp only
  split
  · exact discardWord_kept hk
  · split
    · split
      · exact discardWord_kept (dropOpenFor_kept hk)
      · exact Kept.mk_snd (modPalBlk_kept hk)
    · exact hk

theorem pushOrdered_kept {m h j : Nat} {p : Slot} {start last : Bool} {prio : Nat} {data : Word} {rd : Nat}
    (hk : Kept False n s₀ s) :
    Kept False n s₀ (pushOrdered s m h j p start last prio data rd) := by
  dsimp only [pushOrdered]
  exact Kept.ite (retire_kept (hodPushWord_kept hk)) (Kept.ite (Kept.ite
      (modMason_kept (dropOpenFor_kept hk)) (retire_kept (rbAdd_kept (dropOpenFor_kept hk))))
      (retire_kept (bufferWord_kept hk)))

theorem pushoInstr_kept {m : Nat} {funct7 : BitVec 7} {rs2 rs1 rd : Nat} (hk : Kept False n s₀ s) :
    Kept False n s₀ (pushoInstr s m funct7 rs2 rs1 rd) := by
  dsimp only [pushoInstr]
  refine Kept.ite hk (Kept.opt' (illegal_kept hk) (fun hk' => ?_))
  split
  · split
    · exact hodTrap_kept hk
    · exact pushOrdered_kept hk
  · exact hk'

theorem execPalPusho_kept {m : Nat} {funct7 : BitVec 7} {rs2 rs1 rd : Nat} (hk : Kept False 16 s₀ s) :
    NextKept s₀ (execPalPusho m funct7 rs2 rs1 rd s) := by
  dsimp only [execPalPusho]
  exact atUnit_kept (pushoInstr_kept hk)

theorem pushoRetry_kept {m : Nat} (hk : Kept False n s₀ s) : Kept False n s₀ (pushoRetry s m) := by
  dsimp only [pushoRetry]
  split
  · exact Kept.ite hk (pushOrdered_kept (modMason_kept hk))
  · exact hk

theorem execPalPushoEntryFree_kept {m : Nat} (hk : Kept False 16 s₀ s) :
    NextKept s₀ (execPalPushoEntryFree m s) := by
  dsimp only [execPalPushoEntryFree]
  exact atUnit_kept (pushoRetry_kept hk)

theorem accessFault_kept {m : Nat} {op : MemOp} {reason : Nat} (hk : Kept False n s₀ s) :
    Kept False n s₀ (accessFault s m op reason) := by
  dsimp only [accessFault]
  exact trap_kept hk

theorem designAtomic_kept {m : Nat} {op : MemOp} (hk : Kept False n s₀ s) :
    Kept False n s₀ (designAtomic s m op) := by
  dsimp only [designAtomic]
  exact trap_kept hk

theorem designLoad_kept {m : Nat} {op : MemOp} {ups : List Upset} (hk : Kept False n s₀ s) :
    Kept False n s₀ (designLoad s m op ups) := by
  dsimp only [designLoad]
  split
  · exact Kept.opt' (upsets_kept hk) (fun hk' => Kept.ite (illegal_kept hk')
      (Kept.ite (retire_kept (masterRead_kept hk')) (accessFault_kept (masterRead_kept hk'))))
  · exact Kept.opt (upsets_kept hk) designAtomic_kept

theorem execMasonDesignLoad_kept {m : Nat} {op : MemOp} {ups : List Upset} (hk : Kept False 16 s₀ s) :
    NextKept s₀ (execMasonDesignLoad m op ups s) := by
  dsimp only [execMasonDesignLoad]
  exact atUnit_kept (designLoad_kept hk)

theorem designStore_kept {m : Nat} {op : MemOp} {ups : List Upset} (hk : Kept False n s₀ s) :
    Kept False n s₀ (designStore s m op ups) := by
  dsimp only [designStore]
  split
  · exact Kept.opt' (upsets_kept hk) (fun hk' => Kept.ite (illegal_kept hk')
      (Kept.ite (retire_kept (masterWrite_kept hk')) (accessFault_kept (masterWrite_kept hk'))))
  · exact Kept.opt (upsets_kept hk) designAtomic_kept

theorem execMasonDesignStore_kept {m : Nat} {op : MemOp} {ups : List Upset} (hk : Kept False 16 s₀ s) :
    NextKept s₀ (execMasonDesignStore m op ups s) := by
  dsimp only [execMasonDesignStore]
  exact atUnit_kept (designStore_kept hk)

theorem scratchUe_kept {m : Nat} (hk : Kept False n s₀ s) : Kept False n s₀ (scratchUe s m) := by
  dsimp only [scratchUe]
  exact modMsnBlk_kept (leafAdd_kept hk)

theorem scratchWord_kept {m w : Nat} (hk : Kept False n s₀ s) : Kept False n s₀ (scratchWord s m w).2 := by
  unfold scratchWord
  dsimp only
  split
  · exact Kept.mk_snd (Kept.ite (leafAdd_kept (modMason_kept hk)) hk)
  · exact Kept.mk_snd (scratchUe_kept hk)

theorem scratchRead_kept {m addr n' : Nat} (hk : Kept False n s₀ s) :
    Kept False n s₀ (scratchRead s m addr n').2 := by
  unfold scratchRead
  split
  next _ _ heq =>
    exact Kept.mk_snd (Kept.snd heq (scratchWord_kept hk))
  next _ _ _ heq =>
    split
    · exact Kept.mk_snd (Kept.snd heq (scratchWord_kept hk))
    · split
      next _ _ heq' =>
        exact Kept.mk_snd (Kept.snd heq' (scratchWord_kept (Kept.snd heq (scratchWord_kept hk))))
      next _ _ _ heq' =>
        exact Kept.mk_snd (Kept.snd heq' (scratchWord_kept (Kept.snd heq (scratchWord_kept hk))))

theorem peerRead_kept {parts : List (Nat × Nat × Nat)} (hk : Kept False n s₀ s) :
    Kept False n s₀ (peerRead s parts).2 := by
  unfold peerRead
  induction parts with
  | nil => exact hk
  | cons w parts ih => exact scratchRead_kept ih

theorem scratchFault_kept {m : Nat} {op : MemOp} (hk : Kept False n s₀ s) :
    Kept False n s₀ (scratchFault s m op) := by
  dsimp only [scratchFault]
  exact trap_kept hk

theorem scratchWrite_kept {m addr n' v : Nat} (hk : Kept False n s₀ s) :
    Kept False n s₀ (scratchWrite s m addr n' v).2 := by
  dsimp only [scratchWrite]
  split
  · exact Kept.mk_snd (putScratch_kept hk)
  · split
    · split
      next _ _ _ heq =>
        exact Kept.mk_snd (putScratch_kept (Kept.snd heq (scratchWord_kept hk)))
      next _ _ heq =>
        exact Kept.mk_snd (Kept.snd heq (scratchWord_kept hk))
    · split
      next _ _ heq =>
        exact Kept.mk_snd (Kept.snd heq (scratchWord_kept hk))
      next _ _ _ heq =>
        split
        next _ _ heq' =>
          exact Kept.mk_snd (Kept.snd heq' (scratchWord_kept (Kept.snd heq (scratchWord_kept hk))))
        next _ _ _ heq' =>
          exact Kept.mk_snd (putScratch_kept (putScratch_kept (Kept.snd heq'
              (scratchWord_kept (Kept.snd heq (scratchWord_kept hk))))))

theorem peerWrite_kept {parts : List (Nat × Nat × Nat)} {v : Nat} (hk : Kept False n s₀ s) :
    Kept False n s₀ (peerWrite s parts v).2 := by
  dsimp only [peerWrite]
  exact Kept.foldl_by (fun p : _ × State × _ => p.2.1) (fun _ _ hk' => Kept.mk_snd1
      (modMason_kept (scratchWrite_kept hk'))) hk

theorem peerAccess_kept {m : Nat} {op : MemOp} (hk : Kept False n s₀ s) :
    Kept False n s₀ (peerAccess s m op) := by
  dsimp only [peerAccess]
  refine Kept.ite hk ?_
  split
  · refine Kept.ite hk (Kept.ite (illegal_kept hk) (Kept.ite (accessFault_kept hk) ?_))
    split
    next _ _ _ heq =>
      exact retire_kept (Kept.snd heq (peerRead_kept hk))
    next _ _ heq =>
      exact scratchFault_kept (Kept.snd heq (peerRead_kept hk))
  · refine Kept.ite hk (Kept.ite (illegal_kept hk) (Kept.ite (accessFault_kept hk) ?_))
    split
    next _ _ heq =>
      exact retire_kept (Kept.snd heq (peerWrite_kept hk))
    next _ _ heq =>
      exact scratchFault_kept (Kept.snd heq (peerWrite_kept hk))
  · exact Kept.ite (accessFault_kept hk) hk

theorem execPeerWindowAccess_kept {m : Nat} {op : MemOp} (hk : Kept False 16 s₀ s) :
    NextKept s₀ (execPeerWindowAccess m op s) := by
  dsimp only [execPeerWindowAccess]
  exact atUnit_kept (peerAccess_kept hk)

theorem counterRead_kept {m csr rd : Nat} (hk : Kept False n s₀ s) :
    Kept False n s₀ (counterRead s m csr rd) := by
  dsimp only [counterRead]
  exact Kept.ite hk (Kept.ite (illegal_kept hk) (retire_kept (takeFree_kept hk)))

theorem execCounterCsrRead_kept {m csr rd : Nat} (hk : Kept False 16 s₀ s) :
    NextKept s₀ (execCounterCsrRead m csr rd s) := by
  dsimp only [execCounterCsrRead]
  exact atUnit_kept (counterRead_kept hk)

theorem execMret_kept {m : Nat} (hk : Kept False 16 s₀ s) : NextKept s₀ (execMret m s) := by
  dsimp only [execMret]
  exact atUnit_kept (Kept.ite (modMason_kept hk) hk)

theorem execMasonPaused_kept {m : Nat} (hk : Kept False 16 s₀ s) : NextKept s₀ (execMasonPaused m s) := by
  dsimp only [execMasonPaused]
  exact atUnit_kept (Kept.ite (pauseMason_kept hk) hk)

theorem pauseTimeout_kept {j : Nat} (hk : Kept False n s₀ s) : Kept False n s₀ (pauseTimeout s j) := by
  dsimp only [pauseTimeout]
  exact Kept.ite (failCapture_kept (emitJob_kept hk)) hk

theorem resumeGroup_kept {g : Nat} (hk : Kept False n s₀ s) : Kept False n s₀ (resumeGroup s g) := by
  dsimp only [resumeGroup]
  refine Kept.each (fun _ _ hk' => ?_) hk
  split
  · exact Kept.ite hk' (resumeMason_kept hk')
  · exact hk'

theorem skipGroupTest_kept {j : Nat} (hk : Kept False n s₀ s) : Kept False n s₀ (skipGroupTest s j) := by
  dsimp only [skipGroupTest]
  split
  · refine Kept.opt ?_ (fun hk' => complete_kept (dropAccOf_kept (resumeGroup_kept (modSprBlk_kept hk'))))
    split
    · exact Kept.ite (resumeGroup_kept (modSprBlk_kept hk)) hk
    · exact hk
  · split
    · exact Kept.ite (resumeGroup_kept (modSprBlk_kept hk)) hk
    · exact hk

theorem execMasonPauseTimeout_kept {job : Nat} (hk : Kept False 16 s₀ s) :
    NextKept s₀ (execMasonPauseTimeout job s) := by
  dsimp only [execMasonPauseTimeout]
  exact atUnit_kept (pauseTimeout_kept (skipGroupTest_kept hk))

theorem failMason_kept {m : Nat} (hk : Kept False n s₀ s) : Kept False n s₀ (failMason s m) := by
  dsimp only [failMason]
  exact emitDev_kept (modMason_kept (unassignMason_kept hk))

theorem sparedMason_kept {m core : Nat} (hk : Kept False n s₀ s) : Kept False n s₀ (sparedMason s m core) := by
  dsimp only [sparedMason]
  refine emitDev_kept ?_
  split
  · exact Kept.opt' (modMason_kept (modGroup_kept (addRepair_kept hk))) resumeMason_kept
  · exact resumeMason_kept (modMason_kept (modGroup_kept (addRepair_kept hk)))

theorem substitute_kept {m : Nat} (hk : Kept False n s₀ s) : Kept False n s₀ (substitute s m) := by
  dsimp only [substitute]
  refine Kept.ite hk ?_
  split
  · exact failMason_kept hk
  · exact Kept.ite (sparedMason_kept hk) (askPause_kept hk)

theorem execMasonSubstitution_kept {m : Nat} (hk : Kept False 16 s₀ s) :
    NextKept s₀ (execMasonSubstitution m s) := by
  dsimp only [execMasonSubstitution]
  exact atUnit_kept (substitute_kept hk)

theorem askTap_kept {p : Nat} {r : Nat × Nat × TapReq} (hk : Kept False n s₀ s) :
    Kept False n s₀ (askTap p s r) := by
  dsimp only [askTap]
  exact Kept.ite hk (emitOut_kept hk)

theorem tapRequest_kept {p : Nat} {r : Nat × Nat × TapReq} (hk : Kept False n s₀ s) :
    Kept False n s₀ (tapRequest p s r) := by
  dsimp only [tapRequest]
  refine Kept.ite hk (Kept.ite (emitOut_kept hk) ?_)
  split
  · refine Kept.ite (emitOut_kept (modLane_kept ?_)) (emitOut_kept ?_)
    · split
      · exact Kept.mk_snd (takeFree_kept hk)
      · exact hk
      · exact hk
      · exact hk
    · split
      · exact Kept.mk_snd (takeFree_kept hk)
      · exact hk
      · exact hk
      · exact hk
  · refine emitOut_kept ?_
    split
    · exact Kept.mk_snd (takeFree_kept hk)
    · exact hk
    · exact hk
    · exact hk

theorem laneTraining_kept {p : Nat} {signal inverted : BitVec 9} {reqs asks : List (Nat × Nat × TapReq)}
    (hk : Kept False n s₀ s) :
    Kept False n s₀ (laneTraining s p signal inverted reqs asks) := by
  dsimp only [laneTraining]
  exact Kept.ite hk (Kept.each (fun _ _ => askTap_kept) (Kept.each (fun _ _ => tapRequest_kept)
      (Kept.each (fun _ _ => modLane_kept) (setPort_kept hk))))

theorem execLaneTraining_kept {port : Nat} {signal inverted : BitVec 9}
    {reqs asks : List (Nat × Nat × TapReq)} (hk : Kept False 16 s₀ s) :
    NextKept s₀ (execLaneTraining port signal inverted reqs asks s) := by
  dsimp only [execLaneTraining]
  exact atUnit_kept (laneTraining_kept hk)

theorem sendInit_kept {p : Nat} (hk : Kept False n s₀ s) : Kept False n s₀ (sendInit s p) := by
  dsimp only [sendInit]
  exact sendCtl_kept hk

theorem trainingDone_kept {p : Nat} {ready : BitVec 9} {marks : List LaneMark} (hk : Kept False n s₀ s) :
    Kept False n s₀ (trainingDone s p ready marks) := by
  dsimp only [trainingDone]
  exact Kept.ite hk (Kept.opt' (Kept.each (fun _ _ => modLane_kept) hk)
      (fun hk' => Kept.opt (Kept.opt (Kept.opt (setPort_kept hk') emitDev_kept) emitDev_kept) sendInit_kept))

theorem execLaneTrainingDone_kept {port : Nat} {ready : BitVec 9} {marks : List LaneMark}
    (hk : Kept False 16 s₀ s)
    :
    NextKept s₀ (execLaneTrainingDone port ready marks s) := by
  dsimp only [execLaneTrainingDone]
  exact atUnit_kept (trainingDone_kept hk)

theorem bringupTimeout_kept {p : Nat} (hk : Kept False n s₀ s) : Kept False n s₀ (bringupTimeout s p) := by
  dsimp only [bringupTimeout]
  exact Kept.ite (Kept.each (fun _ _ => modLane_kept) (setPort_kept hk)) hk

theorem execPortBringupTimeout_kept {port : Nat} (hk : Kept False 16 s₀ s) :
    NextKept s₀ (execPortBringupTimeout port s) := by
  dsimp only [execPortBringupTimeout]
  exact atUnit_kept (bringupTimeout_kept hk)

theorem retrain_kept {p : Nat} (hk : Kept False n s₀ s) : Kept False n s₀ (retrain s p) := by
  dsimp only [retrain]
  exact Kept.ite (modPort_kept (sendCtl_kept hk)) hk

theorem resendOne_kept {p : Nat} {f : Flit} (hk : Kept False n s₀ s) : Kept False n s₀ (resendOne p s f) := by
  dsimp only [resendOne]
  exact putSlot_kept (modPort_kept hk)

theorem resendAll_kept {p : Nat} (hk : Kept False n s₀ s) : Kept False n s₀ (resendAll s p) := by
  dsimp only [resendAll]
  exact Kept.ite hk (Kept.ite (retrain_kept hk) (leafAdd_kept (modPort_kept
      (Kept.each (fun _ _ => resendOne_kept) (wakeTx_kept hk)))))

theorem askResend_kept (hk : Kept False n s₀ s) : Kept False n s₀ (askResend s) := by
  dsimp only [askResend]
  exact Kept.each (fun _ _ hk' => Kept.ite hk' (routeSend_kept hk')) hk

theorem initUp_kept {p : Nat} {b : InitBody} (hk : Kept False n s₀ s) : Kept False n s₀ (initUp s p b) := by
  dsimp only [initUp]
  exact pump_kept (Kept.opt' (Kept.opt (emitDev_kept (Kept.opt' (setPort_kept (leafAdd_kept hk))
      emitDev_kept)) resendAll_kept) askResend_kept)

theorem initMessage_kept {p : Nat} {b : InitBody} (hk : Kept False n s₀ s) :
    Kept False n s₀ (initMessage s p b) := by
  dsimp only [initMessage]
  exact Kept.ite hk (Kept.ite (emitDev_kept hk) (initUp_kept hk))

theorem execInit_kept {port : Nat} {b : InitBody} (hk : Kept False 16 s₀ s) :
    NextKept s₀ (execInit port b s) := by
  dsimp only [execInit]
  exact atUnit_kept (initMessage_kept hk)

theorem receiveCode_kept {p slot : Nat} {errs : SymErrs} (hk : Kept False n s₀ s) :
    Kept False n s₀ (receiveCode s p slot errs).2 := by
  dsimp only [receiveCode]
  split
  · exact hk
  · split
    · exact Kept.mk_snd (modPort_kept (Kept.ite hk (leafAdd_kept (leafAdd_kept hk))))
    · exact Kept.mk_snd (modPort_kept (leafAdd_kept hk))

theorem sendNak_kept {p : Nat} (hk : Kept False n s₀ s) : Kept False n s₀ (sendNak s p) := by
  dsimp only [sendNak]
  exact leafAdd_kept (sendCtl_kept (setPort_kept hk))

theorem badFlit_kept {p : Nat} (hk : Kept False n s₀ s) : Kept False n s₀ (badFlit s p) := by
  dsimp only [badFlit]
  split
  · exact sendNak_kept (leafAdd_kept hk)
  · exact Kept.opt (leafAdd_kept hk) sendNak_kept

theorem ackFlit_kept {p last f0 f1 f2 : Nat} (hk : Kept False n s₀ s) :
    Kept False n s₀ (ackFlit s p last f0 f1 f2) := by
  dsimp only [ackFlit]
  exact Kept.ite hk (pump_kept (setPort_kept hk))

theorem nakFlit_kept {p expected f0 f1 f2 : Nat} (hk : Kept False n s₀ s) :
    Kept False n s₀ (nakFlit s p expected f0 f1 f2) := by
  dsimp only [nakFlit]
  exact Kept.ite hk (pump_kept (resendAll_kept (setPort_kept hk)))

theorem quietEnter_kept {p : Nat} (hk : Kept False n s₀ s) : Kept False n s₀ (quietEnter s p) := by
  dsimp only [quietEnter]
  exact Kept.ite (portPower_kept (modPort_kept hk)) hk

theorem controlFlit_kept {p kind : Nat} {body : List Byte} (hk : Kept False n s₀ s) :
    Kept False n s₀ (controlFlit s p kind body) := by
  unfold controlFlit
  split
  · exact ackFlit_kept hk
  · exact nakFlit_kept hk
  · exact initMessage_kept hk
  · exact quietEnter_kept hk
  · exact retrain_kept hk
  · exact hk

theorem acceptFlit_kept {p : Nat} {bytes : List Byte} (hk : Kept False n s₀ s) :
    Kept False n s₀ (acceptFlit s p bytes) := by
  dsimp only [acceptFlit]
  refine Kept.opt (leafAdd_kept (setPort_kept ?_)) sendAck_kept
  split
  · exact fwdRead_kept hk
  · exact hk

theorem takeFlit_kept {p : Nat} {bytes : List Byte} (hk : Kept False n s₀ s) :
    Kept False n s₀ (takeFlit s p bytes) := by
  dsimp only [takeFlit]
  exact Kept.ite (Kept.ite (controlFlit_kept hk) (Kept.ite (badFlit_kept hk) hk))
      (Kept.ite hk (Kept.ite (acceptFlit_kept hk) (badFlit_kept hk)))

theorem sequencedFlit_kept {p slot : Nat} {bytes : List Byte} {errs : SymErrs} (hk : Kept False n s₀ s) :
    Kept False n s₀ (sequencedFlit s p slot bytes errs) := by
  dsimp only [sequencedFlit]
  split
  next _ _ heq =>
    exact Kept.ite (badFlit_kept (Kept.snd heq (receiveCode_kept hk))) (Kept.snd heq (receiveCode_kept hk))
  next _ _ _ heq =>
    exact Kept.ite (Kept.snd heq (receiveCode_kept hk)) (Kept.ite (takeFlit_kept
        (Kept.snd heq (receiveCode_kept hk))) (Kept.ite (badFlit_kept (Kept.snd heq (receiveCode_kept hk)))
        (Kept.snd heq (receiveCode_kept hk))))

theorem execSequencedFlit_kept {port slot : Nat} {bytes : List Byte} {errs : List (Nat × BitVec 10)}
    (hk : Kept False 16 s₀ s) :
    NextKept s₀ (execSequencedFlit port slot bytes errs s) := by
  dsimp only [execSequencedFlit]
  exact atUnit_kept (sequencedFlit_kept hk)

theorem execAck_kept {port last freed0 freed1 freed2 : Nat} (hk : Kept False 16 s₀ s) :
    NextKept s₀ (execAck port last freed0 freed1 freed2 s) := by
  dsimp only [execAck]
  exact atUnit_kept (ackFlit_kept hk)

theorem execNak_kept {port expected freed0 freed1 freed2 : Nat} (hk : Kept False 16 s₀ s) :
    NextKept s₀ (execNak port expected freed0 freed1 freed2 s) := by
  dsimp only [execNak]
  exact atUnit_kept (nakFlit_kept hk)

theorem execAckSend_kept {port : Nat} (hk : Kept False 16 s₀ s) : NextKept s₀ (execAckSend port s) := by
  dsimp only [execAckSend]
  exact atUnit_kept (Kept.ite (sendAck_kept hk) hk)

theorem execAckTimeout_kept {port : Nat} (hk : Kept False 16 s₀ s) : NextKept s₀ (execAckTimeout port s) := by
  dsimp only [execAckTimeout]
  exact atUnit_kept (pump_kept (resendAll_kept hk))

theorem execQuietEnter_kept {port : Nat} (hk : Kept False 16 s₀ s) : NextKept s₀ (execQuietEnter port s) := by
  dsimp only [execQuietEnter]
  exact atUnit_kept (quietEnter_kept hk)

theorem execQuietIdleExpiry_kept {port : Nat} (hk : Kept False 16 s₀ s) :
    NextKept s₀ (execQuietIdleExpiry port s) := by
  dsimp only [execQuietIdleExpiry]
  exact atUnit_kept (Kept.ite (portPower_kept (modPort_kept (sendCtl_kept hk))) hk)

theorem execQuietWake_kept {port : Nat} (hk : Kept False 16 s₀ s) : NextKept s₀ (execQuietWake port s) := by
  dsimp only [execQuietWake]
  exact atUnit_kept (Kept.ite (pump_kept (wakeTx_kept hk)) hk)

theorem execRetrainReq_kept {port : Nat} (hk : Kept False 16 s₀ s) : NextKept s₀ (execRetrainReq port s) := by
  dsimp only [execRetrainReq]
  exact atUnit_kept (retrain_kept hk)

theorem markLane_kept {l : Nat} (hk : Kept False n s₀ s) : Kept False n s₀ (markLane s l) := by
  dsimp only [markLane]
  exact Kept.opt' (modPort_kept hk) addRepair_kept

theorem laneTrigger_kept {l : Nat} (hk : Kept False n s₀ s) : Kept False n s₀ (laneTrigger s l) := by
  dsimp only [laneTrigger]
  exact Kept.ite hk (retrain_kept (Kept.opt (modLane_kept hk) markLane_kept))

theorem execLaneLockLoss_kept {lane : Nat} (hk : Kept False 16 s₀ s) :
    NextKept s₀ (execLaneLockLoss lane s) := by
  dsimp only [execLaneLockLoss]
  exact atUnit_kept (laneTrigger_kept hk)

theorem execCodewordBurst_kept {lane : Nat} (hk : Kept False 16 s₀ s) :
    NextKept s₀ (execCodewordBurst lane s) := by
  dsimp only [execCodewordBurst]
  exact atUnit_kept (laneTrigger_kept hk)

theorem execLaneErrorWindow_kept {lane : Nat} (hk : Kept False 16 s₀ s) :
    NextKept s₀ (execLaneErrorWindow lane s) := by
  dsimp only [execLaneErrorWindow]
  exact atUnit_kept (Kept.ite (retrain_kept (markLane_kept hk)) hk)

theorem linkTimeout_kept {p : Nat} (hk : Kept False n s₀ s) : Kept False n s₀ (linkTimeout s p) := by
  dsimp only [linkTimeout]
  exact Kept.ite (Kept.each (fun _ _ => emitJob_kept) (emitDev_kept (setPort_kept hk))) hk

theorem execLinkTimeoutExpiry_kept {port : Nat} (hk : Kept False 16 s₀ s) :
    NextKept s₀ (execLinkTimeoutExpiry port s) := by
  dsimp only [execLinkTimeoutExpiry]
  exact atUnit_kept (linkTimeout_kept hk)

theorem relay_kept {port : Nat} {e : Env} {cls kind : Nat} {body : List Byte} (hk : Kept False n s₀ s) :
    Kept False n s₀ (relay s port e cls kind body) := by
  dsimp only [relay]
  exact Kept.ite (sendMsg_kept hk) (unroutable_kept hk)

theorem arriving_kept {port cls kind : Nat} {here : Env → List Byte → State → State} (hk : Kept False n s₀ s)
    (hh : ∀ e b t, Kept False n s₀ t → Kept False n s₀ (here e b t)) : Kept False n s₀ (arriving s port cls kind here) := by
  unfold arriving
  split
  · exact hk
  · exact Kept.ite (hh _ _ _ (takeMsg_kept hk)) (relay_kept (takeMsg_kept hk))

theorem remoteItem_kept {port src h prio : Nat} {ws : List Word} {poison : BitVec 16} (hk : Kept False n s₀ s) :
    Kept False n s₀ (remoteItem s port src h prio ws poison) := by
  dsimp only [remoteItem]
  exact Kept.ite (hodPushItem_kept (modPalBlk_kept hk)) (unroutable_kept (modArrBlk_kept hk))

theorem remoteItemOf_kept {port src : Nat} {body : List Byte} (hk : Kept False n s₀ s) :
    Kept False n s₀ (remoteItemOf s port src body) := by
  dsimp only [remoteItemOf]
  exact remoteItem_kept hk

theorem execRemoteHodItem_kept {port : Nat} (hk : Kept False 16 s₀ s) :
    NextKept s₀ (execRemoteHodItem port s) := by
  dsimp only [execRemoteHodItem]
  exact atUnit_kept (arriving_kept hk (fun _ _ _ => remoteItemOf_kept))

theorem takeGrant_kept {src : Nat} {body : List Byte} (hk : Kept False n s₀ s) :
    Kept False n s₀ (takeGrant s src body) := by
  dsimp only [takeGrant]
  exact Kept.ite (modPalBlk_kept hk) hk

theorem execRemoteHodCreditGrant_kept {port : Nat} (hk : Kept False 16 s₀ s) :
    NextKept s₀ (execRemoteHodCreditGrant port s) := by
  dsimp only [execRemoteHodCreditGrant]
  exact atUnit_kept (arriving_kept hk (fun _ _ _ => takeGrant_kept))

theorem takeWholeItem_kept {k h : Nat} {a : Agent} (hk : Kept False n s₀ s) :
    Kept False n s₀ (takeWholeItem k s h a).2 := by
  induction k generalizing s with
  | zero => exact hk
  | succ k ih =>
    have hp : Kept False n s₀ (hodPopWord s h a).2 := hodPopWord_kept hk
    unfold takeWholeItem
    split
    next e =>
      split
      · exact .snd e hp
      · exact ih (.snd e hp)
    next e => exact .snd e hp

theorem execRemoteHodSend_kept {hod : Nat} {ups : List Upset} (hk : Kept False 16 s₀ s) :
    NextKept s₀ (execRemoteHodSend hod ups s) := by
  dsimp only [execRemoteHodSend]
  exact .next (Kept.opt' (upsets_kept hk) (fun hk' => routeSend_kept
      (modPalBlk_kept (takeWholeItem_kept hk'))))

theorem execManagementMessage_kept {port : Nat} (hk : Kept False 16 s₀ s) :
    NextKept s₀ (execManagementMessage port s) := by
  dsimp only [execManagementMessage]
  exact atUnit_kept (arriving_kept hk (fun _ _ _ hk' => hk'))

theorem execCmdLryPortCfg_kept {h : Hdr} {port : Nat} {cfg : BitVec 32}
    {linkTimeoutUs ackTimeoutUs : Option Nat} (hk : Kept False 16 s₀ s) :
    NextKept s₀ (execCmdLryPortCfg h port cfg linkTimeoutUs ackTimeoutUs s) := by
  dsimp only [execCmdLryPortCfg]
  exact .next (runCmd_kept hk (fun _ => Kept.ite (fail_kept hk) (answer_kept
      (modLryBlk_kept (modPort_kept hk)))))

theorem execCmdLryPortStatus_kept {h : Hdr} {first count : Nat} (hk : Kept False 16 s₀ s) :
    NextKept s₀ (execCmdLryPortStatus h first count s) := by
  dsimp only [execCmdLryPortStatus]
  exact .next (runCmd_kept hk (fun _ => Kept.ite (fail_kept hk) (answer_kept hk)))

theorem execCmdLryLaneTaps_kept {h : Hdr} {lane : Nat} {w : Option (BitVec 32)} (hk : Kept False 16 s₀ s) :
    NextKept s₀ (execCmdLryLaneTaps h lane w s) := by
  dsimp only [execCmdLryLaneTaps]
  refine .next (runCmd_kept hk (fun _ => Kept.opt' (fail_kept hk) (fun hk' => ?_)))
  split
  · exact answer_kept hk
  · exact Kept.ite hk' (answer_kept (modLane_kept hk))

theorem execCmdLryLanePower_kept {h : Hdr} {lane : Nat} {tx : Bool} {power : LPower} (hk : Kept False 16 s₀ s) :
    NextKept s₀ (execCmdLryLanePower h lane tx power s) := by
  dsimp only [execCmdLryLanePower]
  exact .next (runCmd_kept hk (fun _ => Kept.ite (fail_kept hk) (Kept.ite (fail_kept hk)
      (answer_kept (modLane_kept hk)))))

theorem execCmdLryLaneTest_kept {h : Hdr} {lane : Nat} {w : BitVec 32} (hk : Kept False 16 s₀ s) :
    NextKept s₀ (execCmdLryLaneTest h lane w s) := by
  dsimp only [execCmdLryLaneTest]
  exact .next (runCmd_kept hk (fun _ => Kept.ite (fail_kept hk) (Kept.ite (fail_kept hk)
      (answer_kept (modLane_kept hk)))))

theorem execCmdLryLaneWords_kept {h : Hdr} {lane : Nat} {w : Option (BitVec 128)} (hk : Kept False 16 s₀ s) :
    NextKept s₀ (execCmdLryLaneWords h lane w s) := by
  dsimp only [execCmdLryLaneWords]
  refine .next (runCmd_kept hk (fun _ => Kept.ite (fail_kept hk) (answer_kept ?_)))
  split
  · split
    · exact takeFree_kept (modLane_kept hk)
    · exact Kept.mk_snd (modLane_kept hk)
  · split
    · exact takeFree_kept hk
    · exact hk

theorem injectGo_kept {l n' : Nat} (hk : Kept False n s₀ s) : Kept False n s₀ (injectGo s l n') := by
  dsimp only [injectGo]
  exact Kept.ite hk (Kept.opt (modLane_kept hk) (fun hk' => sendPairs_kept (modLane_kept hk')))

theorem execInjGo_kept {lane symbols : Nat} (hk : Kept False 16 s₀ s) :
    NextKept s₀ (execInjGo lane symbols s) := by
  dsimp only [execInjGo]
  exact atUnit_kept (injectGo_kept hk)

theorem receiveLine_kept {l : Nat} {levels : List (BitVec 2)} (hk : Kept False n s₀ s) :
    Kept False n s₀ (receiveLine s l levels) := by
  dsimp only [receiveLine]
  exact Kept.ite hk (Kept.opt (takeLevels_kept hk) putLevels_kept)

theorem slipLane_kept {l : Nat} {levels : List (BitVec 2)} (hk : Kept False n s₀ s) :
    Kept False n s₀ (slipLane s l levels) := by
  dsimp only [slipLane]
  exact receiveLine_kept (modLane_kept (receiveLine_kept (modLane_kept hk)))

theorem execSlip_kept {lane : Nat} {levels : List (BitVec 2)} (hk : Kept False 16 s₀ s) :
    NextKept s₀ (execSlip lane levels s) := by
  dsimp only [execSlip]
  exact atUnit_kept (Kept.ite (slipLane_kept hk) hk)

theorem execCmdLryFwdWrite_kept {h : Hdr} {entries : List (Nat × Fwd)} (hk : Kept False 16 s₀ s) :
    NextKept s₀ (execCmdLryFwdWrite h entries s) := by
  dsimp only [execCmdLryFwdWrite]
  exact .next (runCmd_kept hk (fun _ => Kept.ite (fail_kept hk) (answer_kept
      (Kept.each (fun _ _ => modLryBlk_kept) hk))))

theorem readFwd_kept {acc : List Byte × State} {stream : Nat} (hk : Kept False n s₀ acc.2) :
    Kept False n s₀ (readFwd acc stream).2 := by
  generalize hF : readFwd = readOne
  delta readFwd at hF
  rw [← hF]
  rcases hr : fwdRead acc.2 stream with ⟨e, t⟩
  beta_reduce
  rw [hr]
  exact Kept.snd hr (fwdRead_kept hk)

theorem execCmdLryFwdRead_kept {h : Hdr} {streams : List Nat} (hk : Kept False 16 s₀ s) :
    NextKept s₀ (execCmdLryFwdRead h streams s) := by
  dsimp only [execCmdLryFwdRead]
  exact .next (runCmd_kept hk (fun _ => Kept.ite (fail_kept hk) (answer_kept
      (Kept.foldl_by Prod.snd (fun _ _ => readFwd_kept) hk))))

theorem execCmdLryRouteWrite_kept {h : Hdr} {entries : List (Nat × Nat)} (hk : Kept False 16 s₀ s) :
    NextKept s₀ (execCmdLryRouteWrite h entries s) := by
  dsimp only [execCmdLryRouteWrite]
  exact .next (runCmd_kept hk (fun _ => Kept.ite (fail_kept hk) (answer_kept
      (Kept.each (fun _ _ => modLryBlk_kept) hk))))

theorem execCmdLryRouteRead_kept {h : Hdr} {ordinals : List Nat} (hk : Kept False 16 s₀ s) :
    NextKept s₀ (execCmdLryRouteRead h ordinals s) := by
  dsimp only [execCmdLryRouteRead]
  exact .next (runCmd_kept hk (fun _ => Kept.ite (fail_kept hk) (answer_kept hk)))

theorem execCmdLryPortResetRetrain_kept {h : Hdr} {port : Nat} (hk : Kept False 16 s₀ s) :
    NextKept s₀ (execCmdLryPortResetRetrain h port s) := by
  dsimp only [execCmdLryPortResetRetrain]
  exact .next (runCmd_kept hk (fun _ => Kept.ite (fail_kept hk) (answer_kept (retrain_kept hk))))

theorem execCmdLryPortResetReset_kept {h : Hdr} {port : Nat} (hk : Kept False 16 s₀ s) :
    NextKept s₀ (execCmdLryPortResetReset h port s) := by
  dsimp only [execCmdLryPortResetReset]
  exact .next (runCmd_kept hk (fun _ => Kept.ite (fail_kept hk) (answer_kept
      (modPort_kept (freshPort_kept hk)))))

theorem execCmdLryPortResetClearMarks_kept {h : Hdr} {port : Nat} (hk : Kept False 16 s₀ s) :
    NextKept s₀ (execCmdLryPortResetClearMarks h port s) := by
  dsimp only [execCmdLryPortResetClearMarks]
  exact .next (runCmd_kept hk fun _ => .ite (fail_kept hk)
    (answer_kept (shortenMap_kept (modPort_kept hk) fun _ => (List.length_map _).le)))

theorem execCmdArrOrdinal_kept {h : Hdr} {ordinal : Nat} (hk : Kept False 16 s₀ s) :
    NextKept s₀ (execCmdArrOrdinal h ordinal s) := by
  dsimp only [execCmdArrOrdinal]
  exact .next (runCmd_kept hk (fun _ => Kept.ite (fail_kept hk) (Kept.ite (fail_kept hk)
      (answer_kept (modArrBlk_kept hk)))))

theorem execCmdArrStream_kept {h : Hdr} {stream : Nat} {e : StreamEntry} (hk : Kept False 16 s₀ s) :
    NextKept s₀ (execCmdArrStream h stream e s) := by
  dsimp only [execCmdArrStream]
  refine .next (runCmd_kept hk (fun _ => Kept.ite (fail_kept hk) (Kept.opt' (fail_kept hk) (fun hk' => ?_))))
  split <;> exact Kept.ite (answer_kept (modArrBlk_kept hk)) hk'

theorem execCmdArrCkptPolicy_kept {h : Hdr} {interval : Nat} (hk : Kept False 16 s₀ s) :
    NextKept s₀ (execCmdArrCkptPolicy h interval s) := by
  dsimp only [execCmdArrCkptPolicy]
  refine .next (runCmd_kept hk (fun _ => ?_))
  split
  · exact answer_kept (modJob_kept hk)
  · exact fail_kept hk

theorem execCmdArrRollbackLocal_kept {h : Hdr} (hk : Kept False 16 s₀ s) :
    NextKept s₀ (execCmdArrRollbackLocal h s) := by
  dsimp only [execCmdArrRollbackLocal]
  exact .next (runCmd_kept hk (fun _ => Kept.ite (fail_kept hk) (Kept.ite (fail_kept hk)
      (accept_kept hk (fun _ => startRollback_kept)))))

theorem rewindStreams_kept {j : Nat} {ck : Ckpt} (hk : Kept False n s₀ s) :
    Kept False n s₀ (rewindStreams s j ck) := by
  dsimp only [rewindStreams]
  exact Kept.each (fun _ _ => modConsRun_kept) (Kept.each (fun _ _ => modSrcRun_kept) hk)

theorem globalRollback_kept {j : Nat} {ck : Ckpt} {epoch : BitVec 4} (hk : Kept False n s₀ s) :
    Kept False n s₀ (globalRollback s j ck epoch) := by
  dsimp only [globalRollback]
  exact emitJob_kept (modJob_kept (modArrBlk_kept (rewindStreams_kept
      (restoreCkpt_kept (applyUndo_kept (modJob_kept (resetMasons_kept hk)))))))

theorem execCmdArrRollbackGlobal_kept {h : Hdr} {k : Word} {epoch : BitVec 4} (hk : Kept False 16 s₀ s) :
    NextKept s₀ (execCmdArrRollbackGlobal h k epoch s) := by
  dsimp only [execCmdArrRollbackGlobal]
  refine .next (runCmd_kept hk (fun _ => Kept.ite (fail_kept hk) ?_))
  split
  · exact fail_kept hk
  · exact Kept.ite (fail_kept hk) (Kept.ite (fail_kept hk) (complete_kept
      (globalRollback_kept (respond_kept hk))))

theorem execCmdArrCkptExport_kept {h : Hdr} {b : Bulk} (hk : Kept False 16 s₀ s) :
    NextKept s₀ (execCmdArrCkptExport h b s) := by
  dsimp only [execCmdArrCkptExport]
  refine .next (runCmd_kept hk (fun _ => ?_))
  split
  · exact respond_kept hk
  · exact Kept.ite (fail_kept hk) (Kept.ite (fail_kept hk) (accept_kept hk
      (fun _ hk' => Kept.opt (modJob_kept hk') startCapture_kept)))

theorem importHod_kept {j : Nat} {e : Nat × Hod} (hk : Kept False n s₀ s) :
    Kept False n s₀ (importHod j s e) := by
  dsimp only [importHod]
  refine Kept.ite (Kept.ite (setHod_kept hk) hk) ?_
  split
  · exact setHod_kept hk
  · exact hk

theorem beginEpoch_kept {j : Nat} {k : Word} (hk : Kept False n s₀ s) : Kept False n s₀ (beginEpoch s j k) := by
  dsimp only [beginEpoch]
  exact addRecord_kept (Kept.each (fun _ _ => modHod_kept) (modJob_kept hk))

theorem importJob_kept {j : Nat} {e : Export} (hk : Kept False n s₀ s) : Kept False n s₀ (importJob s j e) := by
  dsimp only [importJob]
  exact modJob_kept (beginEpoch_kept (dropRecords_kept (rewindStreams_kept
      (restoreCkpt_kept (Kept.each (fun _ _ => importHod_kept) (Kept.each (fun _ _ => plainWrite_kept)
      (Kept.each (fun _ _ => resetPage_kept) (updatePasr_kept (Kept.each (fun _ _ => finishMap_kept)
      (Kept.each (fun _ _ => takeFrame_kept) hk))))))))))

theorem execCmdArrCkptImport_kept {h : Hdr} {e : Export} {b : Bulk} (hk : Kept False 16 s₀ s) :
    NextKept s₀ (execCmdArrCkptImport h e b s) := by
  dsimp only [execCmdArrCkptImport]
  refine .next (runCmd_kept hk (fun _ => ?_))
  split
  · exact respond_kept hk
  · exact Kept.ite (fail_kept hk) (Kept.ite (fail_kept hk) (Kept.ite (fail_kept hk)
      (Kept.ite (fail_kept hk) (accept_kept hk (fun _ => importJob_kept)))))

theorem execCmdArrStatus_kept {h : Hdr} (hk : Kept False 16 s₀ s) : NextKept s₀ (execCmdArrStatus h s) := by
  dsimp only [execCmdArrStatus]
  exact .next (runCmd_kept hk (fun _ => answer_kept hk))

theorem jointFrame_kept {port : Nat} (hk : Kept False n s₀ s) : Kept False n s₀ (jointFrame s port) := by
  unfold jointFrame
  dsimp only
  split
  · exact hk
  · exact handleBy_kept (takeMsg_kept hk)

theorem execJointFrame_kept {port : Nat} (hk : Kept False 16 s₀ s) : NextKept s₀ (execJointFrame port s) := by
  dsimp only [execJointFrame]
  exact atUnit_kept (jointFrame_kept hk)

theorem tokenOf_kept {src : Nat} {body : List Byte} (hk : Kept False n s₀ s) :
    Kept False n s₀ (tokenOf s src body) := by
  dsimp only [tokenOf]
  exact takeToken_kept hk

theorem execBarrierToken_kept {port : Nat} (hk : Kept False 16 s₀ s) :
    NextKept s₀ (execBarrierToken port s) := by
  dsimp only [execBarrierToken]
  exact atUnit_kept (arriving_kept hk (fun _ _ _ => tokenOf_kept))

theorem execCheckpointCut_kept {job : Nat} (hk : Kept False 16 s₀ s) :
    NextKept s₀ (execCheckpointCut job s) := by
  dsimp only [execCheckpointCut]
  exact .next (Kept.ite hk (modJob_kept (beginEpoch_kept hk)))

theorem stopEntry_kept (hk : Kept False n s₀ s) : Kept False n s₀ (stopEntry s) := by
  unfold stopEntry
  split
  · exact hk
  · exact complete_kept (dropAccOf_kept (modPwrBlk_kept hk))

theorem freeRecords_kept {j : Nat} (hk : Kept False n s₀ s) : Kept False n s₀ (freeRecords s j) := by
  dsimp only [freeRecords]
  split
  · exact hk
  · exact modArrBlk_kept hk

theorem pageLines_kept {p : Nat} {acc : Bool × SMap Line × State} (hk : Kept False n s₀ acc.2.2) :
    Kept False n s₀ (pageLines p acc).2.2 := by
  dsimp only [pageLines]
  refine Kept.foldl_by (fun p : _ × _ × State => p.2.2) (fun _ _ hk' => ?_) hk
  split
  · split
    next _ _ _ heq =>
      exact Kept.mk_snd2 (Kept.snd2 heq (readLine_kept hk'))
    next _ _ _ _ _ heq =>
      exact Kept.mk_snd2 (Kept.snd2 heq (readLine_kept hk'))
  · exact hk'

theorem pageLines_foldl_kept {ps : List Nat} {acc : Bool × SMap Line × State} (hk : Kept False n s₀ acc.2.2) :
    Kept False n s₀ (ps.foldl (fun acc p => pageLines p acc) acc).2.2 := by
  induction ps generalizing acc with
  | nil => exact hk
  | cons p ps ih =>
    rw [List.foldl_cons]
    exact ih (pageLines_kept hk)

theorem writeExport_kept {j : Nat} {ck : Ckpt} (hk : Kept False n s₀ s) :
    Kept False n s₀ (writeExport s j ck) := by
  rcases hr : (pagesOfJob s j).foldl (fun acc p => pageLines p acc) (true, [], s) with ⟨ok, ls, t⟩
  have ht : Kept False n s₀ (modJob t j fun x => { x with exportReq := none }) :=
    modJob_kept (.snd2 hr (pageLines_foldl_kept hk))
  generalize hF : writeExport = write
  delta writeExport at hF
  rw [← hF]
  simp only [hr]
  split
  · exact hk
  · exact Kept.ite (complete_kept (dropAccOf_kept (emitOut_kept ht))) (complete_kept (dropAccOf_kept ht))

theorem execCkptDone_kept {job : Nat} {failed : Bool} (hk : Kept False 16 s₀ s) :
    NextKept s₀ (execCkptDone job failed s) := by
  dsimp only [execCkptDone]
  refine .next ?_
  split
  · exact Kept.opt (modJob_kept (Kept.ite (stopEntry_kept (failCapture_kept hk))
      (endCapture_kept (writeExport_kept (freeRecords_kept (emitJob_kept (modJob_kept hk))))))) enterHold_kept
  · exact hk

theorem takeMarker_kept {src st : Nat} {epoch : BitVec 4} {target : Word} (hk : Kept False n s₀ s) :
    Kept False n s₀ (takeMarker s src st epoch target) := by
  unfold takeMarker
  dsimp only
  split
  · exact hk
  · exact Kept.ite hk (Kept.ite (emitJob_kept hk) (Kept.opt' (modJob_kept (addPeer_kept hk))
      (fun hk' => sendMarkers_kept (modArrBlk_kept hk'))))

theorem markerOf_kept {src : Nat} {body : List Byte} (hk : Kept False n s₀ s) :
    Kept False n s₀ (markerOf s src body) := by
  dsimp only [markerOf]
  exact takeMarker_kept hk

theorem execCheckpointMarker_kept {port : Nat} (hk : Kept False 16 s₀ s) :
    NextKept s₀ (execCheckpointMarker port s) := by
  dsimp only [execCheckpointMarker]
  exact atUnit_kept (arriving_kept hk (fun _ _ _ => markerOf_kept))

theorem execShadowPop_kept {job vt port : Nat} (hk : Kept False 16 s₀ s) :
    NextKept s₀ (execShadowPop job vt port s) := by
  dsimp only [execShadowPop]
  refine .next ?_
  split
  · exact hk
  · split
    · exact hk
    · split
      · refine Kept.ite (diverge_kept (modJob_kept hk)) ?_
        split
        next _ _ _ heq''' =>
          exact Kept.opt' (stepArrivals_kept (modJob_kept (Kept.snd heq''' (hodPopWord_kept hk))))
              diverge_kept
        next _ _ heq''' =>
          exact Kept.snd heq''' (hodPopWord_kept hk)
      · exact hk

theorem endReplay_kept {j : Nat} (hk : Kept False n s₀ s) : Kept False n s₀ (endReplay s j) := by
  unfold endReplay
  dsimp only
  split
  · exact hk
  · split
    · refine complete_kept (dropAccOf_kept (releaseQueued_kept (modJob_kept
        (Kept.each (fun _ _ hk' => ?_) hk))))
      split
      · exact Kept.ite (storeRecorded_kept hk') hk'
      · exact plainWrite_kept hk'
      · exact hk'
    · refine emitJob_kept (releaseQueued_kept (modJob_kept (Kept.each (fun _ _ hk' => ?_) hk)))
      split
      · exact Kept.ite (storeRecorded_kept hk') hk'
      · exact plainWrite_kept hk'
      · exact hk'

theorem execReplayDone_kept {job : Nat} (hk : Kept False 16 s₀ s) : NextKept s₀ (execReplayDone job s) := by
  dsimp only [execReplayDone]
  refine .next ?_
  split
  · exact Kept.ite (endReplay_kept hk) hk
  · exact hk

theorem resendFrom_kept {st : Nat} {first : Word}
    (hk : Kept False n s₀ s) (e : resendFrom s st first = some t) :
    Kept False n s₀ t := by
  dsimp only [resendFrom] at e
  split at e
  · cases e
    exact hk
  · split at e
    · cases e
      exact hk
    · split at e
      · cases e
      · cases e
        exact Kept.each (fun _ _ => handleFrame_kept) hk

theorem takeResend_kept {stream : Nat} {firstCycle : Word} (hk : Kept False n s₀ s) :
    Kept False n s₀ (takeResend s stream firstCycle) := by
  dsimp only [takeResend]
  refine Kept.ite hk ?_
  split
  next _ _ heq =>
    exact resendFrom_kept hk heq
  · exact faultHold_kept (emitJob_kept hk)

theorem execResendRequest_kept {port : Nat} (hk : Kept False 16 s₀ s) :
    NextKept s₀ (execResendRequest port s) := by
  dsimp only [execResendRequest]
  exact atUnit_kept (arriving_kept hk (fun _ _ _ => takeResend_kept))

theorem putTrace_kept {r : BitVec 256} (hk : Kept False n s₀ s) : Kept False n s₀ (putTrace s r) := by
  dsimp only [putTrace]
  exact modSpnBlk_kept hk

theorem probeAt_kept {router point : Nat} {h : BitVec 128} {i : Nat} (hk : Kept False n s₀ s) :
    Kept False n s₀ (probeAt router point h s i) := by
  dsimp only [probeAt]
  exact Kept.ite (Kept.opt (leafAdd_kept hk) putTrace_kept) hk

theorem probesAt_kept {router point : Nat} {h : BitVec 128} (hk : Kept False n s₀ s) :
    Kept False n s₀ (probesAt s router point h) := by
  dsimp only [probesAt]
  exact Kept.each (fun _ _ => probeAt_kept) hk

theorem readRoute_kept {bank r e : Nat} (hk : Kept False n s₀ s) :
    Kept False n s₀ (readRoute s bank r e).2 := by
  dsimp only [readRoute]
  split
  · exact Kept.mk_snd (Kept.ite (modSpnBlk_kept hk) hk)
  · exact Kept.mk_snd (emitDev_kept (modSpnBlk_kept hk))

theorem noteBadDest_kept {src : Nat} (hk : Kept False n s₀ s) : Kept False n s₀ (noteBadDest s src) := by
  dsimp only [noteBadDest]
  exact Kept.opt (modSpnBlk_kept hk) emitDev_kept

theorem noteDelivery_kept {h : BitVec 128} (hk : Kept False n s₀ s) : Kept False n s₀ (noteDelivery s h) := by
  dsimp only [noteDelivery]
  exact modSpnBlk_kept hk

theorem deliverAt_kept {r : Nat} {h : BitVec 128} (hk : Kept False n s₀ s) :
    Kept False n s₀ (deliverAt s r h).1 := by
  dsimp only [deliverAt]
  split
  · exact Kept.mk_fst (noteBadDest_kept hk)
  · split
    · exact hk
    · exact Kept.mk_fst (noteDelivery_kept (probesAt_kept (leafAdd_kept hk)))

theorem takeOutput_kept {r out vn : Nat} {busy : List (BitVec 5)} (hk : Kept False n s₀ s) :
    Kept False n s₀ (takeOutput s r out vn busy) := by
  dsimp only [takeOutput]
  exact modSpnBlk_kept hk

theorem walk_kept {k r : Nat} {h : BitVec 128} {busy : List (List (BitVec 5))} (hk : Kept False n s₀ s) :
    Kept False n s₀ (walk k s r h busy).1 := by
  induction k generalizing s r busy with
  | zero => exact hk
  | succ k ih =>
    unfold walk
    split
    next e => exact Kept.snd e (readRoute_kept hk)
    next e =>
      have hr := Kept.snd e (readRoute_kept hk)
      split
      · exact deliverAt_kept (takeOutput_kept hr)
      · split
        · exact hr
        · exact ih (probesAt_kept (leafAdd_kept (takeOutput_kept hr)))

theorem inject_kept {r : Nat} {h : BitVec 128} {busy : List (List (BitVec 5))} (hk : Kept False n s₀ s) :
    Kept False n s₀ (inject s r h busy).1 := by
  dsimp only [inject]
  split
  · exact walk_kept (probesAt_kept hk)
  · exact Kept.mk_fst (noteBadDest_kept (probesAt_kept hk))

theorem noteDiscard_kept {src : Nat} (hk : Kept False n s₀ s) : Kept False n s₀ (noteDiscard s src) := by
  dsimp only [noteDiscard]
  exact Kept.opt (modSpnBlk_kept hk) emitDev_kept

theorem discardOrKeep_kept {h : BitVec 128} {a : Bounce} (hk : Kept False n s₀ s) :
    Kept False n s₀ (discardOrKeep s h a) := by
  unfold discardOrKeep
  split
  · exact hk
  · exact noteDiscard_kept hk

theorem sendOnce_kept {h : BitVec 128} {busy : List (List (BitVec 5))} (hk : Kept False n s₀ s) :
    Kept False n s₀ (sendOnce s h busy).1 := by
  unfold sendOnce
  split
  next _ _ heq =>
    exact Kept.mk_fst (Kept.fst heq (inject_kept hk))
  next _ _ _ _ heq =>
    split
    · refine Kept.mk_fst ?_
      split
      next _ _ heq' =>
        exact Kept.fst heq' (inject_kept (Kept.fst heq (inject_kept hk)))
      next _ _ _ _ heq' =>
        exact discardOrKeep_kept (Kept.fst heq' (inject_kept (Kept.fst heq (inject_kept hk))))
    · exact Kept.mk_fst (discardOrKeep_kept (Kept.fst heq (inject_kept hk)))

theorem sendPacket_kept {h : BitVec 128} {busy : List (List (BitVec 5))} (hk : Kept False n s₀ s) :
    Kept False n s₀ (sendPacket s h busy) := by
  unfold sendPacket
  split
  next _ _ heq =>
    exact sendOnce_kept (Kept.fst heq (sendOnce_kept hk))
  next _ _ heq =>
    exact Kept.fst heq (sendOnce_kept hk)

theorem execSpinePacket_kept {header : BitVec 128} {busy : List (List (BitVec 5))} {ups : List Upset}
    (hk : Kept False 16 s₀ s) :
    NextKept s₀ (execSpinePacket header busy ups s) := by
  dsimp only [execSpinePacket]
  exact atUnit_kept (Kept.opt (upsets_kept hk) sendPacket_kept)

theorem execEpochChange_kept {routes : List (Nat × Nat × Nat)} {fences : List (Nat × BitVec 6)}
    (hk : Kept False 16 s₀ s) :
    NextKept s₀ (execEpochChange routes fences s) := by
  dsimp only [execEpochChange]
  exact atUnit_kept (Kept.ite hk (epochChange_kept hk))

theorem runUnfence_kept (hk : Kept False n s₀ s) : Kept False n s₀ (runUnfence s) := by
  dsimp only [runUnfence]
  exact Kept.ite hk (modSpnBlk_kept (epochChange_kept hk))

theorem oldCountZero_kept (hk : Kept False n s₀ s) : Kept False n s₀ (oldCountZero s) := by
  dsimp only [oldCountZero]
  exact Kept.ite (runUnfence_kept (modSpnBlk_kept hk)) hk

theorem execOldCountZero_kept (hk : Kept False 16 s₀ s) : NextKept s₀ (execOldCountZero s) := by
  dsimp only [execOldCountZero]
  exact .next (oldCountZero_kept hk)

theorem execDomainPowerDown_kept {group : Nat} (hk : Kept False 16 s₀ s) :
    NextKept s₀ (execDomainPowerDown group s) := by
  dsimp only [execDomainPowerDown]
  exact atUnit_kept (Kept.ite (startPowerDown_kept hk) hk)

theorem askerDone_kept {d : PowerDown} {st : St} (hk : Kept False n s₀ s) :
    Kept False n s₀ (askerDone s d st) := by
  dsimp only [askerDone]
  refine Kept.opt' ?_ (fun hk' => finishAssign_kept (powerGroups_kept hk'))
  split
  · exact Kept.ite hk (respond_kept hk)
  · exact hk

theorem groupOff_kept {g : Nat} (hk : Kept False n s₀ s) : Kept False n s₀ (groupOff s g) := by
  dsimp only [groupOff]
  exact modGroup_kept (Kept.each (fun _ _ => modMason_kept) hk)

theorem groupDown_kept {g : Nat} (hk : Kept False n s₀ s) : Kept False n s₀ (groupDown s g) := by
  dsimp only [groupDown]
  exact Kept.ite (modGroup_kept (Kept.each (fun _ _ => modMason_kept) hk)) (groupOff_kept hk)

theorem execDrainDone_kept (hk : Kept False 16 s₀ s) : NextKept s₀ (execDrainDone s) := by
  dsimp only [execDrainDone]
  refine .next ?_
  split
  · exact Kept.ite (askerDone_kept (groupDown_kept (modSpnBlk_kept hk))) hk
  · exact hk

theorem unfenceGroup_kept {g : Nat} (hk : Kept False n s₀ s) : Kept False n s₀ (unfenceGroup s g) := by
  dsimp only [unfenceGroup]
  exact Kept.ite (runUnfence_kept (modSpnBlk_kept hk)) hk

theorem execDrainTimeout_kept (hk : Kept False 16 s₀ s) : NextKept s₀ (execDrainTimeout s) := by
  dsimp only [execDrainTimeout]
  refine .next ?_
  split
  · exact Kept.ite (stopEntry_kept (emitDev_kept (unfenceGroup_kept (modSpnBlk_kept hk))))
      (askerDone_kept (emitDev_kept (unfenceGroup_kept (modSpnBlk_kept hk))))
  · exact hk

theorem writeTrace_kept (hk : Kept False n s₀ s) : Kept False n s₀ (writeTrace s) := by
  unfold writeTrace
  dsimp only
  split
  · exact hk
  · exact Kept.opt (modSpnBlk_kept hk) emitDev_kept

theorem execTraceRecordWrite_kept (hk : Kept False 16 s₀ s) : NextKept s₀ (execTraceRecordWrite s) := by
  dsimp only [execTraceRecordWrite]
  exact .next (writeTrace_kept hk)

theorem execCmdSpnProbe_kept {h : Hdr} {probe : Nat} {cfg mtch mask : BitVec 64} (hk : Kept False 16 s₀ s) :
    NextKept s₀ (execCmdSpnProbe h probe cfg mtch mask s) := by
  dsimp only [execCmdSpnProbe]
  exact .next (runCmd_kept hk (fun _ => Kept.ite (fail_kept hk) (answer_kept (modSpnBlk_kept hk))))

theorem execCmdSpnTraceControl_kept {h : Hdr} {w : BitVec 64} (hk : Kept False 16 s₀ s) :
    NextKept s₀ (execCmdSpnTraceControl h w s) := by
  dsimp only [execCmdSpnTraceControl]
  exact .next (runCmd_kept hk (fun _ => answer_kept (modSpnBlk_kept hk)))

theorem bulkOut_kept {h : Hdr} {op : Nat} {b : Bulk} {rs : List (List Byte)} (hk : Kept False 16 s₀ s) :
    Kept False 16 s₀ (bulkOut s h op b rs) := by
  unfold bulkOut
  split
  · exact respond_kept hk
  · exact accept_kept hk fun _ => emitOut_kept

theorem execCmdSpnTraceCopy_kept {h : Hdr} {first count : Nat} {b : Bulk} (hk : Kept False 16 s₀ s) :
    NextKept s₀ (execCmdSpnTraceCopy h first count b s) := by
  dsimp only [execCmdSpnTraceCopy]
  exact .next (runCmd_kept hk (fun _ => Kept.ite (fail_kept hk) (Kept.ite (fail_kept hk) (bulkOut_kept hk))))

theorem execCmdSpnStatus_kept {h : Hdr} (hk : Kept False 16 s₀ s) : NextKept s₀ (execCmdSpnStatus h s) := by
  dsimp only [execCmdSpnStatus]
  exact .next (runCmd_kept hk (fun _ => answer_kept hk))

theorem execSafeWindow_kept {count : Nat} (hk : Kept False 16 s₀ s) : NextKept s₀ (execSafeWindow count s) := by
  dsimp only [execSafeWindow]
  exact .next (Kept.ite hk (Kept.ite (modClkBlk_kept hk) hk))

theorem execSafeTimeout_kept (hk : Kept False 16 s₀ s) : NextKept s₀ (execSafeTimeout s) := by
  dsimp only [execSafeTimeout]
  exact .next (Kept.ite hk (linkEvent_kept (tellHv_kept (modRstBlk_kept (modClkBlk_kept hk)))))

theorem judgeRef_kept {count : Nat} (hk : Kept False n s₀ s) : Kept False n s₀ (judgeRef s count) := by
  dsimp only [judgeRef]
  exact modClkBlk_kept hk

theorem holdHere_kept {j : Nat} (hk : Kept False n s₀ s) : Kept False n s₀ (holdHere s j) := by
  dsimp only [holdHere]
  exact modJob_kept hk

theorem freeFromClock_kept (hk : Kept False n s₀ s) : Kept False n s₀ (freeFromClock s) := by
  dsimp only [freeFromClock]
  exact Kept.each (fun _ _ hk' => Kept.ite (modJob_kept hk') hk') hk

theorem selfRefresh_kept (hk : Kept False n s₀ s) : Kept False n s₀ (selfRefresh s) := by
  dsimp only [selfRefresh]
  exact modLpBlk_kept hk

theorem refLoss_kept (hk : Kept False n s₀ s) : Kept False n s₀ (refLoss s) := by
  dsimp only [refLoss]
  exact linkEvent_kept (emitLog_kept (tellHv_kept (modLpBlk_kept (selfRefresh_kept
      (Kept.each (fun _ _ => holdHere_kept) (freeFromClock_kept (modClkBlk_kept hk)))))))

theorem execRefWindow_kept {count : Nat} (hk : Kept False 16 s₀ s) : NextKept s₀ (execRefWindow count s) := by
  dsimp only [execRefWindow]
  exact .next (Kept.ite hk (Kept.ite (judgeRef_kept hk) (Kept.ite (refLoss_kept hk) (modClkBlk_kept hk))))

theorem execRefMissingEdge_kept (hk : Kept False 16 s₀ s) : NextKept s₀ (execRefMissingEdge s) := by
  dsimp only [execRefMissingEdge]
  exact .next (Kept.ite (refLoss_kept hk) hk)

theorem losePlanes_kept (hk : Kept False n s₀ s) : Kept False n s₀ (losePlanes s) := by
  dsimp only [losePlanes]
  exact Kept.each (fun _ _ => modTile_kept) hk

theorem portsDown_kept (hk : Kept False n s₀ s) : Kept False n s₀ (portsDown s) := by
  dsimp only [portsDown]
  exact Kept.each (fun _ _ => modPort_kept) hk

theorem execRefHoldoverEnd_kept (hk : Kept False 16 s₀ s) : NextKept s₀ (execRefHoldoverEnd s) := by
  dsimp only [execRefHoldoverEnd]
  exact .next (Kept.ite hk (modClkBlk_kept (modHifBlk_kept (losePlanes_kept
      (portsDown_kept (failLoad_kept hk))))))

theorem goldenTile_kept {j : Nat} {img : Image} {d : Desc} {e : Nat × Nat} (hk : Kept still n s₀ s) :
    Kept still n s₀ (goldenTile j img d s e) := by
  dsimp only [goldenTile]
  exact modTile_kept hk

theorem goldenPlanes_kept {bad : List Nat} {j : Nat} (hk : Kept still n s₀ s) :
    Kept still n s₀ (goldenPlanes bad s j) := by
  unfold goldenPlanes
  dsimp only
  split
  · exact hk
  · exact Kept.ite hk (Kept.ite (goldenLost_kept (readPlanes_kept hk))
      (modJob_kept (Kept.each (fun _ _ => goldenTile_kept) (readPlanes_kept hk))))

theorem stopDma_kept {c : Nat} (hk : Kept False n s₀ s) : Kept False n s₀ (stopDma s c) := by
  dsimp only [stopDma]
  split
  · exact Kept.ite (modDma_kept (emitOut_kept hk)) hk
  · exact hk

theorem holdNext_kept {j : Nat} (hk : Kept False n s₀ s) : Kept False n s₀ (holdNext s j) := by
  dsimp only [holdNext]
  exact modJob_kept hk

theorem perstReset_kept (hk : Kept False n s₀ s) : Kept False n s₀ (perstReset s) := by
  dsimp only [perstReset]
  exact Kept.each (fun _ _ => holdNext_kept) (modRstBlk_kept (modHifBlk_kept
      (Kept.each (fun _ _ => stopDma_kept) hk)))

theorem pcieAgain_kept (hk : Kept False n s₀ s) : Kept False n s₀ (pcieAgain s) := by
  dsimp only [pcieAgain]
  exact modHifBlk_kept (modRstBlk_kept (perstReset_kept hk))

theorem execRefRestore_kept (hk : Kept False 16 s₀ s) : NextKept s₀ (execRefRestore s) := by
  dsimp only [execRefRestore]
  exact .next (Kept.ite hk (emitDev_kept (modClkBlk_kept (pcieAgain_kept
      (Kept.each (fun _ _ => modPort_kept) (Kept.each (fun _ _ => goldenPlanes_kept)
      (updatePasr_kept hk)))))))

theorem execPllEnable_kept {pll mhz : Nat} (hk : Kept False 16 s₀ s) :
    NextKept s₀ (execPllEnable pll mhz s) := by
  dsimp only [execPllEnable]
  exact atUnit_kept (Kept.ite hk (modClkBlk_kept (Kept.ite (modClkBlk_kept hk) hk)))

theorem startDomains_kept (hk : Kept False n s₀ s) : Kept False n s₀ (startDomains s) := by
  dsimp only [startDomains]
  exact Kept.ite hk (modClkBlk_kept hk)

theorem holdForClock_kept (hk : Kept False n s₀ s) : Kept False n s₀ (holdForClock s) := by
  dsimp only [holdForClock]
  exact Kept.each (fun _ _ hk' => Kept.ite (modJob_kept hk') hk') hk

theorem pllStable_kept {p : Nat} (hk : Kept False n s₀ s) : Kept False n s₀ (pllStable s p) := by
  dsimp only [pllStable]
  refine Kept.ite hk ?_
  split
  · exact Kept.opt (startDomains_kept (modClkBlk_kept hk)) (fun hk' => holdForClock_kept (modClkBlk_kept hk'))
  · exact startDomains_kept (modClkBlk_kept hk)

theorem execPllStable_kept {pll : Nat} (hk : Kept False 16 s₀ s) : NextKept s₀ (execPllStable pll s) := by
  dsimp only [execPllStable]
  exact atUnit_kept (pllStable_kept hk)

theorem endChange_kept {mhz : Nat} (hk : Kept False n s₀ s) : Kept False n s₀ (endChange s mhz) := by
  dsimp only [endChange]
  exact settleFab_kept (emitDev_kept (freeFromClock_kept (modClkBlk_kept hk)))

theorem fabStep_kept (hk : Kept False n s₀ s) : Kept False n s₀ (fabStep s) := by
  dsimp only [fabStep]
  refine Kept.ite hk ?_
  split
  · exact Kept.ite (Kept.ite (modClkBlk_kept hk) (modClkBlk_kept hk))
      (Kept.ite (Kept.opt (modClkBlk_kept hk) (fun hk' => applyWaiting_kept (endChange_kept hk'))) hk)
  · exact modClkBlk_kept hk

theorem groupStep_kept {g : Nat} (hk : Kept False n s₀ s) : Kept False n s₀ (groupStep s g) := by
  dsimp only [groupStep]
  exact modGroup_kept hk

theorem execDividerStep_kept {domain : Nat} (hk : Kept False 16 s₀ s) :
    NextKept s₀ (execDividerStep domain s) := by
  dsimp only [execDividerStep]
  exact atUnit_kept (Kept.ite (fabStep_kept hk) (Kept.ite (groupStep_kept hk) hk))

theorem execFabRampStart_kept (hk : Kept False 16 s₀ s) : NextKept s₀ (execFabRampStart s) := by
  dsimp only [execFabRampStart]
  refine .next ?_
  split
  · exact Kept.ite (modClkBlk_kept hk) hk
  · exact hk

theorem passClock_kept {domain : Nat} (hk : Kept False n s₀ s) : Kept False n s₀ (passClock s domain) := by
  dsimp only [passClock]
  exact Kept.ite hk (Kept.ite (modClkBlk_kept hk) (modClkBlk_kept hk))

theorem execSourceSwitch_kept {domain : Nat} (hk : Kept False 16 s₀ s) :
    NextKept s₀ (execSourceSwitch domain s) := by
  dsimp only [execSourceSwitch]
  exact atUnit_kept (passClock_kept hk)

theorem execForcedSwitch_kept {domain : Nat} (hk : Kept False 16 s₀ s) :
    NextKept s₀ (execForcedSwitch domain s) := by
  dsimp only [execForcedSwitch]
  exact atUnit_kept (Kept.ite (emitDev_kept (modClkBlk_kept (passClock_kept hk))) hk)

theorem execCmdClkFab_kept {h : Hdr} {mhz : Nat} (hk : Kept False 16 s₀ s) :
    NextKept s₀ (execCmdClkFab h mhz s) := by
  dsimp only [execCmdClkFab]
  exact .next (runCmd_kept hk (fun _ => Kept.ite (fail_kept hk) (Kept.ite (fail_kept hk)
      (startChange_kept (answer_kept (modClkBlk_kept hk))))))

theorem execCmdClkStatus_kept {h : Hdr} {clkMask rstMask : BitVec 32} (hk : Kept False 16 s₀ s) :
    NextKept s₀ (execCmdClkStatus h clkMask rstMask s) := by
  dsimp only [execCmdClkStatus]
  exact .next (runCmd_kept hk (fun _ => modRstBlk_kept (modClkBlk_kept (answer_kept hk))))

theorem execResetNLow_kept {cycles : Nat} (hk : Kept False 16 s₀ s) : NextKept s₀ (execResetNLow cycles s) := by
  dsimp only [execResetNLow]
  exact .next (Kept.opt (modPwrBlk_kept hk) (fun hk' => modRstBlk_kept (warmReset_kept hk')))

theorem execPerstNLow_kept (hk : Kept False 16 s₀ s) : NextKept s₀ (execPerstNLow s) := by
  dsimp only [execPerstNLow]
  exact .next (Kept.opt (modPwrBlk_kept hk) perstReset_kept)

theorem execPerstNRise_kept (hk : Kept False 16 s₀ s) : NextKept s₀ (execPerstNRise s) := by
  dsimp only [execPerstNRise]
  exact .next (Kept.opt (modPwrBlk_kept hk) modHifBlk_kept)

theorem abortRegion_kept {a : Region} (hk : Kept False n s₀ s) : Kept False n s₀ (abortRegion s a) := by
  unfold abortRegion
  split
  · exact modTile_kept hk
  · exact resumeGroup_kept hk
  · exact hk

theorem abortTests_kept (hk : Kept False n s₀ s) : Kept False n s₀ (abortTests s) := by
  dsimp only [abortTests]
  split
  · refine complete_kept (dropAccOf_kept (abortRegion_kept (modSprBlk_kept ?_)))
    split
    · exact abortRegion_kept (modSprBlk_kept hk)
    · exact hk
  · split
    · exact abortRegion_kept (modSprBlk_kept hk)
    · exact hk

theorem dropJobReset_kept {j : Nat} (hk : Kept False n s₀ s) : Kept False n s₀ (dropJobReset s j) := by
  unfold dropJobReset
  split
  · exact modJob_kept (dropAccOf_kept hk)
  · exact hk

theorem startDie_kept {h : Hdr} {face : Bool} (hk : Kept False n s₀ s) :
    Kept False n s₀ (startDie s h face) := by
  dsimp only [startDie]
  exact Kept.each (fun _ _ hk' => Kept.ite hk' (faultHold_kept (dropJobReset_kept hk')))
      (modRstBlk_kept (abortTests_kept (Kept.ite hk (failLoad_kept hk))))

theorem rstDie_kept {h : Hdr} {face : Bool} (hk : Kept False 16 s₀ s) : Kept False 16 s₀ (rstDie s h face) := by
  dsimp only [rstDie]
  exact runCmd_kept hk (fun _ => Kept.ite (fail_kept hk) (Kept.ite (fail_kept hk)
      (accept_kept hk (fun _ => startDie_kept))))

theorem execCmdRstDieCourse_kept {h : Hdr} (hk : Kept False 16 s₀ s) :
    NextKept s₀ (execCmdRstDieCourse h s) := by
  dsimp only [execCmdRstDieCourse]
  exact .next (rstDie_kept hk)

theorem execCmdRstDieFace_kept {h : Hdr} (hk : Kept False 16 s₀ s) : NextKept s₀ (execCmdRstDieFace h s) := by
  dsimp only [execCmdRstDieFace]
  exact .next (rstDie_kept hk)

theorem preloadAgain_kept (hk : Kept False n s₀ s) : Kept False n s₀ (preloadAgain s) := by
  dsimp only [preloadAgain]
  exact Kept.opt (Kept.each (fun _ _ => modJob_kept) hk) dieDone_kept

theorem clearFaceDie_kept (hk : Kept False n s₀ s) : Kept False n s₀ (clearFaceDie s) := by
  dsimp only [clearFaceDie]
  exact Kept.each (fun _ _ => modTile_kept) hk

theorem execViasEmpty_kept (hk : Kept False 16 s₀ s) : NextKept s₀ (execViasEmpty s) := by
  dsimp only [execViasEmpty]
  exact .next (Kept.ite hk (Kept.opt (modRstBlk_kept hk) (fun hk' => preloadAgain_kept
      (clearFaceDie_kept hk'))))

theorem clearCourseDie_kept (hk : Kept False n s₀ s) : Kept False n s₀ (clearCourseDie s) := by
  dsimp only [clearCourseDie]
  exact Kept.each (fun _ _ => modTile_kept) hk

theorem execCourseDieCleared_kept {goldenBad : List Nat} (hk : Kept False 16 s₀ s) :
    NextKept s₀ (execCourseDieCleared goldenBad s) := by
  dsimp only [execCourseDieCleared]
  exact .next (Kept.ite hk (preloadAgain_kept (Kept.each (fun _ _ => goldenPlanes_kept)
      (clearCourseDie_kept hk))))

theorem resetNow_kept {h : Hdr} {j : Nat} (hk : Kept False n s₀ s) : Kept False n s₀ (resetNow s h j) := by
  dsimp only [resetNow]
  exact Kept.ite (fail_kept hk) (complete_kept (jobReset_kept (respond_kept hk)))

theorem execCmdJobReset_kept {h : Hdr} (hk : Kept False 16 s₀ s) : NextKept s₀ (execCmdJobReset h s) := by
  dsimp only [execCmdJobReset]
  exact .next (runCmd_kept hk (fun _ => Kept.ite (fail_kept hk) (Kept.ite (fail_kept hk)
      (Kept.ite (accept_kept hk (fun _ => modJob_kept)) (resetNow_kept hk)))))

theorem clearTrips_kept (hk : Kept False n s₀ s) : Kept False n s₀ (clearTrips s) := by
  dsimp only [clearTrips]
  exact modPwrBlk_kept hk

theorem modHvBlk_kept {f : Hv → Hv} (hk : Kept False n s₀ s) : Kept False n s₀ (modHvBlk s f) := .update hk

/-- The host interface as it is after reset. -/
theorem freshHif_kept (hk : Kept False n s₀ s) : Kept False n s₀ { s with hif := {} } :=
  hk.trans ⟨rfl, fun _ => Nat.zero_le _, fun _ => Nat.zero_le _, id, id, id, id, False.elim⟩

theorem coldReset_kept {cause : Nat} (hk : Kept False n s₀ s) : Kept False n s₀ (coldReset s cause) := by
  dsimp only [coldReset]
  exact drawGenerations_kept (modClkBlk_kept
    ((freshHif_kept (modSprBlk_kept (clearStack_kept hk))).congr))

theorem execVin48Apply_kept (hk : Kept False 16 s₀ s) : NextKept s₀ (execVin48Apply s) := by
  dsimp only [execVin48Apply]
  exact .next (.ite hk (modRstBlk_kept (clearLinkEvs_kept (clearTrips_kept (modHvBlk_kept (coldReset_kept hk)))
    fun _ => rfl)))

theorem execVin48Qualified_kept (hk : Kept False 16 s₀ s) : NextKept s₀ (execVin48Qualified s) := by
  dsimp only [execVin48Qualified]
  exact .next (Kept.ite (modPwrBlk_kept hk) hk)

theorem railUp_kept {r : Nat} (hk : Kept False n s₀ s) : Kept False n s₀ (railUp s r) := by
  dsimp only [railUp]
  exact Kept.ite hk (Kept.ite (modRstBlk_kept (modPwrBlk_kept (modPwrBlk_kept hk)))
      (tryReady_kept (modPwrBlk_kept hk)))

theorem execRailInRange_kept {rail : Nat} (hk : Kept False 16 s₀ s) : NextKept s₀ (execRailInRange rail s) := by
  dsimp only [execRailInRange]
  exact atUnit_kept (railUp_kept hk)

theorem zeroize_kept (hk : Kept False n s₀ s) : Kept False n s₀ (zeroize s) := by
  dsimp only [zeroize]
  exact Kept.each (fun _ _ hk' => Kept.ite (modJob_kept hk') hk') (modPwrBlk_kept hk)

theorem execVin48Fail_kept (hk : Kept False 16 s₀ s) : NextKept s₀ (execVin48Fail s) := by
  dsimp only [execVin48Fail]
  exact .next (modRstBlk_kept (modPwrBlk_kept (freshHif_kept (clearStack_kept (zeroize_kept hk)))))

theorem execPwrEnRise_kept {lowUs : Nat} (hk : Kept False 16 s₀ s) : NextKept s₀ (execPwrEnRise lowUs s) := by
  dsimp only [execPwrEnRise]
  exact .next (Kept.opt' (modPwrBlk_kept hk) (fun hk' => modRstBlk_kept
      (modPwrBlk_kept (coldReset_kept (Kept.opt hk' (fun _ => clearTrips_kept hk'))))))

theorem execPwrEnFall_kept (hk : Kept False 16 s₀ s) : NextKept s₀ (execPwrEnFall s) := by
  dsimp only [execPwrEnFall]
  exact .next (Kept.opt' (modPwrBlk_kept hk) (fun hk' => modPwrBlk_kept
      (modClkBlk_kept (clearStack_kept (zeroize_kept hk')))))

theorem groupCleared_kept {g : Nat} (hk : Kept False n s₀ s) : Kept False n s₀ (groupCleared s g) := by
  dsimp only [groupCleared]
  exact Kept.ite hk (finishAssign_kept (unfenceGroup_kept (modGroup_kept
      (Kept.each (fun _ _ => modMason_kept) hk))))

theorem execDomainClearDone_kept {group : Nat} (hk : Kept False 16 s₀ s) :
    NextKept s₀ (execDomainClearDone group s) := by
  dsimp only [execDomainClearDone]
  exact atUnit_kept (groupCleared_kept hk)

theorem startSlot_kept {b : Bool} (hk : Kept False n s₀ s) : Kept False n s₀ (startSlot s b) := by
  dsimp only [startSlot]
  exact modFwBlk_kept hk

theorem bootRom_kept (hk : Kept False n s₀ s) : Kept False n s₀ (bootRom s) := by
  dsimp only [bootRom]
  exact Kept.ite (startSlot_kept hk) (Kept.ite (emitDev_kept (startSlot_kept
      (Kept.ite (modFwBlk_kept (modRstBlk_kept hk)) hk))) (modFwBlk_kept
      (Kept.ite (modFwBlk_kept (modRstBlk_kept hk)) hk)))

theorem execBootRomStart_kept (hk : Kept False 16 s₀ s) : NextKept s₀ (execBootRomStart s) := by
  dsimp only [execBootRomStart]
  exact .next (Kept.ite (bootRom_kept hk) hk)

theorem execPowerLinkLoss_kept (hk : Kept False 16 s₀ s) : NextKept s₀ (execPowerLinkLoss s) := by
  dsimp only [execPowerLinkLoss]
  exact .next (Kept.ite hk (emitDev_kept (modPwrBlk_kept (modHvBlk_kept hk))))

theorem execPowerTelemetry_kept {rails : List (Nat × Nat)} (hk : Kept False 16 s₀ s) :
    NextKept s₀ (execPowerTelemetry rails s) := by
  dsimp only [execPowerTelemetry]
  exact .next (modPwrBlk_kept (modHvBlk_kept hk))

theorem setThrottle_kept (hk : Kept False n s₀ s) : Kept False n s₀ (setThrottle s) := by
  dsimp only [setThrottle]
  exact modClkBlk_kept hk

theorem startTrip_kept {cause : Nat} (hk : Kept False n s₀ s) : Kept False n s₀ (startTrip s cause) := by
  dsimp only [startTrip]
  exact Kept.ite hk (selfRefresh_kept (endScrub_kept (modPwrBlk_kept (modPwrBlk_kept hk))))

theorem execInputPowerMeasure_kept {vinMv iinMa avgW instW : Nat} {over1050ms10 over1300us20 : Bool}
    (hk : Kept False 16 s₀ s) :
    NextKept s₀ (execInputPowerMeasure vinMv iinMa avgW instW over1050ms10 over1300us20 s) := by
  dsimp only [execInputPowerMeasure]
  exact .next (Kept.ite hk (Kept.opt' (Kept.opt (Kept.opt (modPwrBlk_kept hk) modHvBlk_kept) modHvBlk_kept)
      (fun hk' => Kept.opt (Kept.opt (setThrottle_kept (modPwrBlk_kept hk')) emitDev_kept)
      (fun hk2 => startTrip_kept (linkEvent_kept (emitDev_kept (modHvBlk_kept hk2)))))))

theorem execRailWarn_kept {rail : Nat} (hk : Kept False 16 s₀ s) : NextKept s₀ (execRailWarn rail s) := by
  dsimp only [execRailWarn]
  exact atUnit_kept (Kept.ite hk (emitDev_kept (tellHv_kept hk)))

theorem glitch_kept {source : Nat} (hk : Kept False n s₀ s) : Kept False n s₀ (glitch s source) := by
  dsimp only [glitch]
  exact emitLog_kept (Kept.opt (warmReset_kept (zeroize_kept (Kept.ite (tellHv_kept hk) hk))) modPwrBlk_kept)

theorem execSupplyGlitch_kept {source : Nat} (hk : Kept False 16 s₀ s) :
    NextKept s₀ (execSupplyGlitch source s) := by
  dsimp only [execSupplyGlitch]
  exact atUnit_kept (Kept.ite (glitch_kept hk) hk)

theorem kilnActs_kept (hk : Kept False n s₀ s) : Kept False n s₀ (kilnActs s) := by
  dsimp only [kilnActs]
  split
  · exact Kept.opt' (Kept.opt (Kept.ite (linkEvent_kept (emitDev_kept (tellHv_kept (modPwrBlk_kept hk)))) hk)
      (fun hk' => linkEvent_kept (emitDev_kept (setThrottle_kept (modPwrBlk_kept hk')))))
      (fun hk' => startTrip_kept (tellHv_kept hk'))
  · exact Kept.opt (Kept.ite (linkEvent_kept (emitDev_kept (tellHv_kept (modPwrBlk_kept hk)))) hk)
      (fun hk' => linkEvent_kept (emitDev_kept (setThrottle_kept (modPwrBlk_kept hk'))))

theorem kilnBroken_kept (hk : Kept False n s₀ s) : Kept False n s₀ (kilnBroken s) := by
  dsimp only [kilnBroken]
  exact Kept.ite hk (Kept.each (fun _ _ hk' => Kept.ite (linkEvent_kept (emitDev_kept hk')) hk')
      (tellHv_kept (modPwrBlk_kept hk)))

theorem kilnRead_kept {codes : List (Option Nat)} (hk : Kept False n s₀ s) :
    Kept False n s₀ (kilnRead s codes) := by
  dsimp only [kilnRead]
  exact modPwrBlk_kept hk

theorem execKilnConversion_kept {face course bed : Option ℤ} (hk : Kept False 16 s₀ s) :
    NextKept s₀ (execKilnConversion face course bed s) := by
  dsimp only [execKilnConversion]
  exact .next (Kept.ite hk (kilnActs_kept (kilnBroken_kept (kilnRead_kept hk))))

theorem execKilnClear_kept (hk : Kept False 16 s₀ s) : NextKept s₀ (execKilnClear s) := by
  dsimp only [execKilnClear]
  exact .next (Kept.opt (Kept.ite (modPwrBlk_kept hk) hk) (fun hk' => setThrottle_kept (modPwrBlk_kept hk')))

theorem tripJob_kept {j : Nat} (hk : Kept False n s₀ s) : Kept False n s₀ (tripJob s j) := by
  dsimp only [tripJob]
  exact modJob_kept hk

theorem tripMemory_kept (hk : Kept False n s₀ s) : Kept False n s₀ (tripMemory s) := by
  dsimp only [tripMemory]
  exact clearNearWords_kept (Kept.each (fun _ _ => modMirror_kept) (Kept.each (fun _ _ => modPpt_kept) hk))
    (fun _ => rfl) (fun _ => rfl)

theorem tripLoss_kept (hk : Kept False n s₀ s) : Kept False n s₀ (tripLoss s) := by
  dsimp only [tripLoss]
  have h : Kept False n s₀ (each (List.range 8) tripJob (tripMemory s)) :=
    Kept.each (fun _ _ => tripJob_kept) (tripMemory_kept hk)
  generalize each (List.range 8) tripJob (tripMemory s) = t at h ⊢
  exact h.trans ⟨rfl, id, fun _ => Nat.zero_le _, id, id, id, id, False.elim⟩

theorem killRails_kept (hk : Kept False n s₀ s) : Kept False n s₀ (killRails s) := by
  dsimp only [killRails]
  exact Kept.opt (modPwrBlk_kept (modHvBlk_kept (tripLoss_kept hk)))
      (fun hk' => linkEvent_kept (emitLog_kept (zeroize_kept (modPwrBlk_kept hk'))))

theorem execKillAssert_kept (hk : Kept False 16 s₀ s) : NextKept s₀ (execKillAssert s) := by
  dsimp only [execKillAssert]
  exact .next (Kept.ite (killRails_kept hk) hk)

theorem execThermTripEvent_kept (hk : Kept False 16 s₀ s) : NextKept s₀ (execThermTripEvent s) := by
  dsimp only [execThermTripEvent]
  exact .next (Kept.ite hk (linkEvent_kept (emitLog_kept hk)))

theorem execCoolingWaitEnd_kept {goldenBad : List Nat} (hk : Kept False 16 s₀ s) :
    NextKept s₀ (execCoolingWaitEnd goldenBad s) := by
  dsimp only [execCoolingWaitEnd]
  exact .next (Kept.ite hk (drawGenerations_kept (modRstBlk_kept (modPwrBlk_kept hk))))

theorem startEntry_kept {h : Hdr} (hk : Kept False n s₀ s) : Kept False n s₀ (startEntry s h) := by
  dsimp only [startEntry]
  exact Kept.each (fun _ _ hk' => Kept.ite (startCapture_kept hk') hk')
      (Kept.each (fun _ _ => holdNext_kept) (modPwrBlk_kept (abortTests_kept hk)))

theorem execCmdPwrStateEnter_kept {h : Hdr} (hk : Kept False 16 s₀ s) :
    NextKept s₀ (execCmdPwrStateEnter h s) := by
  dsimp only [execCmdPwrStateEnter]
  exact .next (runCmd_kept hk (fun _ => Kept.ite (fail_kept hk) (Kept.ite (fail_kept hk)
      (Kept.opt (accept_kept hk (fun _ => startEntry_kept)) stopEntry_kept))))

theorem demoteNow_kept {p : Nat} (hk : Kept False n s₀ s) : Kept False n s₀ (demoteNow s p) := by
  dsimp only [demoteNow]
  exact Kept.ite (settleFar_kept (Kept.ite (copyDown_kept hk) (Kept.each (fun _ _ => copyDownLine_kept) hk)))
      (Kept.ite (settleFar_kept hk) hk)

theorem demoteAll_kept (hk : Kept False n s₀ s) : Kept False n s₀ (demoteAll s) := by
  dsimp only [demoteAll]
  exact Kept.each (fun _ _ => demoteNow_kept) (modMemBlk_kept hk)

theorem enterDeepHold_kept {h : Hdr} (hk : Kept False n s₀ s) : Kept False n s₀ (enterDeepHold s h) := by
  dsimp only [enterDeepHold]
  exact complete_kept (dropAccOf_kept (modPwrBlk_kept (selfRefresh_kept
      (clearFaceDie_kept (clearCourseDie_kept (modSpnBlk_kept (modPalBlk_kept
      (Kept.update (endScrub_kept (demoteAll_kept hk))))))))))

theorem execDeepHoldDemotionDone_kept (hk : Kept False 16 s₀ s) : NextKept s₀ (execDeepHoldDemotionDone s) := by
  dsimp only [execDeepHoldDemotionDone]
  refine .next ?_
  split
  · exact hk
  · exact Kept.ite (stopEntry_kept hk) (Kept.ite (enterDeepHold_kept hk) hk)

theorem execCmdPwrStateWake_kept {h : Hdr} (hk : Kept False 16 s₀ s) :
    NextKept s₀ (execCmdPwrStateWake h s) := by
  dsimp only [execCmdPwrStateWake]
  exact .next (runCmd_kept hk (fun _ => Kept.ite (fail_kept hk) (Kept.ite (fail_kept hk)
      (accept_kept hk (fun _ hk' => wakeGroups_kept (modPwrBlk_kept hk'))))))

theorem wakeJob_kept {bad : List Nat} {j : Nat} (hk : Kept still n s₀ s) :
    Kept still n s₀ (wakeJob bad s j) := by
  dsimp only [wakeJob]
  refine Kept.ite hk (Kept.opt' (goldenPlanes_kept hk) (fun hk' => ?_))
  split
  · exact Kept.opt' hk' (fun _ => modJob_kept (restoreCkpt_kept hk'))
  · exact hk'

theorem execWakeRestore_kept {goldenBad : List Nat} (hk : Kept False 16 s₀ s) :
    NextKept s₀ (execWakeRestore goldenBad s) := by
  dsimp only [execWakeRestore]
  refine .next ?_
  split
  · exact hk
  · exact Kept.ite hk (complete_kept (dropAccOf_kept (Kept.each (fun _ _ => wakeJob_kept)
      (modPwrBlk_kept (segmentsLost_kept hk)))))

theorem execCmdPwrStatus_kept {h : Hdr} (hk : Kept False 16 s₀ s) : NextKept s₀ (execCmdPwrStatus h s) := by
  dsimp only [execCmdPwrStatus]
  exact .next (runCmd_kept hk (fun _ => answer_kept hk))

theorem execCmdKlnStatus_kept {h : Hdr} (hk : Kept False 16 s₀ s) : NextKept s₀ (execCmdKlnStatus h s) := by
  dsimp only [execCmdKlnStatus]
  exact .next (runCmd_kept hk (fun _ => answer_kept hk))

theorem ringDoorbell_kept {fn m : Nat} (hk : Kept False n s₀ s) : Kept False n s₀ (ringDoorbell s fn m) := by
  dsimp only [ringDoorbell]
  exact Kept.ite hk (Kept.ite (modMbx_kept hk) (modHifBlk_kept (modMbx_kept hk)))

theorem execMbxDoorbell_kept {fn mbx : Nat} {value : BitVec 32} (hk : Kept False 16 s₀ s) :
    NextKept s₀ (execMbxDoorbell fn mbx value s) := by
  dsimp only [execMbxDoorbell]
  exact atUnit_kept (Kept.ite (ringDoorbell_kept hk) hk)

theorem clearDone_kept {fn m : Nat} (hk : Kept False n s₀ s) : Kept False n s₀ (clearDone s fn m) := by
  dsimp only [clearDone]
  exact Kept.ite (modMbx_kept hk) hk

theorem execMbxDoneClear_kept {fn mbx : Nat} (hk : Kept False 16 s₀ s) :
    NextKept s₀ (execMbxDoneClear fn mbx s) := by
  dsimp only [execMbxDoneClear]
  exact atUnit_kept (clearDone_kept hk)

theorem takeCommand_kept (hk : Kept False n s₀ s) : Kept False n s₀ (takeCommand s) := by
  unfold takeCommand
  dsimp only
  split
  · exact hk
  · split
    · exact fail_kept (modHifBlk_kept hk)
    · exact modHifBlk_kept hk

theorem execCommandTaken_kept (hk : Kept False 16 s₀ s) : NextKept s₀ (execCommandTaken s) := by
  dsimp only [execCommandTaken]
  exact .next (takeCommand_kept hk)

theorem mbxTimeout_kept {fn m : Nat} (hk : Kept False n s₀ s) : Kept False n s₀ (mbxTimeout s fn m) := by
  dsimp only [mbxTimeout]
  exact Kept.ite hk (emitOut_kept (modMbx_kept hk))

theorem execMbxTimeout_kept {fn mbx : Nat} (hk : Kept False 16 s₀ s) :
    NextKept s₀ (execMbxTimeout fn mbx s) := by
  dsimp only [execMbxTimeout]
  exact atUnit_kept (mbxTimeout_kept hk)

theorem enableRing_kept {fn : Nat} (hk : Kept False n s₀ s) : Kept False n s₀ (enableRing s fn) := by
  dsimp only [enableRing]
  exact Kept.ite hk (setRing_kept hk)

theorem execMbxEvrEnable_kept {fn : Nat} (hk : Kept False 16 s₀ s) : NextKept s₀ (execMbxEvrEnable fn s) := by
  dsimp only [execMbxEvrEnable]
  exact atUnit_kept (Kept.ite (enableRing_kept hk) hk)

theorem writeTail_kept {fn v : Nat} (hk : Kept False n s₀ s) : Kept False n s₀ (writeTail s fn v) := by
  dsimp only [writeTail]
  exact ringOverflow_kept (setRing_kept hk)

theorem execMbxEvrTail_kept {fn : Nat} {value : BitVec 16} (hk : Kept False 16 s₀ s) :
    NextKept s₀ (execMbxEvrTail fn value s) := by
  dsimp only [execMbxEvrTail]
  exact atUnit_kept (Kept.ite (writeTail_kept hk) hk)

theorem flrVf_kept {fn : Nat} (hk : Kept False n s₀ s) : Kept False n s₀ (flrVf s fn) := by
  dsimp only [flrVf]
  exact holdNext_kept (modHifBlk_kept (Kept.each (fun _ _ hk' => Kept.ite (stopDma_kept hk') hk') hk))

theorem execFlrVf_kept {fn : Nat} (hk : Kept False 16 s₀ s) : NextKept s₀ (execFlrVf fn s) := by
  dsimp only [execFlrVf]
  exact atUnit_kept (flrVf_kept hk)

theorem execFlrPf0_kept (hk : Kept False 16 s₀ s) : NextKept s₀ (execFlrPf0 s) := by
  dsimp only [execFlrPf0]
  exact .next (perstReset_kept hk)

theorem execCmdIdentify_kept {h : Hdr} (hk : Kept False 16 s₀ s) : NextKept s₀ (execCmdIdentify h s) := by
  dsimp only [execCmdIdentify]
  exact .next (runCmd_kept hk (fun _ => answer_kept hk))

theorem execCmdDevStatus_kept {h : Hdr} (hk : Kept False 16 s₀ s) : NextKept s₀ (execCmdDevStatus h s) := by
  dsimp only [execCmdDevStatus]
  exact .next (runCmd_kept hk (fun _ => answer_kept hk))

theorem execCmdDevStatusClearAlert_kept {h : Hdr} {integrityNow : Bool} (hk : Kept False 16 s₀ s) :
    NextKept s₀ (execCmdDevStatusClearAlert h integrityNow s) := by
  dsimp only [execCmdDevStatusClearAlert]
  exact .next (runCmd_kept hk (fun _ => modPwrBlk_kept (answer_kept hk)))

theorem clearTileBits_kept {faultMask trwMask : BitVec 32} {t : Nat} (hk : Kept False n s₀ s) :
    Kept False n s₀ (clearTileBits faultMask trwMask s t) := by
  dsimp only [clearTileBits]
  exact modTile_kept hk

theorem execCmdTileStatus_kept {h : Hdr} {first count : Nat} {faultMask trwMask : BitVec 32}
    (hk : Kept False 16 s₀ s) :
    NextKept s₀ (execCmdTileStatus h first count faultMask trwMask s) := by
  dsimp only [execCmdTileStatus]
  exact .next (runCmd_kept hk (fun _ => Kept.ite (fail_kept hk) (Kept.each (fun _ _ => clearTileBits_kept)
      (answer_kept hk))))

theorem execCmdJobStatus_kept {h : Hdr} (hk : Kept False 16 s₀ s) : NextKept s₀ (execCmdJobStatus h s) := by
  dsimp only [execCmdJobStatus]
  exact .next (runCmd_kept hk (fun _ => answer_kept hk))

theorem execCmdEventLog_kept {h : Hdr} {b : Bulk} (hk : Kept False 16 s₀ s) :
    NextKept s₀ (execCmdEventLog h b s) := by
  dsimp only [execCmdEventLog]
  refine .next (runCmd_kept hk (fun _ => ?_))
  split
  · exact respond_kept hk
  · exact accept_kept hk (fun _ => emitOut_kept)

theorem bulkDone_kept {opcode : Nat} {bad : Option Nat} (hk : Kept False n s₀ s) :
    Kept False n s₀ (bulkDone s opcode bad) := by
  unfold bulkDone
  dsimp only
  split
  · exact hk
  · split <;> exact complete_kept (dropAcc_kept hk)

theorem execBulkTransferDone_kept {opcode : Nat} {bad : Option Nat} (hk : Kept False 16 s₀ s) :
    NextKept s₀ (execBulkTransferDone opcode bad s) := by
  dsimp only [execBulkTransferDone]
  refine .next (Kept.ite (bulkDone_kept hk) ?_)
  split
  · exact Kept.ite (complete_kept (dropAccOf_kept (modFwBlk_kept hk))) hk
  · exact hk

theorem execCmdFwUpdate_kept {h : Hdr} {bytes : List Byte} {b : Bulk} (hk : Kept False 16 s₀ s) :
    NextKept s₀ (execCmdFwUpdate h bytes b s) := by
  dsimp only [execCmdFwUpdate]
  refine .next (runCmd_kept hk (fun _ => ?_))
  split
  · exact respond_kept hk
  · exact Kept.ite (fail_kept hk) (Kept.ite (fail_kept hk) (accept_kept hk (fun _ => modFwBlk_kept)))

theorem writeSlot_kept {b : Bool} {i : FwImage} (hk : Kept False n s₀ s) :
    Kept False n s₀ (writeSlot s b i) := by
  dsimp only [writeSlot]
  exact modFwBlk_kept hk

theorem fwUpdateDone_kept (hk : Kept False n s₀ s) : Kept False n s₀ (fwUpdateDone s) := by
  unfold fwUpdateDone
  dsimp only
  split
  · exact hk
  · exact Kept.opt (complete_kept (dropAccOf_kept (modFwBlk_kept (writeSlot_kept hk)))) startSlot_kept

theorem execFwUpdateDone_kept (hk : Kept False 16 s₀ s) : NextKept s₀ (execFwUpdateDone s) := by
  dsimp only [execFwUpdateDone]
  exact .next (fwUpdateDone_kept hk)

theorem activate_kept {b : Bool} (hk : Kept False n s₀ s) : Kept False n s₀ (activate s b) := by
  dsimp only [activate]
  exact modFwBlk_kept hk

theorem execCmdFwActivate_kept {h : Hdr} (hk : Kept False 16 s₀ s) : NextKept s₀ (execCmdFwActivate h s) := by
  dsimp only [execCmdFwActivate]
  refine .next (runCmd_kept hk (fun _ => ?_))
  split
  · exact fail_kept hk
  · exact answer_kept (activate_kept hk)

theorem execCmdFwActivateResetNow_kept {h : Hdr} (hk : Kept False 16 s₀ s) :
    NextKept s₀ (execCmdFwActivateResetNow h s) := by
  dsimp only [execCmdFwActivateResetNow]
  refine .next (runCmd_kept hk (fun _ => ?_))
  split
  · exact fail_kept hk
  · exact Kept.ite (warmReset_kept (answer_kept (activate_kept hk))) (fail_kept hk)

theorem trialTimeout_kept (hk : Kept False n s₀ s) : Kept False n s₀ (trialTimeout s) := by
  dsimp only [trialTimeout]
  exact Kept.ite (emitDev_kept (warmReset_kept (modFwBlk_kept hk))) hk

theorem execTrialTimeout_kept (hk : Kept False 16 s₀ s) : NextKept s₀ (execTrialTimeout s) := by
  dsimp only [execTrialTimeout]
  exact .next (trialTimeout_kept hk)

theorem orderHold_kept {j : Nat} {c : Word} {h : Option Hdr} (hk : Kept False n s₀ s) :
    Kept False n s₀ (orderHold s j c h) := by
  dsimp only [orderHold]
  exact modJob_kept hk

theorem execCmdRunHold_kept {h : Hdr} {atCycle : Word} (hk : Kept False 16 s₀ s) :
    NextKept s₀ (execCmdRunHold h atCycle s) := by
  dsimp only [execCmdRunHold]
  exact .next (runCmd_kept hk (fun _ => Kept.ite (answer_kept hk) (Kept.ite (fail_kept hk)
      (Kept.ite (fail_kept hk) (accept_kept hk (fun _ => orderHold_kept))))))

theorem resumeHeld_kept {j : Nat} (hk : Kept False n s₀ s) : Kept False n s₀ (resumeHeld s j) := by
  dsimp only [resumeHeld]
  exact Kept.opt (modJob_kept hk) startCapture_kept

theorem resumeFault_kept {j : Nat} (hk : Kept False n s₀ s) : Kept False n s₀ (resumeFault s j) := by
  dsimp only [resumeFault]
  exact modJob_kept hk

theorem execCmdRunResume_kept {h : Hdr} {stopCycle : Word} {noRollback : Bool} (hk : Kept False 16 s₀ s) :
    NextKept s₀ (execCmdRunResume h stopCycle noRollback s) := by
  dsimp only [execCmdRunResume]
  exact .next (runCmd_kept hk (fun _ => Kept.ite (fail_kept hk) (Kept.ite (fail_kept hk)
      (answer_kept (Kept.opt' (Kept.ite (resumeHeld_kept hk) (resumeFault_kept hk)) orderHold_kept)))))

theorem execCmdRunResets_kept {h : Hdr} {atCycle : Word} {resets : BitVec 7} (hk : Kept False 16 s₀ s) :
    NextKept s₀ (execCmdRunResets h atCycle resets s) := by
  dsimp only [execCmdRunResets]
  exact .next (runCmd_kept hk (fun _ => Kept.ite (fail_kept hk) (Kept.ite (fail_kept hk)
      (answer_kept (modJob_kept hk)))))

theorem setPin_kept {v : Option Nat} {p : Nat} (hk : Kept False n s₀ s) :
    Kept False n s₀ (setPin v s p) := .update hk

theorem execCmdTrigGrant_kept {h : Hdr} {pins : BitVec 16} (hk : Kept False 16 s₀ s) :
    NextKept s₀ (execCmdTrigGrant h pins s) := by
  dsimp only [execCmdTrigGrant]
  exact .next (runCmd_kept hk (fun _ => Kept.ite (fail_kept hk) (answer_kept
      (Kept.each (fun _ _ => setPin_kept) hk))))

theorem releasePins_kept {j : Nat} {pins : BitVec 16} (hk : Kept False n s₀ s) :
    Kept False n s₀ (releasePins s j pins) := by
  dsimp only [releasePins]
  exact modJob_kept (Kept.each (fun _ _ => setPin_kept) hk)

theorem execCmdTrigRelease_kept {h : Hdr} {pins : BitVec 16} (hk : Kept False 16 s₀ s) :
    NextKept s₀ (execCmdTrigRelease h pins s) := by
  dsimp only [execCmdTrigRelease]
  exact .next (runCmd_kept hk (fun _ => answer_kept (releasePins_kept hk)))

theorem createJob_kept {j : Nat} (hk : Kept False n s₀ s) : Kept False n s₀ (createJob s j) := by
  unfold createJob
  dsimp only
  exact updatePasr_kept (setJob_kept (modMemBlk_kept (takeDraw_kept hk)))

theorem execCmdJobCreate_kept {h : Hdr} (hk : Kept False 16 s₀ s) : NextKept s₀ (execCmdJobCreate h s) := by
  dsimp only [execCmdJobCreate]
  refine .next (runCmd_kept hk (fun _ => ?_))
  split
  · exact fail_kept hk
  · exact Kept.ite (fail_kept hk) (respondJ_kept (createJob_kept hk))

theorem freeMemory_kept {j : Nat} (hk : Kept False n s₀ s) : Kept False n s₀ (freeMemory s j) := by
  dsimp only [freeMemory]
  refine updatePasr_kept (setJob_kept (dropRecords_kept (modLpBlk_kept ?_)))
  split
  · exact freeGolden_kept (Kept.each (fun _ _ => unmapPage_kept) hk)
  · exact Kept.each (fun _ _ => unmapPage_kept) hk

theorem dropRelocs_kept {j : Nat} (hk : Kept False n s₀ s) : Kept False n s₀ (dropRelocs s j) := by
  dsimp only [dropRelocs]
  exact Kept.each (fun _ _ hk' => Kept.opt (Kept.ite hk' (modTile_kept hk')) tileRetired_kept)
      (modSprBlk_kept hk)

theorem freeUnits_kept {j : Nat} (hk : Kept False n s₀ s) : Kept False n s₀ (freeUnits s j) := by
  dsimp only [freeUnits]
  exact Kept.update (modPalBlk_kept (modArrBlk_kept (clearFlows_kept (Kept.each
    (fun _ _ hk' => unassignMason_kept (resetMason_kept hk')) (Kept.each (fun _ _ => hodDestroy_kept)
      (dropRelocs_kept (dropEntries_kept (Kept.each (fun _ _ => clearTile_kept) hk))))))))

theorem failOutstanding_kept {j : Nat} (hk : Kept False n s₀ s) : Kept False n s₀ (failOutstanding s j) := by
  dsimp only [failOutstanding]
  exact Kept.each (fun _ _ hk' => complete_kept (dropAccOf_kept hk')) hk

theorem endJobWork_kept {j : Nat} (hk : Kept False n s₀ s) : Kept False n s₀ (endJobWork s j) := by
  dsimp only [endJobWork]
  refine modJob_kept (failOutstanding_kept (failCapture_kept ?_))
  split
  · exact Kept.ite (failLoad_kept hk) hk
  · exact hk

theorem destroyJob_kept {j : Nat} (hk : Kept False n s₀ s) : Kept False n s₀ (destroyJob s j) := by
  dsimp only [destroyJob]
  exact Kept.opt (freeMemory_kept (freeUnits_kept (endJobWork_kept hk))) dieDone_kept

theorem execCmdJobDestroy_kept {h : Hdr} (hk : Kept False 16 s₀ s) : NextKept s₀ (execCmdJobDestroy h s) := by
  dsimp only [execCmdJobDestroy]
  exact .next (runCmd_kept hk (fun _ => Kept.ite (fail_kept hk) (complete_kept
      (destroyJob_kept (respond_kept hk)))))

theorem execCmdSpareStatus_kept {h : Hdr} (hk : Kept False 16 s₀ s) : NextKept s₀ (execCmdSpareStatus h s) := by
  dsimp only [execCmdSpareStatus]
  exact .next (runCmd_kept hk (fun _ => answer_kept hk))

theorem beginTest_kept {r : Region} (hk : Kept False n s₀ s) (e : beginTest s r = some t) :
    Kept False n s₀ t := by
  unfold beginTest at e
  split at e
  · split at e
    · exact planMove_kept hk e
    · cases e
      exact modTile_kept hk
  · cases e
    exact Kept.each (fun _ _ => askPause_kept) hk
  · cases e
    exact hk

theorem execCmdBistRun_kept {h : Hdr} {r : Region} (hk : Kept False 16 s₀ s) :
    NextKept s₀ (execCmdBistRun h r s) := by
  dsimp only [execCmdBistRun]
  refine .next (runCmd_kept hk (fun _ => Kept.ite (fail_kept hk) (Kept.opt' (fail_kept hk)
      (fun hk' => Kept.ite (fail_kept hk) ?_))))
  split
  · exact fail_kept hk
  next _ _ heq =>
    exact Kept.ite hk' (accept_kept (beginTest_kept hk heq) (fun _ => modSprBlk_kept))

theorem routerFailed_kept {r : Nat} (hk : Kept False n s₀ s) : Kept False n s₀ (routerFailed s r) := by
  dsimp only [routerFailed]
  exact Kept.each (fun _ _ => retireTile_kept) hk

theorem endTest_kept {a : Region} (hk : Kept False n s₀ s) : Kept False n s₀ (endTest s a) := by
  unfold endTest
  split
  · exact modTile_kept hk
  · exact resumeGroup_kept hk
  · exact hk

theorem coreFailed_kept {g c : Nat} (hk : Kept False n s₀ s) : Kept False n s₀ (coreFailed s g c) := by
  dsimp only [coreFailed]
  split
  · exact substitute_kept (modMsnBlk_kept hk)
  · exact Kept.opt (modMsnBlk_kept hk) (fun hk' => modGroup_kept (addRepair_kept hk'))

theorem switchIn_kept {r : Repair} (hk : Kept False n s₀ s) : Kept False n s₀ (switchIn s r) := by
  dsimp only [switchIn]
  refine Kept.opt (addRepair_kept hk) (fun hk' => ?_)
  split
  · exact hk'
  · split
    · exact Kept.ite (goldenLost_kept (readFrame_kept (spareRow_kept hk)))
        (rewriteRow_kept (readFrame_kept (spareRow_kept hk)))
    · exact spareRow_kept hk

theorem bringIn_kept {t : Nat} {r : Repair} (hk : Kept False n s₀ s) : Kept False n s₀ (bringIn s t r) := by
  unfold bringIn
  split
  · exact Kept.ite (switchIn_kept hk) (faultHold_kept (modSprBlk_kept hk))
  · exact switchIn_kept hk

theorem takeFinding_kept {r : Region} {f : TestFail} (hk : Kept False n s₀ s) :
    Kept False n s₀ (takeFinding r s f) := by
  dsimp only [takeFinding]
  refine Kept.ite hk ?_
  split
  · exact Kept.ite hk (coreFailed_kept hk)
  · exact retireTile_kept hk
  · exact retireTile_kept hk
  · split
    · exact hk
    · refine Kept.ite hk ?_
      split
      · exact bringIn_kept hk
      · exact retireTile_kept hk
  · exact hk

theorem bistDone_kept {h : Hdr} {r : Region} {fails : List TestFail} (hk : Kept False n s₀ s) :
    Kept False n s₀ (bistDone s h r fails) := by
  dsimp only [bistDone]
  refine complete_kept (dropAccOf_kept ?_)
  split
  · exact Kept.opt (modSprBlk_kept hk) routerFailed_kept
  · exact endTest_kept (Kept.each (fun _ _ => takeFinding_kept) (modSprBlk_kept hk))

theorem execBistDone_kept {fails : List TestFail} (hk : Kept False 16 s₀ s) :
    NextKept s₀ (execBistDone fails s) := by
  dsimp only [execBistDone]
  refine .next ?_
  split
  · exact Kept.ite (bistDone_kept hk) hk
  · exact hk

theorem execCmdSweepPolicy_kept {h : Hdr} {hours : Nat} {tiles groups : Bool} (hk : Kept False 16 s₀ s) :
    NextKept s₀ (execCmdSweepPolicy h hours tiles groups s) := by
  dsimp only [execCmdSweepPolicy]
  exact .next (runCmd_kept hk (fun _ => Kept.ite (fail_kept hk) (answer_kept (modSprBlk_kept hk))))

theorem fuseEntry_kept {acc : List (List Byte) × State} {r : Repair} (hk : Kept False n s₀ acc.2) :
    Kept False n s₀ (fuseEntry acc r).2 := by
  dsimp only [fuseEntry]
  split
  · exact Kept.mk_snd (takeFree_kept hk)
  · exact hk

theorem execCmdRepairMap_kept {h : Hdr} {b : Bulk} (hk : Kept False 16 s₀ s) :
    NextKept s₀ (execCmdRepairMap h b s) := by
  dsimp only [execCmdRepairMap]
  exact .next (runCmd_kept hk (fun _ => bulkOut_kept (Kept.foldl_by Prod.snd (fun _ _ => fuseEntry_kept) hk)))

theorem dropStale_kept (hk : Kept False n s₀ s) : Kept False n s₀ (dropStale s) := by
  unfold dropStale
  split
  · exact Kept.ite (modSprBlk_kept hk) hk
  · exact hk

theorem deferSweep_kept {p : Nat} (hk : Kept False n s₀ s) : Kept False n s₀ (deferSweep s p) := by
  dsimp only [deferSweep]
  exact modSprBlk_kept hk

theorem sweepSlot_kept (hk : Kept False n s₀ s) : Kept False n s₀ (sweepSlot s) := by
  dsimp only [sweepSlot]
  refine Kept.opt' (dropStale_kept hk) (fun hk' => ?_)
  split
  · exact hk'
  · refine Kept.ite (deferSweep_kept hk') ?_
    split
    next _ _ heq' =>
      exact modSprBlk_kept (beginTest_kept hk' heq')
    · exact modSprBlk_kept hk'

theorem execSweepSlot_kept (hk : Kept False 16 s₀ s) : NextKept s₀ (execSweepSlot s) := by
  dsimp only [execSweepSlot]
  exact .next (sweepSlot_kept hk)

theorem releaseEntry_kept {e : Repair} (hk : Kept False n s₀ s) : Kept False n s₀ (releaseEntry s e) := by
  dsimp only [releaseEntry]
  exact Kept.ite (modGroup_kept (modMsnBlk_kept hk)) hk

theorem retestEntry_kept {found : List (Nat × Nat)} {e : Repair} (hk : Kept False n s₀ s) :
    Kept False n s₀ (retestEntry found s e) := by
  dsimp only [retestEntry]
  have hput {f : Repair → Repair} : Kept False n s₀ (modSprBlk s fun p =>
      { p with map := p.map.map fun q => if q = e then f q else q }) :=
    shortenMap_kept hk fun _ => (List.length_map _).le
  exact Kept.ite (addRepair_kept hk) (Kept.ite (releaseEntry_kept hput) hput)

theorem sweepFindings_kept {r : Region} {fails : List TestFail} (hk : Kept False n s₀ s) :
    Kept False n s₀ (sweepFindings s r fails) := by
  dsimp only [sweepFindings]
  exact Kept.each (fun _ _ => takeFinding_kept) (Kept.opt (Kept.ite
      (Kept.each (fun _ _ => retestEntry_kept) hk) hk) modSprBlk_kept)

theorem execSweepTestsDone_kept {fails : List TestFail} (hk : Kept False 16 s₀ s) :
    NextKept s₀ (execSweepTestsDone fails s) := by
  dsimp only [execSweepTestsDone]
  refine .next ?_
  split
  · exact hk
  · exact Kept.ite hk (endTest_kept (sweepFindings_kept (modSprBlk_kept hk)))

theorem markTest_kept {t : Nat} (hk : Kept False n s₀ s) : Kept False n s₀ (markTest s t) := by
  dsimp only [markTest]
  exact Kept.ite (modTile_kept hk) hk

theorem moveTile_kept {r : Reloc} {readFail : Bool} (hk : Kept False n s₀ s) :
    Kept False n s₀ (moveTile s r readFail) := by
  dsimp only [moveTile]
  exact Kept.update (setTile_kept (setTile_kept hk))

theorem copyOne_kept {readFail : Bool} {r : Reloc} (hk : Kept False n s₀ s) :
    Kept False n s₀ (copyOne readFail s r) := by
  dsimp only [copyOne]
  exact modSprBlk_kept (markTest_kept (moveTile_kept hk))

theorem relocate_kept {j : Nat} {goldenBad readFail : Bool} (hk : Kept False n s₀ s) :
    Kept False n s₀ (relocate s j goldenBad readFail) := by
  dsimp only [relocate]
  exact Kept.ite (goldenLost_kept (Kept.foldl_by Prod.snd (fun _ _ hk' => Kept.mk_snd (readBlock_kept hk'))
      hk)) (Kept.ite (stopJob_kept (endRelocs_kept (Kept.each (fun _ _ => copyOne_kept)
      (Kept.foldl_by Prod.snd (fun _ _ hk' => Kept.mk_snd (readBlock_kept hk')) hk))))
      (modJob_kept (Kept.each (fun _ _ => copyOne_kept) (Kept.foldl_by Prod.snd
      (fun _ _ hk' => Kept.mk_snd (readBlock_kept hk')) hk))))

theorem execRelocationCopy_kept {job : Nat} {goldenBad readFail : Bool} (hk : Kept False 16 s₀ s) :
    NextKept s₀ (execRelocationCopy job goldenBad readFail s) := by
  dsimp only [execRelocationCopy]
  exact atUnit_kept (Kept.ite hk (relocate_kept hk))

theorem switchJob_kept {j : Nat} (hk : Kept False n s₀ s) : Kept False n s₀ (switchJob s j) := by
  dsimp only [switchJob]
  exact modJob_kept (Kept.each (fun _ _ => switchIn_kept) (modSprBlk_kept hk))

theorem execSpareSwitch_kept {job : Nat} (hk : Kept False 16 s₀ s) : NextKept s₀ (execSpareSwitch job s) := by
  dsimp only [execSpareSwitch]
  exact atUnit_kept (Kept.ite (switchJob_kept hk) hk)

theorem hodStoreRow_kept {row : Nat} (hk : Kept False n s₀ s) : Kept False n s₀ (hodStoreRow s row) := by
  dsimp only [hodStoreRow]
  refine Kept.ite hk ?_
  split
  · exact addRepair_kept hk
  · exact modPalBlk_kept hk

theorem nearFrameOut_kept {f : Nat} (hk : Kept False n s₀ s) : Kept False n s₀ (nearFrameOut s f) := by
  dsimp only [nearFrameOut]
  exact modMemBlk_kept (Kept.each (fun _ _ hk' => demoteNow_kept (cancelMoves_kept hk')) hk)

theorem bedRow_kept {bank row : Nat} (hk : Kept False n s₀ s) : Kept False n s₀ (bedRow s bank row) := by
  dsimp only [bedRow]
  refine Kept.ite hk ?_
  split
  · exact addRepair_kept hk
  · exact Kept.ite (nearFrameOut_kept hk) hk

theorem execBedRowSpare_kept {hodStore : Bool} {bank row : Nat} (hk : Kept False 16 s₀ s) :
    NextKept s₀ (execBedRowSpare hodStore bank row s) := by
  dsimp only [execBedRowSpare]
  exact atUnit_kept (Kept.ite (hodStoreRow_kept hk) (bedRow_kept hk))

theorem burn_kept {i : Nat} {ok : Bool} (hk : Kept False n s₀ s) : Kept False n s₀ (burn s i ok) := by
  unfold burn
  split
  · exact hk
  · exact Kept.ite hk (Kept.ite (modSprBlk_kept hk)
      (shortenMap_kept hk fun _ => (List.length_modify _ _ _).le))

theorem execEfuseBurn_kept {index : Nat} {readBackOk : Bool} (hk : Kept False 16 s₀ s) :
    NextKept s₀ (execEfuseBurn index readBackOk s) := by
  dsimp only [execEfuseBurn]
  exact .next (burn_kept hk)

theorem rollOne_kept {i : Nat} (hk : Kept False n s₀ s) : Kept False n s₀ (rollOne s i) := by
  dsimp only [rollOne]
  exact rollInto_kept (modTelBlk_kept hk)

theorem rollNode_kept {x : Nat × Nat} (hk : Kept False n s₀ s) : Kept False n s₀ (rollNode s x) := by
  dsimp only [rollNode]
  exact Kept.opt' (checkNode_kept hk) setNode_kept

theorem rollPages_kept (hk : Kept False n s₀ s) : Kept False n s₀ (rollPages s) := by
  dsimp only [rollPages]
  exact Kept.each (fun _ _ => rollNode_kept) (modTelBlk_kept hk)

theorem rollWalk_kept (hk : Kept False n s₀ s) : Kept False n s₀ (rollWalk s) := by
  dsimp only [rollWalk]
  exact Kept.ite (modTelBlk_kept (Kept.ite (rollOne_kept hk) hk)) (modTelBlk_kept
      (rollPages_kept (Kept.ite (rollOne_kept hk) hk)))

theorem execRollLeaf_kept {ups : List Upset} (hk : Kept False 16 s₀ s) : NextKept s₀ (execRollLeaf ups s) := by
  dsimp only [execRollLeaf]
  exact .next (Kept.opt (upsets_kept hk) rollWalk_kept)

theorem execEarlyRoll_kept {root : Nat} (hk : Kept False 16 s₀ s) : NextKept s₀ (execEarlyRoll root s) := by
  dsimp only [execEarlyRoll]
  exact atUnit_kept (Kept.ite (rollOne_kept hk) hk)

theorem execCmdTelRead_kept {h : Hdr} {first count : Nat} {b : Bulk} (hk : Kept False 16 s₀ s) :
    NextKept s₀ (execCmdTelRead h first count b s) := by
  dsimp only [execCmdTelRead]
  exact .next (runCmd_kept hk (fun _ => Kept.ite (fail_kept hk) (Kept.ite (fail_kept hk)
      (Kept.ite (answer_kept (Kept.each (fun _ _ => checkRoot_kept) hk))
      (bulkOut_kept (Kept.each (fun _ _ => checkRoot_kept) hk))))))

theorem unfreezeUnder_kept {b : Nat} (hk : Kept False n s₀ s) : Kept False n s₀ (unfreezeUnder s b) := by
  dsimp only [unfreezeUnder]
  exact Kept.each (fun _ _ => freezePage_kept) hk

theorem clearRoot_kept {i : Nat} (hk : Kept False n s₀ s) : Kept False n s₀ (clearRoot s i) := by
  dsimp only [clearRoot]
  exact Kept.opt (setRoot_kept hk) unfreezeUnder_kept

theorem execCmdTelClear_kept {h : Hdr} {first count : Nat} (hk : Kept False 16 s₀ s) :
    NextKept s₀ (execCmdTelClear h first count s) := by
  dsimp only [execCmdTelClear]
  exact .next (runCmd_kept hk (fun _ => Kept.ite (fail_kept hk) (answer_kept
      (Kept.each (fun _ _ => clearRoot_kept) hk))))

theorem setCapture_kept {j : Nat} {f : Capture → Capture} (hk : Kept False n s₀ s) :
    Kept False n s₀ (setCapture s j f) := by
  dsimp only [setCapture]
  exact modJob_kept hk

theorem execCmdCaptureCfg_kept {h : Hdr} {c : CapCfg} (hk : Kept False 16 s₀ s) :
    NextKept s₀ (execCmdCaptureCfg h c s) := by
  dsimp only [execCmdCaptureCfg]
  exact .next (runCmd_kept hk (fun _ => Kept.ite (fail_kept hk) (Kept.ite (fail_kept hk)
      (Kept.ite (fail_kept hk) (answer_kept (setCapture_kept hk))))))

theorem execCmdCaptureCtlArm_kept {h : Hdr} (hk : Kept False 16 s₀ s) :
    NextKept s₀ (execCmdCaptureCtlArm h s) := by
  dsimp only [execCmdCaptureCtlArm]
  exact .next (runCmd_kept hk (fun _ => Kept.ite (fail_kept hk) (answer_kept (setCapture_kept hk))))

theorem execCmdCaptureCtlTrigger_kept {h : Hdr} {atCycle : Word} (hk : Kept False 16 s₀ s) :
    NextKept s₀ (execCmdCaptureCtlTrigger h atCycle s) := by
  dsimp only [execCmdCaptureCtlTrigger]
  exact .next (runCmd_kept hk (fun _ => Kept.ite (fail_kept hk) (answer_kept (setCapture_kept hk))))

theorem execCmdCaptureCtlStop_kept {h : Hdr} (hk : Kept False 16 s₀ s) :
    NextKept s₀ (execCmdCaptureCtlStop h s) := by
  dsimp only [execCmdCaptureCtlStop]
  exact .next (runCmd_kept hk (fun _ => Kept.ite (fail_kept hk) (emitJob_kept
      (answer_kept (setCapture_kept hk)))))

theorem execCmdCaptureCtlDisarm_kept {h : Hdr} (hk : Kept False 16 s₀ s) :
    NextKept s₀ (execCmdCaptureCtlDisarm h s) := by
  dsimp only [execCmdCaptureCtlDisarm]
  exact .next (runCmd_kept hk (fun _ => answer_kept (setCapture_kept hk)))

theorem execCmdCaptureRead_kept {h : Hdr} {b : Bulk} (hk : Kept False 16 s₀ s) :
    NextKept s₀ (execCmdCaptureRead h b s) := by
  dsimp only [execCmdCaptureRead]
  exact .next (runCmd_kept hk (fun _ => Kept.ite (fail_kept hk) (Kept.ite (fail_kept hk) (bulkOut_kept hk))))

theorem execPcieLinkTraining_kept (hk : Kept False 16 s₀ s) : NextKept s₀ (execPcieLinkTraining s) := by
  dsimp only [execPcieLinkTraining]
  exact .next (Kept.ite (modHifBlk_kept hk) hk)

theorem refreshReadings_kept (hk : Kept False n s₀ s) : Kept False n s₀ (refreshReadings s) := by
  dsimp only [refreshReadings]
  exact modHvBlk_kept hk

theorem execPmbusReadingRefresh_kept (hk : Kept False 16 s₀ s) : NextKept s₀ (execPmbusReadingRefresh s) := by
  dsimp only [execPmbusReadingRefresh]
  exact .next (Kept.ite (refreshReadings_kept hk) hk)

theorem smbusRead_kept {data : List Byte} (hk : Kept False n s₀ s) : Kept False n s₀ (smbusRead s data) := by
  dsimp only [smbusRead]
  exact Kept.ite (emitOut_kept hk) hk

theorem smbusNack_kept (hk : Kept False n s₀ s) : Kept False n s₀ (smbusNack s) := by
  dsimp only [smbusNack]
  exact Kept.ite (emitOut_kept (modHvBlk_kept hk)) hk

theorem execPage_kept {value : Option (BitVec 8)} (hk : Kept False 16 s₀ s) :
    NextKept s₀ (execPage value s) := by
  dsimp only [execPage]
  refine .next ?_
  split
  · exact smbusRead_kept hk
  · exact Kept.ite hk (Kept.ite (modHvBlk_kept hk) (smbusNack_kept hk))

theorem clearLatched_kept (hk : Kept False n s₀ s) : Kept False n s₀ (clearLatched s) := by
  dsimp only [clearLatched]
  exact modHvBlk_kept hk

theorem execClearFaults_kept (hk : Kept False 16 s₀ s) : NextKept s₀ (execClearFaults s) := by
  dsimp only [execClearFaults]
  exact .next (Kept.ite (clearLatched_kept hk) hk)

theorem execCapability_kept (hk : Kept False 16 s₀ s) : NextKept s₀ (execCapability s) := by
  dsimp only [execCapability]
  exact .next (smbusRead_kept hk)

theorem execVoutMode_kept (hk : Kept False 16 s₀ s) : NextKept s₀ (execVoutMode s) := by
  dsimp only [execVoutMode]
  exact .next (smbusRead_kept hk)

theorem execStatusByte_kept (hk : Kept False 16 s₀ s) : NextKept s₀ (execStatusByte s) := by
  dsimp only [execStatusByte]
  exact .next (smbusRead_kept hk)

theorem execStatusWord_kept (hk : Kept False 16 s₀ s) : NextKept s₀ (execStatusWord s) := by
  dsimp only [execStatusWord]
  exact .next (smbusRead_kept hk)

theorem execStatusVout_kept (hk : Kept False 16 s₀ s) : NextKept s₀ (execStatusVout s) := by
  dsimp only [execStatusVout]
  exact .next (smbusRead_kept hk)

theorem execStatusInput_kept (hk : Kept False 16 s₀ s) : NextKept s₀ (execStatusInput s) := by
  dsimp only [execStatusInput]
  exact .next (smbusRead_kept hk)

theorem execStatusTemperature_kept (hk : Kept False 16 s₀ s) : NextKept s₀ (execStatusTemperature s) := by
  dsimp only [execStatusTemperature]
  exact .next (smbusRead_kept hk)

theorem execStatusMfrSpecific_kept (hk : Kept False 16 s₀ s) : NextKept s₀ (execStatusMfrSpecific s) := by
  dsimp only [execStatusMfrSpecific]
  exact .next (smbusRead_kept hk)

theorem execReadVin_kept (hk : Kept False 16 s₀ s) : NextKept s₀ (execReadVin s) := by
  dsimp only [execReadVin]
  exact .next (smbusRead_kept hk)

theorem execReadIin_kept (hk : Kept False 16 s₀ s) : NextKept s₀ (execReadIin s) := by
  dsimp only [execReadIin]
  exact .next (smbusRead_kept hk)

theorem execReadVout_kept (hk : Kept False 16 s₀ s) : NextKept s₀ (execReadVout s) := by
  dsimp only [execReadVout]
  exact .next (smbusRead_kept hk)

theorem execReadIout_kept (hk : Kept False 16 s₀ s) : NextKept s₀ (execReadIout s) := by
  dsimp only [execReadIout]
  exact .next (smbusRead_kept hk)

theorem execReadTemperature1_kept (hk : Kept False 16 s₀ s) : NextKept s₀ (execReadTemperature1 s) := by
  dsimp only [execReadTemperature1]
  exact .next (smbusRead_kept hk)

theorem execReadPin_kept (hk : Kept False 16 s₀ s) : NextKept s₀ (execReadPin s) := by
  dsimp only [execReadPin]
  exact .next (smbusRead_kept hk)

theorem execPmbusRevision_kept (hk : Kept False 16 s₀ s) : NextKept s₀ (execPmbusRevision s) := by
  dsimp only [execPmbusRevision]
  exact .next (smbusRead_kept hk)

theorem smbusBlock_kept {data : List Byte} (hk : Kept False n s₀ s) : Kept False n s₀ (smbusBlock s data) := by
  dsimp only [smbusBlock]
  exact smbusRead_kept hk

theorem execMfrId_kept (hk : Kept False 16 s₀ s) : NextKept s₀ (execMfrId s) := by
  dsimp only [execMfrId]
  exact .next (smbusBlock_kept hk)

theorem execMfrModel_kept (hk : Kept False 16 s₀ s) : NextKept s₀ (execMfrModel s) := by
  dsimp only [execMfrModel]
  exact .next (smbusBlock_kept hk)

theorem execMfrRevision_kept (hk : Kept False 16 s₀ s) : NextKept s₀ (execMfrRevision s) := by
  dsimp only [execMfrRevision]
  exact .next (smbusBlock_kept hk)

theorem execMfrKlnStatus_kept (hk : Kept False 16 s₀ s) : NextKept s₀ (execMfrKlnStatus s) := by
  dsimp only [execMfrKlnStatus]
  exact .next (smbusBlock_kept hk)

theorem execMfrEvent_kept (hk : Kept False 16 s₀ s) : NextKept s₀ (execMfrEvent s) := by
  dsimp only [execMfrEvent]
  exact .next (smbusBlock_kept hk)

theorem execPmbusUnsupported_kept {_code : BitVec 8} (hk : Kept False 16 s₀ s) :
    NextKept s₀ (execPmbusUnsupported _code s) := by
  dsimp only [execPmbusUnsupported]
  exact .next (smbusNack_kept hk)

theorem tapReset_kept (hk : Kept False n s₀ s) : Kept False n s₀ (tapReset s) := .update hk

theorem execTrstNLow_kept (hk : Kept False 16 s₀ s) : NextKept s₀ (execTrstNLow s) := by
  dsimp only [execTrstNLow]
  exact .next (tapReset_kept hk)

theorem scanIr_kept {ir : BitVec 8} (hk : Kept False n s₀ s) : Kept False n s₀ (scanIr s ir) := by
  dsimp only [scanIr]
  exact Kept.ite hk (emitOut_kept (Kept.update hk))

theorem scanPins_kept {ir : BitVec 8} (hk : Kept False n s₀ s) : Kept False n s₀ (scanPins s ir) := by
  dsimp only [scanPins]
  exact scanIr_kept hk

theorem execExtest_kept (hk : Kept False 16 s₀ s) : NextKept s₀ (execExtest s) := by
  dsimp only [execExtest]
  exact .next (scanPins_kept hk)

theorem execSamplePreload_kept (hk : Kept False 16 s₀ s) : NextKept s₀ (execSamplePreload s) := by
  dsimp only [execSamplePreload]
  exact .next (Kept.ite hk (Kept.update (scanIr_kept (takeFree_kept hk))))

theorem execIdcode_kept (hk : Kept False 16 s₀ s) : NextKept s₀ (execIdcode s) := by
  dsimp only [execIdcode]
  exact .next (Kept.ite hk (emitOut_kept (Kept.update (scanIr_kept hk))))

theorem execClamp_kept (hk : Kept False 16 s₀ s) : NextKept s₀ (execClamp s) := by
  dsimp only [execClamp]
  exact .next (scanPins_kept hk)

theorem execHighz_kept (hk : Kept False 16 s₀ s) : NextKept s₀ (execHighz s) := by
  dsimp only [execHighz]
  exact .next (scanPins_kept hk)

theorem execBypass_kept (hk : Kept False 16 s₀ s) : NextKept s₀ (execBypass s) := by
  dsimp only [execBypass]
  exact .next (scanIr_kept hk)

theorem dbgRun_kept {dr : Nat} (hk : Kept False n s₀ s) : Kept False n s₀ (dbgRun s dr).2.2 := by
  dsimp only [dbgRun]
  split
  · exact hk
  · split
    · exact hk
    · split
      · exact Kept.mk_snd2 (denied_kept hk)
      · split
        · exact Kept.mk_snd2 (masterWrite_kept hk)
        · exact masterRead_kept hk

theorem dbgData_kept {st : AccStatus} {write : Bool} {bs : List Byte} (hk : Kept False n s₀ s) :
    Kept False n s₀ (dbgData st write bs s).2 := by
  dsimp only [dbgData]
  split
  · exact hk
  · exact Kept.mk_snd (takeFree_kept hk)

theorem dbgAccess_kept {dr : BitVec 128} (hk : Kept False n s₀ s) : Kept False n s₀ (dbgAccess s dr) := by
  dsimp only [dbgAccess]
  refine emitOut_kept (Kept.update (dbgData_kept ?_))
  split
  · exact hk
  · exact dbgRun_kept hk

theorem execDbgAccess_kept {dr : BitVec 128} {ups : List Upset} (hk : Kept False 16 s₀ s) :
    NextKept s₀ (execDbgAccess dr ups s) := by
  dsimp only [execDbgAccess]
  exact .next (Kept.ite (dbgAccess_kept (upsets_kept hk)) hk)

theorem writeMbx_kept {fn m o size : Nat} {v : BitVec 64} (hk : Kept False n s₀ s) :
    Kept False n s₀ (writeMbx s fn m o size v) := by
  dsimp only [writeMbx]
  exact Kept.ite (modMbx_kept hk) (Kept.ite (Kept.ite (ringDoorbell_kept hk) hk)
      (Kept.ite (Kept.opt (Kept.ite (clearDone_kept hk) hk) modMbx_kept) hk))

theorem writeRingCtl_kept {fn : Nat} {w : BitVec 64 × BitVec 64} (hk : Kept False n s₀ s) :
    Kept False n s₀ (writeRingCtl s fn w) := by
  dsimp only [writeRingCtl]
  exact Kept.ite (enableRing_kept (setRing_kept hk)) (setRing_kept (setRing_kept hk))

theorem writeRing_kept {fn o size : Nat} {v : BitVec 64} (hk : Kept False n s₀ s) :
    Kept False n s₀ (writeRing s fn o size v) := by
  dsimp only [writeRing]
  exact Kept.ite (Kept.ite hk (setRing_kept hk)) (Kept.ite (writeRingCtl_kept hk)
      (Kept.ite (writeTail_kept hk) hk))

theorem writeDma_kept {fn c o size : Nat} {v : BitVec 64} (hk : Kept False n s₀ s) :
    Kept False n s₀ (writeDma s fn c o size v) := by
  dsimp only [writeDma]
  exact Kept.ite hk (Kept.ite (Kept.ite hk (modDma_kept hk)) (Kept.ite (Kept.ite hk (modDma_kept hk))
      (Kept.ite (Kept.ite (modDma_kept hk) hk) (Kept.ite (modDma_kept hk) hk))))

theorem writeMsix_kept {fn o size : Nat} {v : BitVec 64} (hk : Kept False n s₀ s) :
    Kept False n s₀ (writeMsix s fn o size v) := by
  dsimp only [writeMsix]
  exact modHifBlk_kept hk

theorem writeBar0_kept {fn offset size : Nat} {v : BitVec 64} (hk : Kept False n s₀ s) :
    Kept False n s₀ (writeBar0 s fn offset size v) := by
  dsimp only [writeBar0]
  exact Kept.ite hk (Kept.ite (Kept.ite (writeMbx_kept hk) hk) (Kept.ite hk
      (Kept.ite (writeRing_kept hk) (Kept.ite (writeDma_kept hk) (Kept.ite (writeMsix_kept hk) hk)))))

theorem writeHodStatus_kept {hod : Nat} {w : BitVec 64} (hk : Kept False n s₀ s) :
    Kept False n s₀ (writeHodStatus s hod w) := by
  dsimp only [writeHodStatus]
  exact modHod_kept hk

theorem writeBar2_kept {fn offset size : Nat} {v : BitVec 64} (hk : Kept False n s₀ s) :
    Kept False n s₀ (writeBar2 s fn offset size v) := by
  dsimp only [writeBar2]
  refine Kept.ite hk ?_
  split
  · exact hostPush_kept hk
  · exact hostPush_kept hk
  · exact hostPush_kept hk
  · exact hostPush_kept hk
  · exact Kept.ite (writeHodStatus_kept hk) hk
  · exact Kept.opt (Kept.ite (modHod_kept hk) hk) hodFlush_kept
  · exact hk

theorem execRegisterWrite_kept {fn offset size : Nat} {value : BitVec 64} (hk : Kept False 16 s₀ s) :
    NextKept s₀ (execRegisterWrite fn offset size value s) := by
  dsimp only [execRegisterWrite]
  exact atUnit_kept (Kept.ite (writeBar0_kept hk) (Kept.ite (writeBar2_kept hk) hk))

theorem jumpTo_kept {m rd : Nat} {v target : Word} (hk : Kept False n s₀ s) :
    Kept False n s₀ (jumpTo s m rd v target) := by
  dsimp only [jumpTo]
  exact modMason_kept hk

theorem opImmInstr_kept {m w len : Nat} (hk : Kept False n s₀ s) : Kept False n s₀ (opImmInstr s m w len) := by
  dsimp only [opImmInstr]
  exact Kept.ite (illegal_kept hk) (retire_kept hk)

theorem opImm32Instr_kept {m w len : Nat} (hk : Kept False n s₀ s) :
    Kept False n s₀ (opImm32Instr s m w len) := by
  dsimp only [opImm32Instr]
  exact Kept.ite (retire_kept hk) (Kept.ite (retire_kept hk) (illegal_kept hk))

theorem opInstr_kept {m w len : Nat} (hk : Kept False n s₀ s) : Kept False n s₀ (opInstr s m w len) := by
  dsimp only [opInstr]
  exact Kept.ite (retire_kept hk) (Kept.ite (retire_kept hk) (Kept.ite (retire_kept hk) (illegal_kept hk)))

theorem op32Instr_kept {m w len : Nat} (hk : Kept False n s₀ s) : Kept False n s₀ (op32Instr s m w len) := by
  dsimp only [op32Instr]
  refine Kept.ite ?_ (Kept.ite (retire_kept hk) (Kept.ite (retire_kept hk) (illegal_kept hk)))
  split
  · exact retire_kept hk
  · exact illegal_kept hk

theorem envTrap_kept {m cause : Nat} (hk : Kept False n s₀ s) : Kept False n s₀ (envTrap s m cause) := by
  unfold envTrap
  dsimp only
  exact trap_kept (takeFree_kept hk)

theorem csrRead_kept {m c : Nat} {v : Word} (hk : Kept False n s₀ s) (e : csrRead s m c = some (v, t)) :
    Kept False n s₀ t := by
  unfold csrRead at e
  split at e
  case h_9 =>
    split at e
    · cases e
      exact takeFree_kept (w := 64) hk
    · cases e
  all_goals
    cases e
    exact hk

theorem csrInstr_kept {m w : Nat} (hk : Kept False n s₀ s) : Kept False n s₀ (csrInstr s m w) := by
  dsimp only [csrInstr]
  split
  · exact illegal_kept hk
  next _ _ _ heq =>
    exact Kept.ite (illegal_kept hk) (retire_kept (Kept.ite (modMason_kept (csrRead_kept hk heq))
        (csrRead_kept hk heq)))

theorem systemInstr_kept {m w : Nat} (hk : Kept False n s₀ s) : Kept False n s₀ (systemInstr s m w) := by
  dsimp only [systemInstr]
  exact Kept.ite (Kept.ite (envTrap_kept hk) (Kept.ite (envTrap_kept hk) (Kept.ite hk (illegal_kept hk))))
      (Kept.opt' (illegal_kept hk) (fun hk' => Kept.ite (Kept.ite hk hk') (csrInstr_kept hk)))

theorem baseInstr_kept {m w len : Nat} (hk : Kept False n s₀ s) : Kept False n s₀ (baseInstr s m w len) := by
  dsimp only [baseInstr]
  split
  · exact retire_kept hk
  · exact retire_kept hk
  · exact jumpTo_kept hk
  · exact Kept.ite (jumpTo_kept hk) (illegal_kept hk)
  · split
    · exact jumpTo_kept hk
    · exact illegal_kept hk
  · exact opImmInstr_kept hk
  · exact opImm32Instr_kept hk
  · exact opInstr_kept hk
  · exact op32Instr_kept hk
  · exact Kept.ite (retire_kept hk) (illegal_kept hk)
  · exact systemInstr_kept hk
  · exact hk
  · exact hk
  · exact Kept.ite hk (illegal_kept hk)
  · exact hk
  · exact illegal_kept hk

theorem fetchAccess_kept {m : Nat} (hk : Kept False n s₀ s) : Kept False n s₀ (fetchAccess s m) := by
  dsimp only [fetchAccess]
  refine Kept.ite (accessFault_kept hk) ?_
  split
  next _ _ heq =>
    exact scratchFault_kept (Kept.snd heq (scratchRead_kept hk))
  next _ _ _ heq =>
    refine Kept.ite ?_ (Kept.ite (accessFault_kept (Kept.snd heq (scratchRead_kept hk))) ?_)
    · split
      · exact baseInstr_kept (Kept.snd heq (scratchRead_kept hk))
      · exact illegal_kept (Kept.snd heq (scratchRead_kept hk))
    · split
      next _ _ heq' =>
        exact scratchFault_kept (Kept.snd heq' (scratchRead_kept (Kept.snd heq (scratchRead_kept hk))))
      next _ _ _ heq' =>
        exact baseInstr_kept (Kept.snd heq' (scratchRead_kept (Kept.snd heq (scratchRead_kept hk))))

theorem loadAccess_kept {m : Nat} {op : MemOp} {f3 rd a : Nat} {c : Bool} (hk : Kept False n s₀ s) :
    Kept False n s₀ (loadAccess s m op f3 rd a c) := by
  dsimp only [loadAccess]
  refine Kept.ite hk (Kept.ite (illegal_kept hk) (Kept.ite ?_ (Kept.ite (retire_kept hk)
      (accessFault_kept hk))))
  split
  next _ _ _ heq =>
    exact retire_kept (Kept.snd heq (scratchRead_kept hk))
  next _ _ heq =>
    exact scratchFault_kept (Kept.snd heq (scratchRead_kept hk))

theorem storeAccess_kept {m : Nat} {op : MemOp} {f3 rs2 a : Nat} {c : Bool} (hk : Kept False n s₀ s) :
    Kept False n s₀ (storeAccess s m op f3 rs2 a c) := by
  dsimp only [storeAccess]
  refine Kept.ite hk (Kept.ite (illegal_kept hk) (Kept.ite ?_ (Kept.ite (retire_kept hk)
      (accessFault_kept hk))))
  split
  next _ _ heq =>
    exact retire_kept (Kept.snd heq (scratchWrite_kept hk))
  next _ _ heq =>
    exact scratchFault_kept (Kept.snd heq (scratchWrite_kept hk))

theorem atomicAccess_kept {m : Nat} {op : MemOp} (hk : Kept False n s₀ s) :
    Kept False n s₀ (atomicAccess s m op) := by
  dsimp only [atomicAccess]
  split
  · refine Kept.ite hk (Kept.ite (trap_kept hk) (Kept.ite (accessFault_kept hk) ?_))
    split
    next _ _ _ heq =>
      exact retire_kept (modMason_kept (Kept.snd heq (scratchRead_kept hk)))
    next _ _ heq =>
      exact scratchFault_kept (Kept.snd heq (scratchRead_kept hk))
  · refine Kept.ite hk (Kept.ite (trap_kept hk) (Kept.ite (accessFault_kept hk)
      (Kept.ite (retire_kept (modMason_kept hk)) ?_)))
    split
    next _ _ heq =>
      exact retire_kept (modMason_kept (Kept.snd heq (scratchWrite_kept hk)))
    next _ _ heq =>
      exact scratchFault_kept (Kept.snd heq (scratchWrite_kept hk))
  · refine Kept.ite hk (Kept.ite (illegal_kept hk) (Kept.ite (trap_kept hk)
      (Kept.ite (accessFault_kept hk) ?_)))
    split
    next _ _ _ heq =>
      split
      · split
        next _ _ heq'' =>
          exact retire_kept (Kept.snd heq'' (scratchWrite_kept (Kept.snd heq (scratchRead_kept hk))))
        next _ _ heq'' =>
          exact scratchFault_kept (Kept.snd heq'' (scratchWrite_kept (Kept.snd heq (scratchRead_kept hk))))
      · exact illegal_kept (Kept.snd heq (scratchRead_kept hk))
    next _ _ heq =>
      exact scratchFault_kept (Kept.snd heq (scratchRead_kept hk))
  · exact hk
  · exact hk
  · exact hk

theorem scratchAccess_kept {m : Nat} {op : MemOp} {ups : List Upset} (hk : Kept False n s₀ s) :
    Kept False n s₀ (scratchAccess s m op ups) := by
  dsimp only [scratchAccess]
  refine Kept.opt' (upsets_kept hk) (fun hk' => ?_)
  split
  · exact fetchAccess_kept hk'
  · exact loadAccess_kept hk'
  · exact storeAccess_kept hk'
  · exact atomicAccess_kept hk'

theorem execScratchAccess_kept {m : Nat} {op : MemOp} {ups : List Upset} (hk : Kept False 16 s₀ s) :
    NextKept s₀ (execScratchAccess m op ups s) := by
  dsimp only [execScratchAccess]
  exact atUnit_kept (scratchAccess_kept hk)

theorem checkLane_kept {l : Nat} {levels : List (BitVec 2)} {lost : Bool} (hk : Kept False n s₀ s) :
    Kept False n s₀ (checkLane s l levels lost) := by
  dsimp only [checkLane]
  exact Kept.opt (receiveLine_kept hk) (fun hk' => leafAdd_kept (modLane_kept hk'))

theorem execPatternCheckerLock_kept {lane : Nat} {levels : List (BitVec 2)} {lost : Bool}
    (hk : Kept False 16 s₀ s)
    :
    NextKept s₀ (execPatternCheckerLock lane levels lost s) := by
  dsimp only [execPatternCheckerLock]
  exact atUnit_kept (Kept.ite (checkLane_kept hk) hk)

theorem execWakeSequence_kept {port : Nat} (hk : Kept False 16 s₀ s) :
    NextKept s₀ (execWakeSequence port s) := by
  dsimp only [execWakeSequence]
  exact atUnit_kept (portPower_kept (modPort_kept hk))

theorem execResetNRise_kept (hk : Kept False 16 s₀ s) : NextKept s₀ (execResetNRise s) := by
  dsimp only [execResetNRise]
  exact .next (modRstBlk_kept (modPwrBlk_kept hk))

theorem coalesceEnd_kept {fn : Nat} (hk : Kept False n s₀ s) : Kept False n s₀ (coalesceEnd s fn) := by
  dsimp only [coalesceEnd]
  exact Kept.ite hk (Kept.ite (setRing_kept (emitOut_kept hk)) (setRing_kept hk))

theorem execMbxEvrCoalesceExpiry_kept {fn : Nat} (hk : Kept False 16 s₀ s) :
    NextKept s₀ (execMbxEvrCoalesceExpiry fn s) := by
  dsimp only [execMbxEvrCoalesceExpiry]
  exact atUnit_kept (coalesceEnd_kept hk)

end
end Sys2Proof.Machine

end

section
/-! ## Steps keep the queue, the bounds and the canonical form -/

set_option Elab.async false

namespace Sys2Proof.Machine
open Host
section
variable {n : Nat} {s₀ s t : State}

theorem exec_kept {c : Instr} (hk : Kept False 16 s₀ s) : NextKept s₀ (exec c s) := by
  cases c with
  | sequencerSample => exact execSequencerSample_kept hk
  | boundaryConditionsMet => exact execBoundaryConditionsMet_kept hk
  | courseEnd => exact execCourseEnd_kept hk
  | trowelVerdict => exact execTrowelVerdict_kept hk
  | storeWriteback => exact execStoreWriteback_kept hk
  | staticPreload => exact execStaticPreload_kept hk
  | refreshTimerExpiry => exact execRefreshTimerExpiry_kept hk
  | refreshSweep => exact execRefreshSweep_kept hk
  | refreshSweepEnd => exact execRefreshSweepEnd_kept hk
  | holdingSweep => exact execHoldingSweep_kept hk
  | faultHoldHandling => exact execFaultHoldHandling_kept hk
  | mismatchListExpiry => exact execMismatchListExpiry_kept hk
  | storeSweepRead => exact execStoreSweepRead_kept hk
  | trwRegisterAudit => exact execTrwRegisterAudit_kept hk
  | voteFix => exact execVoteFix_kept hk
  | trowelStop => exact execTrowelStop_kept hk
  | cmdImageLoad => exact execCmdImageLoad_kept hk
  | imageHeader => exact execImageHeader_kept hk
  | imageDescriptor => exact execImageDescriptor_kept hk
  | imageTileBlock => exact execImageTileBlock_kept hk
  | imageSlabBlock => exact execImageSlabBlock_kept hk
  | imageSignatureTable => exact execImageSignatureTable_kept hk
  | imageEndRecord => exact execImageEndRecord_kept hk
  | tileRebind => exact execTileRebind_kept hk
  | loadSilenceTimeout => exact execLoadSilenceTimeout_kept hk
  | cmdImageAbort => exact execCmdImageAbort_kept hk
  | cmdImageReadbackGolden => exact execCmdImageReadbackGolden_kept hk
  | cmdImageReadbackPlanes => exact execCmdImageReadbackPlanes_kept hk
  | cmdChainArm => exact execCmdChainArm_kept hk
  | cmdChainDisarm => exact execCmdChainDisarm_kept hk
  | chainData => exact execChainData_kept hk
  | chainSessionSilence => exact execChainSessionSilence_kept hk
  | chainAbort => exact execChainAbort_kept hk
  | chainPortsRestore => exact execChainPortsRestore_kept hk
  | cmdMemMap => exact execCmdMemMap_kept hk
  | memMapDone => exact execMemMapDone_kept hk
  | cmdMemUnmap => exact execCmdMemUnmap_kept hk
  | designMemoryAccess => exact execDesignMemoryAccess_kept hk
  | farLineRead => exact execFarLineRead_kept hk
  | farLineWrite => exact execFarLineWrite_kept hk
  | tileMemoryReply => exact execTileMemoryReply_kept hk
  | plcEntryRebuild => exact execPlcEntryRebuild_kept hk
  | placementEpochEnd => exact execPlacementEpochEnd_kept hk
  | pageMigrationDone => exact execPageMigrationDone_kept hk
  | cmdPlcPolicy => exact execCmdPlcPolicy_kept hk
  | cmdPlcQuery => exact execCmdPlcQuery_kept hk
  | cmdMemPinPin => exact execCmdMemPinPin_kept hk
  | cmdMemPinExclude => exact execCmdMemPinExclude_kept hk
  | cmdMemPinClear => exact execCmdMemPinClear_kept hk
  | cmdMemPageReset => exact execCmdMemPageReset_kept hk
  | pageResetDone => exact execPageResetDone_kept hk
  | cmdMemRegions => exact execCmdMemRegions_kept hk
  | cmdMemRights => exact execCmdMemRights_kept hk
  | cmdMemDmaAssign => exact execCmdMemDmaAssign_kept hk
  | cmdMemQuarantineRead => exact execCmdMemQuarantineRead_kept hk
  | cmdMemQuarantineRemove => exact execCmdMemQuarantineRemove_kept hk
  | bar4Read => exact execBar4Read_kept hk
  | bar4Write => exact execBar4Write_kept hk
  | mbxDmaDoorbell => exact execMbxDmaDoorbell_kept hk
  | dmaDescriptor => exact execDmaDescriptor_kept hk
  | dmaDescriptorComplete => exact execDmaDescriptorComplete_kept hk
  | mbxDmaRestart => exact execMbxDmaRestart_kept hk
  | lp5xRefresh => exact execLp5xRefresh_kept hk
  | mr4Read => exact execMr4Read_kept hk
  | dqsOscMeasure => exact execDqsOscMeasure_kept hk
  | dqRetrainPause => exact execDqRetrainPause_kept hk
  | channelTrainingDone => exact execChannelTrainingDone_kept hk
  | fullTraining => exact execFullTraining_kept hk
  | fullTrainingDone => exact execFullTrainingDone_kept hk
  | pprSoftRepair => exact execPprSoftRepair_kept hk
  | cmdMemScrub => exact execCmdMemScrub_kept hk
  | cmdMemScrubAbort => exact execCmdMemScrubAbort_kept hk
  | scrubLine => exact execScrubLine_kept hk
  | cmdMemEccDiagWriteFar => exact execCmdMemEccDiagWriteFar_kept hk
  | cmdMemEccDiagReadFar => exact execCmdMemEccDiagReadFar_kept hk
  | cmdMemEccDiagWriteChip => exact execCmdMemEccDiagWriteChip_kept hk
  | cmdMemEccDiagReadChip => exact execCmdMemEccDiagReadChip_kept hk
  | cmdMemRepairList => exact execCmdMemRepairList_kept hk
  | cmdMemRepairRequest => exact execCmdMemRepairRequest_kept hk
  | cmdMemRetain => exact execCmdMemRetain_kept hk
  | cmdMemChStatus => exact execCmdMemChStatus_kept hk
  | cmdHodCreate => exact execCmdHodCreate_kept hk
  | cmdHodDestroy => exact execCmdHodDestroy_kept hk
  | cmdHodFlush => exact execCmdHodFlush_kept hk
  | cmdHodQuery => exact execCmdHodQuery_kept hk
  | cmdHodQueryClear => exact execCmdHodQueryClear_kept hk
  | hodPushWord => exact execHodPushWord_kept hk
  | hodPushMid => exact execHodPushMid_kept hk
  | hodPushFirst => exact execHodPushFirst_kept hk
  | hodPushLast => exact execHodPushLast_kept hk
  | hodPushOnly => exact execHodPushOnly_kept hk
  | hodPop => exact execHodPop_kept hk
  | hodCtlFlush => exact execHodCtlFlush_kept hk
  | cmdPalHandlers => exact execCmdPalHandlers_kept hk
  | cmdPalFlowRead => exact execCmdPalFlowRead_kept hk
  | cmdPalFlowReset => exact execCmdPalFlowReset_kept hk
  | cmdPalPolicy => exact execCmdPalPolicy_kept hk
  | cmdPalStats => exact execCmdPalStats_kept hk
  | palletDispatch => exact execPalletDispatch_kept hk
  | releaseBufferDrain => exact execReleaseBufferDrain_kept hk
  | cmdMsnAssign => exact execCmdMsnAssign_kept hk
  | cmdMsnUnassign => exact execCmdMsnUnassign_kept hk
  | cmdMsnControlStart => exact execCmdMsnControlStart_kept hk
  | cmdMsnControlReset => exact execCmdMsnControlReset_kept hk
  | cmdMsnControlClock => exact execCmdMsnControlClock_kept hk
  | cmdMsnControlPauseTimeout => exact execCmdMsnControlPauseTimeout_kept hk
  | cmdMsnLoad => exact execCmdMsnLoad_kept hk
  | msnLoadDone => exact execMsnLoadDone_kept hk
  | cmdMsnStatus => exact execCmdMsnStatus_kept hk
  | hodPush => exact execHodPush_kept hk
  | hodPushl => exact execHodPushl_kept hk
  | hodPopInstruction => exact execHodPopInstruction_kept hk
  | hodStat => exact execHodStat_kept hk
  | hodWait => exact execHodWait_kept hk
  | hodWaitWake => exact execHodWaitWake_kept hk
  | wfi => exact execWfi_kept hk
  | palGet => exact execPalGet_kept hk
  | palDone => exact execPalDone_kept hk
  | palPusho => exact execPalPusho_kept hk
  | palPushoEntryFree => exact execPalPushoEntryFree_kept hk
  | masonDesignLoad => exact execMasonDesignLoad_kept hk
  | masonDesignStore => exact execMasonDesignStore_kept hk
  | peerWindowAccess => exact execPeerWindowAccess_kept hk
  | counterCsrRead => exact execCounterCsrRead_kept hk
  | mret => exact execMret_kept hk
  | masonPaused => exact execMasonPaused_kept hk
  | masonPauseTimeout => exact execMasonPauseTimeout_kept hk
  | masonSubstitution => exact execMasonSubstitution_kept hk
  | laneTraining => exact execLaneTraining_kept hk
  | laneTrainingDone => exact execLaneTrainingDone_kept hk
  | portBringupTimeout => exact execPortBringupTimeout_kept hk
  | init => exact execInit_kept hk
  | sequencedFlit => exact execSequencedFlit_kept hk
  | ack => exact execAck_kept hk
  | nak => exact execNak_kept hk
  | ackSend => exact execAckSend_kept hk
  | ackTimeout => exact execAckTimeout_kept hk
  | quietEnter => exact execQuietEnter_kept hk
  | quietIdleExpiry => exact execQuietIdleExpiry_kept hk
  | quietWake => exact execQuietWake_kept hk
  | retrainReq => exact execRetrainReq_kept hk
  | laneLockLoss => exact execLaneLockLoss_kept hk
  | codewordBurst => exact execCodewordBurst_kept hk
  | laneErrorWindow => exact execLaneErrorWindow_kept hk
  | linkTimeoutExpiry => exact execLinkTimeoutExpiry_kept hk
  | remoteHodItem => exact execRemoteHodItem_kept hk
  | remoteHodCreditGrant => exact execRemoteHodCreditGrant_kept hk
  | remoteHodSend => exact execRemoteHodSend_kept hk
  | managementMessage => exact execManagementMessage_kept hk
  | cmdLryPortCfg => exact execCmdLryPortCfg_kept hk
  | cmdLryPortStatus => exact execCmdLryPortStatus_kept hk
  | cmdLryLaneTaps => exact execCmdLryLaneTaps_kept hk
  | cmdLryLanePower => exact execCmdLryLanePower_kept hk
  | cmdLryLaneTest => exact execCmdLryLaneTest_kept hk
  | cmdLryLaneWords => exact execCmdLryLaneWords_kept hk
  | injGo => exact execInjGo_kept hk
  | slip => exact execSlip_kept hk
  | cmdLryFwdWrite => exact execCmdLryFwdWrite_kept hk
  | cmdLryFwdRead => exact execCmdLryFwdRead_kept hk
  | cmdLryRouteWrite => exact execCmdLryRouteWrite_kept hk
  | cmdLryRouteRead => exact execCmdLryRouteRead_kept hk
  | cmdLryPortResetRetrain => exact execCmdLryPortResetRetrain_kept hk
  | cmdLryPortResetReset => exact execCmdLryPortResetReset_kept hk
  | cmdLryPortResetClearMarks => exact execCmdLryPortResetClearMarks_kept hk
  | cmdArrOrdinal => exact execCmdArrOrdinal_kept hk
  | cmdArrStream => exact execCmdArrStream_kept hk
  | cmdArrCkptPolicy => exact execCmdArrCkptPolicy_kept hk
  | cmdArrRollbackLocal => exact execCmdArrRollbackLocal_kept hk
  | cmdArrRollbackGlobal => exact execCmdArrRollbackGlobal_kept hk
  | cmdArrCkptExport => exact execCmdArrCkptExport_kept hk
  | cmdArrCkptImport => exact execCmdArrCkptImport_kept hk
  | cmdArrStatus => exact execCmdArrStatus_kept hk
  | jointFrame => exact execJointFrame_kept hk
  | barrierToken => exact execBarrierToken_kept hk
  | checkpointCut => exact execCheckpointCut_kept hk
  | ckptDone => exact execCkptDone_kept hk
  | checkpointMarker => exact execCheckpointMarker_kept hk
  | shadowPop => exact execShadowPop_kept hk
  | replayDone => exact execReplayDone_kept hk
  | resendRequest => exact execResendRequest_kept hk
  | spinePacket => exact execSpinePacket_kept hk
  | epochChange => exact execEpochChange_kept hk
  | oldCountZero => exact execOldCountZero_kept hk
  | domainPowerDown => exact execDomainPowerDown_kept hk
  | drainDone => exact execDrainDone_kept hk
  | drainTimeout => exact execDrainTimeout_kept hk
  | traceRecordWrite => exact execTraceRecordWrite_kept hk
  | cmdSpnProbe => exact execCmdSpnProbe_kept hk
  | cmdSpnTraceControl => exact execCmdSpnTraceControl_kept hk
  | cmdSpnTraceCopy => exact execCmdSpnTraceCopy_kept hk
  | cmdSpnStatus => exact execCmdSpnStatus_kept hk
  | safeWindow => exact execSafeWindow_kept hk
  | safeTimeout => exact execSafeTimeout_kept hk
  | refWindow => exact execRefWindow_kept hk
  | refMissingEdge => exact execRefMissingEdge_kept hk
  | refHoldoverEnd => exact execRefHoldoverEnd_kept hk
  | refRestore => exact execRefRestore_kept hk
  | pllEnable => exact execPllEnable_kept hk
  | pllStable => exact execPllStable_kept hk
  | dividerStep => exact execDividerStep_kept hk
  | fabRampStart => exact execFabRampStart_kept hk
  | sourceSwitch => exact execSourceSwitch_kept hk
  | forcedSwitch => exact execForcedSwitch_kept hk
  | cmdClkFab => exact execCmdClkFab_kept hk
  | cmdClkStatus => exact execCmdClkStatus_kept hk
  | resetNLow => exact execResetNLow_kept hk
  | perstNLow => exact execPerstNLow_kept hk
  | perstNRise => exact execPerstNRise_kept hk
  | cmdRstDieCourse => exact execCmdRstDieCourse_kept hk
  | cmdRstDieFace => exact execCmdRstDieFace_kept hk
  | viasEmpty => exact execViasEmpty_kept hk
  | courseDieCleared => exact execCourseDieCleared_kept hk
  | cmdJobReset => exact execCmdJobReset_kept hk
  | vin48Apply => exact execVin48Apply_kept hk
  | vin48Qualified => exact execVin48Qualified_kept hk
  | railInRange => exact execRailInRange_kept hk
  | vin48Fail => exact execVin48Fail_kept hk
  | pwrEnRise => exact execPwrEnRise_kept hk
  | pwrEnFall => exact execPwrEnFall_kept hk
  | domainClearDone => exact execDomainClearDone_kept hk
  | bootRomStart => exact execBootRomStart_kept hk
  | powerLinkLoss => exact execPowerLinkLoss_kept hk
  | powerTelemetry => exact execPowerTelemetry_kept hk
  | inputPowerMeasure => exact execInputPowerMeasure_kept hk
  | railWarn => exact execRailWarn_kept hk
  | supplyGlitch => exact execSupplyGlitch_kept hk
  | kilnConversion => exact execKilnConversion_kept hk
  | kilnClear => exact execKilnClear_kept hk
  | killAssert => exact execKillAssert_kept hk
  | thermTripEvent => exact execThermTripEvent_kept hk
  | coolingWaitEnd => exact execCoolingWaitEnd_kept hk
  | cmdPwrStateEnter => exact execCmdPwrStateEnter_kept hk
  | deepHoldDemotionDone => exact execDeepHoldDemotionDone_kept hk
  | cmdPwrStateWake => exact execCmdPwrStateWake_kept hk
  | wakeRestore => exact execWakeRestore_kept hk
  | cmdPwrStatus => exact execCmdPwrStatus_kept hk
  | cmdKlnStatus => exact execCmdKlnStatus_kept hk
  | mbxDoorbell => exact execMbxDoorbell_kept hk
  | mbxDoneClear => exact execMbxDoneClear_kept hk
  | commandTaken => exact execCommandTaken_kept hk
  | mbxTimeout => exact execMbxTimeout_kept hk
  | mbxEvrEnable => exact execMbxEvrEnable_kept hk
  | mbxEvrTail => exact execMbxEvrTail_kept hk
  | flrVf => exact execFlrVf_kept hk
  | flrPf0 => exact execFlrPf0_kept hk
  | cmdIdentify => exact execCmdIdentify_kept hk
  | cmdDevStatus => exact execCmdDevStatus_kept hk
  | cmdDevStatusClearAlert => exact execCmdDevStatusClearAlert_kept hk
  | cmdTileStatus => exact execCmdTileStatus_kept hk
  | cmdJobStatus => exact execCmdJobStatus_kept hk
  | cmdEventLog => exact execCmdEventLog_kept hk
  | bulkTransferDone => exact execBulkTransferDone_kept hk
  | cmdFwUpdate => exact execCmdFwUpdate_kept hk
  | fwUpdateDone => exact execFwUpdateDone_kept hk
  | cmdFwActivate => exact execCmdFwActivate_kept hk
  | cmdFwActivateResetNow => exact execCmdFwActivateResetNow_kept hk
  | trialTimeout => exact execTrialTimeout_kept hk
  | cmdRunHold => exact execCmdRunHold_kept hk
  | cmdRunResume => exact execCmdRunResume_kept hk
  | cmdRunResets => exact execCmdRunResets_kept hk
  | cmdTrigGrant => exact execCmdTrigGrant_kept hk
  | cmdTrigRelease => exact execCmdTrigRelease_kept hk
  | cmdJobCreate => exact execCmdJobCreate_kept hk
  | cmdJobDestroy => exact execCmdJobDestroy_kept hk
  | cmdSpareStatus => exact execCmdSpareStatus_kept hk
  | cmdBistRun => exact execCmdBistRun_kept hk
  | bistDone => exact execBistDone_kept hk
  | cmdSweepPolicy => exact execCmdSweepPolicy_kept hk
  | cmdRepairMap => exact execCmdRepairMap_kept hk
  | sweepSlot => exact execSweepSlot_kept hk
  | sweepTestsDone => exact execSweepTestsDone_kept hk
  | relocationCopy => exact execRelocationCopy_kept hk
  | spareSwitch => exact execSpareSwitch_kept hk
  | bedRowSpare => exact execBedRowSpare_kept hk
  | efuseBurn => exact execEfuseBurn_kept hk
  | rollLeaf => exact execRollLeaf_kept hk
  | earlyRoll => exact execEarlyRoll_kept hk
  | cmdTelRead => exact execCmdTelRead_kept hk
  | cmdTelClear => exact execCmdTelClear_kept hk
  | cmdCaptureCfg => exact execCmdCaptureCfg_kept hk
  | cmdCaptureCtlArm => exact execCmdCaptureCtlArm_kept hk
  | cmdCaptureCtlTrigger => exact execCmdCaptureCtlTrigger_kept hk
  | cmdCaptureCtlStop => exact execCmdCaptureCtlStop_kept hk
  | cmdCaptureCtlDisarm => exact execCmdCaptureCtlDisarm_kept hk
  | cmdCaptureRead => exact execCmdCaptureRead_kept hk
  | pcieLinkTraining => exact execPcieLinkTraining_kept hk
  | pmbusReadingRefresh => exact execPmbusReadingRefresh_kept hk
  | page => exact execPage_kept hk
  | clearFaults => exact execClearFaults_kept hk
  | capability => exact execCapability_kept hk
  | voutMode => exact execVoutMode_kept hk
  | statusByte => exact execStatusByte_kept hk
  | statusWord => exact execStatusWord_kept hk
  | statusVout => exact execStatusVout_kept hk
  | statusInput => exact execStatusInput_kept hk
  | statusTemperature => exact execStatusTemperature_kept hk
  | statusMfrSpecific => exact execStatusMfrSpecific_kept hk
  | readVin => exact execReadVin_kept hk
  | readIin => exact execReadIin_kept hk
  | readVout => exact execReadVout_kept hk
  | readIout => exact execReadIout_kept hk
  | readTemperature1 => exact execReadTemperature1_kept hk
  | readPin => exact execReadPin_kept hk
  | pmbusRevision => exact execPmbusRevision_kept hk
  | mfrId => exact execMfrId_kept hk
  | mfrModel => exact execMfrModel_kept hk
  | mfrRevision => exact execMfrRevision_kept hk
  | mfrKlnStatus => exact execMfrKlnStatus_kept hk
  | mfrEvent => exact execMfrEvent_kept hk
  | pmbusUnsupported code => exact execPmbusUnsupported_kept (_code := code) hk
  | trstNLow => exact execTrstNLow_kept hk
  | extest => exact execExtest_kept hk
  | samplePreload => exact execSamplePreload_kept hk
  | idcode => exact execIdcode_kept hk
  | clamp => exact execClamp_kept hk
  | highz => exact execHighz_kept hk
  | bypass => exact execBypass_kept hk
  | dbgAccess => exact execDbgAccess_kept hk
  | registerWrite => exact execRegisterWrite_kept hk
  | scratchAccess => exact execScratchAccess_kept hk
  | patternCheckerLock => exact execPatternCheckerLock_kept hk
  | wakeSequence => exact execWakeSequence_kept hk
  | resetNRise => exact execResetNRise_kept hk
  | mbxEvrCoalesceExpiry => exact execMbxEvrCoalesceExpiry_kept hk

theorem Kept.bounded (h : Kept False 16 s t) (hb : Machine.bounded s = true) : Machine.bounded t = true := by
  simp only [Machine.bounded, Bool.and_eq_true, decide_eq_true_eq] at hb ⊢
  obtain ⟨⟨⟨hlog, hacc⟩, hmap⟩, hlink⟩ := hb
  exact ⟨⟨⟨h.log hlog, h.accepted hacc⟩, h.map hmap⟩, h.linkEvs hlink⟩

theorem Kept.memoryWf (h : Kept False 16 s t) (hw : Machine.memoryWf s = true) : Machine.memoryWf t = true := by
  simp only [Machine.memoryWf, Bool.and_eq_true] at hw ⊢
  exact ⟨h.near hw.1, h.far hw.2⟩

/-- A step is an idle microsecond, or a command on the state with the rest of the queue. -/
theorem step_kept (e : step s = .next t) : ∃ q, Kept False 16 { s with pending := q } t := by
  unfold step at e
  split at e
  · next hq =>
    cases e
    exact ⟨s.pending, tick_kept (.refl s)⟩
  · next c rest hq => exact ⟨rest, exec_kept (.refl _) t e⟩

end

/-- Settles O3. -/
theorem commandsLeaveTheQueue : Obligations.CommandsLeaveTheQueue := by
  unfold Obligations.CommandsLeaveTheQueue
  exact fun _ s t e => (exec_kept (.refl s) t e).pending

/-- Settles O4: a step keeps each bound by itself, so the four of R467, R455, R479 and Table 18-7 together. -/
theorem stepKeepsBounds : Obligations.StepKeepsBounds := by
  unfold Obligations.StepKeepsBounds
  intro s t hb e
  obtain ⟨q, h⟩ := step_kept e
  exact h.bounded hb

/-- Settles O5: near-frame words and far lines are written by `mapPut` and `mapDel` alone, or emptied. -/
theorem stepKeepsMemoryForm : Obligations.StepKeepsMemoryForm := by
  unfold Obligations.StepKeepsMemoryForm
  intro s t hw e
  obtain ⟨q, h⟩ := step_kept e
  exact h.memoryWf hw

/-- Settles O6. -/
theorem resetMeetsInvariants : Obligations.ResetMeetsInvariants := by
  unfold Obligations.ResetMeetsInvariants
  exact ⟨rfl, rfl⟩

/-- Settles O1. -/
theorem stepRunsFrontCommand : Obligations.StepRunsFrontCommand := by
  unfold Obligations.StepRunsFrontCommand
  exact fun _ _ _ => rfl

end Sys2Proof.Machine

end

section
/-! ## Requests and responses -/

set_option Elab.async false

namespace Sys2Proof.Machine
open Host

/-! ## Requests that fail their head checks -/

/-- Settles O7: every command row is `runCmd` of its own request, which answers before its body runs. -/
theorem turnedAwayCommandsOnlyAnswer : Obligations.TurnedAwayCommandsOnlyAnswer := by
  unfold Obligations.TurnedAwayCommandsOnlyAnswer
  intro c h op who need st s hr hc
  cases c <;> cases hr <;> exact congrArg Outcome.next (runCmd_of_failing hc)

/-! ## The response message (Table 15-6) -/

theorem leNat_leBytes_append {n v : Nat} {bs : List Byte} (hv : v < 256 ^ n) :
    leNat (leBytes n v ++ bs) = v + 256 ^ n * leNat bs := by
  induction n generalizing v with
  | zero => simp [leBytes, Nat.lt_one_iff.mp hv]
  | succ n ih =>
    have hdiv : v / 256 < 256 ^ n := Nat.div_lt_of_lt_mul (by rwa [pow_succ'] at hv)
    rw [leBytes, List.cons_append, leNat, ih hdiv, BitVec.toNat_ofNat, pow_succ' 256, Nat.mul_add, Nat.mul_assoc]
    omega

/-- A field that lies within a word is that of the number it was made of. -/
theorem field_ofNat {w v hi lo : Nat} (h : hi < w) : field (BitVec.ofNat w v).toNat hi lo = field v hi lo := by
  refine Nat.eq_of_testBit_eq fun i => ?_
  rw [testBit_field, testBit_field, BitVec.toNat_ofNat, Nat.testBit_mod_two_pow]
  by_cases hi' : i < hi + 1 - lo
  · simp [show lo + i < w by omega]
  · simp [hi']

theorem stCode_lt (st : St) : stCode st < 65536 := by cases st <;> decide

/-- Opcode, tag and status stand in the first three half-words. -/
theorem rspBytes_fields {op : Nat} (tag : BitVec 16) (st : St) (j : Nat) (pl : List Byte) (hop : op < 65536) :
    field (leNat (rspBytes op tag st j pl)) 15 0 = op ∧
    field (leNat (rspBytes op tag st j pl)) 31 16 = tag.toNat ∧
    field (leNat (rspBytes op tag st j pl)) 47 32 = stCode st := by
  have hst := stCode_lt st
  have htag := tag.isLt
  simp only [rspBytes, List.append_assoc]
  rw [leNat_leBytes_append (by simpa using hop), leNat_leBytes_append (by simpa using htag),
    leNat_leBytes_append (by simpa using hst)]
  simp only [field]
  omega

/-- The four mailboxes of a function have keys of their own. -/
theorem mbxKey_inj {fn m fn' m' : Nat} (hm : m < 4) (hm' : m' < 4) (e : mbxKey fn m = mbxKey fn' m') :
    (fn, m) = (fn', m') := by
  simp only [mbxKey] at e
  exact Prod.ext (by omega) (by omega)

/-- Settles O8. -/
theorem responseReachesItsMailbox : Obligations.ResponseReachesItsMailbox := by
  unfold Obligations.ResponseReachesItsMailbox
  intro s h op st pl he hop hm t b
  obtain ⟨hopf, htagf, hstf⟩ := rspBytes_fields h.tag st h.job pl hop
  have ht : t = emitOut (modMbx s h.fn h.mbx fun m =>
      { m with rsp := BitVec.ofNat 2048 (leNat (rspBytes op h.tag st h.job pl)),
               busy := false, done := true }) (.msix h.fn 1) := respondJ_eq he
  have hb : b = { mbxOf s h.fn h.mbx with
      rsp := BitVec.ofNat 2048 (leNat (rspBytes op h.tag st h.job pl)), busy := false, done := true } := by
    simp only [b, ht]
    exact mbxOf_modMbx_same s h.fn h.mbx _
  have hother : ∀ fn m, m < 4 → (fn, m) ≠ (h.fn, h.mbx) → mbxOf t fn m = mbxOf s fn m := by
    intro fn m hm' hne
    rw [ht]
    exact mbxOf_modMbx_other s _ _ _ _ _ fun e => hne (mbxKey_inj hm' hm e)
  refine ⟨?_, ?_, ?_, ?_, ?_, ?_, hother, ?_, ?_⟩
  · rw [hb]
  · rw [hb]
  · rw [hb, field_ofNat (by omega), hopf]
  · rw [hb, field_ofNat (by omega), htagf]
  · change field b.rsp.toNat 47 32 = stCode st
    rw [hb, field_ofNat (by omega), hstf]
  · rw [hb]
  · rw [ht]; rfl
  · rw [ht]; rfl

end Sys2Proof.Machine

end

section
/-! ## Rows that leave the machine as it was: reads, and the board side -/

set_option Elab.async false

namespace Sys2Proof.Machine
open Host

/-! ## What a read leaves alone

`onlyHost` as a frame: reflexive, transitive, kept by a fold and by the checks of a command. -/

theorem onlyHost_iff {s t : State} :
    onlyHost s t ↔ ∃ hif ctr out, t = { s with hif := hif, freeCtr := ctr, out := out } := by
  constructor
  · intro h
    exact ⟨_, _, _, h⟩
  · rintro ⟨_, _, _, rfl⟩
    rfl

section
variable {s t u : State}

theorem onlyHost.refl (s : State) : onlyHost s s := rfl

theorem onlyHost.trans (h : onlyHost s t) (g : onlyHost t u) : onlyHost s u := by
  obtain ⟨_, _, _, rfl⟩ := onlyHost_iff.1 h
  obtain ⟨_, _, _, rfl⟩ := onlyHost_iff.1 g
  rfl

theorem HostFrame.onlyHost (h : HostFrame s t) : onlyHost s t := by
  obtain ⟨_, _, rfl⟩ := h
  rfl

theorem onlyHost.ite {c : Prop} [Decidable c] (ht : onlyHost s t) (hu : onlyHost s u) :
    onlyHost s (if c then t else u) := by
  split <;> assumption

/-- A fold over a list that carries a value beside the state. -/
theorem onlyHost.foldl_snd {α β : Type} {f : α × State → β → α × State} (hf : ∀ acc b, onlyHost acc.2 (f acc b).2) :
    ∀ (l : List β) (acc : α × State), onlyHost acc.2 (l.foldl f acc).2
  | [], acc => .refl acc.2
  | b :: l, acc => (hf acc b).trans (onlyHost.foldl_snd hf l (f acc b))

theorem onlyHost.answer {h : Hdr} {op : Nat} {pl : List Byte} (ht : onlyHost s t) :
    onlyHost s (answer t h op pl) := ht.trans (answer_frame t h op pl).onlyHost

theorem onlyHost.fail {h : Hdr} {op : Nat} {st : St} (ht : onlyHost s t) : onlyHost s (fail t h op st) :=
  ht.trans (fail_frame t h op st).onlyHost

theorem onlyHost.respond {h : Hdr} {op : Nat} {st : St} {pl : List Byte} (ht : onlyHost s t) :
    onlyHost s (respond t h op st pl) := ht.trans (respond_frame t h op st pl).onlyHost

theorem onlyHost.accept {h : Hdr} {op : Nat} {args : List Nat} {f : State → State} (ht : onlyHost s t)
    (hf : onlyHost t (f t)) : onlyHost s (accept t h op args f) := by
  rw [Machine.accept]
  exact .ite ht.fail ((ht.trans hf).trans (.respond (onlyHost_iff.2 ⟨_, _, _, rfl⟩)))

theorem onlyHost.bulkOut {h : Hdr} {op : Nat} {b : Bulk} {rs : List (List Byte)} (ht : onlyHost s t) :
    onlyHost s (bulkOut t h op b rs) := by
  rw [Machine.bulkOut]
  split
  · exact ht.respond
  · exact ht.accept (emitOut_frame _ _).onlyHost

theorem runCmd_onlyHost {h : Hdr} {op : Nat} {who : From} {need : Bool} {body : Nat → State}
    (hb : ∀ j, onlyHost s (body j)) : onlyHost s (runCmd s h op who need body) := by
  rw [runCmd]
  split
  · exact (onlyHost.refl s).respond
  · exact hb _

theorem smbusRead_onlyHost (bs : List Byte) : onlyHost s (smbusRead s bs) :=
  .ite (emitOut_frame _ _).onlyHost (.refl s)

theorem onlyHost_next (h : onlyHost s u) (e : Outcome.next (φ := Fault) (ρ := Refusal) u = .next t) :
    onlyHost s t := by
  cases e
  exact h

end

/-! ## Read rows that do more than answer -/

theorem planeRun_onlyHost (j first count : Nat) (acc : List Byte × State) (vt : Nat) :
    onlyHost acc.2 (planeRun j first count acc vt).2 := by
  rw [planeRun]
  split
  · exact .refl acc.2
  · refine onlyHost.foldl_snd (fun row i => ?_) _ _
    split
    · exact onlyHost_iff.2 ⟨_, _, _, rfl⟩
    · exact .refl row.2

theorem fuseEntry_onlyHost (acc : List (List Byte) × State) (r : Repair) :
    onlyHost acc.2 (fuseEntry acc r).2 := by
  obtain ⟨_, h⟩ := fuseEntry_frame acc r
  rw [h]
  exact onlyHost_iff.2 ⟨_, _, _, rfl⟩

/-! ## The rows -/

section
variable {c : Instr} {s t : State} {h : Hdr} {op : Nat} {who : From} {need : Bool} {body : Nat → State}

theorem onlyHost_of_cmd (e : exec c s = .next t) (hc : exec c s = .next (runCmd s h op who need body))
    (hb : ∀ j, onlyHost s (body j)) : onlyHost s t := by
  rw [hc] at e
  cases e
  exact runCmd_onlyHost hb

/-- The PMBus commands that read. -/
def pmbusRead : Instr → Bool
  | .capability | .voutMode | .statusByte | .statusWord | .statusVout | .statusInput
  | .statusTemperature | .statusMfrSpecific | .readVin | .readIin | .readVout | .readIout
  | .readTemperature1 | .readPin | .pmbusRevision | .mfrId | .mfrModel | .mfrRevision | .mfrKlnStatus
  | .mfrEvent => true
  | _ => false

theorem exec_of_pmbusRead (hp : pmbusRead c = true) : ∃ bs, exec c s = .next (smbusRead s bs) := by
  cases c <;> cases hp <;> exact ⟨_, rfl⟩

theorem pmbusRead_onlyHost (hp : pmbusRead c = true) (e : exec c s = .next t) : onlyHost s t := by
  obtain ⟨bs, hc⟩ := exec_of_pmbusRead (s := s) hp
  rw [hc] at e
  cases e
  exact smbusRead_onlyHost bs

/-- Each other read row answers what it reads, or refuses. -/
theorem readRow_onlyHost (hr : readsOnly c = true) (hp : pmbusRead c = false) (e : exec c s = .next t) :
    onlyHost s t := by
  have here : onlyHost s s := .refl s
  cases c with
  | cmdArrStatus => exact onlyHost_of_cmd e rfl fun _ => here.answer
  | cmdDevStatus => exact onlyHost_of_cmd e rfl fun _ => here.answer
  | cmdIdentify => exact onlyHost_of_cmd e rfl fun _ => here.answer
  | cmdJobStatus => exact onlyHost_of_cmd e rfl fun _ => here.answer
  | cmdKlnStatus => exact onlyHost_of_cmd e rfl fun _ => here.answer
  | cmdMemQuarantineRead => exact onlyHost_of_cmd e rfl fun _ => here.answer
  | cmdMemRepairList => exact onlyHost_of_cmd e rfl fun _ => here.answer
  | cmdPwrStatus => exact onlyHost_of_cmd e rfl fun _ => here.answer
  | cmdSpareStatus => exact onlyHost_of_cmd e rfl fun _ => here.answer
  | cmdSpnStatus => exact onlyHost_of_cmd e rfl fun _ => here.answer
  | cmdLryPortStatus => exact onlyHost_of_cmd e rfl fun _ => here.fail.ite here.answer
  | cmdLryRouteRead => exact onlyHost_of_cmd e rfl fun _ => here.fail.ite here.answer
  | cmdMemChStatus => exact onlyHost_of_cmd e rfl fun _ => here.fail.ite here.answer
  | cmdMemEccDiagReadChip => exact onlyHost_of_cmd e rfl fun _ => here.fail.ite here.answer
  | cmdPalFlowRead => exact onlyHost_of_cmd e rfl fun _ => here.fail.ite here.answer
  | cmdPalStats => exact onlyHost_of_cmd e rfl fun _ => here.fail.ite here.answer
  | cmdMsnStatus => exact onlyHost_of_cmd e rfl fun _ => here.fail.ite (here.fail.ite here.answer)
  | cmdCaptureRead => exact onlyHost_of_cmd e rfl fun _ => here.fail.ite (here.fail.ite here.bulkOut)
  | cmdSpnTraceCopy => exact onlyHost_of_cmd e rfl fun _ => here.fail.ite (here.fail.ite here.bulkOut)
  | cmdHodQuery =>
    refine onlyHost_of_cmd e rfl fun _ => ?_
    split
    · exact here.fail
    · exact here.answer
  | cmdEventLog =>
    refine onlyHost_of_cmd e rfl fun _ => ?_
    split
    · exact here.respond
    · exact here.accept (emitOut_frame _ _).onlyHost
  | cmdImageReadbackGolden =>
    refine onlyHost_of_cmd e rfl fun _ => ?_
    split
    · exact here.respond
    · split
      · exact here.fail
      · exact here.fail.ite (here.fail.ite (here.accept (emitOut_frame _ _).onlyHost))
  | cmdImageReadbackPlanes =>
    refine onlyHost_of_cmd e rfl fun _ => ?_
    dsimp only
    split
    · exact here.respond
    · refine here.fail.ite (here.fail.ite (here.accept ?_))
      exact (onlyHost.foldl_snd (planeRun_onlyHost _ _ _) _ ([], s)).trans (emitOut_frame _ _).onlyHost
  | cmdMemEccDiagReadFar =>
    refine onlyHost_of_cmd e rfl fun _ => ?_
    split
    · exact here.fail
    · exact here.fail.ite (.ite (onlyHost.answer (onlyHost_iff.2 ⟨_, _, _, rfl⟩)) here.answer)
  | cmdRepairMap =>
    exact onlyHost_of_cmd e rfl fun _ => (onlyHost.foldl_snd fuseEntry_onlyHost s.spr.fuses ([], s)).bulkOut
  | _ => cases hr <;> cases hp

end

/-! ## The two queries whose reads are corrected -/

/-- Design memory's tables, the host interface and what is driven outward. -/
def MemHost (s t : State) : Prop := ∃ mem hif out, t = { s with mem := mem, hif := hif, out := out }

section
variable {s t u : State}

theorem MemHost.refl (s : State) : MemHost s s := ⟨_, _, _, rfl⟩

theorem MemHost.trans (h : MemHost s t) (g : MemHost t u) : MemHost s u := by
  obtain ⟨_, _, _, rfl⟩ := h
  obtain ⟨_, _, _, rfl⟩ := g
  exact ⟨_, _, _, rfl⟩

theorem HostFrame.memHost (h : HostFrame s t) : MemHost s t := by
  obtain ⟨_, _, rfl⟩ := h
  exact ⟨_, _, _, rfl⟩

theorem MemHost.foldl {α : Type} {f : State → α → State} (hf : ∀ s a, MemHost s (f s a)) :
    ∀ (l : List α) (s : State), MemHost s (l.foldl f s)
  | [], s => .refl s
  | a :: l, s => (hf s a).trans (MemHost.foldl hf l (f s a))

theorem fetchEntry_memHost (s : State) (p : Nat) : MemHost s (fetchEntry s p).2 := by
  rw [fetchEntry]
  split
  · exact .refl s
  · extract_lets m clear
    split
    · exact .refl s
    · split
      · exact ⟨_, _, _, rfl⟩
      · exact MemHost.trans (t := modMemBlk s fun x => { x with stalled := p :: x.stalled }) ⟨_, _, _, rfl⟩
          (emitDev_frame _ _ _).memHost

theorem readEntry_memHost (s : State) (p : Nat) : MemHost s (readEntry s p).2 := by
  have hf := fetchEntry_memHost s p
  rw [readEntry]
  rcases hr : fetchEntry s p with ⟨ok, t⟩
  rw [hr] at hf
  refine hf.trans ?_
  dsimp only
  split
  · exact .refl t
  · exact ⟨_, _, _, rfl⟩

end

theorem cmdPlcQuery_memHost {s t : State} {h : Hdr} {first count : Nat}
    (e : exec (.cmdPlcQuery h first count) s = .next t) : MemHost s t := by
  cases e
  rw [runCmd]
  split
  · exact (respond_frame _ _ _ _ _).memHost
  · dsimp only
    split
    · exact (fail_frame _ _ _ _).memHost
    · split
      · exact (fail_frame _ _ _ _).memHost
      · exact (MemHost.foldl (fun s p => readEntry_memHost s p) _ s).trans (answer_frame _ _ _ _).memHost

/-- Larey, the host interface and what is driven outward. -/
def LareyHost (s t : State) : Prop := ∃ lry hif out, t = { s with lry := lry, hif := hif, out := out }

theorem LareyHost.refl (s : State) : LareyHost s s := ⟨_, _, _, rfl⟩

theorem LareyHost.trans {s t u : State} (h : LareyHost s t) (g : LareyHost t u) : LareyHost s u := by
  obtain ⟨_, _, _, rfl⟩ := h
  obtain ⟨_, _, _, rfl⟩ := g
  exact ⟨_, _, _, rfl⟩

theorem HostFrame.lareyHost {s t : State} (h : HostFrame s t) : LareyHost s t := by
  obtain ⟨_, _, rfl⟩ := h
  exact ⟨_, _, _, rfl⟩

theorem readFwds_lareyHost : ∀ (is : List Nat) (acc : List Byte × State),
    LareyHost acc.2 (is.foldl readFwd acc).2
  | [], acc => .refl acc.2
  | i :: is, acc => by
    have hread : LareyHost acc.2 (readFwd acc i).2 := by
      obtain ⟨_, _, _, _, _, hentry⟩ := fwdRead_frame acc.2 i
      simp only [readFwd, hentry]
      exact ⟨_, _, _, rfl⟩
    rw [List.foldl_cons]
    exact hread.trans (readFwds_lareyHost is (readFwd acc i))

theorem cmdLryFwdRead_lareyHost {s t : State} {h : Hdr} {streams : List Nat}
    (e : exec (.cmdLryFwdRead h streams) s = .next t) : LareyHost s t := by
  cases e
  rw [runCmd]
  split
  · exact (respond_frame _ _ _ _ _).lareyHost
  · dsimp only
    split
    · exact (fail_frame _ _ _ _).lareyHost
    · exact (readFwds_lareyHost streams ([], s)).trans (answer_frame _ _ _ _).lareyHost

/-- Settles O12. -/
theorem readsChangeOnlyTheHostInterface : Obligations.ReadsChangeOnlyTheHostInterface := by
  unfold Obligations.ReadsChangeOnlyTheHostInterface
  refine ⟨fun c s t hr e => ?rows, fun s h first count t e => ?entries, fun s h is t e => ?forwarding⟩
  case rows =>
    cases hp : pmbusRead c with
    | true => exact pmbusRead_onlyHost hp e
    | false => exact readRow_onlyHost hr hp e
  case entries =>
    obtain ⟨_, _, _, rfl⟩ := cmdPlcQuery_memHost e
    rfl
  case forwarding =>
    obtain ⟨_, _, _, rfl⟩ := cmdLryFwdRead_lareyHost e
    rfl

/-! ## The board side -/

/-- The HV controller, the TAP, free values and what is driven outward. -/
def BoardFrame (s t : State) : Prop :=
  ∃ hv jtag ctr out, t = { s with hv := hv, jtag := jtag, freeCtr := ctr, out := out }

section
variable {s : State}

theorem BoardFrame.refl (s : State) : BoardFrame s s := ⟨_, _, _, _, rfl⟩

theorem BoardFrame.ite {c : Prop} [Decidable c] {t u : State} (ht : BoardFrame s t) (hu : BoardFrame s u) :
    BoardFrame s (if c then t else u) := by
  split <;> assumption

theorem smbusRead_boardFrame (bs : List Byte) : BoardFrame s (smbusRead s bs) :=
  .ite ⟨_, _, _, _, rfl⟩ (.refl s)

theorem smbusNack_boardFrame : BoardFrame s (smbusNack s) := .ite ⟨_, _, _, _, rfl⟩ (.refl s)

theorem scanIr_boardFrame (ir : BitVec 8) : BoardFrame s (scanIr s ir) := .ite (.refl s) ⟨_, _, _, _, rfl⟩

/-- An instruction whose data register is loaded besides. -/
theorem scanDr_boardFrame {t u : State} {ir : BitVec 8} (h : BoardFrame s t)
    (hu : u = { scanIr t ir with jtag := u.jtag, out := u.out }) : BoardFrame s u := by
  obtain ⟨_, _, _, _, rfl⟩ := h
  obtain ⟨_, _, _, _, he⟩ := scanIr_boardFrame (s := { s with hv := _, jtag := _, freeCtr := _, out := _ }) ir
  rw [hu, he]
  exact ⟨_, _, _, _, rfl⟩

end

/-- Every other row of the board side. -/
theorem boardRow_boardFrame {c : Instr} {s t : State} (hb : boardRow c = true) (hp : pmbusRead c = false)
    (e : exec c s = .next t) : BoardFrame s t := by
  cases c with
  | page value =>
    cases e
    split
    · exact smbusRead_boardFrame _
    · exact .ite (.refl s) (.ite ⟨_, _, _, _, rfl⟩ smbusNack_boardFrame)
  | clearFaults =>
    cases e
    exact .ite ⟨_, _, _, _, rfl⟩ (.refl s)
  | pmbusReadingRefresh =>
    cases e
    exact .ite ⟨_, _, _, _, rfl⟩ (.refl s)
  | pmbusUnsupported =>
    cases e
    exact smbusNack_boardFrame
  | trstNLow =>
    cases e
    exact ⟨_, _, _, _, rfl⟩
  | extest =>
    cases e
    exact scanIr_boardFrame _
  | clamp =>
    cases e
    exact scanIr_boardFrame _
  | highz =>
    cases e
    exact scanIr_boardFrame _
  | bypass =>
    cases e
    exact scanIr_boardFrame _
  | samplePreload =>
    cases e
    exact .ite (.refl s) (scanDr_boardFrame (t := (takeFree s 128).2) ⟨_, _, _, _, rfl⟩ rfl)
  | idcode =>
    cases e
    exact .ite (.refl s) (scanDr_boardFrame (.refl s) rfl)
  | _ => cases hb <;> cases hp

/-- Settles O19. -/
theorem boardSideStaysOutside : Obligations.BoardSideStaysOutside := by
  unfold Obligations.BoardSideStaysOutside
  intro c s t hb e
  have h : BoardFrame s t := by
    cases hp : pmbusRead c with
    | true =>
      obtain ⟨bs, hc⟩ := exec_of_pmbusRead (s := s) hp
      rw [hc] at e
      cases e
      exact smbusRead_boardFrame bs
    | false => exact boardRow_boardFrame hb hp e
  obtain ⟨_, _, _, _, rfl⟩ := h
  rfl

end Sys2Proof.Machine

end

section
/-! ## Event rings and the PMBus rows -/

set_option Elab.async false

namespace Sys2Proof.Machine
open Host

/-! ## Event rings (R465) -/

theorem enableRing_of_disabled {s : State} {fn : Nat} (he : (ringOf s fn).en = false) :
    enableRing s fn = setRing s fn { ringOf s fn with
      en := true, head := 0, tail := 0, lost := 0, lostSince := 0, phase := true, waiting := false,
      running := false } := by
  simp [enableRing, he]

theorem exec_mbxEvrEnable {s : State} {fn : Nat} (hfn : fn ≤ 8) (hup : s.hif.linkUp = true) :
    exec (.mbxEvrEnable fn) s = .next (enableRing s fn) := by
  change atUnit _ _ = _
  rw [atUnit_of_true (decide_eq_true hfn), if_pos hup]

/-- Neither LOG2 nor BASE of an enabled ring is written with its other control fields. -/
theorem writeRingCtl_keeps {s : State} {fn : Nat} (w : BitVec 64 × BitVec 64) (he : (ringOf s fn).en = true) :
    (ringOf (writeRingCtl s fn w) fn).log2 = (ringOf s fn).log2 ∧
    (ringOf (writeRingCtl s fn w) fn).base = (ringOf s fn).base := by
  simp only [writeRingCtl, he]
  split
  · simp [enableRing]
  · simp

/-- Settles O14. -/
theorem eventRingPhase : Obligations.EventRingPhase := by
  unfold Obligations.EventRingPhase
  refine ⟨fun s fn hfn hup he => ?enable, fun s fn size v he => ?enabled, fun s fn e i => ?record⟩
  case enable =>
    refine ⟨_, exec_mbxEvrEnable hfn hup, ?_⟩
    simp [enableRing_of_disabled he]
  case enabled => exact ⟨by simp [writeRing, he], writeRingCtl_keeps _ he⟩
  case record => exact ⟨rfl, by simp [ringStep], by simp [ringStep]⟩

/-! ## SMBus (R531, R532) -/

theorem smbusRead_of_on {s : State} (h : s.pwr.smbusOn = true) (bs : List Byte) :
    smbusRead s bs = { s with out := .smbus bs :: s.out } := if_pos h

theorem smbusNack_of_on {s : State} (h : s.pwr.smbusOn = true) :
    smbusNack s = { s with hv := { s.hv with cml := true }, out := .smbusNack :: s.out } := if_pos h

theorem exec_of_smbusRead {c : Instr} {s : State} {bs : List Byte} (h : s.pwr.smbusOn = true)
    (hc : exec c s = .next (smbusRead s bs)) : exec c s = .next { s with out := .smbus bs :: s.out } := by
  rw [hc, smbusRead_of_on h]

/-- The currents, cast one by one, read as the current that is cast. -/
theorem listAt_bind_cast (l : List Nat) (i : Nat) :
    listAt (do let a ← l; pure (a : Int)) 0 i = Int.ofNat (listAt l 0 i) := by
  rw [show (do let a ← l; pure (a : Int)) = l.map Int.ofNat from List.flatMap_pure_eq_map _ l]
  simp only [listAt, List.getD_eq_getElem?_getD, List.getElem?_map]
  cases l[i]? <;> rfl

theorem exec_readIout (s : State) : exec .readIout s =
    .next (smbusRead s (leBytes 2 (linear11 (listAt s.hv.rMa 0 s.hv.page : Int) 1000))) := by
  rw [listAt_bind_cast]
  rfl

/-- Settles O15. PAGE above 8 answered with NACK and a block's length byte before its bytes are the model's
choice (log 105), as are the two bytes of code and two of time of each MFR_EVENT entry (log 106). -/
theorem pmbusRowsAct : Obligations.PmbusRowsAct := by
  unfold Obligations.PmbusRowsAct
  intro s hon
  refine ⟨?reads, fun s v hon hv => ?page, fun s v hon hv => ?badPage, fun s hon => ?readPage,
    fun s hon => ?clear, fun s hon => ?refresh, fun s c hon => ?unsupported⟩
  case reads =>
    intro kl hot p
    revert p
    have hread {c : Instr} {bs : List Byte} (hc : exec c s = .next (smbusRead s bs)) := exec_of_smbusRead hon hc
    simp only [List.forall_mem_cons, List.not_mem_nil, false_imp_iff, implies_true, and_true]
    exact ⟨hread rfl, hread rfl, hread rfl, hread rfl, hread rfl, hread rfl, hread rfl, hread rfl, hread rfl,
      hread rfl, hread rfl, hread rfl, hread rfl, hread (exec_readIout s), hread rfl, hread rfl, hread rfl,
      hread rfl, hread rfl, hread rfl⟩
  case page =>
    change Outcome.next _ = _
    simp [hon, hv, modHvBlk]
  case badPage =>
    change Outcome.next _ = _
    simp [hon, Nat.not_le.2 hv, smbusNack_of_on hon]
  case readPage => exact congrArg Outcome.next (smbusRead_of_on hon _)
  case clear => exact congrArg Outcome.next (if_pos hon)
  case refresh => exact congrArg Outcome.next (if_pos hon)
  case unsupported => exact congrArg Outcome.next (smbusNack_of_on hon)

end Sys2Proof.Machine

end

section
/-! ## Reading formats -/

set_option Elab.async false

namespace Sys2Proof.Machine
open Host

/-! ## LINEAR11 (R532) -/

/-- The mantissa of num / den at an exponent. -/
def mantissa (num : Int) (den : Nat) (e : Int) : Int :=
  if e < 0 then num * 2 ^ (-e).toNat / den else num / (den * 2 ^ e.toNat)

def fits11 (m : Int) : Prop := -1024 ≤ m ∧ m ≤ 1023

theorem linearAt_cons (num : Int) (den : Nat) (e : Int) (es : List Int) :
    linearAt num den (e :: es) =
      if -1024 ≤ mantissa num den e ∧ mantissa num den e ≤ 1023 then (e, mantissa num den e)
      else linearAt num den es := rfl

/-- Where some exponent of a rising list fits, the first that does is taken. -/
theorem linearAt_least {num : Int} {den : Nat} {e m : Int} : ∀ {es : List Int}, es.Pairwise (· < ·) →
    (∃ x ∈ es, fits11 (mantissa num den x)) → linearAt num den es = (e, m) →
    e ∈ es ∧ fits11 m ∧ ∀ x ∈ es, x < e → ¬ fits11 (mantissa num den x)
  | [], _, hex, _ => by obtain ⟨x, hx, _⟩ := hex; cases hx
  | y :: es, hs, hex, h => by
    obtain ⟨hy, hs⟩ := List.pairwise_cons.1 hs
    rw [linearAt_cons] at h
    split at h
    · next hfit =>
      cases h
      refine ⟨List.mem_cons_self, hfit, fun x hx hlt => ?_⟩
      rcases List.mem_cons.1 hx with rfl | hx
      · exact absurd hlt (lt_irrefl _)
      · exact absurd (hy x hx) (not_lt.2 hlt.le)
    · next hfit =>
      obtain ⟨x, hx, hxfit⟩ := hex
      have hx : x ∈ es := by
        rcases List.mem_cons.1 hx with rfl | hx
        · exact absurd hxfit hfit
        · exact hx
      obtain ⟨he, hm, hleast⟩ := linearAt_least hs ⟨x, hx, hxfit⟩ h
      refine ⟨List.mem_cons_of_mem y he, hm, fun z hz hlt => ?_⟩
      rcases List.mem_cons.1 hz with rfl | hz
      · exact hfit
      · exact hleast z hz hlt

theorem mem_linearExps {e : Int} : e ∈ linearExps ↔ -16 ≤ e ∧ e ≤ 15 := by
  simp only [linearExps, List.mem_map, List.mem_range]
  constructor
  · rintro ⟨i, hi, rfl⟩
    simp only [Int.ofNat_eq_natCast]
    omega
  · rintro ⟨h1, h2⟩
    refine ⟨(e + 16).toNat, by omega, ?_⟩
    simp only [Int.ofNat_eq_natCast]
    omega

theorem linearExps_rising : linearExps.Pairwise (· < ·) := by decide

/-- The largest exponent holds every magnitude below 33,554,432. -/
theorem fits11_largest {num : Int} {den : Nat} (hd : 0 < den) (h : num.natAbs < 33554432 * den) :
    fits11 (mantissa num den 15) := by
  have hpos : (0 : Int) < (den : Int) * 2 ^ 15 := by positivity
  have habs : |num| < 33554432 * (den : Int) := by
    rw [Int.abs_eq_natAbs]
    exact_mod_cast h
  obtain ⟨hlo, hhi⟩ := abs_lt.1 habs
  refine ⟨?_, ?_⟩
  · exact (Int.le_ediv_iff_mul_le hpos).2 (by linarith)
  · exact Int.le_of_lt_add_one ((Int.ediv_lt_iff_lt_mul hpos).2 (by linarith))

theorem statusMfr_lockout (s : State) : statusMfr s / 8 % 2 = b2n s.pwr.lockout := by
  have hsafe := b2n_le s.hv.safeBad
  have href := b2n_le s.hv.refLost
  have hlink := b2n_le s.hv.linkLost
  have hlock := b2n_le s.pwr.lockout
  simp only [statusMfr]
  omega

/-- Settles O16. Readings in whole thousandths, rounded down, and a block that carries its length first are the
model's choice (log 105). -/
theorem readingFormats : Obligations.ReadingFormats := by
  unfold Obligations.ReadingFormats
  refine ⟨fun num den e m h hd hn => ?linear, fun s t e => ?lockout, fun s t hl e => ?held⟩
  case linear =>
    have hmax : ∃ x ∈ linearExps, fits11 (mantissa num den x) :=
      ⟨15, mem_linearExps.2 (by decide), fits11_largest hd hn⟩
    obtain ⟨he, hm, hleast⟩ := linearAt_least linearExps_rising hmax h
    obtain ⟨hlo, hhi⟩ := mem_linearExps.1 he
    exact ⟨⟨hlo, hhi⟩, hm, fun x hx hlt => hleast x (mem_linearExps.2 ⟨hx, by omega⟩) hlt⟩
  case lockout =>
    have ht : t.pwr = s.pwr := by
      cases e
      split <;> rfl
    exact ⟨ht, by rw [statusMfr_lockout, statusMfr_lockout, ht]⟩
  case held =>
    have hkln : t.hv.rKln = s.hv.rKln := by
      cases e
      split
      · exact if_pos hl
      · rfl
    refine ⟨hkln, by rw [hottest, hottest, hkln], ?_⟩
    rw [← hkln]
    exact apply_ite Outcome.next (t.pwr.smbusOn = true) _ _

end Sys2Proof.Machine

end

section
/-! ## The TAP, the debug access and link training -/

set_option Elab.async false

namespace Sys2Proof.Machine
open Host

/-! ## The TAP (R533, R534) -/

theorem scanIr_of_on {s : State} (h : tapOn s = true) (ir : BitVec 8) :
    scanIr s ir = { s with
      jtag := { s.jtag with ir := ir, capture := if locked s then 5 else 1 },
      out := .jtag (BitVec.setWidth 128 (if locked s then (5 : BitVec 8) else 1)) :: s.out } := by
  simp only [scanIr, h]
  rfl

theorem exec_idcode {s : State} (h : tapOn s = true) : exec .idcode s =
    .next { s with
      jtag := { s.jtag with ir := 0x02, capture := if locked s then 5 else 1, dr := BitVec.ofNat 128 (idcodeWord s) },
      out := .jtag (BitVec.ofNat 128 (idcodeWord s)) ::
        .jtag (BitVec.setWidth 128 (if locked s then (5 : BitVec 8) else 1)) :: s.out } := by
  change Outcome.next _ = _
  simp only [h, scanIr_of_on h]
  rfl

theorem idcodeWord_fields (s : State) :
    field (idcodeWord s) 0 0 = 1 ∧ field (idcodeWord s) 11 1 = 0x4F5 ∧ field (idcodeWord s) 27 12 = 0x6532 ∧
    field (idcodeWord s) 31 28 = (4 * (s.rst.stepping.toNat / 16 - 1) + s.rst.stepping.toNat % 16) % 16 := by
  simp only [field, idcodeWord]
  omega

/-- Settles O17. -/
theorem idcodeValue : Obligations.IdcodeValue := by
  unfold Obligations.IdcodeValue
  refine ⟨fun s h => ?fields, fun s t h hst e => ?stepA1⟩
  case fields =>
    obtain ⟨hone, hmaker, hpart, hversion⟩ := idcodeWord_fields s
    refine ⟨_, exec_idcode h, rfl, ?_, ?_, ?_, fun hlo hhi hdigit => ?_, rfl⟩ <;>
      rw [field_ofNat (by omega)]
    · exact hone
    · exact hmaker
    · exact hpart
    · rw [hversion]
      omega
  case stepA1 =>
    rw [exec_idcode h] at e
    cases e
    simp only [idcodeWord, hst]
    decide

/-! ## The debug access (R535) -/

/-- The data register after a debug access: what was read above the status. -/
theorem dbgDr_fields {k : Nat} (data : Nat) (hk : k < 4) :
    field (BitVec.ofNat 128 (data * 2 ^ 64 + k)).toNat 1 0 = k ∧
    field (BitVec.ofNat 128 (data * 2 ^ 64 + k)).toNat 127 64 = data % 2 ^ 64 := by
  rw [field_ofNat (by omega), field_ofNat (by omega)]
  simp only [field]
  omega

theorem dbgStatus_lt (st : AccStatus) : dbgStatus st < 4 := by cases st <;> decide

/-- A debug access that does not wait: its answer stands in the data register. -/
theorem dbgAccess_of_run {u t : State} {dr : BitVec 128} {st : AccStatus} {bs : List Byte}
    (hw : dbgWaits u dr.toNat = false) (hr : dbgRun u dr.toNat = (st, bs, t)) :
    ∃ jtag ctr, dbgAccess u dr = { t with jtag := jtag, freeCtr := ctr, out := .jtag jtag.dr :: t.out } ∧
      field jtag.dr.toNat 1 0 = dbgStatus st ∧ jtag.ir = 0x10 ∧
      (st = .ok → bitOf dr.toNat 40 = false → field jtag.dr.toNat 127 64 = leNat bs % 2 ^ 64) := by
  obtain ⟨data, ctr, hd, hok⟩ : ∃ data ctr, dbgData st (dr.getLsbD 40) bs t = (data, { t with freeCtr := ctr }) ∧
      (st = .ok → bitOf dr.toNat 40 = false → data = leNat bs) := by
    rw [dbgData]
    split
    · exact ⟨_, _, rfl, fun _ _ => rfl⟩
    · next hno => exact ⟨_, _, rfl, fun hst hrd => absurd ⟨hst, by
      rw [← BitVec.testBit_toNat]
      exact congrArg not hrd⟩ hno⟩
  obtain ⟨hstatus, hdata⟩ := dbgDr_fields data (dbgStatus_lt st)
  refine ⟨{ t.jtag with ir := 0x10, dr := BitVec.ofNat 128 (data * 2 ^ 64 + dbgStatus st) }, ctr, ?_, hstatus, rfl,
    fun hst hrd => by rw [hdata, hok hst hrd]⟩
  simp only [dbgAccess, hw, hr, Bool.false_eq_true, if_false, hd]
  rfl

/-- One that waits for a channel's training answers 3 (R223). -/
theorem dbgAccess_of_wait {u : State} {dr : BitVec 128} (hw : dbgWaits u dr.toNat = true) :
    ∃ jtag ctr, dbgAccess u dr = { u with jtag := jtag, freeCtr := ctr, out := .jtag jtag.dr :: u.out } ∧
      field jtag.dr.toNat 1 0 = 3 := by
  refine ⟨{ u.jtag with ir := 0x10, dr := BitVec.ofNat 128 ((takeFree u 64).1.toNat * 2 ^ 64 + 3) }, u.freeCtr + 1,
    ?_, (dbgDr_fields _ (by omega)).1⟩
  simp only [dbgAccess, hw]
  rfl

section
variable {u : State} {d j : Nat}

theorem dbgWaits_of_ready (h : rangeWaits u (field d 36 3 * 8) 8 = false) : dbgWaits u d = false := by
  simp [dbgWaits, h]

theorem dbgRun_of_unmapped (hmem : memUp u = true → pageJob u (linePage (field d 36 3 * 8 / 128)) = none) :
    dbgRun u d = (.unmapped, [], u) := by
  cases hup : memUp u with
  | false => simp [dbgRun, hup]
  | true => simp [dbgRun, hup, hmem hup]

theorem dbgRun_of_other (hup : memUp u = true)
    (hj : pageJob u (linePage (field d 36 3 * 8 / 128)) = some j) (hne : j ≠ field d 39 37) :
    dbgRun u d = (.noRights, [], denied u 17) := by
  simp [dbgRun, hup, hj, hne]

theorem dbgRun_of_read (hup : memUp u = true)
    (hj : pageJob u (linePage (field d 36 3 * 8 / 128)) = some (field d 39 37)) (hrd : bitOf d 40 = false) :
    dbgRun u d = masterRead u 17 (field d 36 3 * 8) 8 := by
  simp [dbgRun, hup, hj, hrd]

theorem dbgRun_of_write {st : AccStatus} {t : State} (hup : memUp u = true)
    (hj : pageJob u (linePage (field d 36 3 * 8 / 128)) = some (field d 39 37)) (hwr : bitOf d 40 = true)
    (hm : masterWrite u 17 false (field d 36 3 * 8) (leBytes 8 (field d 127 64)) = (st, t)) :
    dbgRun u d = (st, [], t) := by
  simp [dbgRun, hup, hj, hwr, hm]

end

theorem exec_dbgAccess {s : State} {dr : BitVec 128} {ups : List Upset} (h : tapOn s = true) :
    exec (.dbgAccess dr ups) s = .next (dbgAccess (upsets s ups) dr) :=
  congrArg Outcome.next (if_pos h)

/-- Settles O18. A page of another job than the one named answered with status 1 is the model's choice
(log 107). -/
theorem jtagAndLinkRowsAct : Obligations.JtagAndLinkRowsAct := by
  unfold Obligations.JtagAndLinkRowsAct
  refine ⟨fun s h hl => ?free, fun s h hl => ?locked, fun s h => ?preload, fun s => rfl, fun s dr ups h => ?debug,
    fun s hp ht => ?link⟩
  case free =>
    have hscan (ir : BitVec 8) := scanIr_of_on h ir
    simp only [hl, Bool.false_eq_true, if_false] at hscan
    simp only [List.forall_mem_cons, List.not_mem_nil, false_imp_iff, implies_true, and_true]
    refine ⟨?_, ?_, ?_, congrArg Outcome.next (hscan 0xFF)⟩ <;>
      exact congrArg Outcome.next (by rw [scanPins, hl]; exact hscan _)
  case locked =>
    have hscan := scanIr_of_on h 0xFF
    simp only [hl, if_true] at hscan
    simp only [List.forall_mem_cons, List.not_mem_nil, false_imp_iff, implies_true, and_true]
    refine ⟨?_, ?_, ?_, congrArg Outcome.next hscan⟩ <;>
      exact congrArg Outcome.next (by rw [scanPins, hl]; exact hscan)
  case preload =>
    have hon : tapOn (takeFree s 128).2 = true := h
    have he : exec .samplePreload s = .next { scanIr (takeFree s 128).2 0x01 with
        jtag := { (scanIr (takeFree s 128).2 0x01).jtag with dr := (takeFree s 128).1 } } := by
      change Outcome.next _ = _
      simp only [h]
      rfl
    rw [scanIr_of_on hon] at he
    exact ⟨_, he, rfl, rfl, rfl, rfl⟩
  case debug =>
    intro u d a
    rw [exec_dbgAccess h]
    refine ⟨fun hun => ?unmapped, fun j hup hrw hj hne => ?other, fun hup hrw => ?waits, fun hup hrw hj =>
      ⟨fun hrd => ?read, fun hwr => ?write⟩⟩
    case unmapped =>
      have hw : dbgWaits u d = false := by
        rcases hun with hdown | ⟨hrw, _⟩
        · simp [dbgWaits, hdown]
        · exact dbgWaits_of_ready hrw
      have hr : dbgRun u d = (.unmapped, [], u) := dbgRun_of_unmapped fun hup => by
        rcases hun with hdown | ⟨_, hj⟩
        · simp [hdown] at hup
        · exact hj
      obtain ⟨jtag, ctr, he, hst, -, -⟩ := dbgAccess_of_run hw hr
      rw [he]
      exact ⟨_, rfl, hst, rfl⟩
    case other =>
      obtain ⟨jtag, ctr, he, hst, -, -⟩ := dbgAccess_of_run (dbgWaits_of_ready hrw) (dbgRun_of_other hup hj hne)
      rw [he]
      exact ⟨_, rfl, hst, rfl⟩
    case waits =>
      obtain ⟨jtag, ctr, he, hst⟩ := dbgAccess_of_wait (u := u) (dr := dr) (by rw [dbgWaits, hup]; exact hrw)
      rw [he]
      exact ⟨_, rfl, hst, rfl⟩
    case read =>
      intro r
      obtain ⟨jtag, ctr, he, hst, hir, hdata⟩ := dbgAccess_of_run (dbgWaits_of_ready hrw)
        ((dbgRun_of_read hup hj hrd).trans (show _ = (r.1, r.2.1, r.2.2) from rfl))
      rw [he]
      exact ⟨_, rfl, hst, fun hok => hdata hok hrd, hir, rfl⟩
    case write =>
      intro r
      obtain ⟨jtag, ctr, he, hst, hir, -⟩ := dbgAccess_of_run (dbgWaits_of_ready hrw)
        (dbgRun_of_write hup hj hwr (show _ = (r.1, r.2) from rfl))
      rw [he]
      exact ⟨_, rfl, hst, hir, rfl⟩
  case link =>
    change Outcome.next _ = _
    simp [hp, ht, modHifBlk]

end Sys2Proof.Machine

end

section
/-! ## Mailbox and ring events, and register access -/

set_option Elab.async false

namespace Sys2Proof.Machine
open Host

/-! ## Mailbox events (R452, R453, R455) -/

theorem exec_mbxDoorbell_of_free {s : State} {fn m : Nat} {v : BitVec 32} (hfn : fn ≤ 8)
    (hv : v.getLsbD 0 = true) (hm : hasMbx s fn m = true) (hbusy : (mbxOf s fn m).busy = false)
    (hdone : (mbxOf s fn m).done = false) : exec (.mbxDoorbell fn m v) s =
      .next (modHifBlk (modMbx s fn m fun b => { b with copy := b.req, busy := true }) fun h =>
        { h with submitted := h.submitted ++ [(fn, m)] }) := by
  change atUnit _ _ = _
  rw [atUnit_of_true (decide_eq_true hfn), if_pos hv]
  simp [ringDoorbell, hm, hbusy, hdone]

theorem exec_mbxDoneClear {s : State} {fn m : Nat} (hfn : fn ≤ 8) (hm : hasMbx s fn m = true) :
    exec (.mbxDoneClear fn m) s = .next (modMbx s fn m fun b => { b with done := false, timedOut := false }) := by
  change atUnit _ _ = _
  rw [atUnit_of_true (decide_eq_true hfn), clearDone, if_pos hm]

theorem exec_commandTaken_of_fit {s : State} {fn m : Nat} {rest : List (Nat × Nat)}
    (hq : s.hif.submitted = (fn, m) :: rest)
    (hc : let req := (mbxOf s fn m).copy.toNat
      requestCheck s (hdrOf fn m req) (field req 15 0) (field req 47 32) = none) :
    exec .commandTaken s = .next { s with hif := { s.hif with submitted := rest } } := by
  change Outcome.next (takeCommand s) = _
  simp only [takeCommand, hq]
  split
  · next st hst => exact nomatch hc.symm.trans hst
  · rfl

/-- The response that the timeout of R455 gives. -/
def timeoutRsp (b : Mbx) (fn m : Nat) : BitVec 2048 :=
  let h := hdrOf fn m b.copy.toNat
  BitVec.ofNat 2048 (leNat (rspBytes (field b.copy.toNat 15 0) h.tag .timeout h.job []))

theorem exec_mbxTimeout_of_busy {s : State} {fn m : Nat} (hfn : fn ≤ 8) (hbusy : (mbxOf s fn m).busy = true)
    (hlate : (mbxOf s fn m).late = false) : exec (.mbxTimeout fn m) s =
      .next (emitOut (modMbx s fn m fun b =>
        { b with rsp := timeoutRsp (mbxOf s fn m) fn m, busy := false, done := true, timedOut := true,
                 late := true }) (.msix fn 1)) := by
  change atUnit _ _ = _
  rw [atUnit_of_true (decide_eq_true hfn)]
  simp only [mbxTimeout, hbusy, hlate]
  rfl

theorem timeoutRsp_status (b : Mbx) (fn m : Nat) : field (timeoutRsp b fn m).toNat 47 32 = 0x0061 := by
  rw [timeoutRsp, field_ofNat (by omega)]
  exact (rspBytes_fields _ .timeout _ [] (field_lt _ 15 0)).2.2

/-! ## Ring events (R464, R465) -/

theorem exec_mbxEvrTail_of_clean {s : State} {fn : Nat} {v : BitVec 16} (hfn : fn ≤ 8)
    (hup : s.hif.linkUp = true) (hl : (ringOf s fn).lostSince = 0) : exec (.mbxEvrTail fn v) s =
      .next (setRing s fn { ringOf s fn with tail := v.toNat % 2 ^ (ringOf s fn).log2 }) := by
  change atUnit _ _ = _
  rw [atUnit_of_true (decide_eq_true hfn), if_pos hup]
  simp [writeTail, ringOverflow, hl]

theorem exec_coalesceExpiry_of_waiting {s : State} {fn : Nat} (hfn : fn ≤ 8)
    (hr : (ringOf s fn).running = true) (hw : (ringOf s fn).waiting = true) :
    exec (.mbxEvrCoalesceExpiry fn) s = .next (setRing (emitOut s (.msix fn 0)) fn
      { ringOf s fn with waiting := false, running := decide ((ringOf s fn).coalesce ≠ 0) }) := by
  change atUnit _ _ = _
  rw [atUnit_of_true (decide_eq_true hfn)]
  simp [coalesceEnd, hr, hw]

/-! ## Register access (R7, R451) -/

/-- A write of a whole aligned word carries all of its bits. -/
theorem lane64_whole {o : Nat} (v : BitVec 64) (ho : o % 8 = 0) : lane64 o 8 v = (v, BitVec.allOnes 64) := by
  have hm : (BitVec.ofNat 64 (2 ^ (8 * 8) - 1)) <<< 0 = BitVec.allOnes 64 := by decide
  simp only [lane64, ho, Nat.mul_zero, hm, BitVec.shiftLeft_zero, BitVec.and_allOnes]

theorem exec_registerWrite {s : State} {fn : Nat} (hfn : fn ≤ 8) (offset size : Nat) (v : BitVec 64) :
    exec (.registerWrite fn offset size v) s =
      .next (if offset < 0x200000 then writeBar0 s fn offset size v
        else if offset < 0x400000 then writeBar2 s fn (offset - 0x200000) size v else s) :=
  atUnit_of_true (decide_eq_true hfn)

/-- The priority of a hod's push registers: bit 3 of HOD_CTL, which would flush it, is not written. -/
theorem exec_registerWrite_hodCtl {s : State} {hod : Nat} (v : BitVec 64) (hw : hodWindow s 0 hod = true)
    (hh : hod < 32768) : exec (.registerWrite 0 (0x200000 + 64 * hod + 56) 8 (v &&& 7)) s =
      .next (modHod s hod fun x => { x with pushPrio := v.toNat % 8 }) := by
  have hlane := lane64_whole (o := 64 * hod + 56) (v &&& 7) (by omega)
  have hprio : (v &&& 7).toNat % 8 = v.toNat % 8 := by
    rw [BitVec.toNat_and, show (7 : BitVec 64).toNat = 2 ^ 3 - 1 from rfl, Nat.and_two_pow_sub_one_eq_mod]
    omega
  have hflush : (v &&& 7).getLsbD 3 = false := by
    rw [BitVec.getLsbD_and]
    simp
  rw [exec_registerWrite (by omega), if_neg (by omega), if_pos (by omega),
    show 0x200000 + 64 * hod + 56 - 0x200000 = 64 * hod + 56 by omega]
  simp only [writeBar2, hlane, show (64 * hod + 56) / 64 = hod by omega, show (64 * hod + 56) % 64 / 8 = 7 by omega,
    show (64 * hod + 56) % 8 = 0 by omega, hflush, hw, hprio]
  rfl

/-- The fields of the request message beyond its first sixteen bytes are all writable. -/
theorem reqFields_getLsbD {i : Nat} (hlo : 128 ≤ i) (hhi : i < 2048) : reqFields.getLsbD i = true := by
  have hsmall {n : Nat} (hn : n < 2 ^ 128) : (BitVec.ofNat 2048 n).getLsbD i = false := by
    rw [BitVec.getLsbD_ofNat, Nat.testBit_lt_two_pow (hn.trans_le (Nat.pow_le_pow_right (by omega) hlo)),
      Bool.and_false]
  rw [reqFields, BitVec.getLsbD_not, BitVec.getLsbD_or, hsmall (by omega), hsmall (by omega)]
  simp [hhi]

/-- A word written into the request message reads back. -/
theorem reqWord_readback (req : BitVec 2048) (v : BitVec 64) {o : Nat} (hlo : 16 ≤ o) (hhi : o ≤ 248) :
    (((req &&& ~~~(BitVec.setWidth 2048 (BitVec.allOnes 64) <<< (8 * o))) |||
      (BitVec.setWidth 2048 v <<< (8 * o))) &&& reqFields).toNat / 2 ^ (8 * o) % 2 ^ 64 = v.toNat := by
  refine Nat.eq_of_testBit_eq fun i => ?_
  rw [Nat.testBit_mod_two_pow, Nat.testBit_div_two_pow, BitVec.testBit_toNat, BitVec.testBit_toNat]
  by_cases hi : i < 64
  · have hwide : i + 8 * o < 2048 := by omega
    have hshift (x : BitVec 64) : (BitVec.setWidth 2048 x <<< (8 * o)).getLsbD (i + 8 * o) = x.getLsbD i := by
      rw [BitVec.getLsbD_shiftLeft, BitVec.getLsbD_setWidth, Nat.add_sub_cancel]
      simp [hwide, show i < 2048 by omega]
    rw [BitVec.getLsbD_and, reqFields_getLsbD (by omega) hwide, BitVec.getLsbD_or, BitVec.getLsbD_and,
      BitVec.getLsbD_not, hshift, hshift, BitVec.getLsbD_allOnes]
    simp [hi]
  · simp [hi, BitVec.getLsbD_of_ge v i (by omega)]

/-- The request message with a word written at an offset. -/
def reqPut (req : BitVec 2048) (o : Nat) (v : BitVec 64) : BitVec 2048 :=
  ((req &&& ~~~(BitVec.setWidth 2048 (BitVec.allOnes 64) <<< (8 * o))) |||
    (BitVec.setWidth 2048 v <<< (8 * o))) &&& reqFields

theorem linkUp_of_hasMbx {s : State} {fn m : Nat} (h : hasMbx s fn m = true) : s.hif.linkUp = true :=
  (Bool.and_eq_true_iff.1 h).1

section
variable {s : State} {fn m o : Nat}

theorem writeBar0_req (v : BitVec 64) (hm : hasMbx s fn m = true) (hm4 : m < 4) (ho : o < 0x100) (h8 : o % 8 = 0) :
    writeBar0 s fn (m * 0x400 + o) 8 v = modMbx s fn m fun b => { b with req := reqPut b.req o v } := by
  simp only [writeBar0, linkUp_of_hasMbx hm, show (m * 0x400 + o) % 8 = 0 by omega,
    show m * 0x400 + o < 0x1000 by omega, show (m * 0x400 + o) / 0x400 = m by omega,
    show (m * 0x400 + o) % 0x400 = o by omega, hm, writeMbx, lane64_whole v h8, ho, h8]
  rfl

/-- A naturally aligned read of the mailboxes. -/
theorem readBar0_mbx {size : Nat} (hm : hasMbx s fn m = true) (hm4 : m < 4) (ho : o < 0x400) (h8 : o % 8 = 0)
    (hsize : size = 4 ∨ size = 8) :
    readBar0 s fn (m * 0x400 + o) size = readMbx s fn m o % 2 ^ (8 * size) := by
  have hal : (m * 0x400 + o) % size = 0 := by rcases hsize with rfl | rfl <;> omega
  simp only [readBar0, readWindow, linkUp_of_hasMbx hm, hal, show (m * 0x400 + o) % 8 = 0 by omega, readBar0Word,
    Nat.sub_zero, show m * 0x400 + o < 0x1000 by omega, show (m * 0x400 + o) / 0x400 = m by omega,
    show (m * 0x400 + o) % 0x400 = o by omega, hm]
  rcases hsize with rfl | rfl <;> simp

theorem readBar0_ring (hup : s.hif.linkUp = true) (hrec : s.fw.recovery = false) (ho : o < 0x80)
    (h8 : o % 8 = 0) : readBar0 s fn (0x1000 + o) 4 = readRing s fn o % 2 ^ 32 := by
  simp only [readBar0, readWindow, hup, show (0x1000 + o) % 4 = 0 by omega, show (0x1000 + o) % 8 = 0 by omega,
    readBar0Word, Nat.sub_zero, show ¬ 0x1000 + o < 0x1000 by omega, show 0x1000 + o < 0x1080 by omega, hrec,
    show 0x1000 + o - 0x1000 = o by omega]
  simp

/-- A word of a hod's window. -/
theorem readBar2_word {hod k : Nat} (hup : s.hif.linkUp = true) :
    readBar2 s fn (64 * hod + 8 * k) 8 = readBar2Word s fn (64 * hod + 8 * k) % 2 ^ 64 := by
  simp only [readBar2, readWindow, hup, show (64 * hod + 8 * k) % 8 = 0 by omega, Nat.sub_zero]
  simp

theorem readBar2Word_push {hod k : Nat} (hk : k < 4) : readBar2Word s fn (64 * hod + 8 * k) = 0 := by
  simp only [readBar2Word, show (64 * hod + 8 * k) % 64 / 8 = k by omega]
  split
  · rfl
  · split
    · omega
    · omega
    · omega
    · rfl

section
variable {hod : Nat} (hw : hodWindow s fn hod = true)
include hw

theorem readBar2Word_popTag : readBar2Word s fn (64 * hod + 8 * 5) = (hodOf s hod).popTag.toNat := by
  simp only [readBar2Word, show (64 * hod + 8 * 5) / 64 = hod by omega, show (64 * hod + 8 * 5) % 64 / 8 = 5 by omega,
    hw]
  rfl

theorem readBar2Word_status : readBar2Word s fn (64 * hod + 8 * 6) = hodStatus (hodOf s hod) := by
  simp only [readBar2Word, show (64 * hod + 8 * 6) / 64 = hod by omega, show (64 * hod + 8 * 6) % 64 / 8 = 6 by omega,
    hw]
  rfl

theorem readBar2Word_ctl : readBar2Word s fn (64 * hod + 8 * 7) = (hodOf s hod).pushPrio % 8 := by
  simp only [readBar2Word, show (64 * hod + 8 * 7) / 64 = hod by omega, show (64 * hod + 8 * 7) % 64 / 8 = 7 by omega,
    hw]
  rfl

end

end

/-- Settles O13. DONE_CLEAR clearing TIMED_OUT (log 87), TAIL stored modulo the ring size (log 94) and
COMMAND_TAKEN that only drops a good request (log 32) are the model's choice. -/
theorem mailboxEventsAct : Obligations.MailboxEventsAct := by
  unfold Obligations.MailboxEventsAct
  refine ⟨fun s fn m v hfn hv hm hb hd => ?doorbell, fun s fn m hfn hm => ?doneClear, fun s fn m rest hq hc => ?taken,
    fun s fn m hfn hb hl => ?timeout, fun s fn hfn hup he => ?enable, fun s fn v hfn hup hl => ?tail,
    fun s fn hfn hr hw => ?coalesce, fun s hod v hw hh => ?prio, fun s fn m o v hfn hm hm4 hlo hhi h8 => ?request,
    fun s fn m hm hm4 => ?mailbox, fun s fn hup hrec => ?ring, fun s fn hod hup hw => ?hod⟩
  case doorbell =>
    exact ⟨_, exec_mbxDoorbell_of_free hfn hv hm hb hd,
      mbxOf_modMbx_same s fn m fun b => { b with copy := b.req, busy := true }, rfl, rfl⟩
  case doneClear => exact ⟨_, exec_mbxDoneClear hfn hm, mbxOf_modMbx_same s fn m _, rfl⟩
  case taken => exact exec_commandTaken_of_fit hq hc
  case timeout =>
    have hsame := mbxOf_modMbx_same s fn m fun b =>
      { b with rsp := timeoutRsp (mbxOf s fn m) fn m, busy := false, done := true, timedOut := true, late := true }
    refine ⟨_, exec_mbxTimeout_of_busy hfn hb hl, ?_, congrArg Mbx.busy hsame, congrArg Mbx.timedOut hsame, rfl, rfl⟩
    exact (congrArg (fun b : Mbx => field b.rsp.toNat 47 32) hsame).trans (timeoutRsp_status _ _ _)
  case enable =>
    rw [exec_mbxEvrEnable hfn hup, enableRing_of_disabled he]
    exact ⟨_, rfl, ringOf_setRing_same _ _ _, rfl⟩
  case tail => exact ⟨_, exec_mbxEvrTail_of_clean hfn hup hl, ringOf_setRing_same _ _ _, rfl⟩
  case coalesce =>
    exact ⟨_, exec_coalesceExpiry_of_waiting hfn hr hw, rfl, congrArg Ring.waiting (ringOf_setRing_same _ _ _), rfl⟩
  case prio => exact ⟨_, exec_registerWrite_hodCtl v hw hh, hodOf_modHod_same s hod _, rfl⟩
  case request =>
    rw [exec_registerWrite hfn, if_pos (by omega), writeBar0_req v hm hm4 hhi h8]
    refine ⟨_, rfl, ?_, rfl⟩
    rw [readBar0_mbx (size := 8) (by exact hm) hm4 (by omega) h8 (by omega)]
    simp only [readMbx, hhi, mbxOf_modMbx_same, if_true]
    exact reqWord_readback _ v hlo (by omega)
  case mailbox =>
    refine ⟨readBar0_mbx hm hm4 (by omega) rfl (.inl rfl), ?_⟩
    rw [readBar0_mbx hm hm4 (by omega) rfl (.inl rfl)]
    have hbusy := b2n_le (mbxOf s fn m).busy
    have hdone := b2n_le (mbxOf s fn m).done
    have hign := b2n_le (mbxOf s fn m).ignored
    have hout := b2n_le (mbxOf s fn m).timedOut
    exact Nat.mod_eq_of_lt (by simp [readMbx]; omega)
  case ring =>
    refine ⟨readBar0_ring (o := 0x10) hup hrec (by omega) rfl, readBar0_ring (o := 0x18) hup hrec (by omega) rfl,
      (readBar0_ring (o := 0x20) hup hrec (by omega) rfl).trans (Nat.mod_eq_of_lt ?_)⟩
    change min (ringOf s fn).lost (2 ^ 32 - 1) < 2 ^ 32
    omega
  case hod =>
    refine ⟨fun k hk => ?_, ?_, ?_, ?_⟩
    · rw [readBar2_word hup, readBar2Word_push hk, Nat.zero_mod]
    · exact (readBar2_word (k := 5) hup).trans (by
        rw [readBar2Word_popTag hw]
        exact Nat.mod_eq_of_lt ((hodOf s hod).popTag.isLt.trans (by omega)))
    · exact (readBar2_word (k := 6) hup).trans (by rw [readBar2Word_status hw])
    · exact (readBar2_word (k := 7) hup).trans (by
        rw [readBar2Word_ctl hw]
        exact Nat.mod_eq_of_lt (by omega))

end Sys2Proof.Machine

end

section
/-! ## Counters and captures -/

set_option Elab.async false

namespace Sys2Proof.Machine
open Host

/-! ## The roll engine (R502, R503, R507) -/

section
variable (s : State) (i n : Nat)

theorem rootOf_setRoot (k : Nat) (r : Root) : rootOf (setRoot s k r) i = if i = k then r else rootOf s i :=
  mapGet_mapPut _ _ _ _ _

theorem rootInvalid_leaves : (rootInvalid s i).tel.leaves = s.tel.leaves := by
  have hemit : (emitDev (setRoot s i { value := 0, sat := false, valid := false, incomplete := true, err := 0 })
      0x0D02 [(1, 0), (4, i)]).tel.leaves = s.tel.leaves := by rw [emitDev_tel]; rfl
  rw [rootInvalid]
  split
  · exact (each_keeps (p := fun s => s.tel.leaves) (f := freezePage true) (fun _ _ => rfl) _ _).trans hemit
  · exact hemit

theorem checkRoot_leaves : (checkRoot s i).tel.leaves = s.tel.leaves := by
  rw [checkRoot]
  split
  · rfl
  · split
    · rfl
    · exact rootInvalid_leaves s i

theorem rollInto_leaves : (rollInto s i n).tel.leaves = s.tel.leaves := by
  rw [rollInto, ← checkRoot_leaves s i]
  generalize checkRoot s i = u
  split
  · rfl
  · split
    · rfl
    · rw [emitDev_tel]
      rfl

end

section
variable {s : State} {i n : Nat}

/-- A root that is intact, valid and not saturated takes the counts, or saturates (R507). -/
theorem rollInto_of_counting (he : (rootOf s i).err = 0) (hv : (rootOf s i).valid = true)
    (hs : (rootOf s i).sat = false) : rollInto s i n =
      if (rootOf s i).value.toNat + n < 2 ^ 48 then
        setRoot s i { rootOf s i with value := BitVec.ofNat 48 ((rootOf s i).value.toNat + n) }
      else emitDev (setRoot s i { rootOf s i with value := BitVec.allOnes 48, sat := true }) 0x0D01 [(4, i)] := by
  have hc : checkRoot s i = s := if_pos he
  simp only [rollInto, hc, hv, hs]
  rfl

theorem rollInto_of_sat (he : (rootOf s i).err = 0) (hs : (rootOf s i).sat = true) : rollInto s i n = s := by
  have hc : checkRoot s i = s := if_pos he
  simp [rollInto, hc, hs]

theorem rollOne_leaf : mapGet (rollOne s i).tel.leaves 0 i = 0 := by
  rw [rollOne, rollInto_leaves]
  exact mapGet_mapPut_same s.tel.leaves 0 i 0

theorem rollOne_value (he : (rootOf s i).err = 0) (hv : (rootOf s i).valid = true)
    (hs : (rootOf s i).sat = false) (hn : (rootOf s i).value.toNat + mapGet s.tel.leaves 0 i < 2 ^ 48) :
    (rootOf (rollOne s i) i).value.toNat = (rootOf s i).value.toNat + mapGet s.tel.leaves 0 i := by
  have hr : rootOf (modTelBlk s fun t => { t with leaves := mapPut t.leaves 0 i 0 }) i = rootOf s i := rfl
  rw [rollOne, rollInto_of_counting (by rw [hr, he]) (by rw [hr, hv]) (by rw [hr, hs]), hr, if_pos hn,
    rootOf_setRoot, if_pos rfl]
  exact Nat.mod_eq_of_lt hn

theorem exec_rollLeaf_of_leaf (hw : s.tel.walk < 7680) (hon : s.clk.domainsOn = true) :
    exec (.rollLeaf []) s = .next (modTelBlk (rollOne s s.tel.walk) fun t => { t with walk := s.tel.walk + 1 }) := by
  refine congrArg Outcome.next ((if_pos hon).trans ?_)
  change rollWalk s = _
  rw [rollWalk, if_pos hw, if_pos (by omega)]

theorem exec_rollLeaf_of_idle (hw : 7680 ≤ s.tel.walk) (hon : s.clk.domainsOn = true) :
    exec (.rollLeaf []) s = .next (if s.tel.walk + 1 < 8192 then modTelBlk s fun t => { t with walk := s.tel.walk + 1 }
      else modTelBlk (rollPages s) fun t => { t with walk := 0, walkEndUs := s.nowUs }) := by
  refine congrArg Outcome.next ((if_pos hon).trans ?_)
  change rollWalk s = _
  simp only [rollWalk, if_neg (show ¬ s.tel.walk < 7680 by omega)]

/-! ## Clearing (R508) -/

theorem clearRoot_tel : (clearRoot s i).tel = (setRoot s i {}).tel := by
  rw [clearRoot]
  split
  · exact each_keeps (p := fun s => s.tel) (f := fun s (e : Nat × Ppt) => freezePage false s e.1) (fun _ _ => rfl) _ _
  · rfl

theorem rootOf_clearRoot (k : Nat) : rootOf (clearRoot s k) i = if i = k then {} else rootOf s i := by
  rw [← rootOf_setRoot, rootOf, rootOf, clearRoot_tel]

/-- The roots of a list are cleared, the others stand. -/
theorem rootOf_clearRoots (is : List Nat) : rootOf (each is clearRoot s) i = if i ∈ is then {} else rootOf s i := by
  induction is generalizing s with
  | nil => rfl
  | cons k is ih =>
    refine ih.trans ?_
    rw [rootOf_clearRoot]
    by_cases hi : i ∈ is <;> by_cases hk : i = k <;> simp [hi, hk]

theorem mem_range_add {first count : Nat} : i ∈ (List.range count).map (first + ·) ↔ first ≤ i ∧ i < first + count := by
  simp only [List.mem_map, List.mem_range]
  constructor
  · rintro ⟨k, hk, rfl⟩
    omega
  · rintro ⟨hlo, hhi⟩
    exact ⟨i - first, by omega, by omega⟩

end

/-! ## Capture control (R515 to R519) -/

section
variable {s : State} {h : Hdr}

theorem exec_cmdTelClear_of_granted {first count : Nat} (hg : granted s h 0x0902 = true)
    (hr : rangeOk first count 8192 8192 = true) : exec (.cmdTelClear h first count) s =
      .next (answer (each ((List.range count).map (first + ·)) clearRoot s) h 0x0902 []) := by
  rw [exec_of_granted rfl rfl hg]
  simp [hr]

theorem exec_cmdCaptureCfg_of_fit {c : CapCfg} (hg : granted s h 0x0903 = true)
    (hoff : capOn (jobOf s (namedJob h)).capture = false) (hok : capCfgOk s (namedJob h) c = true)
    (hroom : capBytes s (namedJob h) + c.ringBytes ≤ s.mem.regions.capture * 1048576) :
    exec (.cmdCaptureCfg h c) s = .next (answer (setCapture s (namedJob h) fun _ => { cfg := c }) h 0x0903 []) := by
  rw [exec_of_granted rfl rfl hg]
  simp [hoff, hok, Nat.not_lt.2 hroom]

section
variable (hg : granted s h 0x0904 = true)
include hg

theorem exec_cmdCaptureCtlArm_of_configured (hoff : capOn (jobOf s (namedJob h)).capture = false)
    (hcfg : (jobOf s (namedJob h)).capture.cfg.ringBytes ≠ 0) : exec (.cmdCaptureCtlArm h) s =
      .next (answer (setCapture s (namedJob h) fun c => { cfg := c.cfg, st := .armed }) h 0x0904 []) := by
  rw [exec_of_granted rfl rfl hg]
  simp [hoff, hcfg]

theorem exec_cmdCaptureCtlTrigger_of_armed {u : Word} (harm : (jobOf s (namedJob h)).capture.st = .armed) :
    exec (.cmdCaptureCtlTrigger h u) s = .next (answer (setCapture s (namedJob h) fun c =>
      { c with cmdAt := some (if u = 0 then firstCycle (jobOf s (namedJob h)) else u) }) h 0x0904 []) := by
  rw [exec_of_granted rfl rfl hg]
  simp [harm]

/-- A capture that STOP ends. -/
def stopCapture (c : Capture) : Capture := if c.st == .triggered then capDone c else { c with st := .done }

theorem exec_cmdCaptureCtlStop_of_on (hon : capOn (jobOf s (namedJob h)).capture = true) :
    exec (.cmdCaptureCtlStop h) s =
      .next (emitJob (answer (setCapture s (namedJob h) stopCapture) h 0x0904 []) 0x0D04 (namedJob h) []) := by
  rw [exec_of_granted rfl rfl hg]
  exact congrArg Outcome.next (if_neg (by simp [hon]))

end

theorem stopCapture_st (c : Capture) : (stopCapture c).st = .done := by
  rw [stopCapture]
  split <;> rfl

theorem exec_cmdCaptureCtlDisarm_of_granted (hg : granted s h 0x0904 = true) : exec (.cmdCaptureCtlDisarm h) s =
    .next (answer (setCapture s (namedJob h) fun c => { cfg := c.cfg }) h 0x0904 []) := by
  rw [exec_of_granted rfl rfl hg]

end

/-- Settles O60. STOP ending in DONE with EV_CAP_DONE, and DISARM that keeps the configuration without records,
are the model's choice (log 100). -/
theorem counterAndCaptureRowsAct : Obligations.CounterAndCaptureRowsAct := by
  unfold Obligations.CounterAndCaptureRowsAct
  refine ⟨fun s hw hon => ?leaf, fun s hw hon => ?idle, fun s i hi hon hn => ?early, fun s i n he hv hs hn => ?full,
    fun s i n he hs => rollInto_of_sat he hs, fun s h first count hg hr => ?clear, fun s h c hg hoff hok hroom => ?cfg,
    fun s h hg => ⟨fun hoff hcfg => ?arm, fun harm u => ?trigger, fun hon => ?stop, ?disarm⟩⟩
  case leaf =>
    exact ⟨_, exec_rollLeaf_of_leaf hw hon, rfl, rollOne_leaf, fun he hv hs hn => rollOne_value he hv hs hn⟩
  case idle =>
    refine ⟨_, exec_rollLeaf_of_idle hw hon, ?_⟩
    split
    · exact ⟨rfl, rfl⟩
    · exact ⟨rfl, rfl⟩
  case early =>
    exact (atUnit_of_true (decide_eq_true hi)).trans (congrArg Outcome.next (if_pos ⟨hon, hn⟩))
  case full => rw [rollInto_of_counting he hv hs, if_neg (Nat.not_lt.2 hn)]
  case clear =>
    refine ⟨_, exec_cmdTelClear_of_granted hg hr, fun i => ?_, ?_⟩
    · rw [rootOf, answer_tel]
      exact (rootOf_clearRoots _).trans (by simp only [mem_range_add])
    · rw [answer_tel]
      exact each_keeps (p := fun s => s.tel.leaves) (fun s k => by rw [clearRoot_tel]; rfl) _ _
  case cfg => exact exec_cmdCaptureCfg_of_fit hg hoff hok hroom
  case arm => exact exec_cmdCaptureCtlArm_of_configured hg hoff hcfg
  case trigger => exact exec_cmdCaptureCtlTrigger_of_armed hg harm
  case stop =>
    refine ⟨_, exec_cmdCaptureCtlStop_of_on hg hon, ?_, rfl⟩
    rw [setCapture, jobOf_modJob_same]
    exact stopCapture_st _
  case disarm => exact exec_cmdCaptureCtlDisarm_of_granted hg

end Sys2Proof.Machine

end

section
/-! ## Run control, jobs, pins, function resets and firmware -/

set_option Elab.async false

namespace Sys2Proof.Machine
open Host

/-! ## A reset of a VF (R449) -/

/-- A table whose records under the keys that `p` names go through `g`, which leaves the default. -/
theorem mapGet_map_if {α : Type} {g : α → α} {d : α} {p : Nat → Prop} [DecidablePred p] (hd : g d = d) (k : Nat) :
    ∀ m : SMap α, mapGet (m.map fun e => if p e.1 then (e.1, g e.2) else e) d k =
      if p k then g (mapGet m d k) else mapGet m d k
  | [] => by simp [mapGet, hd]
  | (k', v) :: m => by
    rw [List.map_cons]
    by_cases hp : p k'
    · simp only [hp, if_true, mapGet, mapGet_map_if hd k m]
      by_cases hk : k' = k
      · simp [← hk, hp]
      · simp [hk]
    · simp only [hp, if_false, mapGet, mapGet_map_if hd k m]
      by_cases hk : k' = k
      · simp [← hk, hp]
      · simp [hk]

/-- The channels of a function that stop. -/
theorem stopOwn_channels (fn : Nat) : ∀ (l : List Nat) (s : State),
    ChannelFrame s (each l (fun s c => if (dmaOf s c).fn = some fn then stopDma s c else s) s)
  | [], s => .refl s
  | c :: l, s => by
    refine ChannelFrame.trans (t := if (dmaOf s c).fn = some fn then stopDma s c else s) ?_ (stopOwn_channels fn l _)
    split
    · exact stopDma_channels s c
    · exact .refl s

/-- The mailboxes and rings that a reset of VFn leaves. -/
theorem flrVf_hif (s : State) (fn : Nat) :
    (flrVf s fn).hif.mbx = s.hif.mbx.map (fun e => if e.1 / 4 = fn then (e.1, resetMbx e.2) else e) ∧
    (flrVf s fn).hif.rings = mapPut s.hif.rings {} fn {} := by
  obtain ⟨⟨dma, out, hstop⟩, -⟩ := stopOwn_channels fn (List.range 8) s
  rw [flrVf, hstop]
  exact ⟨rfl, rfl⟩

theorem mbxOf_flrVf (s : State) (fn g : Nat) {k : Nat} (hk : k < 4) : mbxOf (flrVf s fn) g k =
    if g = fn then resetMbx (mbxOf s g k) else mbxOf s g k := by
  rw [mbxOf, (flrVf_hif s fn).1, mapGet_map_if (p := fun n => n / 4 = fn) (g := resetMbx) rfl]
  simp only [mbxKey, show (g * 4 + k) / 4 = g by omega, mbxOf]

/-! ## Run control (R458 to R461) -/

section
variable {s : State} {h : Hdr} {c : Word}

theorem exec_cmdRunHold_of_running (hg : granted s h 0x0401 = true) (hroom : s.hif.accepted.length < 16)
    (hst : (jobOf s (namedJob h)).state = .running) (hc : c = 0 ∨ (jobOf s (namedJob h)).cycle < c) :
    exec (.cmdRunHold h c) s = .next (respond (enlist (orderHold s (namedJob h)
      (if c = 0 then (jobOf s (namedJob h)).cycle + 1 else c) (some h)) h 0x0401 [namedJob h])
      h 0x0401 .accepted []) := by
  have hlate : ¬ (c ≠ 0 ∧ c ≤ (jobOf s (namedJob h)).cycle) := fun ⟨hne, hle⟩ =>
    hc.elim hne fun hlt => BitVec.not_lt.2 hle hlt
  rw [exec_of_granted rfl rfl hg]
  simp only [hst, if_neg hlate]
  exact congrArg Outcome.next (((if_neg (by decide)).trans (if_neg (by decide))).trans (accept_eq hroom))

theorem exec_cmdRunHold_of_held (hg : granted s h 0x0401 = true)
    (hst : (jobOf s (namedJob h)).state = .heldCmd) : exec (.cmdRunHold h c) s = .next (answer s h 0x0401 []) := by
  rw [exec_of_granted rfl rfl hg]
  simp [hst]

/-- The job that a granted resume lets go on. -/
def resumed (s : State) (j : Nat) : State :=
  if (jobOf s j).state = .heldCmd then resumeHeld s j else resumeFault s j

theorem exec_cmdRunResume_of_held {nr : Bool} (hg : granted s h 0x0402 = true) (hd : s.pwr.state ≠ .deepHold)
    (hr : (jobOf s (namedJob h)).replay = none)
    (hst : (jobOf s (namedJob h)).state = .heldCmd ∨ (jobOf s (namedJob h)).state = .heldFault ∧ nr = true)
    (hc : c = 0 ∨ (jobOf s (namedJob h)).cycle < c) : exec (.cmdRunResume h c nr) s =
      .next (answer (if c = 0 then resumed s (namedJob h) else orderHold (resumed s (namedJob h)) (namedJob h) c none)
        h 0x0402 []) := by
  have hlate : ¬ (c ≠ 0 ∧ c ≤ (jobOf s (namedJob h)).cycle) := fun ⟨hne, hle⟩ =>
    hc.elim hne fun hlt => BitVec.not_lt.2 hle hlt
  rw [exec_of_granted rfl rfl hg]
  refine congrArg Outcome.next ((if_neg ?_).trans ((if_neg hlate).trans ?_))
  · obtain hst | ⟨hst, rfl⟩ := hst <;> simp [hst, hd, hr]
  · simp only [resumed, beq_iff_eq]

/-- A job whose command hold ends before its release was complete goes on releasing. -/
theorem endHold_effect (x : Job) : (endHold x).cmdHeld = false ∧ (endHold x).cycle = x.cycle ∧
    (endHold x).state = if x.release < 3 then .releasing else .running := ⟨rfl, rfl, rfl⟩

theorem exec_cmdRunResets_of_released {r : BitVec 7} (hg : granted s h 0x0403 = true)
    (hrel : 3 ≤ (jobOf s (namedJob h)).release) (hc : c = 0 ∨ firstCycle (jobOf s (namedJob h)) ≤ c) :
    let at_ := if c = 0 then firstCycle (jobOf s (namedJob h)) else c
    exec (.cmdRunResets h c r) s = .next (answer (modJob s (namedJob h) fun x =>
      { x with resetAt := x.resetAt ++ [(at_, r)] }) h 0x0403 (leBytes 8 at_.toNat)) := by
  intro at_
  have hearly : ¬ at_ < firstCycle (jobOf s (namedJob h)) := by
    simp only [at_]
    split
    · exact BitVec.lt_irrefl _
    · next hne => exact BitVec.not_lt.2 (hc.resolve_left hne)
  rw [exec_of_granted rfl rfl hg]
  exact congrArg Outcome.next ((if_neg (Nat.not_lt.2 hrel)).trans (if_neg hearly))

end

/-! ## TRIG pins (R460) -/

theorem mem_pinsOf {m : BitVec 16} {p : Nat} : p ∈ pinsOf m ↔ p < 16 ∧ m.getLsbD p = true := by
  simp [pinsOf]

theorem setPins_frame (v : Option Nat) : ∀ (ps : List Nat) (s : State),
    ∃ pins, each ps (setPin v) s = { s with trigPin := pins }
  | [], s => ⟨s.trigPin, rfl⟩
  | p :: ps, s => by
    obtain ⟨pins, h⟩ := setPins_frame v ps (setPin v s p)
    exact ⟨pins, h⟩

theorem pinOwner_setPins (v : Option Nat) (q : Nat) : ∀ (ps : List Nat) (s : State),
    pinOwner (each ps (setPin v) s) q = if q ∈ ps then v else pinOwner s q
  | [], s => by simp [each]
  | p :: ps, s => by
    have hstep : pinOwner (setPin v s p) q = if q = p then v else pinOwner s q := mapGet_mapPut _ _ _ _ _
    refine (pinOwner_setPins v q ps (setPin v s p)).trans ?_
    rw [hstep]
    by_cases hq : q ∈ ps <;> by_cases hp : q = p <;> simp [hq, hp]

section
variable {s : State} {h : Hdr} {pins : BitVec 16}

theorem exec_cmdTrigGrant_of_free (hg : granted s h 0x0405 = true)
    (hfree : ∀ p, p < 16 → pins.getLsbD p = true → pinOwner s p = none ∨ pinOwner s p = some (namedJob h)) :
    exec (.cmdTrigGrant h pins) s =
      .next (answer (each (pinsOf pins) (setPin (some (namedJob h))) s) h 0x0405 []) := by
  rw [exec_of_granted rfl rfl hg]
  refine congrArg Outcome.next (if_neg ?_)
  simp only [List.any_eq_true, not_exists, not_and]
  intro p hp
  obtain ⟨hlt, hset⟩ := mem_pinsOf.1 hp
  rcases hfree p hlt hset with hn | hj
  · simp [hn]
  · simp [hj]

theorem exec_cmdTrigRelease_of_granted (hg : granted s h 0x0405 = true) :
    exec (.cmdTrigRelease h pins) s = .next (answer (releasePins s (namedJob h) pins) h 0x0405 []) := by
  rw [exec_of_granted rfl rfl hg]

theorem pinOwner_releasePins (j : Nat) {p : Nat} (hp : p < 16) : pinOwner (releasePins s j pins) p =
    if pins.getLsbD p && pinOwner s p == some j then none else pinOwner s p := by
  refine (pinOwner_setPins none p _ s).trans ?_
  simp only [List.mem_filter, mem_pinsOf, hp, true_and, Bool.and_eq_true]

end

/-! ## Jobs (R469, R470) -/

section
variable {s : State} {h : Hdr}

theorem exec_cmdJobCreate_of_free {low : Nat} (hg : granted s h 0x0A01 = true) (hl : lowestFree s = some low)
    (hd : s.pwr.state ≠ .deepHold)
    (hc : (jobOf s (if namedJob h < 8 then namedJob h else low)).created = false) :
    exec (.cmdJobCreate h) s = .next (respondJ (createJob s (if namedJob h < 8 then namedJob h else low)) h 0x0A01 .ok
      (if namedJob h < 8 then namedJob h else low) (leBytes 1 (if namedJob h < 8 then namedJob h else low))) := by
  rw [exec_of_granted rfl rfl hg]
  simp only [hl]
  exact congrArg Outcome.next (if_neg (by simp [hc, hd]))

theorem jobOf_createJob (k i : Nat) :
    jobOf (createJob s k) i = if i = k then { created := true, key := some s.draws } else jobOf s i :=
  mapGet_mapPut s.jobs {} k i { created := true, key := some s.draws }

theorem exec_cmdJobDestroy_of_room (hg : granted s h 0x0A02 = true) (hroom : s.hif.accepted.length < 16) :
    exec (.cmdJobDestroy h) s = .next
      (complete (destroyJob (respond s h 0x0A02 .accepted []) (namedJob h)) h 0x0A02 0x0E05 .ok []) := by
  rw [exec_of_granted rfl rfl hg]
  exact congrArg Outcome.next (if_neg (Nat.not_le.2 hroom))

/-! ## Firmware (R475 to R477) -/

theorem exec_cmdFwUpdate_of_fit {bytes : List Byte} {b : Bulk} (hg : granted s h 0x0110 = true)
    (hb : bulkReady s b = true) (hu : s.fw.updating = none) (hlen : bulkBytes b ≤ 32505856)
    (hbody : (fwImageOf bytes).bodyLen ≤ 32505344) : exec (.cmdFwUpdate h bytes b) s = .next (respond
      (enlist { s with fw := { s.fw with updating := some (h, fwImageOf bytes) } } h 0x0110 [])
      h 0x0110 .accepted []) := by
  obtain ⟨hlist, hroom⟩ := bulkReady_iff.1 hb
  have hsize : ¬ (32505856 < bulkBytes b ∨ 32505344 < (fwImageOf bytes).bodyLen) := by omega
  rw [exec_of_granted rfl rfl hg]
  simp only [hlist, hu, if_neg hsize]
  exact congrArg Outcome.next ((if_neg (by decide)).trans (accept_eq hroom))

/-- The slot that does not run. -/
def otherSlot (s : State) : Bool := s.fw.running && !s.fw.runningB

/-- The other slot holds the image; it is the good update if the image passes its checks. -/
def updated (s : State) (img : FwImage) : State :=
  modFwBlk (writeSlot s (otherSlot s) img) fun f =>
    { f with updating := none,
             goodUpdate := if updateStatus s img = .ok then some (otherSlot s)
               else if f.goodUpdate = some (otherSlot s) then none else f.goodUpdate }

theorem updated_recovery (s : State) (img : FwImage) : (updated s img).fw.recovery = s.fw.recovery := by
  cases h : otherSlot s <;> simp only [updated, writeSlot, h] <;> rfl

theorem fwUpdateDone_of_updating {img : FwImage} (hu : s.fw.updating = some (h, img))
    (hrec : s.fw.recovery = false) : fwUpdateDone s =
      complete (dropAccOf (updated s img) 0x0110 h) h 0x0110 0x0E03 (updateStatus s img)
        [(4, img.version.toNat), (1, img.secVer)] := by
  have hstays : (complete (dropAccOf (updated s img) 0x0110 h) h 0x0110 0x0E03 (updateStatus s img)
      [(4, img.version.toNat), (1, img.secVer)]).fw.recovery = false := by
    rw [complete_fw, dropAccOf_fw, updated_recovery, hrec]
  rw [fwUpdateDone]
  split
  · next hn => exact nomatch hu.symm.trans hn
  · next h' img' hs =>
    obtain ⟨rfl, rfl⟩ := Prod.mk.inj (Option.some.inj (hu.symm.trans hs))
    refine if_neg fun hc => ?_
    exact Bool.false_ne_true (hstays.symm.trans (Bool.and_eq_true_iff.1 hc).1)

/-- The slot that an update has written, and whether it was good. -/
theorem exec_fwUpdateDone_of_updating {img : FwImage} (hu : s.fw.updating = some (h, img))
    (hrec : s.fw.recovery = false) : ∃ t, exec .fwUpdateDone s = .next t ∧ t.fw.updating = none ∧
      (updateStatus s img = .ok → t.fw.goodUpdate = some (s.fw.running && !s.fw.runningB)) ∧
      t = { s with fw := t.fw, hif := t.hif, out := t.out } := by
  obtain ⟨hif, out, hframe⟩ := (dropAccOf_frame (updated s img) 0x0110 h).trans
    (complete_frame _ h 0x0110 0x0E03 (updateStatus s img) [(4, img.version.toNat), (1, img.secVer)])
  have he : exec .fwUpdateDone s = .next { updated s img with hif := hif, out := out } :=
    congrArg Outcome.next ((fwUpdateDone_of_updating hu hrec).trans hframe)
  exact ⟨_, he, rfl, fun hok => if_pos hok, rfl⟩

theorem exec_cmdFwActivate_of_good {b : Bool} (hg : granted s h 0x0111 = true) (hb : s.fw.goodUpdate = some b) :
    exec (.cmdFwActivate h) s = .next (answer { s with fw := { s.fw with preferB := b, trial := true } }
      h 0x0111 []) := by
  rw [exec_of_granted rfl rfl hg]
  split
  · next hn => exact nomatch hb.symm.trans hn
  · next c hc =>
    obtain rfl := Option.some.inj (hb.symm.trans hc)
    rfl

theorem exec_cmdFwActivateResetNow_of_good {b : Bool} (hg : granted s h 0x0111 = true)
    (hb : s.fw.goodUpdate = some b) (hnone : createdJobs s = []) : exec (.cmdFwActivateResetNow h) s =
      .next (warmReset (answer { s with fw := { s.fw with preferB := b, trial := true } } h 0x0111 []) 6) := by
  rw [exec_of_granted rfl rfl hg]
  split
  · next hn => exact nomatch hb.symm.trans hn
  · next c hc =>
    obtain rfl := Option.some.inj (hb.symm.trans hc)
    exact congrArg Outcome.next (if_pos (by rw [hnone]; rfl))

/-- What of the firmware's state a warm reset keeps. -/
theorem warmReset_fw (s : State) (cause : Nat) : (warmReset s cause).fw =
    { s.fw with running := false, recovery := false, updating := none } := by
  have hscrub : (resetScrub s).fw = s.fw := by
    rw [resetScrub]
    split
    · rfl
    · rw [emitLog_fw, modLpBlk_fw]
  obtain ⟨_, _, hdrawn, -⟩ := drawGenerations_draw (clearStack (resetScrub s) cause)
  rw [warmReset, hdrawn, ← hscrub]
  rfl

theorem exec_trialTimeout_of_late (ht : s.fw.trial = true) (hr : s.fw.running = true)
    (hst : s.pwr.state ≠ .ready) : ∃ u f, exec .trialTimeout s = .next (emitDev u 0x0E04 f) ∧
      u.fw.trial = false ∧ u.fw.preferB = !s.fw.preferB ∧ u.fw.running = false ∧ u.rst.lastCause = 6 := by
  have hfw := warmReset_fw (modFwBlk s fun f => { f with trial := false, preferB := !s.fw.preferB }) 6
  refine ⟨_, _, congrArg Outcome.next (if_pos (by simp [ht, hr, hst])), ?_, ?_, ?_, (warmReset_effect _ _).1⟩ <;>
    rw [hfw] <;> rfl

end

/-- Settles O58. A destroy that completes in its own row (log 99) and the fallback event raised at the warm reset
of a trial that is not READY in time (log 96) are the model's choice. -/
theorem hostCommandsAct : Obligations.HostCommandsAct := by
  unfold Obligations.HostCommandsAct
  refine ⟨fun s fn hlo hhi => ?flr, fun s fn k hfn hk => ?flrLeaves, fun s => rfl,
    fun s h c hg hroom => ⟨exec_cmdRunHold_of_running hg hroom, exec_cmdRunHold_of_held hg⟩,
    fun s h hg hd hr hst hz => ?resume, fun s h c nr => exec_cmdRunResume_of_held,
    fun s h c r => exec_cmdRunResets_of_released, fun s h pins hg hfree => ?grant, fun s h pins hg => ?release,
    fun s h low hg hl hd => ?create, fun s h => exec_cmdJobDestroy_of_room,
    fun s h bytes b => exec_cmdFwUpdate_of_fit, fun s h img => exec_fwUpdateDone_of_updating,
    fun s h b hg hb => ⟨exec_cmdFwActivate_of_good hg hb, exec_cmdFwActivateResetNow_of_good hg hb⟩,
    fun s => exec_trialTimeout_of_late⟩
  case flr => exact atUnit_of_true (by simp [hlo, hhi])
  case flrLeaves =>
    refine ⟨?_, ?_, fun g hg => ?_⟩
    · rw [mbxOf_flrVf s fn fn hk, if_pos rfl]
      rfl
    · rw [ringOf, (flrVf_hif s fn).2]
      exact mapGet_mapPut_same _ _ _ _
    · rw [mbxOf_flrVf s fn g hk, if_neg hg]
  case resume =>
    have he := exec_cmdRunResume_of_held (c := 0) (nr := false) hg hd hr (.inl hst) (.inl rfl)
    have hjob : jobOf (resumed s (namedJob h)) (namedJob h) = endHold (jobOf s (namedJob h)) := by
      simp only [resumed, hst, if_true, resumeHeld, hz, Bool.false_eq_true, if_false, jobOf_modJob_same]
    obtain ⟨hcmd, hcycle, hstate⟩ := endHold_effect (jobOf s (namedJob h))
    have ht : jobOf (answer (resumed s (namedJob h)) h 0x0402 []) (namedJob h) = endHold (jobOf s (namedJob h)) := by
      rw [jobOf, answer_jobs]
      exact hjob
    refine ⟨_, he, ?_⟩
    rw [if_pos rfl, ht]
    exact ⟨hcmd, hstate, hcycle⟩
  case grant =>
    refine ⟨_, exec_cmdTrigGrant_of_free hg hfree, fun p hp => ?_, ?_⟩
    · rw [pinOwner, answer_trigPin]
      refine (pinOwner_setPins _ p _ s).trans ?_
      simp only [mem_pinsOf, hp, true_and]
    · obtain ⟨trig, hpins⟩ := setPins_frame (some (namedJob h)) (pinsOf pins) s
      obtain ⟨hif, out, ha⟩ := answer_frame (each (pinsOf pins) (setPin (some (namedJob h))) s) h 0x0405 []
      rw [ha, hpins]
  case release =>
    refine ⟨_, exec_cmdTrigRelease_of_granted hg, fun p hp => ?_⟩
    rw [pinOwner, answer_trigPin]
    exact pinOwner_releasePins _ hp
  case create =>
    intro k hk
    refine ⟨_, exec_cmdJobCreate_of_free hg hl hd hk, ?_, ?_, fun i hi => ?_⟩
    · rw [jobOf, respondJ_jobs]
      exact (jobOf_createJob k k).trans (if_pos rfl)
    · rw [respondJ_draws]
      rfl
    · rw [jobOf, respondJ_jobs]
      exact (jobOf_createJob k i).trans (if_neg hi)

end Sys2Proof.Machine

end

section
/-! ## Power-up, rails, telemetry and input power -/

set_option Elab.async false

namespace Sys2Proof.Machine
open Host

/-! ## What the resets leave of power management -/

theorem zeroize_pwr (s : State) : (zeroize s).pwr = { s.pwr with sysKey := none } :=
  each_keeps (p := fun s => s.pwr)
    (f := fun s j => if (jobOf s j).key.isSome then modJob s j fun x => { x with key := none } else s)
    (fun s j => by split <;> rfl) _ _

theorem endScrub_pwr (s : State) (st : Nat) : (endScrub s st).pwr = s.pwr := by
  rw [endScrub]
  split
  · rfl
  · rw [complete_pwr, dropAccOf_pwr]
    rfl

/-- The stack as a cold power-up leaves it, but for the ports' generations. -/
theorem coldReset_frame (s : State) (cause : Nat) : ∃ lry draws, coldReset s cause =
    { clearStack s cause with
      spr := { (clearStack s cause).spr with session := (clearStack s cause).spr.session + 1, swept := [] },
      nowUs := 0, hif := {}, rst := { (clearStack s cause).rst with courseResets := 0 }, clk := {},
      lry := lry, draws := draws } := by
  obtain ⟨_, _, h, -⟩ := drawGenerations_draw (modClkBlk { modSprBlk (clearStack s cause) fun p =>
    { p with session := p.session + 1, swept := [] } with
      nowUs := 0, hif := {}, rst := { (clearStack s cause).rst with courseResets := 0 } } fun _ => {})
  exact ⟨_, _, h⟩

theorem warmReset_sysKey (s : State) (cause : Nat) : (warmReset s cause).pwr.sysKey = none := by
  obtain ⟨_, _, h, -⟩ := drawGenerations_draw (clearStack (resetScrub s) cause)
  rw [warmReset, h]
  rfl

/-! ## VIN48 and the rails (R430, R431) -/

section
variable {s : State}

theorem exec_vin48Apply_of_off (h : s.pwr.vin48 = false) : ∃ t, exec .vin48Apply s = .next t ∧
    t.pwr.vin48 = true ∧ t.pwr.state = .off ∧ t.pwr.rails = 0 ∧ t.rst.held = true ∧ t.nowUs = 0 ∧ t.hif.log = [] ∧
    t.pwr.tripTimes = [] := by
  obtain ⟨lry, draws, hcold⟩ := coldReset_frame s 0
  refine ⟨_, congrArg Outcome.next (if_neg (by simp [h])), ?_⟩
  rw [hcold]
  exact ⟨rfl, rfl, rfl, rfl, rfl, rfl, rfl⟩

theorem exec_railInRange {r : Nat} (hr : r < 9) : exec (.railInRange r) s = .next (railUp s r) :=
  atUnit_of_lt hr

theorem railUp_of_ready {r : Nat} (hoff : railOn s r = false) (hready : railReady s r = true) : railUp s r =
    if r = 0 then { s with
      pwr := { s.pwr with rails := s.pwr.rails ||| railBit r, state := .standby, booting := true }
      rst := { s.rst with held := !s.pwr.resetN } }
    else tryReady { s with pwr := { s.pwr with rails := s.pwr.rails ||| railBit r } } := by
  rw [railUp, if_neg (by simp [hoff, hready])]
  rfl

theorem exec_pwrEnRise_of_qualified {us : Nat} (hq : s.pwr.smbusOn = true) (hl : 1000 ≤ us ∨ s.pwr.lockout = false) :
    ∃ t, exec (.pwrEnRise us) s = .next t ∧ t.pwr.rails = 0 ∧ t.pwr.pwrEn = true ∧ t.pwr.lockout = false ∧
      t.rst.lastCause = 1 ∧ t.rst.held = true ∧
      t.pwr.tripTimes = if 1000 ≤ us then [] else s.pwr.tripTimes := by
  have hgo : ¬ (!s.pwr.smbusOn || (s.pwr.lockout && decide (us < 1000))) = true := by
    rcases hl with hl | hl
    · simp [hq, Nat.not_lt.2 hl]
    · simp [hq, hl]
  refine ⟨_, congrArg Outcome.next (if_neg hgo), ?_⟩
  by_cases hus : 1000 ≤ us
  · simp only [if_pos hus]
    obtain ⟨lry, draws, hcold⟩ := coldReset_frame (clearTrips (modPwrBlk s fun p => { p with pwrEn := true })) 1
    rw [hcold]
    exact ⟨rfl, rfl, rfl, rfl, rfl, rfl⟩
  · simp only [if_neg hus]
    obtain ⟨lry, draws, hcold⟩ := coldReset_frame (modPwrBlk s fun p => { p with pwrEn := true }) 1
    rw [hcold]
    exact ⟨rfl, rfl, hl.resolve_left hus, rfl, rfl, rfl⟩

theorem exec_pwrEnFall_of_on (h : s.pwr.state ≠ .off) : ∃ t, exec .pwrEnFall s = .next t ∧ t.pwr.pwrEn = false ∧
    t.pwr.rails = s.pwr.rails &&& 1 ∧ t.pwr.state = .standby ∧ t.pwr.sysKey = none := by
  have hkeys := zeroize_pwr (modPwrBlk s fun p => { p with pwrEn := false })
  refine ⟨_, congrArg Outcome.next (if_neg (by simpa using h)), ?_⟩
  generalize zeroize (modPwrBlk s fun p => { p with pwrEn := false }) = z at hkeys ⊢
  have hen : z.pwr.pwrEn = false := by simp [hkeys]
  have hrails : z.pwr.rails = s.pwr.rails := by simp [hkeys]
  exact ⟨hen, congrArg (· &&& 1) hrails, rfl, rfl⟩

/-! ## Telemetry and input power (R429, R433) -/

theorem exec_powerLinkLoss_of_up (hr : railOn s 1 = true) (hl : s.pwr.linkLost = false) :
    exec .powerLinkLoss s = .next (emitDev
      { s with hv := { s.hv with linkLost := true }, pwr := { s.pwr with linkLost := true } } 0x0206 []) :=
  congrArg Outcome.next (if_neg (by simp [hr, hl]))

theorem listAt_map_range {α : Type} (f : Nat → α) (d : α) {n r : Nat} (hr : r < n) :
    listAt ((List.range n).map f) d r = f r := by
  simp [listAt, hr]

/-- Telemetry of the rails, and the power link with it. -/
theorem exec_powerTelemetry_effect (rails : List (Nat × Nat)) : ∃ t, exec (.powerTelemetry rails) s = .next t ∧
    t.pwr.linkLost = false ∧ (∀ r, r < 9 → listAt t.pwr.railMv 0 r = (listAt rails (0, 0) r).1 ∧
      listAt t.pwr.railMa 0 r = (listAt rails (0, 0) r).2) ∧ t = { s with hv := t.hv, pwr := t.pwr } :=
  ⟨_, rfl, rfl, fun _ hr => ⟨listAt_map_range _ 0 hr, listAt_map_range _ 0 hr⟩, rfl⟩

/-- The input measurement recorded; a low input and too much power are latched. -/
def measured (s : State) (v i a w : Nat) (excess : Bool) : State :=
  let s := modPwrBlk s fun p => { p with vinMv := v, iinMa := i, inW := w }
  let s := if v < 40000 then modHvBlk s fun h => { h with vinUv := true } else s
  if 850 < a ∨ excess then modHvBlk s fun h => { h with pinOver := true } else s

theorem measured_frame (s : State) (v i a w : Nat) (excess : Bool) : ∃ hv, measured s v i a w excess =
    { s with pwr := { s.pwr with vinMv := v, iinMa := i, inW := w }, hv := hv } := by
  simp only [measured]
  split <;> split <;> exact ⟨_, rfl⟩

/-- Throttling by input power: above 850 W it starts, below 800 W it ends (R433). -/
def throttled (s : State) (a : Nat) : State :=
  let start := decide (850 < a) && !s.pwr.throtPower
  let s := setThrottle (modPwrBlk s fun p =>
    { p with throtPower := decide (850 < a) || (p.throtPower && decide (800 ≤ a)) })
  if start then emitDev s 0x0204 [] else s

theorem throttled_frame (s : State) (a : Nat) : ∃ hif out, throttled s a =
    { s with
      pwr := { s.pwr with throtPower := decide (850 < a) || (s.pwr.throtPower && decide (800 ≤ a)) },
      clk := { s.clk with throttle :=
        s.pwr.throtTherm || (decide (850 < a) || (s.pwr.throtPower && decide (800 ≤ a))) },
      hif := hif, out := out } := by
  rw [throttled]
  split
  · obtain ⟨hif, out, h⟩ := emitDev_frame (setThrottle (modPwrBlk s fun p =>
      { p with throtPower := decide (850 < a) || (p.throtPower && decide (800 ≤ a)) })) 0x0204 []
    exact ⟨hif, out, h⟩
  · exact ⟨_, _, rfl⟩

/-- A trip by excess input power. -/
def powerTrip (s : State) : State :=
  startTrip (linkEvent (emitDev (modHvBlk s fun h => { h with otFault := true }) 0x0203 []) 0x0203) 3

theorem exec_inputPowerMeasure_of_qualified {v i a w : Nat} {x y : Bool} (hq : s.pwr.smbusOn = true) :
    exec (.inputPowerMeasure v i a w x y) s = .next (
      let m := measured s v i a w (x || y)
      if m.pwr.linkLost then m
      else if (x || y) && !(throttled m a).pwr.tripping && (throttled m a).pwr.state != .trip then
        powerTrip (throttled m a)
      else throttled m a) := by
  refine congrArg Outcome.next ((if_neg (by simp [hq])).trans ?_)
  rfl

end

end Sys2Proof.Machine

end

section
/-! ## Trips, glitches, the kiln and DEEP HOLD -/

set_option Elab.async false

namespace Sys2Proof.Machine
open Host

/-! ## Events on the power link, and trips (R429, R443) -/

/-- Of power management an event on the link touches the list of events alone. -/
theorem linkEvent_pwrFrame (s : State) (code : Nat) :
    ∃ evs, (linkEvent s code).pwr = { s.pwr with linkEvs := evs } := by
  rw [linkEvent_pwr]
  split
  · exact ⟨_, rfl⟩
  · exact ⟨_, rfl⟩

theorem linkEvent_head {s : State} (code : Nat) (hl : s.pwr.linkLost = false) :
    (linkEvent s code).pwr.linkEvs.head? = some (code, s.nowUs) := by
  rw [linkEvent_pwr, if_neg (by simp [hl])]
  rfl

section
variable {s : State}

theorem startTrip_effect {cause : Nat} (ht : s.pwr.tripping = false) (hst : s.pwr.state ≠ .trip)
    (hoff : s.pwr.state ≠ .off) : (startTrip s cause).pwr.tripping = true ∧
      (startTrip s cause).pwr.thermtripN = false ∧ (startTrip s cause).pwr.lastTrip = BitVec.ofNat 2 cause ∧
      (cause = 3 → (startTrip s cause).pwr.lockout = true) := by
  have hgo : ¬ (s.pwr.tripping || s.pwr.state == .trip || s.pwr.state == .off) = true := by simp [ht, hst, hoff]
  rw [startTrip, if_neg hgo]
  simp only [selfRefresh, modLpBlk_pwr, endScrub_pwr]
  exact ⟨rfl, rfl, rfl, fun hc => by simp [hc]⟩

theorem powerTrip_effect (ht : s.pwr.tripping = false) (hst : s.pwr.state ≠ .trip) (hoff : s.pwr.state ≠ .off) :
    (powerTrip s).pwr.tripping = true ∧ (powerTrip s).pwr.thermtripN = false ∧ (powerTrip s).pwr.lastTrip = 3 ∧
      (powerTrip s).pwr.lockout = true := by
  obtain ⟨evs, hevs⟩ := linkEvent_pwrFrame (emitDev (modHvBlk s fun h => { h with otFault := true }) 0x0203 []) 0x0203
  rw [emitDev_pwr] at hevs
  obtain ⟨h1, h2, h3, h4⟩ := startTrip_effect (cause := 3) (by rw [hevs]; exact ht) (by rw [hevs]; exact hst)
    (by rw [hevs]; exact hoff)
  exact ⟨h1, h2, h3, h4 rfl⟩

section
variable {v i a w : Nat} (hq : s.pwr.smbusOn = true)
include hq

theorem exec_inputPowerMeasure_of_modest : ∃ t, exec (.inputPowerMeasure v i a w false false) s = .next t ∧
    t.pwr.vinMv = v ∧ t.pwr.iinMa = i ∧ t.pwr.inW = w ∧ (s.pwr.linkLost = false →
      (850 < a → t.clk.throttle = true) ∧ (a < 800 → s.pwr.throtTherm = false → t.clk.throttle = false)) := by
  obtain ⟨hv, hm⟩ := measured_frame s v i a w false
  obtain ⟨hif, out, ht⟩ := throttled_frame (measured s v i a w false) a
  refine ⟨_, exec_inputPowerMeasure_of_qualified hq, ?_⟩
  simp only [Bool.or_false, Bool.false_and, Bool.false_eq_true, if_false]
  cases hl : s.pwr.linkLost with
  | true => simp [hm, hl]
  | false =>
    rw [ht, hm]
    simp only [hl, Bool.false_eq_true, if_false]
    refine ⟨trivial, trivial, trivial, fun _ => ⟨fun ha => ?_, fun ha hth => ?_⟩⟩
    · simp [ha]
    · simp [hth, show ¬ 850 < a by omega, show ¬ 800 ≤ a by omega]

theorem exec_inputPowerMeasure_of_excess {x y : Bool} (hl : s.pwr.linkLost = false) (hx : x = true ∨ y = true)
    (ht : s.pwr.tripping = false) (hst : s.pwr.state ≠ .trip) (hoff : s.pwr.state ≠ .off) :
    ∃ t, exec (.inputPowerMeasure v i a w x y) s = .next t ∧ t.pwr.tripping = true ∧ t.pwr.thermtripN = false ∧
      t.pwr.lastTrip = 3 ∧ t.pwr.lockout = true := by
  have hxy : (x || y) = true := by simpa using hx
  obtain ⟨hv, hm⟩ := measured_frame s v i a w true
  obtain ⟨hif, out, hth⟩ := throttled_frame (measured s v i a w true) a
  have htrip : (throttled (measured s v i a w true) a).pwr.tripping = false := by rw [hth, hm]; exact ht
  have hstate : (throttled (measured s v i a w true) a).pwr.state = s.pwr.state := by rw [hth, hm]
  refine ⟨_, exec_inputPowerMeasure_of_qualified hq, ?_⟩
  rw [hxy]
  have hlost : ¬ (measured s v i a w true).pwr.linkLost = true := by rw [hm]; simp [hl]
  rw [if_neg hlost, if_pos (by simp [htrip, hstate, hst])]
  exact powerTrip_effect htrip (by rwa [hstate]) (by rwa [hstate])

end

/-! ## Rails and glitches (R432, R439) -/

theorem exec_railWarn_of_monitored {r : Nat} (hr : r < 9) (hm : monitored s r = true) :
    ∃ u, exec (.railWarn r) s = .next (emitDev u 0x0207 [(1, r)]) ∧
      u.hv.vWarn = if s.pwr.linkLost then s.hv.vWarn else s.hv.vWarn ||| railBit r := by
  refine ⟨_, (atUnit_of_lt hr).trans (congrArg Outcome.next (if_neg (by simp [hm]))), ?_⟩
  exact apply_ite Hv.vWarn (s.pwr.linkLost = true) _ _

theorem glitch_effect (c : Nat) : (glitch s c).pwr.sysKey = none ∧ (glitch s c).rst.lastCause = 5 := by
  rw [glitch]
  generalize zeroize _ = z
  have hkey := warmReset_sysKey z 5
  have hcause := (warmReset_effect z 5).1
  simp only [emitLog_pwr, emitLog_rst]
  split
  · exact ⟨hkey, hcause⟩
  · exact ⟨hkey, hcause⟩

/-! ## The kiln (R441, R442, R444) -/

theorem allBelow_mono {m n : Nat} (h : allBelow s m = true) (hmn : m ≤ n) : allBelow s n = true := by
  simp only [allBelow, List.all_eq_true, decide_eq_true_eq] at h ⊢
  exact fun t ht => (h t ht).trans_le hmn

theorem exec_kilnClear_of_cool (h : allBelow s 616 = true) : ∃ t, exec .kilnClear s = .next t ∧ t.pwr.warn = false ∧
    t.pwr.throtTherm = false ∧ t.clk.throttle = s.pwr.throtPower := by
  have he : exec .kilnClear s = .next (setThrottle (modPwrBlk (modPwrBlk s fun p => { p with warn := false })
      fun p => { p with throtTherm := false })) := by
    have hthrot : allBelow (modPwrBlk s fun p => { p with warn := false }) 636 = true :=
      allBelow_mono (s := s) h (by omega)
    change Outcome.next _ = _
    simp only [h, if_true, hthrot]
  exact ⟨_, he, rfl, rfl, Bool.false_or _⟩

theorem exec_thermTripEvent_of_trip (hst : s.pwr.state = .trip) (hlast : s.pwr.lastTrip ≠ 3)
    (hl : s.pwr.linkLost = false) : ∃ u, exec .thermTripEvent s = .next u ∧
      u.pwr.linkEvs.head? = some (0x0303, s.nowUs) ∧ u.pwr.state = .trip := by
  have hdiode : s.pwr.lastTrip.toNat ≠ 3 := fun h => hlast (BitVec.eq_of_toNat_eq h)
  refine ⟨_, congrArg Outcome.next (if_neg (by simp [hst, hdiode])), ?_, ?_⟩
  · rw [linkEvent_head _ (by rw [emitLog_pwr, hl]), emitLog_nowUs]
  · obtain ⟨evs, hevs⟩ := linkEvent_pwrFrame (emitLog s 0x0303 [(1, s.pwr.lastTrip.toNat),
      (2, (listAt s.pwr.temps 0 s.pwr.lastTrip.toNat).toNat)]) 0x0303
    rw [hevs, emitLog_pwr]
    exact hst

theorem exec_coolingWaitEnd_of_cool {bad : List Nat} (hst : s.pwr.state = .trip) (hc : s.pwr.cooling = true)
    (hl : s.pwr.lockout = false) (hen : s.pwr.pwrEn = true) (hb : allBelow s 576 = true) :
    ∃ t, exec (.coolingWaitEnd bad) s = .next t ∧ t.pwr.state = .standby ∧ t.pwr.booting = true ∧
      t.pwr.thermtripN = true ∧ t.rst.lastCause = 4 ∧ t.pwr.restart = some bad := by
  refine ⟨_, congrArg Outcome.next (if_neg (by simp [hst, hc, hl, hen, hb])), ?_⟩
  obtain ⟨_, _, hdrawn, -⟩ := drawGenerations_draw (modRstBlk (modPwrBlk s fun p =>
    { p with state := .standby, booting := true, cooling := false, kill := false, thermtripN := true,
             restart := some bad }) fun r => { r with lastCause := 4, held := false })
  rw [hdrawn]
  exact ⟨rfl, rfl, rfl, rfl, rfl⟩

/-! ## DEEP HOLD (R437, R438) -/

section
variable {h : Hdr}

theorem exec_cmdPwrStateEnter_of_ready (hg : granted s h 0x0201 = true) (hb : pwrBusy s = false)
    (hroom : s.hif.accepted.length < 16) (hst : s.pwr.state = .ready) :
    let t := respond (enlist (startEntry s h) h 0x0201 [0]) h 0x0201 .accepted []
    exec (.cmdPwrStateEnter h) s = .next (if t.pwr.entering.isSome &&
      (List.range 8).any (fun j => entryStuck (jobOf t j)) then stopEntry t else t) := by
  intro t
  have ha : accept s h 0x0201 [0] (fun s => startEntry s h) = t := accept_eq hroom
  rw [exec_of_granted rfl rfl hg]
  refine congrArg Outcome.next ((if_neg (by simp [hb])).trans ((if_neg (by simp [hst])).trans ?_))
  rw [ha]

theorem exec_cmdPwrStateWake_of_deepHold (hg : granted s h 0x0201 = true) (hb : pwrBusy s = false)
    (hroom : s.hif.accepted.length < 16) (hst : s.pwr.state = .deepHold) :
    exec (.cmdPwrStateWake h) s = .next (respond (enlist (wakeGroups
      { s with pwr := { s.pwr with waking := some h } }) h 0x0201 [1]) h 0x0201 .accepted []) := by
  rw [exec_of_granted rfl rfl hg]
  exact congrArg Outcome.next ((if_neg (by simp [hb])).trans ((if_neg (by simp [hst])).trans (accept_eq hroom)))

theorem exec_deepHoldDemotionDone_of_ready (he : s.pwr.entering = some h)
    (hstuck : ∀ j, j < 8 → entryStuck (jobOf s j) = false) (hready : entryReady s = true) :
    exec .deepHoldDemotionDone s = .next (enterDeepHold s h) := by
  have hnone : ¬ (List.range 8).any (fun j => entryStuck (jobOf s j)) = true := by
    simpa using hstuck
  change Outcome.next _ = _
  simp only [he, if_neg hnone, if_pos hready]

/-- The jobs of a device that wakes touch neither its power state nor the wake. -/
theorem wakeJobs_power (bad : List Nat) (s : State) : (each (List.range 8) (wakeJob bad) s).pwr.state = s.pwr.state ∧
    (each (List.range 8) (wakeJob bad) s).pwr.waking = s.pwr.waking := by
  have h : Kept True 16 s (each (List.range 8) (wakeJob bad) s) := Kept.each (fun _ _ => wakeJob_kept) (.refl s)
  exact h.power trivial

theorem exec_wakeRestore_of_ready {bad : List Nat} (hw : s.pwr.waking = some h) (hr : s.pwr.rails = 0x1FF)
    (ht : chansTrained s = true) (hc : s.msn.groups.any (fun g => g.2.clearing) = false) :
    ∃ u, exec (.wakeRestore bad) s = .next (complete (dropAccOf u 0x0201 h) h 0x0201 0x0205 .ok []) ∧
      u.pwr.state = .ready ∧ u.pwr.waking = none := by
  refine ⟨each (List.range 8) (wakeJob bad) (modPwrBlk (segmentsLost s) fun p =>
    { p with state := .ready, waking := none }), ?_, wakeJobs_power bad _⟩
  change Outcome.next _ = _
  simp only [hw]
  exact congrArg Outcome.next (if_neg (by simp [hr, ht, hc]))

end

end

/-- Settles O56. An entry that stops where a job stands that can take no checkpoint is the model's choice
(log 83). -/
theorem powerRowsAct : Obligations.PowerRowsAct := by
  unfold Obligations.PowerRowsAct
  refine ⟨fun s => exec_vin48Apply_of_off, fun s hv => congrArg Outcome.next (if_pos hv),
    fun s r hr hpos hoff hready => ?rail, fun s hoff hq => ?island, fun s => ⟨_, rfl, rfl, rfl, rfl, rfl, rfl, rfl, rfl⟩,
    fun s us => exec_pwrEnRise_of_qualified, fun s => exec_pwrEnFall_of_on,
    fun s hb => congrArg Outcome.next (if_pos hb), fun s hr hl => ⟨_, exec_powerLinkLoss_of_up hr hl, rfl⟩,
    fun s => exec_powerTelemetry_effect, fun s v i a w => exec_inputPowerMeasure_of_modest,
    fun s v i a w x y hq => exec_inputPowerMeasure_of_excess hq, fun s r => exec_railWarn_of_monitored,
    fun s c hc hm => ?glitched, fun s => glitch_effect, fun s a b c hk => congrArg Outcome.next (if_neg (by simp [hk])),
    fun s => exec_kilnClear_of_cool, fun s => exec_thermTripEvent_of_trip, fun s bad => exec_coolingWaitEnd_of_cool,
    fun s h hg hb hroom => ⟨exec_cmdPwrStateEnter_of_ready hg hb hroom, exec_cmdPwrStateWake_of_deepHold hg hb hroom⟩,
    fun s h => exec_deepHoldDemotionDone_of_ready, fun s h bad => exec_wakeRestore_of_ready⟩
  case rail => rw [exec_railInRange hr, railUp_of_ready hoff hready, if_neg hpos.ne']
  case island =>
    rw [exec_railInRange (by omega), railUp_of_ready hoff hq, if_pos rfl]
    rfl
  case glitched => exact (atUnit_of_lt hc).trans (congrArg Outcome.next (if_pos hm))

end Sys2Proof.Machine

end
